-- ==== Sys2Proof/Word.lean ====
section
/-!
DEFINITION. The words of the EMK-X64-01 and their plainest arithmetic: 64-bit scalar values, 32-bit
instruction words, bytes, and the bits of a vector or mask register (R3 to R5, R19).
-/

namespace Sys2Proof

/-- A scalar register, an address or a doubleword (R19). -/
abbrev Word := BitVec 64

/-- One instruction word (R35). -/
abbrev Insn := BitVec 32

/-- One byte of memory (R5). -/
abbrev Byte := BitVec 8

/-- The bits of one vector register or one mask register. A register of a hart with n lanes is the low
n * 1,024 bits (R19, R50); the largest n is 2,048, in a gang of 64 cores (R22, R90). Bits above stay 0. -/
abbrev VBits := BitVec 2097152

/-- The elastic operand queue and the planes hold rows of 256 BF16 elements (R201). -/
abbrev Row := BitVec 4096

/-- A scalar register number (R38). -/
abbrev XReg := BitVec 5
/-- A vector register number (R38). -/
abbrev VReg := BitVec 5
/-- A mask register number (R38). -/
abbrev MReg := BitVec 3
/-- A window number (R38). -/
abbrev WinNum := BitVec 3
/-- An iterator stack number (R38). -/
abbrev StackNum := BitVec 2
/-- A loop counter number (R38). -/
abbrev CtrNum := BitVec 3
/-- A KV context number (R40). -/
abbrev KvNum := BitVec 1

/-- A package core number (R10). -/
abbrev CoreId := Fin 64
/-- A hart number of a core (R18). -/
abbrev HartNum := Fin 8

/-- A hart of the package: its core and its number there (R10, R18). -/
structure Who where
  core : CoreId
  hart : HartNum
  deriving DecidableEq, Repr

end Sys2Proof
end

