-- ==== Sys2Proof/Syntax.lean ====
section
/-!
DEFINITION. The instructions and events of the EMK-X64-01: one constructor of `Instr` per row of
spec/opcode_table.json. A row with an encoding (R37, R51) is an instruction word with its fields; a row
without one is a step that the device, an engine or the host takes (spec/95_what_each_step_holds.md), and
its operands say which one.
-/

namespace Sys2Proof

/-- The base address window of a host-visible register (R338). -/
inductive Bar where
  | bar0 | bar2
  deriving DecidableEq, Repr

/-- The response code of a page request group response (R340). -/
inductive PageCode where
  | success | invalidRequest | responseFailure
  deriving DecidableEq, Repr

/-- The shapes Prozen stitches a region of the mesh into (R268). -/
inductive MeshShape where
  | mesh | ring | tree | torus
  deriving DecidableEq, Repr

/-- What the link brings in: whether its CRC is good, its sequence number and what it acknowledges (R270). -/
structure Flit where
  crcGood : Bool
  seq : BitVec 12
  acks : BitVec 12
  deriving DecidableEq, Repr

/-- The far end of a message whose other party is on another device (R276): that device, whether it is the sender, and
the bytes that it sends or has room for. -/
structure FarEnd where
  dev : BitVec 12
  sends : Bool
  bytes : List Byte
  deriving DecidableEq, Repr

/-- What pairs two exchange operations: their tag, and the end on another device where one is (R276). -/
structure PairTag where
  tag : BitVec 16
  far : Option FarEnd
  deriving DecidableEq, Repr

/-- The sender of a ring message: its device and its hart there (R279). -/
structure RingSender where
  dev : BitVec 12
  hart : Who
  deriving DecidableEq, Repr

/-- A step of a ring revolution (R279). -/
structure RingStep where
  rev : BitVec 32
  step : BitVec 16
  deriving DecidableEq, Repr

/-- A cycle of a core's Harness, with how many of the oldest uncounted pulses come in it (R257, R261). -/
structure HarnessTick where
  core : CoreId
  pulses : Nat
  deriving DecidableEq, Repr

/-- What waits to be dispatched: the packet at the head of a queue, or a child (R301). -/
inductive Waiting where
  | queue (num : BitVec 14) | child (id : Nat)
  deriving DecidableEq, Repr

/-- The power states of R354. -/
inductive Power where
  | d0 | d3hot | d3cold
  deriving DecidableEq, Repr

/-- An SRAM granule or a memory byte where an error strikes (R334, R335). A near-store granule is one of the core's
lanes', numbered in its lane slice; a lane instruction buffer is its quad's (R17, R82). -/
inductive ErrorSite where
  | memory (addr : Nat)
  | vreg (who : Who) (reg : VReg) (granule : Nat)
  | mreg (who : Who) (reg : MReg) (granule : Nat)
  | near (core : CoreId) (lane : Nat) (granule : Nat)
  | plane (core : CoreId) (shadow : Bool) (row : Fin 256)
  | laneBuf (core : CoreId) (quad : Fin 8) (offset : Nat)
  | scratch (core : CoreId) (lane : Nat) (offset : Nat)
  deriving DecidableEq, Repr

/-- What Prozen gives a partition (R345, R352): its cores, its channels and bank groups on each die, and
whether the driver withholds the sparse-row record. -/
structure PartConfig where
  cores : BitVec 64
  channels : List (List Nat)
  groups : List (List Nat)
  sparse : Bool
  deriving DecidableEq, Repr

/-- One constructor per row of spec/opcode_table.json. -/
inductive Instr where
  /-- ADD: Writes xa + xb modulo 2^64 to xd (R59) -/
  | add (d : XReg) (a : XReg) (b : XReg)
  /-- SUB: Writes xa - xb modulo 2^64 to xd (R59) -/
  | sub (d : XReg) (a : XReg) (b : XReg)
  /-- AND: Writes the bitwise AND of xa and xb to xd (R59) -/
  | and (d : XReg) (a : XReg) (b : XReg)
  /-- OR: Writes the bitwise OR of xa and xb to xd (R59) -/
  | or (d : XReg) (a : XReg) (b : XReg)
  /-- XOR: Writes the bitwise XOR of xa and xb to xd (R59) -/
  | xor (d : XReg) (a : XReg) (b : XReg)
  /-- SLL: Shifts xa left by xb[5:0] into xd (R59) -/
  | sll (d : XReg) (a : XReg) (b : XReg)
  /-- SRL: Shifts xa right logically by xb[5:0] into xd (R59) -/
  | srl (d : XReg) (a : XReg) (b : XReg)
  /-- SRA: Shifts xa right arithmetically by xb[5:0] into xd (R59) -/
  | sra (d : XReg) (a : XReg) (b : XReg)
  /-- SLT: Writes 1 to xd when xa is signed-less than xb, else 0 (R59) -/
  | slt (d : XReg) (a : XReg) (b : XReg)
  /-- SLTN: Writes 1 to xd when xa is unsigned-less than xb, else 0 (R59) -/
  | sltn (d : XReg) (a : XReg) (b : XReg)
  /-- MUL: Writes the low 64 bits of xa times xb to xd (R59) -/
  | mul (d : XReg) (a : XReg) (b : XReg)
  /-- MULH: Writes the high 64 bits of the signed product to xd (R59) -/
  | mulh (d : XReg) (a : XReg) (b : XReg)
  /-- MULHN: Writes the high 64 bits of the unsigned product to xd (R59) -/
  | mulhn (d : XReg) (a : XReg) (b : XReg)
  /-- DIV: Writes the signed quotient truncated toward zero, with the fixed results for division by zero and overflow (R60) -/
  | div (d : XReg) (a : XReg) (b : XReg)
  /-- DIVN: Writes the unsigned quotient, all ones on division by zero (R60) -/
  | divn (d : XReg) (a : XReg) (b : XReg)
  /-- REM: Writes the signed remainder, the dividend on division by zero (R60) -/
  | rem (d : XReg) (a : XReg) (b : XReg)
  /-- REMN: Writes the unsigned remainder, the dividend on division by zero (R60) -/
  | remn (d : XReg) (a : XReg) (b : XReg)
  /-- MIN: Writes the signed minimum of xa and xb (R59) -/
  | min (d : XReg) (a : XReg) (b : XReg)
  /-- MAX: Writes the signed maximum of xa and xb (R59) -/
  | max (d : XReg) (a : XReg) (b : XReg)
  /-- MINN: Writes the unsigned minimum of xa and xb (R59) -/
  | minn (d : XReg) (a : XReg) (b : XReg)
  /-- MAXN: Writes the unsigned maximum of xa and xb (R59) -/
  | maxn (d : XReg) (a : XReg) (b : XReg)
  /-- ROL: Rotates xa left by xb[5:0] (R59) -/
  | rol (d : XReg) (a : XReg) (b : XReg)
  /-- ROR: Rotates xa right by xb[5:0] (R59) -/
  | ror (d : XReg) (a : XReg) (b : XReg)
  /-- CLZ: Counts the leading zero bits of xa, 64 for zero (R59) -/
  | clz (d : XReg) (a : XReg)
  /-- CTZ: Counts the trailing zero bits of xa, 64 for zero (R59) -/
  | ctz (d : XReg) (a : XReg)
  /-- POPC: Counts the set bits of xa (R59) -/
  | popc (d : XReg) (a : XReg)
  /-- BEXT: Extracts the bit field of xa that xb selects and sign-extends it (R61) -/
  | bext (d : XReg) (a : XReg) (b : XReg)
  /-- BEXTN: Extracts the bit field of xa that xb selects and zero-extends it (R61) -/
  | bextn (d : XReg) (a : XReg) (b : XReg)
  /-- FSHL: Funnel-shifts the pair xd:xa left by xb[5:0] into xd (R59) -/
  | fshl (d : XReg) (a : XReg) (b : XReg)
  /-- FSHR: Funnel-shifts the pair xa:xd right by xb[5:0] into xd (R59) -/
  | fshr (d : XReg) (a : XReg) (b : XReg)
  /-- ADDI: Writes xa plus the sign-extended immediate to xd (R62) -/
  | addi (d : XReg) (a : XReg) (i : BitVec 16)
  /-- ANDI: Writes xa AND the zero-extended immediate to xd (R62) -/
  | andi (d : XReg) (a : XReg) (i : BitVec 16)
  /-- ORI: Writes xa OR the zero-extended immediate to xd (R62) -/
  | ori (d : XReg) (a : XReg) (i : BitVec 16)
  /-- XORI: Writes xa XOR the zero-extended immediate to xd (R62) -/
  | xori (d : XReg) (a : XReg) (i : BitVec 16)
  /-- SLTI: Writes 1 to xd when xa is signed-less than the sign-extended immediate (R62) -/
  | slti (d : XReg) (a : XReg) (i : BitVec 16)
  /-- SLLI: Shifts xa left by the immediate amount (R62) -/
  | slli (d : XReg) (a : XReg) (s : BitVec 6)
  /-- SRLI: Shifts xa right logically by the immediate amount (R62) -/
  | srli (d : XReg) (a : XReg) (s : BitVec 6)
  /-- SRAI: Shifts xa right arithmetically by the immediate amount (R62) -/
  | srai (d : XReg) (a : XReg) (s : BitVec 6)
  /-- LUI: Writes the sign-extended 21-bit immediate shifted left by 16 to xd (R62) -/
  | lui (d : XReg) (i : BitVec 21)
  /-- AUIPC: Writes the PC plus the shifted immediate to xd (R62) -/
  | auipc (d : XReg) (i : BitVec 21)
  /-- BFX: Extracts a bit field of xa and zero-extends it into xd (R61) -/
  | bfx (d : XReg) (a : XReg) (l : BitVec 6) (p : BitVec 6)
  /-- BFX_S: Extracts a bit field of xa and sign-extends it into xd (R61) -/
  | bfxS (d : XReg) (a : XReg) (l : BitVec 6) (p : BitVec 6)
  /-- BFI: Inserts the low bits of xa into a bit field of xd (R61) -/
  | bfi (d : XReg) (a : XReg) (l : BitVec 6) (p : BitVec 6)
  /-- LDB: Loads a byte, sign-extended, from generic memory or, in a lane thread, lane scratch (R63) -/
  | ldb (d : XReg) (a : XReg) (o : BitVec 13)
  /-- LDH: Loads a halfword, sign-extended (R63) -/
  | ldh (d : XReg) (a : XReg) (o : BitVec 13)
  /-- LDW: Loads a word, sign-extended (R63) -/
  | ldw (d : XReg) (a : XReg) (o : BitVec 13)
  /-- LDD: Loads a doubleword (R63) -/
  | ldd (d : XReg) (a : XReg) (o : BitVec 13)
  /-- LDBN: Loads a byte, zero-extended (R63) -/
  | ldbn (d : XReg) (a : XReg) (o : BitVec 13)
  /-- LDHN: Loads a halfword, zero-extended (R63) -/
  | ldhn (d : XReg) (a : XReg) (o : BitVec 13)
  /-- LDWN: Loads a word, zero-extended (R63) -/
  | ldwn (d : XReg) (a : XReg) (o : BitVec 13)
  /-- STB: Stores the low byte of xs (R63) -/
  | stb (s : XReg) (a : XReg) (o : BitVec 13)
  /-- STH: Stores the low halfword of xs (R63) -/
  | sth (s : XReg) (a : XReg) (o : BitVec 13)
  /-- STW: Stores the low word of xs (R63) -/
  | stw (s : XReg) (a : XReg) (o : BitVec 13)
  /-- STD: Stores the doubleword xs (R63) -/
  | std (s : XReg) (a : XReg) (o : BitVec 13)
  /-- BEQ: Branches when xa equals xb (R65) -/
  | beq (a : XReg) (b : XReg) (o : BitVec 16)
  /-- BNE: Branches when xa differs from xb (R65) -/
  | bne (a : XReg) (b : XReg) (o : BitVec 16)
  /-- BLT: Branches when xa is signed-less than xb (R65) -/
  | blt (a : XReg) (b : XReg) (o : BitVec 16)
  /-- BGE: Branches when xa is signed-greater or equal to xb (R65) -/
  | bge (a : XReg) (b : XReg) (o : BitVec 16)
  /-- BLTN: Branches when xa is unsigned-less than xb (R65) -/
  | bltn (a : XReg) (b : XReg) (o : BitVec 16)
  /-- BGEN: Branches when xa is unsigned-greater or equal to xb (R65) -/
  | bgen (a : XReg) (b : XReg) (o : BitVec 16)
  /-- J: Jumps by the 26-bit word offset (R65) -/
  | j (o : BitVec 26)
  /-- JAL: Jumps by the 26-bit word offset and links in x1 (R65) -/
  | jal (o : BitVec 26)
  /-- JALR: Jumps to xa plus the immediate and links in xd (R65) -/
  | jalr (d : XReg) (a : XReg) (i : BitVec 16)
  /-- LOOP: Starts a temporal hardware loop on ck with count xa (R67) -/
  | loop (c : CtrNum) (a : XReg) (l : BitVec 16)
  /-- LOOP_S: Starts a spatial hardware loop over the place's slice on ck (R71) -/
  | loopS (c : CtrNum) (l : BitVec 16)
  /-- LOOPI: Starts a hardware loop on ck with an immediate count (R67) -/
  | loopi (c : CtrNum) (n : BitVec 13) (l : BitVec 10)
  /-- NOP: Changes only PC and INSTRET (R73) -/
  | nop
  /-- EXIT: Ends the hart after closing windows, ending stacks and waiting on its timelines (R74) -/
  | exit
  /-- BRK: Raises the BRK trap (R73) -/
  | brk
  /-- SCALL: Raises the SCALL trap (R73) -/
  | scall
  /-- YIELD: Satisfies any pending soft or hard pre-emption at once (R73) -/
  | yield
  /-- FORK: Hart 0 starts or resumes the other harts of the layout at xa (R76) -/
  | fork (a : XReg)
  /-- RDV: Parks a hart, or makes hart 0 wait for every other hart to park or exit (R75) -/
  | rdv
  /-- LFORK: Starts one lane thread per lane at offset xa of the quad buffer (R83) -/
  | lfork (a : XReg)
  /-- LJOIN: Waits until every lane thread has exited and reforms the vector (R86) -/
  | ljoin
  /-- LEXIT: Ends the executing lane thread (R86) -/
  | lexit
  /-- QPUT: Pushes xa into q0, stalling while q0 is full (R77) -/
  | qput (a : XReg)
  /-- QGET: Pops the oldest q1 entry into xd, stalling while q1 is empty (R77) -/
  | qget (d : XReg)
  /-- LVGET: Reads another row of the lane thread's own lane into xd (R85) -/
  | lvget (d : XReg) (a : XReg)
  /-- LVPUT: Writes xa into another row of the lane thread's own lane (R85) -/
  | lvput (a : XReg) (b : XReg)
  /-- LIBLD: Loads xb bytes from xa into every lane instruction buffer of the partition and zeroes the rest (R82) -/
  | libld (a : XReg) (b : XReg)
  /-- MOVS: Copies a system register into xd (R79) -/
  | movs (d : XReg) (r : BitVec 12)
  /-- SETS: Copies xa into a system register that has no behaviour of its own (R79) -/
  | sets (a : XReg) (r : BitVec 12)
  /-- LCNT_WRITE: SETS of LCNTk issues a jump advance of the windows tied to k by the change (R70) -/
  | lcntWrite (k : CtrNum) (v : Word)
  /-- PREEMPT_REQ_WRITE: Writing 1 to PREEMPT.REQ requests hard pre-emption of the hart (R323) -/
  | preemptReqWrite
  /-- VSETVL: Sets VTYPE from xb and VL from the requested length xa, relaying if the grant changed (R92) -/
  | vsetvl (d : XReg) (a : XReg) (b : XReg)
  /-- VSETVLQ: Sets VL from the next lq entry under the current VTYPE (R92) -/
  | vsetvlq (d : XReg)
  /-- LPART: Re-lays the core into xa harts of 32/xa lanes (R94) -/
  | lpart (a : XReg)
  /-- GANG: Joins m neighbouring cores under one hart as a rendezvous (R95) -/
  | gang (a : XReg)
  /-- UNGANG: Dissolves the gang and resumes the parked members (R96) -/
  | ungang
  /-- VSETVLI: Sets VTYPE[15:0] from the immediate and VL from xa (R92) -/
  | vsetvli (d : XReg) (a : XReg) (i : BitVec 16)
  /-- GANG_FORMED: When the last member arrives, core b's hart continues as the gang hart over all member lanes (R95) -/
  | gangFormed (base : CoreId)
  /-- VADD: Adds vector elements modulo 2^SEW (R102) -/
  | vadd (d : VReg) (a : VReg) (b : VReg) (p : BitVec 3) (k : MReg)
  /-- VSUB: Subtracts vector elements (R102) -/
  | vsub (d : VReg) (a : VReg) (b : VReg) (p : BitVec 3) (k : MReg)
  /-- VRSUB: Writes b - a per element (R102) -/
  | vrsub (d : VReg) (a : VReg) (b : VReg) (p : BitVec 3) (k : MReg)
  /-- VAND: Bitwise AND per element (R102) -/
  | vand (d : VReg) (a : VReg) (b : VReg) (p : BitVec 3) (k : MReg)
  /-- VOR: Bitwise OR per element (R102) -/
  | vor (d : VReg) (a : VReg) (b : VReg) (p : BitVec 3) (k : MReg)
  /-- VXOR: Bitwise XOR per element (R102) -/
  | vxor (d : VReg) (a : VReg) (b : VReg) (p : BitVec 3) (k : MReg)
  /-- VSLL: Shifts elements left by b mod SEW (R102) -/
  | vsll (d : VReg) (a : VReg) (b : VReg) (p : BitVec 3) (k : MReg)
  /-- VSRL: Shifts elements right logically (R102) -/
  | vsrl (d : VReg) (a : VReg) (b : VReg) (p : BitVec 3) (k : MReg)
  /-- VSRA: Shifts elements right arithmetically (R102) -/
  | vsra (d : VReg) (a : VReg) (b : VReg) (p : BitVec 3) (k : MReg)
  /-- VMIN: Signed minimum per element (R102) -/
  | vmin (d : VReg) (a : VReg) (b : VReg) (p : BitVec 3) (k : MReg)
  /-- VMAX: Signed maximum per element (R102) -/
  | vmax (d : VReg) (a : VReg) (b : VReg) (p : BitVec 3) (k : MReg)
  /-- VMINN: Unsigned minimum per element (R102) -/
  | vminn (d : VReg) (a : VReg) (b : VReg) (p : BitVec 3) (k : MReg)
  /-- VMAXN: Unsigned maximum per element (R102) -/
  | vmaxn (d : VReg) (a : VReg) (b : VReg) (p : BitVec 3) (k : MReg)
  /-- VMUL: Low SEW bits of the product per element (R102) -/
  | vmul (d : VReg) (a : VReg) (b : VReg) (p : BitVec 3) (k : MReg)
  /-- VMULH: High SEW bits of the signed product per element (R102) -/
  | vmulh (d : VReg) (a : VReg) (b : VReg) (p : BitVec 3) (k : MReg)
  /-- VMULHN: High SEW bits of the unsigned product per element (R102) -/
  | vmulhn (d : VReg) (a : VReg) (b : VReg) (p : BitVec 3) (k : MReg)
  /-- VDIV: Signed division per element with fixed division-by-zero results (R102) -/
  | vdiv (d : VReg) (a : VReg) (b : VReg) (p : BitVec 3) (k : MReg)
  /-- VDIVN: Unsigned division per element (R102) -/
  | vdivn (d : VReg) (a : VReg) (b : VReg) (p : BitVec 3) (k : MReg)
  /-- VREM: Signed remainder per element (R102) -/
  | vrem (d : VReg) (a : VReg) (b : VReg) (p : BitVec 3) (k : MReg)
  /-- VREMN: Unsigned remainder per element (R102) -/
  | vremn (d : VReg) (a : VReg) (b : VReg) (p : BitVec 3) (k : MReg)
  /-- VADDC: Adds with carry-in from mask mk and writes the carry out back to it (R103) -/
  | vaddc (d : VReg) (a : VReg) (b : VReg) (p : BitVec 3) (k : MReg)
  /-- VSUBB: Subtracts with borrow-in from mask mk and writes the borrow out back to it (R103) -/
  | vsubb (d : VReg) (a : VReg) (b : VReg) (p : BitVec 3) (k : MReg)
  /-- VSADD: Signed saturating add (R102) -/
  | vsadd (d : VReg) (a : VReg) (b : VReg) (p : BitVec 3) (k : MReg)
  /-- VSADDN: Unsigned saturating add (R102) -/
  | vsaddn (d : VReg) (a : VReg) (b : VReg) (p : BitVec 3) (k : MReg)
  /-- VSSUB: Signed saturating subtract (R102) -/
  | vssub (d : VReg) (a : VReg) (b : VReg) (p : BitVec 3) (k : MReg)
  /-- VSSUBN: Unsigned saturating subtract (R102) -/
  | vssubn (d : VReg) (a : VReg) (b : VReg) (p : BitVec 3) (k : MReg)
  /-- VMERGE: Selects vb where the mask bit is set and va otherwise (R103) -/
  | vmerge (d : VReg) (a : VReg) (b : VReg) (p : BitVec 3) (k : MReg)
  /-- VMV: Copies vb into vd (R102) -/
  | vmv (d : VReg) (b : VReg) (p : BitVec 3) (k : MReg)
  /-- VPOPE: Counts the set bits of each element (R102) -/
  | vpope (d : VReg) (a : VReg) (k : MReg)
  /-- VCLZ: Counts the leading zero bits of each element (R102) -/
  | vclz (d : VReg) (a : VReg) (k : MReg)
  /-- VBEXT: Extracts a sign-extended bit field per element (R102) -/
  | vbext (d : VReg) (a : VReg) (b : VReg) (p : BitVec 3) (k : MReg)
  /-- VFSHR: Funnel-shifts a:d right by b per element into vd (R102) -/
  | vfshr (d : VReg) (a : VReg) (b : VReg) (p : BitVec 3) (k : MReg)
  /-- VADD_X: Adds a scalar to each element (R102) -/
  | vaddX (d : VReg) (a : VReg) (b : XReg) (k : MReg)
  /-- VSUB_X: Subtracts a scalar from each element (R102) -/
  | vsubX (d : VReg) (a : VReg) (b : XReg) (k : MReg)
  /-- VRSUB_X: Writes the scalar minus each element (R102) -/
  | vrsubX (d : VReg) (a : VReg) (b : XReg) (k : MReg)
  /-- VAND_X: Bitwise AND with a scalar (R102) -/
  | vandX (d : VReg) (a : VReg) (b : XReg) (k : MReg)
  /-- VOR_X: Bitwise OR with a scalar (R102) -/
  | vorX (d : VReg) (a : VReg) (b : XReg) (k : MReg)
  /-- VXOR_X: Bitwise XOR with a scalar (R102) -/
  | vxorX (d : VReg) (a : VReg) (b : XReg) (k : MReg)
  /-- VSLL_X: Shifts elements left by a scalar amount (R102) -/
  | vsllX (d : VReg) (a : VReg) (b : XReg) (k : MReg)
  /-- VSRL_X: Shifts elements right logically by a scalar amount (R102) -/
  | vsrlX (d : VReg) (a : VReg) (b : XReg) (k : MReg)
  /-- VSRA_X: Shifts elements right arithmetically by a scalar amount (R102) -/
  | vsraX (d : VReg) (a : VReg) (b : XReg) (k : MReg)
  /-- VMIN_X: Signed minimum with a scalar (R102) -/
  | vminX (d : VReg) (a : VReg) (b : XReg) (k : MReg)
  /-- VMAX_X: Signed maximum with a scalar (R102) -/
  | vmaxX (d : VReg) (a : VReg) (b : XReg) (k : MReg)
  /-- VMINN_X: Unsigned minimum with a scalar (R102) -/
  | vminnX (d : VReg) (a : VReg) (b : XReg) (k : MReg)
  /-- VMAXN_X: Unsigned maximum with a scalar (R102) -/
  | vmaxnX (d : VReg) (a : VReg) (b : XReg) (k : MReg)
  /-- VMUL_X: Multiplies each element by a scalar (R102) -/
  | vmulX (d : VReg) (a : VReg) (b : XReg) (k : MReg)
  /-- VMULH_X: High half of the signed product with a scalar (R102) -/
  | vmulhX (d : VReg) (a : VReg) (b : XReg) (k : MReg)
  /-- VMULHN_X: High half of the unsigned product with a scalar (R102) -/
  | vmulhnX (d : VReg) (a : VReg) (b : XReg) (k : MReg)
  /-- VDIV_X: Signed division by a scalar (R102) -/
  | vdivX (d : VReg) (a : VReg) (b : XReg) (k : MReg)
  /-- VDIVN_X: Unsigned division by a scalar (R102) -/
  | vdivnX (d : VReg) (a : VReg) (b : XReg) (k : MReg)
  /-- VREM_X: Signed remainder by a scalar (R102) -/
  | vremX (d : VReg) (a : VReg) (b : XReg) (k : MReg)
  /-- VREMN_X: Unsigned remainder by a scalar (R102) -/
  | vremnX (d : VReg) (a : VReg) (b : XReg) (k : MReg)
  /-- VADDC_X: Adds a scalar with mask carry-in and carry-out (R103) -/
  | vaddcX (d : VReg) (a : VReg) (b : XReg) (k : MReg)
  /-- VSUBB_X: Subtracts a scalar with mask borrow-in and borrow-out (R103) -/
  | vsubbX (d : VReg) (a : VReg) (b : XReg) (k : MReg)
  /-- VSADD_X: Signed saturating add of a scalar (R102) -/
  | vsaddX (d : VReg) (a : VReg) (b : XReg) (k : MReg)
  /-- VSADDN_X: Unsigned saturating add of a scalar (R102) -/
  | vsaddnX (d : VReg) (a : VReg) (b : XReg) (k : MReg)
  /-- VSSUB_X: Signed saturating subtract of a scalar (R102) -/
  | vssubX (d : VReg) (a : VReg) (b : XReg) (k : MReg)
  /-- VSSUBN_X: Unsigned saturating subtract of a scalar (R102) -/
  | vssubnX (d : VReg) (a : VReg) (b : XReg) (k : MReg)
  /-- VMERGE_X: Selects the scalar where the mask bit is set and va otherwise (R103) -/
  | vmergeX (d : VReg) (a : VReg) (b : XReg) (k : MReg)
  /-- VMV_X: Writes the scalar into every element (R102) -/
  | vmvX (d : VReg) (b : XReg) (k : MReg)
  /-- VBEXT_X: Extracts a bit field selected by a scalar per element (R102) -/
  | vbextX (d : VReg) (a : VReg) (b : XReg) (k : MReg)
  /-- VFSHR_X: Funnel-shifts a:d right by a scalar amount (R102) -/
  | vfshrX (d : VReg) (a : VReg) (b : XReg) (k : MReg)
  /-- VADDI: Adds a sign-extended immediate to each element (R102) -/
  | vaddi (d : VReg) (a : VReg) (i : BitVec 8) (k : MReg)
  /-- VRSUBI: Writes the immediate minus each element (R102) -/
  | vrsubi (d : VReg) (a : VReg) (i : BitVec 8) (k : MReg)
  /-- VANDI: Bitwise AND with an immediate (R102) -/
  | vandi (d : VReg) (a : VReg) (i : BitVec 8) (k : MReg)
  /-- VORI: Bitwise OR with an immediate (R102) -/
  | vori (d : VReg) (a : VReg) (i : BitVec 8) (k : MReg)
  /-- VXORI: Bitwise XOR with an immediate (R102) -/
  | vxori (d : VReg) (a : VReg) (i : BitVec 8) (k : MReg)
  /-- VSLLI: Shifts elements left by an immediate amount (R102) -/
  | vslli (d : VReg) (a : VReg) (s : BitVec 6) (k : MReg)
  /-- VSRLI: Shifts elements right logically by an immediate amount (R102) -/
  | vsrli (d : VReg) (a : VReg) (s : BitVec 6) (k : MReg)
  /-- VSRAI: Shifts elements right arithmetically by an immediate amount (R102) -/
  | vsrai (d : VReg) (a : VReg) (s : BitVec 6) (k : MReg)
  /-- VMVI: Writes the sign-extended immediate into every element (R102) -/
  | vmvi (d : VReg) (i : BitVec 8) (k : MReg)
  /-- VMINI: Signed minimum with an immediate (R102) -/
  | vmini (d : VReg) (a : VReg) (i : BitVec 8) (k : MReg)
  /-- VMAXI: Signed maximum with an immediate (R102) -/
  | vmaxi (d : VReg) (a : VReg) (i : BitVec 8) (k : MReg)
  /-- VSEQ: Sets mask bits where elements are equal (R104) -/
  | vseq (d : MReg) (a : VReg) (b : VReg) (p : BitVec 3) (k : MReg)
  /-- VSNE: Sets mask bits where elements differ (R104) -/
  | vsne (d : MReg) (a : VReg) (b : VReg) (p : BitVec 3) (k : MReg)
  /-- VSLT: Sets mask bits where a is signed-less than b (R104) -/
  | vslt (d : MReg) (a : VReg) (b : VReg) (p : BitVec 3) (k : MReg)
  /-- VSLTN: Sets mask bits where a is unsigned-less than b (R104) -/
  | vsltn (d : MReg) (a : VReg) (b : VReg) (p : BitVec 3) (k : MReg)
  /-- VSLE: Sets mask bits where a is signed-less or equal to b (R104) -/
  | vsle (d : MReg) (a : VReg) (b : VReg) (p : BitVec 3) (k : MReg)
  /-- VSLEN: Sets mask bits where a is unsigned-less or equal to b (R104) -/
  | vslen (d : MReg) (a : VReg) (b : VReg) (p : BitVec 3) (k : MReg)
  /-- VSGT: Sets mask bits where a is signed-greater than b (R104) -/
  | vsgt (d : MReg) (a : VReg) (b : VReg) (p : BitVec 3) (k : MReg)
  /-- VSGTN: Sets mask bits where a is unsigned-greater than b (R104) -/
  | vsgtn (d : MReg) (a : VReg) (b : VReg) (p : BitVec 3) (k : MReg)
  /-- VFEQ: Sets mask bits where floats are equal (R104) -/
  | vfeq (d : MReg) (a : VReg) (b : VReg) (p : BitVec 3) (k : MReg)
  /-- VFNE: Sets mask bits where floats are not equal (R104) -/
  | vfne (d : MReg) (a : VReg) (b : VReg) (p : BitVec 3) (k : MReg)
  /-- VFLT: Sets mask bits where float a is less than b (R104) -/
  | vflt (d : MReg) (a : VReg) (b : VReg) (p : BitVec 3) (k : MReg)
  /-- VFLE: Sets mask bits where float a is less or equal to b (R104) -/
  | vfle (d : MReg) (a : VReg) (b : VReg) (p : BitVec 3) (k : MReg)
  /-- VFUNORD: Sets mask bits where either operand is NaN (R104) -/
  | vfunord (d : MReg) (a : VReg) (b : VReg) (p : BitVec 3) (k : MReg)
  /-- VFADD: Floating add per element, rounded by FCR.RM (R105) -/
  | vfadd (d : VReg) (a : VReg) (b : VReg) (p : BitVec 3) (k : MReg)
  /-- VFSUB: Floating subtract per element (R105) -/
  | vfsub (d : VReg) (a : VReg) (b : VReg) (p : BitVec 3) (k : MReg)
  /-- VFMUL: Floating multiply per element (R105) -/
  | vfmul (d : VReg) (a : VReg) (b : VReg) (p : BitVec 3) (k : MReg)
  /-- VFDIV: Floating divide per element (R105) -/
  | vfdiv (d : VReg) (a : VReg) (b : VReg) (p : BitVec 3) (k : MReg)
  /-- VFSQRT: Floating square root per element (R105) -/
  | vfsqrt (d : VReg) (a : VReg) (k : MReg)
  /-- VFMIN: Floating minimum per element (R105) -/
  | vfmin (d : VReg) (a : VReg) (b : VReg) (p : BitVec 3) (k : MReg)
  /-- VFMAX: Floating maximum per element (R105) -/
  | vfmax (d : VReg) (a : VReg) (b : VReg) (p : BitVec 3) (k : MReg)
  /-- VFMADD: Fused a*b + d per element (R105) -/
  | vfmadd (d : VReg) (a : VReg) (b : VReg) (p : BitVec 3) (k : MReg)
  /-- VFMSUB: Fused a*b - d per element (R105) -/
  | vfmsub (d : VReg) (a : VReg) (b : VReg) (p : BitVec 3) (k : MReg)
  /-- VFNMADD: Fused -(a*b) - d per element (R105) -/
  | vfnmadd (d : VReg) (a : VReg) (b : VReg) (p : BitVec 3) (k : MReg)
  /-- VFNMSUB: Fused -(a*b) + d per element (R105) -/
  | vfnmsub (d : VReg) (a : VReg) (b : VReg) (p : BitVec 3) (k : MReg)
  /-- VFSGNJ: Injects the sign of b into a (R105) -/
  | vfsgnj (d : VReg) (a : VReg) (b : VReg) (p : BitVec 3) (k : MReg)
  /-- VFSGNJN: Injects the inverted sign of b into a (R105) -/
  | vfsgnjn (d : VReg) (a : VReg) (b : VReg) (p : BitVec 3) (k : MReg)
  /-- VFSGNJX: Injects the XOR of the signs into a (R105) -/
  | vfsgnjx (d : VReg) (a : VReg) (b : VReg) (p : BitVec 3) (k : MReg)
  /-- VFCLASS: Writes a one-hot class of each float (R106) -/
  | vfclass (d : VReg) (a : VReg) (k : MReg)
  /-- VFRECE: Writes an 8-bit reciprocal estimate (R106) -/
  | vfrece (d : VReg) (a : VReg) (k : MReg)
  /-- VFRSQE: Writes an 8-bit reciprocal square-root estimate (R106) -/
  | vfrsqe (d : VReg) (a : VReg) (k : MReg)
  /-- VFEXP2: Computes 2^a by the table algorithm ExpTwo (R108) -/
  | vfexp2 (d : VReg) (a : VReg) (k : MReg)
  /-- VFCVTIF: Converts signed integers to floats (R107) -/
  | vfcvtif (d : VReg) (a : VReg) (k : MReg)
  /-- VFCVTFI: Converts floats to saturated signed integers (R107) -/
  | vfcvtfi (d : VReg) (a : VReg) (k : MReg)
  /-- VFNARROW: Narrows FP32 elements to BF16 (R107) -/
  | vfnarrow (d : VReg) (a : VReg) (k : MReg)
  /-- VFWIDEN: Widens BF16 elements to FP32 exactly (R107) -/
  | vfwiden (d : VReg) (a : VReg) (k : MReg)
  /-- VFADD_X: Floating add of a scalar (R105) -/
  | vfaddX (d : VReg) (a : VReg) (b : XReg) (k : MReg)
  /-- VFSUB_X: Floating subtract of a scalar (R105) -/
  | vfsubX (d : VReg) (a : VReg) (b : XReg) (k : MReg)
  /-- VFMUL_X: Floating multiply by a scalar (R105) -/
  | vfmulX (d : VReg) (a : VReg) (b : XReg) (k : MReg)
  /-- VFDIV_X: Floating divide by a scalar (R105) -/
  | vfdivX (d : VReg) (a : VReg) (b : XReg) (k : MReg)
  /-- VFMIN_X: Floating minimum with a scalar (R105) -/
  | vfminX (d : VReg) (a : VReg) (b : XReg) (k : MReg)
  /-- VFMAX_X: Floating maximum with a scalar (R105) -/
  | vfmaxX (d : VReg) (a : VReg) (b : XReg) (k : MReg)
  /-- VFMADD_X: Fused a*x + d with a scalar x (R105) -/
  | vfmaddX (d : VReg) (a : VReg) (b : XReg) (k : MReg)
  /-- VFMSUB_X: Fused a*x - d with a scalar x (R105) -/
  | vfmsubX (d : VReg) (a : VReg) (b : XReg) (k : MReg)
  /-- VFNMADD_X: Fused -(a*x) - d with a scalar x (R105) -/
  | vfnmaddX (d : VReg) (a : VReg) (b : XReg) (k : MReg)
  /-- VFNMSUB_X: Fused -(a*x) + d with a scalar x (R105) -/
  | vfnmsubX (d : VReg) (a : VReg) (b : XReg) (k : MReg)
  /-- VFSGNJ_X: Injects the scalar's sign (R105) -/
  | vfsgnjX (d : VReg) (a : VReg) (b : XReg) (k : MReg)
  /-- VFSGNJN_X: Injects the scalar's inverted sign (R105) -/
  | vfsgnjnX (d : VReg) (a : VReg) (b : XReg) (k : MReg)
  /-- VFSGNJX_X: Injects the XOR of the element's and scalar's signs (R105) -/
  | vfsgnjxX (d : VReg) (a : VReg) (b : XReg) (k : MReg)
  /-- VREDSUM: Sums the active elements with element 0 of vb into element 0 (R109) -/
  | vredsum (d : VReg) (a : VReg) (b : VReg) (k : MReg)
  /-- VREDMIN: Signed minimum reduction (R109) -/
  | vredmin (d : VReg) (a : VReg) (b : VReg) (k : MReg)
  /-- VREDMAX: Signed maximum reduction (R109) -/
  | vredmax (d : VReg) (a : VReg) (b : VReg) (k : MReg)
  /-- VREDMINN: Unsigned minimum reduction (R109) -/
  | vredminn (d : VReg) (a : VReg) (b : VReg) (k : MReg)
  /-- VREDMAXN: Unsigned maximum reduction (R109) -/
  | vredmaxn (d : VReg) (a : VReg) (b : VReg) (k : MReg)
  /-- VREDAND: Bitwise AND reduction (R109) -/
  | vredand (d : VReg) (a : VReg) (b : VReg) (k : MReg)
  /-- VREDOR: Bitwise OR reduction (R109) -/
  | vredor (d : VReg) (a : VReg) (b : VReg) (k : MReg)
  /-- VREDXOR: Bitwise XOR reduction (R109) -/
  | vredxor (d : VReg) (a : VReg) (b : VReg) (k : MReg)
  /-- VFREDSUM: Floating sum reduction in a fixed tree (R110) -/
  | vfredsum (d : VReg) (a : VReg) (b : VReg) (k : MReg)
  /-- VFREDMIN: Floating minimum reduction (R110) -/
  | vfredmin (d : VReg) (a : VReg) (b : VReg) (k : MReg)
  /-- VFREDMAX: Floating maximum reduction (R110) -/
  | vfredmax (d : VReg) (a : VReg) (b : VReg) (k : MReg)
  /-- VPOPC: Pushes the count of active set mask bits into q1 (R112) -/
  | vpopc (s : MReg) (k : MReg)
  /-- VPOPQ: Pushes the count of active set mask bits into lq (R112) -/
  | vpopq (s : MReg) (k : MReg)
  /-- VFIRST: Pushes the lowest active set mask bit index into q1 (R112) -/
  | vfirst (s : MReg) (k : MReg)
  /-- VIOTA: Writes the prefix count of set mask bits per element (R112) -/
  | viota (d : VReg) (s : MReg) (k : MReg)
  /-- VID: Writes each element's index (R112) -/
  | vid (d : VReg) (k : MReg)
  /-- MAND: Mask AND (R112) -/
  | mand (d : MReg) (a : MReg) (b : MReg)
  /-- MOR: Mask OR (R112) -/
  | mor (d : MReg) (a : MReg) (b : MReg)
  /-- MXOR: Mask XOR (R112) -/
  | mxor (d : MReg) (a : MReg) (b : MReg)
  /-- MANDN: Mask AND NOT (R112) -/
  | mandn (d : MReg) (a : MReg) (b : MReg)
  /-- MNOT: Mask NOT (R112) -/
  | mnot (d : MReg) (a : MReg)
  /-- MSLIDE1: Slides mask bits up by one (R112) -/
  | mslide1 (d : MReg) (a : MReg)
  /-- MSBF: Sets mask bits before the first set bit (R112) -/
  | msbf (d : MReg) (a : MReg)
  /-- MMV: Copies a mask (R112) -/
  | mmv (d : MReg) (a : MReg)
  /-- MFROMV: Sets mask bits where elements are nonzero (R112) -/
  | mfromv (d : MReg) (a : VReg) (k : MReg)
  /-- MTOV: Writes mask bits as 0 or 1 elements (R112) -/
  | mtov (d : VReg) (s : MReg) (k : MReg)
  /-- VSLIDEUP: Slides elements up by xb (R114) -/
  | vslideup (d : VReg) (a : VReg) (b : XReg) (k : MReg)
  /-- VSLIDEDN: Slides elements down by xb (R114) -/
  | vslidedn (d : VReg) (a : VReg) (b : XReg) (k : MReg)
  /-- VSLIDE1UP: Slides up by one and inserts a scalar, or a q0 entry, at element 0 (R114) -/
  | vslide1up (d : VReg) (a : VReg) (b : XReg) (k : MReg)
  /-- VSLIDE1DN: Slides down by one and inserts a scalar, or a q0 entry, at element VL-1 (R114) -/
  | vslide1dn (d : VReg) (a : VReg) (b : XReg) (k : MReg)
  /-- VPERMX: Gathers va elements by the indices in vb (R114) -/
  | vpermx (d : VReg) (a : VReg) (b : VReg) (k : MReg)
  /-- VCOMPRESS: Packs the elements whose mask bit is set (R114) -/
  | vcompress (d : VReg) (a : VReg) (s : MReg)
  /-- VEXPAND: Spreads consecutive elements to the positions whose mask bit is set (R114) -/
  | vexpand (d : VReg) (a : VReg) (s : MReg) (k : MReg)
  /-- VREV: Reverses the first VL elements (R114) -/
  | vrev (d : VReg) (a : VReg) (k : MReg)
  /-- VBCAST: Broadcasts element xb of va (R114) -/
  | vbcast (d : VReg) (a : VReg) (b : XReg) (k : MReg)
  /-- VMVXV: Writes a scalar, or a q0 entry, to element 0 (R114) -/
  | vmvxv (d : VReg) (b : XReg) (k : MReg)
  /-- VMVVX: Pushes element 0 of va into q1 (R114) -/
  | vmvvx (a : VReg)
  /-- VLD: Unit-stride vector load that widens the storage format (R119) -/
  | vld (d : VReg) (b : XReg) (k : MReg) (f : BitVec 5)
  /-- VLD_S: Strided vector load (R119) -/
  | vldS (d : VReg) (b : XReg) (s : XReg) (k : MReg) (f : BitVec 5)
  /-- VLD_G: Segment vector load of nf fields (R119) -/
  | vldG (d : VReg) (b : XReg) (n : BitVec 3) (k : MReg) (f : BitVec 5)
  /-- VLD_I: Scratch-indexed vector load from lane scratch (R119) -/
  | vldI (d : VReg) (b : XReg) (i : VReg) (k : MReg) (f : BitVec 5)
  /-- VLD_FF: Unit fault-only-first load that truncates VL at a faulting element (R123) -/
  | vldFf (d : VReg) (b : XReg) (k : MReg) (f : BitVec 5)
  /-- VST: Unit-stride vector store that narrows to the storage format (R119) -/
  | vst (d : VReg) (b : XReg) (k : MReg) (f : BitVec 5)
  /-- VST_S: Strided vector store (R119) -/
  | vstS (d : VReg) (b : XReg) (s : XReg) (k : MReg) (f : BitVec 5)
  /-- VST_G: Segment vector store (R119) -/
  | vstG (d : VReg) (b : XReg) (n : BitVec 3) (k : MReg) (f : BitVec 5)
  /-- VST_I: Scratch-indexed vector store to lane scratch (R119) -/
  | vstI (d : VReg) (b : XReg) (i : VReg) (k : MReg) (f : BitVec 5)
  /-- VSAMO_ADD: Lane-scratch atomic add per element (R128) -/
  | vsamoAdd (d : VReg) (b : XReg) (i : VReg) (k : MReg)
  /-- VSAMO_MIN: Lane-scratch atomic signed minimum (R128) -/
  | vsamoMin (d : VReg) (b : XReg) (i : VReg) (k : MReg)
  /-- VSAMO_MAX: Lane-scratch atomic signed maximum (R128) -/
  | vsamoMax (d : VReg) (b : XReg) (i : VReg) (k : MReg)
  /-- VSAMO_MINN: Lane-scratch atomic unsigned minimum (R128) -/
  | vsamoMinn (d : VReg) (b : XReg) (i : VReg) (k : MReg)
  /-- VSAMO_MAXN: Lane-scratch atomic unsigned maximum (R128) -/
  | vsamoMaxn (d : VReg) (b : XReg) (i : VReg) (k : MReg)
  /-- VSAMO_AND: Lane-scratch atomic AND (R128) -/
  | vsamoAnd (d : VReg) (b : XReg) (i : VReg) (k : MReg)
  /-- VSAMO_OR: Lane-scratch atomic OR (R128) -/
  | vsamoOr (d : VReg) (b : XReg) (i : VReg) (k : MReg)
  /-- VSAMO_XOR: Lane-scratch atomic XOR (R128) -/
  | vsamoXor (d : VReg) (b : XReg) (i : VReg) (k : MReg)
  /-- VSAMO_SWAP: Lane-scratch atomic swap (R128) -/
  | vsamoSwap (d : VReg) (b : XReg) (i : VReg) (k : MReg)
  /-- VSLDL: Loads from lane scratch under a hashed lock and clears the mask bits that fail (R129) -/
  | vsldl (d : VReg) (b : XReg) (i : VReg) (k : MReg)
  /-- VSSTU: Stores to lane scratch and releases the hashed lock (R129) -/
  | vsstu (d : VReg) (b : XReg) (i : VReg) (k : MReg)
  /-- AMOADD: Atomic add on generic memory returning the old value (R130) -/
  | amoadd (d : XReg) (a : XReg) (b : XReg) (w : BitVec 1)
  /-- AMOMIN: Atomic signed minimum (R130) -/
  | amomin (d : XReg) (a : XReg) (b : XReg) (w : BitVec 1)
  /-- AMOMAX: Atomic signed maximum (R130) -/
  | amomax (d : XReg) (a : XReg) (b : XReg) (w : BitVec 1)
  /-- AMOMINN: Atomic unsigned minimum (R130) -/
  | amominn (d : XReg) (a : XReg) (b : XReg) (w : BitVec 1)
  /-- AMOMAXN: Atomic unsigned maximum (R130) -/
  | amomaxn (d : XReg) (a : XReg) (b : XReg) (w : BitVec 1)
  /-- AMOAND: Atomic AND (R130) -/
  | amoand (d : XReg) (a : XReg) (b : XReg) (w : BitVec 1)
  /-- AMOOR: Atomic OR (R130) -/
  | amoor (d : XReg) (a : XReg) (b : XReg) (w : BitVec 1)
  /-- AMOXOR: Atomic XOR (R130) -/
  | amoxor (d : XReg) (a : XReg) (b : XReg) (w : BitVec 1)
  /-- AMOSWAP: Atomic swap (R130) -/
  | amoswap (d : XReg) (a : XReg) (b : XReg) (w : BitVec 1)
  /-- AMOCAS: Atomic compare-and-swap against xd (R130) -/
  | amocas (d : XReg) (a : XReg) (b : XReg) (w : BitVec 1)
  /-- VAMOADD: Per-element atomic add at the addresses in va (R131) -/
  | vamoadd (d : VReg) (a : VReg) (b : VReg) (k : MReg)
  /-- VAMOMIN: Per-element atomic signed minimum (R131) -/
  | vamomin (d : VReg) (a : VReg) (b : VReg) (k : MReg)
  /-- VAMOMAX: Per-element atomic signed maximum (R131) -/
  | vamomax (d : VReg) (a : VReg) (b : VReg) (k : MReg)
  /-- VAMOMINN: Per-element atomic unsigned minimum (R131) -/
  | vamominn (d : VReg) (a : VReg) (b : VReg) (k : MReg)
  /-- VAMOMAXN: Per-element atomic unsigned maximum (R131) -/
  | vamomaxn (d : VReg) (a : VReg) (b : VReg) (k : MReg)
  /-- VAMOAND: Per-element atomic AND (R131) -/
  | vamoand (d : VReg) (a : VReg) (b : VReg) (k : MReg)
  /-- VAMOOR: Per-element atomic OR (R131) -/
  | vamoor (d : VReg) (a : VReg) (b : VReg) (k : MReg)
  /-- VAMOXOR: Per-element atomic XOR (R131) -/
  | vamoxor (d : VReg) (a : VReg) (b : VReg) (k : MReg)
  /-- VAMOSWAP: Per-element atomic swap (R131) -/
  | vamoswap (d : VReg) (a : VReg) (b : VReg) (k : MReg)
  /-- WBIND: Binds a window to a tensor descriptor (R147) -/
  | wbind (w : WinNum) (a : VReg) (b : XReg)
  /-- WMODE: Records a window's mode (R148) -/
  | wmode (w : WinNum) (b : XReg)
  /-- WFORM: Records a window's formula and origin (R149) -/
  | wform (w : WinNum) (a : VReg) (b : VReg)
  /-- WOPEN: Checks, places and opens a window and issues the initial fetch (R157) -/
  | wopen (w : WinNum)
  /-- WCLOSE: Writes back dirty elements, releases the allocation and unbinds (R164) -/
  | wclose (w : WinNum)
  /-- WFLUSH: Writes back every dirty held element and keeps the window open (R164) -/
  | wflush (w : WinNum)
  /-- WDROP: Discards dirty data, releases the allocation and unbinds (R164) -/
  | wdrop (w : WinNum)
  /-- WBINDI: Binds a gather window to a sealed iterator stack (R170) -/
  | wbindi (s : StackNum) (w : WinNum) (a : VReg) (b : XReg)
  /-- WNEXT: Replaces a gather window's tiles with one pulled group and pushes the count into lq (R171) -/
  | wnext (w : WinNum)
  /-- WSTAT: Pushes a window status entry into q1 (R174) -/
  | wstat (w : WinNum)
  /-- WLD: Loads window elements along dimension 0 relative to the cursor (R167) -/
  | wld (d : VReg) (w : WinNum) (x : XReg) (k : MReg)
  /-- WLD_S: Strided window load along dimension 0 (R167) -/
  | wldS (d : VReg) (w : WinNum) (x : XReg) (k : MReg) (o : BitVec 6)
  /-- WLD_X: Indexed window load (R167) -/
  | wldX (d : VReg) (w : WinNum) (x : VReg) (k : MReg)
  /-- WLD_G: Segment window load (R167) -/
  | wldG (d : VReg) (w : WinNum) (x : XReg) (k : MReg) (n : BitVec 3)
  /-- WLD_D1: Window load along dimension 1 (R167) -/
  | wldD1 (d : VReg) (w : WinNum) (x : XReg) (k : MReg)
  /-- WST: Stores window elements along dimension 0 and marks them dirty (R167) -/
  | wst (d : VReg) (w : WinNum) (x : XReg) (k : MReg)
  /-- WST_S: Strided window store (R167) -/
  | wstS (d : VReg) (w : WinNum) (x : XReg) (k : MReg) (o : BitVec 6)
  /-- WST_X: Indexed window store (R167) -/
  | wstX (d : VReg) (w : WinNum) (x : VReg) (k : MReg)
  /-- WST_G: Segment window store (R167) -/
  | wstG (d : VReg) (w : WinNum) (x : XReg) (k : MReg) (n : BitVec 3)
  /-- WST_D1: Window store along dimension 1 (R167) -/
  | wstD1 (d : VReg) (w : WinNum) (x : XReg) (k : MReg)
  /-- IBEGIN: Starts building a stack, ending it first if sealed (R180) -/
  | ibegin (s : StackNum)
  /-- IRANGE: Adds a range source (R182) -/
  | irange (s : StackNum) (a : XReg) (b : XReg)
  /-- ILIST: Adds a source reading a list of 32-bit entries (R182) -/
  | ilist (s : StackNum) (a : XReg) (b : XReg)
  /-- ICTR: Adds a source yielding each value of a loop counter (R182) -/
  | ictr (s : StackNum) (c : CtrNum)
  /-- IMAP: Adds an affine map adaptor (R183) -/
  | imap (s : StackNum) (a : XReg) (b : XReg)
  /-- IMAPT: Adds a table lookup adaptor (R183) -/
  | imapt (s : StackNum) (a : XReg) (b : XReg)
  /-- IFILTB: Adds a bitmap filter adaptor (R183) -/
  | ifiltb (s : StackNum) (a : XReg) (b : XReg)
  /-- IFILTC: Adds a range comparison filter adaptor (R183) -/
  | ifiltc (s : StackNum) (a : XReg) (b : XReg)
  /-- IZIP: Pairs the stream with another stack's output, absorbing it (R184) -/
  | izip (s : StackNum) (t : StackNum)
  /-- ICHAIN: Appends another stack's output after the stream ends, absorbing it (R184) -/
  | ichain (s : StackNum) (t : StackNum)
  /-- IFLAT: Expands each element into a run of pairs from an offset table (R185) -/
  | iflat (s : StackNum) (a : XReg)
  /-- IFILL: Sets the stack's fill rule to PACK or ALIGN (R186) -/
  | ifill (s : StackNum) (f : BitVec 1)
  /-- INEXT: Delivers one group of indices into vd, sets m0 and pushes the count into lq (R189) -/
  | inext (s : StackNum) (v : VReg)
  /-- IENOUGH: Ends a stack and the stacks it absorbed, cancelling table reads (R193) -/
  | ienough (s : StackNum)
  /-- ISTAT: Pushes a stack status entry into q1 (R197) -/
  | istat (s : StackNum)
  /-- ISEAL: Seals a stack and starts prefetch (R187) -/
  | iseal (s : StackNum)
  /-- MLDS: Loads the shadow plane from a window (R210) -/
  | mlds (w : WinNum) (b : XReg)
  /-- MLDSV: Writes one shadow K row from a vector (R209) -/
  | mldsv (a : VReg) (b : XReg)
  /-- MSWAP: Exchanges the active and shadow planes in MX number order (R212) -/
  | mswap
  /-- MZERO: Zeroes the shadow plane (R209) -/
  | mzero
  /-- MROW: Computes a result row of 256 FP32 values from an operand row and the active plane (R213) -/
  | mrow (d : VReg) (a : VReg)
  /-- MROWA: Computes a result row and adds it to the accumulator vd (R213) -/
  | mrowa (d : VReg) (a : VReg)
  /-- MROWS: Computes a sparse result row skipping masked-off K indices (R215) -/
  | mrows (d : VReg) (a : VReg) (m : MReg)
  /-- MROWSA: Computes a sparse row and accumulates it (R215) -/
  | mrowsa (d : VReg) (a : VReg) (m : MReg)
  /-- MROWW: Computes a row from the next queued stream row of a window (R216) -/
  | mroww (d : VReg) (w : WinNum)
  /-- MROWWA: Computes a streamed row and accumulates it (R216) -/
  | mrowwa (d : VReg) (w : WinNum)
  /-- MWAIT: Holds the vector stream until every lower-numbered matrix operation has completed (R218) -/
  | mwait
  /-- KVSET: Sets the root table of a KV context (R229) -/
  | kvset (s : XReg) (c : KvNum)
  /-- KVXLAT: Translates a vector of token positions to row addresses with a fault mask (R233) -/
  | kvxlat (d : VReg) (a : VReg) (s : XReg) (c : KvNum) (k : MReg)
  /-- KVXLATF: Fault-only-first form of KVXLAT that truncates VL (R233) -/
  | kvxlatf (d : VReg) (a : VReg) (s : XReg) (c : KvNum) (k : MReg)
  /-- ATTN: Runs attention over a sequence's blocks with running softmax state in vd (R235) -/
  | attn (d : VReg) (a : VReg) (s : XReg) (c : KvNum)
  /-- ATTNC: Runs causal prefill attention (R237) -/
  | attnc (d : VReg) (a : VReg) (s : XReg) (c : KvNum)
  /-- KVAPP: Appends K and V rows and raises LEN by an atomic maximum (R240) -/
  | kvapp (d : VReg) (a : VReg) (s : XReg) (c : KvNum)
  /-- KVINV: Drops cached KV walks of a sequence or a root (R231) -/
  | kvinv (s : XReg) (c : KvNum)
  /-- KVSTAT: Pushes a KV context status entry into q1 (R232) -/
  | kvstat (c : KvNum)
  /-- ATTN_BLOCK: When a block's data arrives, ATTN updates the running state and commits the block (R235) -/
  | attnBlock (who : Who)
  /-- FENCE: Release and acquire over the scalar unit's accesses at VTYPE.SCOPE (R248) -/
  | fence
  /-- VFENCE: Release and acquire over all of the hart's accesses at VTYPE.SCOPE (R248) -/
  | vfence
  /-- LSYNC: Joins the hart's lane groups, scalar unit and engines at hart scope (R125) -/
  | lsync
  /-- BARRIVE: Releases and then atomically arrives on a barrier word (R251) -/
  | barrive (a : XReg)
  /-- BWAIT: Waits until a barrier word's phase passes the target, then acquires (R251) -/
  | bwait (a : XReg) (b : XReg)
  /-- BINIT: Writes a barrier word's phase and expected count with ARRIVED zero (R251) -/
  | binit (a : XReg) (b : XReg)
  /-- BWAIT_RETURN: A wait read that finds the phase past the target ends the BWAIT and performs its acquire (R253) -/
  | bwaitReturn (who : Who)
  /-- TLWAIT: Waits until every operation of an engine context numbered n or below has completed and acquires their effects (R255) -/
  | tlwait (e : BitVec 5) (a : XReg)
  /-- HEVT: Pulses a Harness event input (R262) -/
  | hevt (a : XReg)
  /-- HWAIT: Holds the scalar unit until a Harness output fires (R264) -/
  | hwait (a : XReg)
  /-- HARM: Arms a Harness output for the hart's next engine command (R263) -/
  | harm (a : XReg)
  /-- HARNESS_CYCLE: Each cycle the Harness counts pulses and fires outputs whose terms are true and have a consumer (R261) -/
  | harnessCycle (tick : HarnessTick)
  /-- XSEND: Sends a register message to a partner hart (R277) -/
  | xsend (a : VReg) (b : XReg)
  /-- XRECV: Receives a register message from a partner hart (R277) -/
  | xrecv (d : VReg) (b : XReg)
  /-- XSTEP: Moves whole die segments of a gang vector (R273) -/
  | xstep (d : VReg) (a : VReg) (b : XReg) (k : MReg)
  /-- XREDSUM: Sums across the whole gang vector (R275) -/
  | xredsum (d : VReg) (a : VReg) (k : MReg)
  /-- XREDMAX: Takes the maximum across the whole gang vector (R275) -/
  | xredmax (d : VReg) (a : VReg) (k : MReg)
  /-- XBCAST: Broadcasts one element across every segment (R274) -/
  | xbcast (d : VReg) (a : VReg) (b : XReg) (k : MReg)
  /-- XRING: Runs one step of a ring revolution (R279) -/
  | xring (d : VReg) (a : VReg) (b : XReg)
  /-- XSTAT: Writes exchange status to xd after earlier exchange members complete (R282) -/
  | xstat (d : XReg)
  /-- EXCHANGE_PAIR_TRANSFER: When both members of a matched pair have issued, the message transfers and both complete (R277) -/
  | exchangePairTransfer (snd rcv : Who) (tag : PairTag)
  /-- EXCHANGE_WATCHDOG_EXPIRY: The watchdog of a waiting exchange operation expires (R284) -/
  | exchangeWatchdogExpiry (who : Who) (num : Nat)
  /-- RING_COMMIT: The commit marker completes its circulation and the revolution commits (R280) -/
  | ringCommit (who : Who)
  /-- RING_ABORT_NOTICE: An abort notice reaches a member, which marks the revolution aborted (R280) -/
  | ringAbortNotice (who : Who) (rev : BitVec 32)
  /-- LAUNCH: Submits a child kernel packet, stalling while the depth quota is full (R305) -/
  | launch (a : XReg)
  /-- LAUNCHT: Tries to submit a child packet and returns its LN number or 0 (R305) -/
  | launcht (d : XReg) (a : XReg)
  /-- LWAIT: Waits for a child launch and returns its status (R306) -/
  | lwait (d : XReg) (a : XReg)
  /-- TRET: Returns from a trap, resuming the scalar unit and lane threads (R316) -/
  | tret
  /-- CTXSAVE: Writes the user context image at xa (R325) -/
  | ctxsave (a : XReg)
  /-- CTXLOAD: Checks and restores a context image from xa (R327) -/
  | ctxload (a : XReg)
  /-- XLINV: Drops cached translations covering one address (R333) -/
  | xlinv (a : XReg) (b : XReg)
  /-- XLINVA: Drops every cached translation of the partition (R333) -/
  | xlinva
  /-- WFE: Holds the scalar unit until a wake event (R318) -/
  | wfe
  /-- HALT: Ends the executing hart's launch on every place (R320) -/
  | halt
  /-- CAPRD: Reads a doubleword of the capability list (R319) -/
  | caprd (d : XReg) (a : XReg)
  /-- WFE_TIMEOUT: 4,096 cycles pass and wake a hart in WFE (R318) -/
  | wfeTimeout (who : Who)
  /-- RESERVED_WORD: A reserved word raises ILLEGAL_INSN with no state change (R55) -/
  | reservedWord (w : Insn)
  /-- LOOP_WRAP: Control reaches a loop's end, and the loop wraps with an advance or ends, after reserving scoreboard entries (R68) -/
  | loopWrap (who : Who)
  /-- SLAB_LANDED: A slab's last element lands and its scoreboard entry frees (R162) -/
  | slabLanded (who : Who) (num : Nat) (slab : Nat)
  /-- WRITEBACK_PERFORMED: A window write-back is performed at its home slice (R159) -/
  | writebackPerformed (who : Who) (num : Nat)
  /-- STREAM_ROW_ENTER: A stream window row enters the elastic operand queue when a slot is free (R172) -/
  | streamRowEnter (who : Who) (num : Nat)
  /-- ITERATOR_TABLE_READ: A table read returns to the iterator engine, which forms elements or records a deferred fault (R191) -/
  | iteratorTableRead (who : Who) (stack : StackNum)
  /-- MATRIX_OP_START: A pending matrix operation starts in MX number order once its waits end (R217) -/
  | matrixOpStart (core : CoreId)
  /-- MATRIX_OP_COMPLETE: A matrix operation completes and a row operation writes its destination (R208) -/
  | matrixOpComplete (core : CoreId) (num : Nat)
  /-- PLACE_START: A place's harts start once every preload window has landed (R297) -/
  | placeStart (launch : Nat) (place : Nat)
  /-- HARD_PREEMPTION: A due hard pre-emption saves the context at the next allowed boundary and frees the place (R323) -/
  | hardPreemption (who : Who)
  /-- PREEMPT_LEFT_EXPIRY: LEFT reaches 0 and the soft pre-emption becomes hard (R323) -/
  | preemptLeftExpiry (who : Who)
  /-- SUPERVISOR_PREEMPT_TIMEOUT: A supervisor reaches no pre-emption point within 65,536 cycles and its launch is ended (R322) -/
  | supervisorPreemptTimeout (who : Who)
  /-- CONTEXT_RESTORE: The controller restores a ready saved context onto a free place (R323) -/
  | contextRestore (saved : Nat) (who : Who)
  /-- PARENT_STALL_SWAP: A hart stalled 65,536 cycles on its children while a child is ready is swapped out (R307) -/
  | parentStallSwap (who : Who)
  /-- PRIORITY_PROMOTION: A ready launch undispatched for 262,144 cycles is raised above priority 3 (R301) -/
  | priorityPromotion (which : Waiting)
  /-- DOORBELL: A write to byte 0 of a notify page sets the queue tail and submits packets (R288) -/
  | doorbell (fn : BitVec 6) (queue : BitVec 14) (value : BitVec 32)
  /-- COMPLETION_HEAD: A write to byte 8 of a notify page frees completion records (R288) -/
  | completionHead (fn : BitVec 6) (queue : BitVec 14) (value : BitVec 32)
  /-- REGISTER_WRITE: A write to a host-visible register without behaviour of its own is stored or dropped (R338) -/
  | registerWrite (fn : BitVec 6) (bar : Bar) (offset : BitVec 26) (value : BitVec 32)
  /-- PRIQ_WRITE: A write to PRIQ clears its DROPPED count (R342) -/
  | priqWrite (fn : BitVec 6)
  /-- QUEUE_CREATE: The driver gives Prozen a queue descriptor (R287) -/
  | queueCreate (queue : BitVec 14) (fn : BitVec 6) (desc : List Word)
  /-- QUEUE_SWAP_IN: Prozen swaps a doorbelled queue into a free hardware slot (R288) -/
  | queueSwapIn (queue : BitVec 14)
  /-- QUEUE_RESET: The driver resets a queue and its unretired launches are cancelled (R299) -/
  | queueReset (queue : BitVec 14)
  /-- PACKET_DISPATCH: A kernel packet at the head of its queue with waits met is checked, split and placed (R292) -/
  | packetDispatch (queue : BitVec 14) (areas : List Word)
  /-- CHILD_DISPATCH: A ready child launch from the pool is checked and placed (R305) -/
  | childDispatch (child : Nat) (areas : List Word)
  /-- TRANSFER_DISPATCH: A transfer packet at the head of its queue starts its copy or zero fill (R344) -/
  | transferDispatch (queue : BitVec 14)
  /-- TRANSFER_RETIRE: A transfer retires once every byte is performed at system scope (R344) -/
  | transferRetire (transfer : Nat)
  /-- LAUNCH_RETIRE: After the last EXIT the launch performs its accesses at system scope and retires (R298) -/
  | launchRetire (launch : Nat)
  /-- COMPLETION_RECORD_WRITE: The completion record is written when the ring has room (R300) -/
  | completionRecordWrite (queue : BitVec 14)
  /-- PAGE_RESPONSE: A page request response makes the waiting context ready, or is dropped for a quarantined index (R340) -/
  | pageResponse (fn : BitVec 6) (group : BitVec 8) (code : PageCode)
  /-- ATS_INVALIDATION: A host ATS invalidation completes after every access using the translation is performed (R339) -/
  | atsInvalidation (fn : BitVec 6) (pasid : BitVec 20) (page : BitVec 52)
  /-- FUNCTION_LEVEL_RESET: An FLR of a VF cancels its launches, drops its translations and quarantines outstanding indices (R341) -/
  | functionLevelReset (fn : BitVec 6)
  /-- PACKET_AGE_ESCALATION: A packet waiting 4,096 cycles at a router escalates by age (R267) -/
  | packetAgeEscalation (packet : Nat)
  /-- MESH_RESTITCH: Prozen re-stitches a region's mesh as a ring, tree or torus (R268) -/
  | meshRestitch (cores : BitVec 64) (shape : MeshShape)
  /-- LAMEF_FLIT_RECEIVE: A received flit is checked by CRC and sequence and acknowledged or rejected (R270) -/
  | lamefFlitReceive (port : Fin 24) (flit : Flit)
  /-- LAMEF_FLIT_REPLAY: A rejection makes the sender replay from the rejected flit (R270) -/
  | lamefFlitReplay (port : Fin 24) (seq : BitVec 12)
  /-- LAMEF_PORT_DOWN: After 8 failed replays the port goes down and traffic moves to other ports (R270) -/
  | lamefPortDown (port : Fin 24)
  /-- MEMORY_DOUBLE_ERROR: A double-bit SRAM error marks its granule uncorrectable (R334) -/
  | memoryDoubleError (site : ErrorSite)
  /-- COLD_RESET: Runs the reset sequence from Sage start to Prozen start (R353) -/
  | coldReset
  /-- HOT_RESET: A hot reset or FLR of PF 0 acts as a cold reset and erases every key slot (R353) -/
  | hotReset
  /-- CONFIG_REQUEST: The device answers a PCI Express configuration request (R353) -/
  | configRequest (fn : BitVec 6) (offset : BitVec 12)
  /-- POWER_STATE_CHANGE: The device moves between D0, D3hot and D3cold (R354) -/
  | powerStateChange (target : Power)
  /-- TENANT_CREATE: Prozen creates a tenant and Sage generates its key (R347) -/
  | tenantCreate (tenant : BitVec 10) (part : BitVec 4) (ptroot rangeBase trapVec capBase : Word)
  /-- TENANT_TEARDOWN: Tearing down a tenant erases its key slot (R347) -/
  | tenantTeardown (tenant : BitVec 10)
  /-- PAGE_REASSIGN: Prozen zeroes and reassigns a page to a new owner (R348) -/
  | pageReassign (page : BitVec 32) (fromPart toPart : BitVec 4) (tenant : BitVec 10)
  /-- PARTITION_CHANGE: Prozen changes a partition's cores, channels and keys while none of its launches runs (R345) -/
  | partitionChange (part : BitVec 4) (cfg : PartConfig)
  /-- GET_VERSION: SPDM request for supported versions (R351) -/
  | getVersion
  /-- GET_CAPABILITIES: SPDM request for capabilities (R351) -/
  | getCapabilities
  /-- NEGOTIATE_ALGORITHMS: SPDM request that negotiates XMSS^MT and SHA3-384 (R351) -/
  | negotiateAlgorithms (asym hash : BitVec 16)
  /-- GET_DIGESTS: SPDM request for certificate digests (R351) -/
  | getDigests
  /-- GET_CERTIFICATE: SPDM request for the certificate chain (R351) -/
  | getCertificate (offset length : BitVec 16)
  /-- CHALLENGE: SPDM challenge answered with an identity-key signature (R351) -/
  | challenge (nonce : BitVec 256)
  /-- GET_MEASUREMENTS: SPDM request for the signed measurements (R351) -/
  | getMeasurements (nonce : BitVec 256)
  /-- ACCESS_PERFORMED: A queued generic load, store or atomic of a lane group or scalar unit is performed at its home slice, or acknowledged by the host or a remote device, and its data returns (R249) -/
  | accessPerformed (who : Who) (access : Nat)
  /-- KV_WALKER_READ_RETURN: A KV walker table read or KVAPP row write completes, letting KVXLAT finish or KVAPP perform its LEN maximum (R240) -/
  | kvWalkerReadReturn (who : Who)
  /-- EXCHANGE_REFUSED: The far end refuses an XSEND or XRECV, or every path to it is lost, and the operation completes REFUSED or CANCELLED with EXCHANGE pending (R284) -/
  | exchangeRefused (who : Who) (num : Nat) (noPath : Bool)
  /-- RING_STEP_MESSAGE: A ring step message from the predecessor arrives and is delivered to the waiting XRING, or dropped and counted when its REV is old (R279) -/
  | ringStepMessage (who : Who) (src : RingSender) (step : RingStep) (bytes : List Byte)
  /-- SINGLE_BIT_ERROR: A single-bit SRAM error is corrected by SECDED and counted for the host (R334) -/
  | singleBitError (site : ErrorSite)
  deriving DecidableEq, Repr

end Sys2Proof
end

