-- ==== Sys2Proof/WellFormed.lean ====
section
/-!
DEFINITION. Which instructions are well formed: the limits of R39 to R41, R54 and R55 that a field's width
does not say. A word that breaks one of them is reserved and raises ILLEGAL_INSN (R55).
-/

namespace Sys2Proof

/-- The legal replicate fields (R40): rp[10] = 0 goes with rp[9:8] = 00 only. -/
def rpLegal (p : BitVec 3) : Bool := p.getLsbD 2 || p == 0

/-- R39 to R41, R54, R55: the limits on the fields of each member. Events have no word; a queue descriptor
has eight doublewords (R287). -/
def Instr.wellFormed : Instr → Bool
  | .add .. => true
  | .sub .. => true
  | .and .. => true
  | .or .. => true
  | .xor .. => true
  | .sll .. => true
  | .srl .. => true
  | .sra .. => true
  | .slt .. => true
  | .sltn .. => true
  | .mul .. => true
  | .mulh .. => true
  | .mulhn .. => true
  | .div .. => true
  | .divn .. => true
  | .rem .. => true
  | .remn .. => true
  | .min .. => true
  | .max .. => true
  | .minn .. => true
  | .maxn .. => true
  | .rol .. => true
  | .ror .. => true
  | .clz .. => true
  | .ctz .. => true
  | .popc .. => true
  | .bext .. => true
  | .bextn .. => true
  | .fshl .. => true
  | .fshr .. => true
  | .addi .. => true
  | .andi .. => true
  | .ori .. => true
  | .xori .. => true
  | .slti .. => true
  | .slli .. => true
  | .srli .. => true
  | .srai .. => true
  | .lui .. => true
  | .auipc .. => true
  | .bfx _ _ l p => decide (p.toNat + l.toNat + 1 ≤ 64)
  | .bfxS _ _ l p => decide (p.toNat + l.toNat + 1 ≤ 64)
  | .bfi _ _ l p => decide (p.toNat + l.toNat + 1 ≤ 64)
  | .ldb .. => true
  | .ldh .. => true
  | .ldw .. => true
  | .ldd .. => true
  | .ldbn .. => true
  | .ldhn .. => true
  | .ldwn .. => true
  | .stb .. => true
  | .sth .. => true
  | .stw .. => true
  | .std .. => true
  | .beq .. => true
  | .bne .. => true
  | .blt .. => true
  | .bge .. => true
  | .bltn .. => true
  | .bgen .. => true
  | .j .. => true
  | .jal .. => true
  | .jalr .. => true
  | .loop _ _ l => l != 0
  | .loopS _ l => l != 0
  | .loopi _ _ l => l != 0
  | .nop => true
  | .exit => true
  | .brk => true
  | .scall => true
  | .yield => true
  | .fork .. => true
  | .rdv => true
  | .lfork .. => true
  | .ljoin => true
  | .lexit => true
  | .qput .. => true
  | .qget .. => true
  | .lvget .. => true
  | .lvput .. => true
  | .libld .. => true
  | .movs .. => true
  | .sets .. => true
  | .lcntWrite .. => true
  | .preemptReqWrite => true
  | .vsetvl .. => true
  | .vsetvlq .. => true
  | .lpart .. => true
  | .gang .. => true
  | .ungang => true
  | .vsetvli .. => true
  | .gangFormed .. => true
  | .vadd _ _ _ p _ => rpLegal p
  | .vsub _ _ _ p _ => rpLegal p
  | .vrsub _ _ _ p _ => rpLegal p
  | .vand _ _ _ p _ => rpLegal p
  | .vor _ _ _ p _ => rpLegal p
  | .vxor _ _ _ p _ => rpLegal p
  | .vsll _ _ _ p _ => rpLegal p
  | .vsrl _ _ _ p _ => rpLegal p
  | .vsra _ _ _ p _ => rpLegal p
  | .vmin _ _ _ p _ => rpLegal p
  | .vmax _ _ _ p _ => rpLegal p
  | .vminn _ _ _ p _ => rpLegal p
  | .vmaxn _ _ _ p _ => rpLegal p
  | .vmul _ _ _ p _ => rpLegal p
  | .vmulh _ _ _ p _ => rpLegal p
  | .vmulhn _ _ _ p _ => rpLegal p
  | .vdiv _ _ _ p _ => rpLegal p
  | .vdivn _ _ _ p _ => rpLegal p
  | .vrem _ _ _ p _ => rpLegal p
  | .vremn _ _ _ p _ => rpLegal p
  | .vaddc _ _ _ p _ => rpLegal p
  | .vsubb _ _ _ p _ => rpLegal p
  | .vsadd _ _ _ p _ => rpLegal p
  | .vsaddn _ _ _ p _ => rpLegal p
  | .vssub _ _ _ p _ => rpLegal p
  | .vssubn _ _ _ p _ => rpLegal p
  | .vmerge _ _ _ p k => rpLegal p && k != 0
  | .vmv _ _ p _ => rpLegal p
  | .vpope .. => true
  | .vclz .. => true
  | .vbext _ _ _ p _ => rpLegal p
  | .vfshr _ _ _ p _ => rpLegal p
  | .vaddX .. => true
  | .vsubX .. => true
  | .vrsubX .. => true
  | .vandX .. => true
  | .vorX .. => true
  | .vxorX .. => true
  | .vsllX .. => true
  | .vsrlX .. => true
  | .vsraX .. => true
  | .vminX .. => true
  | .vmaxX .. => true
  | .vminnX .. => true
  | .vmaxnX .. => true
  | .vmulX .. => true
  | .vmulhX .. => true
  | .vmulhnX .. => true
  | .vdivX .. => true
  | .vdivnX .. => true
  | .vremX .. => true
  | .vremnX .. => true
  | .vaddcX .. => true
  | .vsubbX .. => true
  | .vsaddX .. => true
  | .vsaddnX .. => true
  | .vssubX .. => true
  | .vssubnX .. => true
  | .vmergeX _ _ _ k => k != 0
  | .vmvX .. => true
  | .vbextX .. => true
  | .vfshrX .. => true
  | .vaddi .. => true
  | .vrsubi .. => true
  | .vandi .. => true
  | .vori .. => true
  | .vxori .. => true
  | .vslli .. => true
  | .vsrli .. => true
  | .vsrai .. => true
  | .vmvi .. => true
  | .vmini .. => true
  | .vmaxi .. => true
  | .vseq _ _ _ p _ => rpLegal p
  | .vsne _ _ _ p _ => rpLegal p
  | .vslt _ _ _ p _ => rpLegal p
  | .vsltn _ _ _ p _ => rpLegal p
  | .vsle _ _ _ p _ => rpLegal p
  | .vslen _ _ _ p _ => rpLegal p
  | .vsgt _ _ _ p _ => rpLegal p
  | .vsgtn _ _ _ p _ => rpLegal p
  | .vfeq _ _ _ p _ => rpLegal p
  | .vfne _ _ _ p _ => rpLegal p
  | .vflt _ _ _ p _ => rpLegal p
  | .vfle _ _ _ p _ => rpLegal p
  | .vfunord _ _ _ p _ => rpLegal p
  | .vfadd _ _ _ p _ => rpLegal p
  | .vfsub _ _ _ p _ => rpLegal p
  | .vfmul _ _ _ p _ => rpLegal p
  | .vfdiv _ _ _ p _ => rpLegal p
  | .vfsqrt .. => true
  | .vfmin _ _ _ p _ => rpLegal p
  | .vfmax _ _ _ p _ => rpLegal p
  | .vfmadd _ _ _ p _ => rpLegal p
  | .vfmsub _ _ _ p _ => rpLegal p
  | .vfnmadd _ _ _ p _ => rpLegal p
  | .vfnmsub _ _ _ p _ => rpLegal p
  | .vfsgnj _ _ _ p _ => rpLegal p
  | .vfsgnjn _ _ _ p _ => rpLegal p
  | .vfsgnjx _ _ _ p _ => rpLegal p
  | .vfclass .. => true
  | .vfrece .. => true
  | .vfrsqe .. => true
  | .vfexp2 .. => true
  | .vfcvtif .. => true
  | .vfcvtfi .. => true
  | .vfnarrow .. => true
  | .vfwiden .. => true
  | .vfaddX .. => true
  | .vfsubX .. => true
  | .vfmulX .. => true
  | .vfdivX .. => true
  | .vfminX .. => true
  | .vfmaxX .. => true
  | .vfmaddX .. => true
  | .vfmsubX .. => true
  | .vfnmaddX .. => true
  | .vfnmsubX .. => true
  | .vfsgnjX .. => true
  | .vfsgnjnX .. => true
  | .vfsgnjxX .. => true
  | .vredsum .. => true
  | .vredmin .. => true
  | .vredmax .. => true
  | .vredminn .. => true
  | .vredmaxn .. => true
  | .vredand .. => true
  | .vredor .. => true
  | .vredxor .. => true
  | .vfredsum .. => true
  | .vfredmin .. => true
  | .vfredmax .. => true
  | .vpopc .. => true
  | .vpopq .. => true
  | .vfirst .. => true
  | .viota .. => true
  | .vid .. => true
  | .mand .. => true
  | .mor .. => true
  | .mxor .. => true
  | .mandn .. => true
  | .mnot .. => true
  | .mslide1 .. => true
  | .msbf .. => true
  | .mmv .. => true
  | .mfromv .. => true
  | .mtov .. => true
  | .vslideup .. => true
  | .vslidedn .. => true
  | .vslide1up .. => true
  | .vslide1dn .. => true
  | .vpermx .. => true
  | .vcompress .. => true
  | .vexpand .. => true
  | .vrev .. => true
  | .vbcast .. => true
  | .vmvxv .. => true
  | .vmvvx .. => true
  | .vld _ _ _ f => decide (f.toNat ≤ 28)
  | .vldS _ _ _ _ f => decide (f.toNat ≤ 28)
  | .vldG _ _ n _ f => decide (f.toNat ≤ 28) && n != 0
  | .vldI _ _ _ _ f => decide (f.toNat ≤ 28)
  | .vldFf _ _ _ f => decide (f.toNat ≤ 28)
  | .vst _ _ _ f => decide (f.toNat ≤ 28)
  | .vstS _ _ _ _ f => decide (f.toNat ≤ 28)
  | .vstG _ _ n _ f => decide (f.toNat ≤ 28) && n != 0
  | .vstI _ _ _ _ f => decide (f.toNat ≤ 28)
  | .vsamoAdd .. => true
  | .vsamoMin .. => true
  | .vsamoMax .. => true
  | .vsamoMinn .. => true
  | .vsamoMaxn .. => true
  | .vsamoAnd .. => true
  | .vsamoOr .. => true
  | .vsamoXor .. => true
  | .vsamoSwap .. => true
  | .vsldl _ _ _ k => k != 0
  | .vsstu _ _ _ k => k != 0
  | .amoadd .. => true
  | .amomin .. => true
  | .amomax .. => true
  | .amominn .. => true
  | .amomaxn .. => true
  | .amoand .. => true
  | .amoor .. => true
  | .amoxor .. => true
  | .amoswap .. => true
  | .amocas .. => true
  | .vamoadd .. => true
  | .vamomin .. => true
  | .vamomax .. => true
  | .vamominn .. => true
  | .vamomaxn .. => true
  | .vamoand .. => true
  | .vamoor .. => true
  | .vamoxor .. => true
  | .vamoswap .. => true
  | .wbind .. => true
  | .wmode .. => true
  | .wform .. => true
  | .wopen .. => true
  | .wclose .. => true
  | .wflush .. => true
  | .wdrop .. => true
  | .wbindi .. => true
  | .wnext .. => true
  | .wstat .. => true
  | .wld .. => true
  | .wldS _ _ _ _ o => o != 0
  | .wldX .. => true
  | .wldG _ _ _ _ n => n != 0
  | .wldD1 .. => true
  | .wst .. => true
  | .wstS _ _ _ _ o => o != 0
  | .wstX .. => true
  | .wstG _ _ _ _ n => n != 0
  | .wstD1 .. => true
  | .ibegin .. => true
  | .irange .. => true
  | .ilist .. => true
  | .ictr .. => true
  | .imap .. => true
  | .imapt .. => true
  | .ifiltb .. => true
  | .ifiltc .. => true
  | .izip .. => true
  | .ichain .. => true
  | .iflat .. => true
  | .ifill .. => true
  | .inext .. => true
  | .ienough .. => true
  | .istat .. => true
  | .iseal .. => true
  | .mlds .. => true
  | .mldsv .. => true
  | .mswap => true
  | .mzero => true
  | .mrow .. => true
  | .mrowa .. => true
  | .mrows .. => true
  | .mrowsa .. => true
  | .mroww .. => true
  | .mrowwa .. => true
  | .mwait => true
  | .kvset .. => true
  | .kvxlat _ _ _ _ k => k != 0
  | .kvxlatf _ _ _ _ k => k != 0
  | .attn .. => true
  | .attnc _ _ s _ => !s.getLsbD 0
  | .kvapp _ _ s _ => !s.getLsbD 0
  | .kvinv .. => true
  | .kvstat .. => true
  | .attnBlock .. => true
  | .fence => true
  | .vfence => true
  | .lsync => true
  | .barrive .. => true
  | .bwait .. => true
  | .binit .. => true
  | .bwaitReturn .. => true
  | .tlwait e _ => decide (e.toNat ≤ 5)
  | .hevt .. => true
  | .hwait .. => true
  | .harm .. => true
  | .harnessCycle .. => true
  | .xsend .. => true
  | .xrecv .. => true
  | .xstep .. => true
  | .xredsum .. => true
  | .xredmax .. => true
  | .xbcast .. => true
  | .xring .. => true
  | .xstat .. => true
  | .exchangePairTransfer .. => true
  | .exchangeWatchdogExpiry .. => true
  | .ringCommit .. => true
  | .ringAbortNotice .. => true
  | .launch .. => true
  | .launcht .. => true
  | .lwait .. => true
  | .tret => true
  | .ctxsave .. => true
  | .ctxload .. => true
  | .xlinv .. => true
  | .xlinva => true
  | .wfe => true
  | .halt => true
  | .caprd .. => true
  | .wfeTimeout .. => true
  | .reservedWord .. => true
  | .loopWrap .. => true
  | .slabLanded .. => true
  | .writebackPerformed .. => true
  | .streamRowEnter .. => true
  | .iteratorTableRead .. => true
  | .matrixOpStart .. => true
  | .matrixOpComplete .. => true
  | .placeStart .. => true
  | .hardPreemption .. => true
  | .preemptLeftExpiry .. => true
  | .supervisorPreemptTimeout .. => true
  | .contextRestore .. => true
  | .parentStallSwap .. => true
  | .priorityPromotion .. => true
  | .doorbell .. => true
  | .completionHead .. => true
  | .registerWrite .. => true
  | .priqWrite .. => true
  | .queueCreate _ _ desc => decide (desc.length = 8)
  | .queueSwapIn .. => true
  | .queueReset .. => true
  | .packetDispatch .. => true
  | .childDispatch .. => true
  | .transferDispatch .. => true
  | .transferRetire .. => true
  | .launchRetire .. => true
  | .completionRecordWrite .. => true
  | .pageResponse .. => true
  | .atsInvalidation .. => true
  | .functionLevelReset .. => true
  | .packetAgeEscalation .. => true
  | .meshRestitch .. => true
  | .lamefFlitReceive .. => true
  | .lamefFlitReplay .. => true
  | .lamefPortDown .. => true
  | .memoryDoubleError .. => true
  | .coldReset => true
  | .hotReset => true
  | .configRequest .. => true
  | .powerStateChange .. => true
  | .tenantCreate .. => true
  | .tenantTeardown .. => true
  | .pageReassign .. => true
  | .partitionChange .. => true
  | .getVersion => true
  | .getCapabilities => true
  | .negotiateAlgorithms .. => true
  | .getDigests => true
  | .getCertificate .. => true
  | .challenge .. => true
  | .getMeasurements .. => true
  | .accessPerformed .. => true
  | .kvWalkerReadReturn .. => true
  | .exchangeRefused .. => true
  | .ringStepMessage .. => true
  | .singleBitError .. => true

end Sys2Proof
end

