-- ==== Sys2Proof/Decode.lean ====
section
/-!
DEFINITION. The decoder, total on every word and rejecting by name, and the encoder, both written from the
formats of R37 and the opcode map of R51. A rejected word is a reserved word (R55). The functions that build
an `Instr` carry no compiled code, because Lean's compiler takes at most 244 constructors with fields; the
kernel evaluates them all the same.
-/

namespace Sys2Proof

/-- Why a word is no instruction (R55). -/
inductive Reject where
  | reservedMajor        -- a major opcode that R55 lists
  | reservedMember       -- an fn, mode, width or kind beyond the member list
  | nonzeroField         -- a field the member does not use is not zero (R38)
  | illegalField         -- a field breaks R39 to R41 or R54
  deriving DecidableEq, Repr

/-! The twelve formats, from bit 31 down (R37). -/
def sr (op : BitVec 6) (xd xa xb : BitVec 5) (sub : BitVec 6) (fn : BitVec 5) : Insn := op ++ xd ++ xa ++ xb ++ sub ++ fn
def si (op : BitVec 6) (xd xa : BitVec 5) (imm : BitVec 16) : Insn := op ++ xd ++ xa ++ imm
def su (op : BitVec 6) (xd : BitVec 5) (imm : BitVec 21) : Insn := op ++ xd ++ imm
def sm (op : BitVec 6) (xd xa : BitVec 5) (w : BitVec 3) (off : BitVec 13) : Insn := op ++ xd ++ xa ++ w ++ off
def br (op : BitVec 6) (xa xb : BitVec 5) (off : BitVec 16) : Insn := op ++ xa ++ xb ++ off
def jp (op : BitVec 6) (off : BitVec 26) : Insn := op ++ off
def lp (op : BitVec 6) (c : BitVec 3) (kind : BitVec 2) (xa : BitVec 5) (len : BitVec 16) : Insn := op ++ c ++ kind ++ xa ++ len
def lpi (op : BitVec 6) (c : BitVec 3) (cnt : BitVec 13) (len : BitVec 10) : Insn := op ++ c ++ cnt ++ len
def vr (op : BitVec 6) (vd va vb : BitVec 5) (rp mk : BitVec 3) (fn : BitVec 5) : Insn := op ++ vd ++ va ++ vb ++ rp ++ mk ++ fn
def vi (op : BitVec 6) (vd va : BitVec 5) (imm : BitVec 8) (mk : BitVec 3) (fn : BitVec 5) : Insn := op ++ vd ++ va ++ imm ++ mk ++ fn
def vm (op : BitVec 6) (vd xb s : BitVec 5) (md mk : BitVec 3) (fc : BitVec 5) : Insn := op ++ vd ++ xb ++ s ++ md ++ mk ++ fc
def wm (op : BitVec 6) (vd : BitVec 5) (w : BitVec 3) (z : BitVec 1) (xo : BitVec 5) (md mk : BitVec 3) (off : BitVec 6) : Insn :=
  op ++ vd ++ w ++ z ++ xo ++ md ++ mk ++ off

/-- A member whose unused fields must be zero (R38). -/
def need (c : Bool) (i : Instr) : Except Reject Instr := if c then .ok i else .error .nonzeroField

/-- Major opcode 0x01 (R51). -/
def decodeSop (w : Insn) : Except Reject Instr :=
  match (w.extractLsb' 0 5).toNat with
  | 0 => need (w.extractLsb' 5 6 == 0) (.add (w.extractLsb' 21 5) (w.extractLsb' 16 5) (w.extractLsb' 11 5))
  | 1 => need (w.extractLsb' 5 6 == 0) (.sub (w.extractLsb' 21 5) (w.extractLsb' 16 5) (w.extractLsb' 11 5))
  | 2 => need (w.extractLsb' 5 6 == 0) (.and (w.extractLsb' 21 5) (w.extractLsb' 16 5) (w.extractLsb' 11 5))
  | 3 => need (w.extractLsb' 5 6 == 0) (.or (w.extractLsb' 21 5) (w.extractLsb' 16 5) (w.extractLsb' 11 5))
  | 4 => need (w.extractLsb' 5 6 == 0) (.xor (w.extractLsb' 21 5) (w.extractLsb' 16 5) (w.extractLsb' 11 5))
  | 5 => need (w.extractLsb' 5 6 == 0) (.sll (w.extractLsb' 21 5) (w.extractLsb' 16 5) (w.extractLsb' 11 5))
  | 6 => need (w.extractLsb' 5 6 == 0) (.srl (w.extractLsb' 21 5) (w.extractLsb' 16 5) (w.extractLsb' 11 5))
  | 7 => need (w.extractLsb' 5 6 == 0) (.sra (w.extractLsb' 21 5) (w.extractLsb' 16 5) (w.extractLsb' 11 5))
  | 8 => need (w.extractLsb' 5 6 == 0) (.slt (w.extractLsb' 21 5) (w.extractLsb' 16 5) (w.extractLsb' 11 5))
  | 9 => need (w.extractLsb' 5 6 == 0) (.sltn (w.extractLsb' 21 5) (w.extractLsb' 16 5) (w.extractLsb' 11 5))
  | 10 => need (w.extractLsb' 5 6 == 0) (.mul (w.extractLsb' 21 5) (w.extractLsb' 16 5) (w.extractLsb' 11 5))
  | 11 => need (w.extractLsb' 5 6 == 0) (.mulh (w.extractLsb' 21 5) (w.extractLsb' 16 5) (w.extractLsb' 11 5))
  | 12 => need (w.extractLsb' 5 6 == 0) (.mulhn (w.extractLsb' 21 5) (w.extractLsb' 16 5) (w.extractLsb' 11 5))
  | 13 => need (w.extractLsb' 5 6 == 0) (.div (w.extractLsb' 21 5) (w.extractLsb' 16 5) (w.extractLsb' 11 5))
  | 14 => need (w.extractLsb' 5 6 == 0) (.divn (w.extractLsb' 21 5) (w.extractLsb' 16 5) (w.extractLsb' 11 5))
  | 15 => need (w.extractLsb' 5 6 == 0) (.rem (w.extractLsb' 21 5) (w.extractLsb' 16 5) (w.extractLsb' 11 5))
  | 16 => need (w.extractLsb' 5 6 == 0) (.remn (w.extractLsb' 21 5) (w.extractLsb' 16 5) (w.extractLsb' 11 5))
  | 17 => need (w.extractLsb' 5 6 == 0) (.min (w.extractLsb' 21 5) (w.extractLsb' 16 5) (w.extractLsb' 11 5))
  | 18 => need (w.extractLsb' 5 6 == 0) (.max (w.extractLsb' 21 5) (w.extractLsb' 16 5) (w.extractLsb' 11 5))
  | 19 => need (w.extractLsb' 5 6 == 0) (.minn (w.extractLsb' 21 5) (w.extractLsb' 16 5) (w.extractLsb' 11 5))
  | 20 => need (w.extractLsb' 5 6 == 0) (.maxn (w.extractLsb' 21 5) (w.extractLsb' 16 5) (w.extractLsb' 11 5))
  | 21 => need (w.extractLsb' 5 6 == 0) (.rol (w.extractLsb' 21 5) (w.extractLsb' 16 5) (w.extractLsb' 11 5))
  | 22 => need (w.extractLsb' 5 6 == 0) (.ror (w.extractLsb' 21 5) (w.extractLsb' 16 5) (w.extractLsb' 11 5))
  | 23 => need (w.extractLsb' 11 5 == 0 && w.extractLsb' 5 6 == 0) (.clz (w.extractLsb' 21 5) (w.extractLsb' 16 5))
  | 24 => need (w.extractLsb' 11 5 == 0 && w.extractLsb' 5 6 == 0) (.ctz (w.extractLsb' 21 5) (w.extractLsb' 16 5))
  | 25 => need (w.extractLsb' 11 5 == 0 && w.extractLsb' 5 6 == 0) (.popc (w.extractLsb' 21 5) (w.extractLsb' 16 5))
  | 26 => need (w.extractLsb' 5 6 == 0) (.bext (w.extractLsb' 21 5) (w.extractLsb' 16 5) (w.extractLsb' 11 5))
  | 27 => need (w.extractLsb' 5 6 == 0) (.bextn (w.extractLsb' 21 5) (w.extractLsb' 16 5) (w.extractLsb' 11 5))
  | 28 => need (w.extractLsb' 5 6 == 0) (.fshl (w.extractLsb' 21 5) (w.extractLsb' 16 5) (w.extractLsb' 11 5))
  | 29 => need (w.extractLsb' 5 6 == 0) (.fshr (w.extractLsb' 21 5) (w.extractLsb' 16 5) (w.extractLsb' 11 5))
  | _ => .error .reservedMember

/-- Major opcode 0x02 (R51). -/
def decodeAddi (w : Insn) : Except Reject Instr := .ok (.addi (w.extractLsb' 21 5) (w.extractLsb' 16 5) (w.extractLsb' 0 16))

/-- Major opcode 0x03 (R51). -/
def decodeAndi (w : Insn) : Except Reject Instr := .ok (.andi (w.extractLsb' 21 5) (w.extractLsb' 16 5) (w.extractLsb' 0 16))

/-- Major opcode 0x04 (R51). -/
def decodeOri (w : Insn) : Except Reject Instr := .ok (.ori (w.extractLsb' 21 5) (w.extractLsb' 16 5) (w.extractLsb' 0 16))

/-- Major opcode 0x05 (R51). -/
def decodeXori (w : Insn) : Except Reject Instr := .ok (.xori (w.extractLsb' 21 5) (w.extractLsb' 16 5) (w.extractLsb' 0 16))

/-- Major opcode 0x06 (R51). -/
def decodeSlti (w : Insn) : Except Reject Instr := .ok (.slti (w.extractLsb' 21 5) (w.extractLsb' 16 5) (w.extractLsb' 0 16))

/-- Major opcode 0x07 (R51). -/
def decodeShi (w : Insn) : Except Reject Instr :=
  match (w.extractLsb' 14 2).toNat with
  | 0 => need (w.extractLsb' 6 8 == 0) (.slli (w.extractLsb' 21 5) (w.extractLsb' 16 5) (w.extractLsb' 0 6))
  | 1 => need (w.extractLsb' 6 8 == 0) (.srli (w.extractLsb' 21 5) (w.extractLsb' 16 5) (w.extractLsb' 0 6))
  | 2 => need (w.extractLsb' 6 8 == 0) (.srai (w.extractLsb' 21 5) (w.extractLsb' 16 5) (w.extractLsb' 0 6))
  | _ => .error .reservedMember

/-- Major opcode 0x08 (R51). -/
def decodeLui (w : Insn) : Except Reject Instr := .ok (.lui (w.extractLsb' 21 5) (w.extractLsb' 0 21))

/-- Major opcode 0x09 (R51). -/
def decodeAuipc (w : Insn) : Except Reject Instr := .ok (.auipc (w.extractLsb' 21 5) (w.extractLsb' 0 21))

/-- Major opcode 0x0A (R51). -/
def decodeBfx (w : Insn) : Except Reject Instr :=
  match (w.extractLsb' 12 1).toNat with
  | 0 => need (w.extractLsb' 13 3 == 0) (.bfx (w.extractLsb' 21 5) (w.extractLsb' 16 5) (w.extractLsb' 6 6) (w.extractLsb' 0 6))
  | _ => need (w.extractLsb' 13 3 == 0) (.bfxS (w.extractLsb' 21 5) (w.extractLsb' 16 5) (w.extractLsb' 6 6) (w.extractLsb' 0 6))

/-- Major opcode 0x0B (R51). -/
def decodeBfi (w : Insn) : Except Reject Instr := need (w.extractLsb' 12 4 == 0) (.bfi (w.extractLsb' 21 5) (w.extractLsb' 16 5) (w.extractLsb' 6 6) (w.extractLsb' 0 6))

/-- Major opcode 0x0C (R51). -/
def decodeLds (w : Insn) : Except Reject Instr :=
  match (w.extractLsb' 13 3).toNat with
  | 0 => .ok (.ldb (w.extractLsb' 21 5) (w.extractLsb' 16 5) (w.extractLsb' 0 13))
  | 1 => .ok (.ldh (w.extractLsb' 21 5) (w.extractLsb' 16 5) (w.extractLsb' 0 13))
  | 2 => .ok (.ldw (w.extractLsb' 21 5) (w.extractLsb' 16 5) (w.extractLsb' 0 13))
  | 3 => .ok (.ldd (w.extractLsb' 21 5) (w.extractLsb' 16 5) (w.extractLsb' 0 13))
  | 4 => .ok (.ldbn (w.extractLsb' 21 5) (w.extractLsb' 16 5) (w.extractLsb' 0 13))
  | 5 => .ok (.ldhn (w.extractLsb' 21 5) (w.extractLsb' 16 5) (w.extractLsb' 0 13))
  | 6 => .ok (.ldwn (w.extractLsb' 21 5) (w.extractLsb' 16 5) (w.extractLsb' 0 13))
  | _ => .error .reservedMember

/-- Major opcode 0x0D (R51). -/
def decodeSts (w : Insn) : Except Reject Instr :=
  match (w.extractLsb' 13 3).toNat with
  | 0 => .ok (.stb (w.extractLsb' 21 5) (w.extractLsb' 16 5) (w.extractLsb' 0 13))
  | 1 => .ok (.sth (w.extractLsb' 21 5) (w.extractLsb' 16 5) (w.extractLsb' 0 13))
  | 2 => .ok (.stw (w.extractLsb' 21 5) (w.extractLsb' 16 5) (w.extractLsb' 0 13))
  | 3 => .ok (.std (w.extractLsb' 21 5) (w.extractLsb' 16 5) (w.extractLsb' 0 13))
  | _ => .error .reservedMember

/-- Major opcode 0x10 (R51). -/
def decodeBeq (w : Insn) : Except Reject Instr := .ok (.beq (w.extractLsb' 21 5) (w.extractLsb' 16 5) (w.extractLsb' 0 16))

/-- Major opcode 0x11 (R51). -/
def decodeBne (w : Insn) : Except Reject Instr := .ok (.bne (w.extractLsb' 21 5) (w.extractLsb' 16 5) (w.extractLsb' 0 16))

/-- Major opcode 0x12 (R51). -/
def decodeBlt (w : Insn) : Except Reject Instr := .ok (.blt (w.extractLsb' 21 5) (w.extractLsb' 16 5) (w.extractLsb' 0 16))

/-- Major opcode 0x13 (R51). -/
def decodeBge (w : Insn) : Except Reject Instr := .ok (.bge (w.extractLsb' 21 5) (w.extractLsb' 16 5) (w.extractLsb' 0 16))

/-- Major opcode 0x14 (R51). -/
def decodeBltn (w : Insn) : Except Reject Instr := .ok (.bltn (w.extractLsb' 21 5) (w.extractLsb' 16 5) (w.extractLsb' 0 16))

/-- Major opcode 0x15 (R51). -/
def decodeBgen (w : Insn) : Except Reject Instr := .ok (.bgen (w.extractLsb' 21 5) (w.extractLsb' 16 5) (w.extractLsb' 0 16))

/-- Major opcode 0x16 (R51). -/
def decodeJ (w : Insn) : Except Reject Instr := .ok (.j (w.extractLsb' 0 26))

/-- Major opcode 0x17 (R51). -/
def decodeJal (w : Insn) : Except Reject Instr := .ok (.jal (w.extractLsb' 0 26))

/-- Major opcode 0x18 (R51). -/
def decodeJalr (w : Insn) : Except Reject Instr := .ok (.jalr (w.extractLsb' 21 5) (w.extractLsb' 16 5) (w.extractLsb' 0 16))

/-- Major opcode 0x19 (R51). -/
def decodeLoop (w : Insn) : Except Reject Instr :=
  match (w.extractLsb' 21 2).toNat with
  | 0 => .ok (.loop (w.extractLsb' 23 3) (w.extractLsb' 16 5) (w.extractLsb' 0 16))
  | 1 => need (w.extractLsb' 16 5 == 0) (.loopS (w.extractLsb' 23 3) (w.extractLsb' 0 16))
  | _ => .error .reservedMember

/-- Major opcode 0x1A (R51). -/
def decodeLoopi (w : Insn) : Except Reject Instr := .ok (.loopi (w.extractLsb' 23 3) (w.extractLsb' 10 13) (w.extractLsb' 0 10))

/-- Major opcode 0x1B (R51). -/
def decodeCtl (w : Insn) : Except Reject Instr :=
  match (w.extractLsb' 0 5).toNat with
  | 0 => need (w.extractLsb' 21 5 == 0 && w.extractLsb' 16 5 == 0 && w.extractLsb' 11 5 == 0 && w.extractLsb' 5 6 == 0) (.nop)
  | 1 => need (w.extractLsb' 21 5 == 0 && w.extractLsb' 16 5 == 0 && w.extractLsb' 11 5 == 0 && w.extractLsb' 5 6 == 0) (.exit)
  | 2 => need (w.extractLsb' 21 5 == 0 && w.extractLsb' 16 5 == 0 && w.extractLsb' 11 5 == 0 && w.extractLsb' 5 6 == 0) (.brk)
  | 3 => need (w.extractLsb' 21 5 == 0 && w.extractLsb' 16 5 == 0 && w.extractLsb' 11 5 == 0 && w.extractLsb' 5 6 == 0) (.scall)
  | 4 => need (w.extractLsb' 21 5 == 0 && w.extractLsb' 16 5 == 0 && w.extractLsb' 11 5 == 0 && w.extractLsb' 5 6 == 0) (.yield)
  | 5 => need (w.extractLsb' 21 5 == 0 && w.extractLsb' 11 5 == 0 && w.extractLsb' 5 6 == 0) (.fork (w.extractLsb' 16 5))
  | 6 => need (w.extractLsb' 21 5 == 0 && w.extractLsb' 16 5 == 0 && w.extractLsb' 11 5 == 0 && w.extractLsb' 5 6 == 0) (.rdv)
  | 7 => need (w.extractLsb' 21 5 == 0 && w.extractLsb' 11 5 == 0 && w.extractLsb' 5 6 == 0) (.lfork (w.extractLsb' 16 5))
  | 8 => need (w.extractLsb' 21 5 == 0 && w.extractLsb' 16 5 == 0 && w.extractLsb' 11 5 == 0 && w.extractLsb' 5 6 == 0) (.ljoin)
  | 9 => need (w.extractLsb' 21 5 == 0 && w.extractLsb' 16 5 == 0 && w.extractLsb' 11 5 == 0 && w.extractLsb' 5 6 == 0) (.lexit)
  | 10 => need (w.extractLsb' 21 5 == 0 && w.extractLsb' 11 5 == 0 && w.extractLsb' 5 6 == 0) (.qput (w.extractLsb' 16 5))
  | 11 => need (w.extractLsb' 16 5 == 0 && w.extractLsb' 11 5 == 0 && w.extractLsb' 5 6 == 0) (.qget (w.extractLsb' 21 5))
  | 12 => need (w.extractLsb' 11 5 == 0 && w.extractLsb' 5 6 == 0) (.lvget (w.extractLsb' 21 5) (w.extractLsb' 16 5))
  | 13 => need (w.extractLsb' 21 5 == 0 && w.extractLsb' 5 6 == 0) (.lvput (w.extractLsb' 16 5) (w.extractLsb' 11 5))
  | 14 => need (w.extractLsb' 21 5 == 0 && w.extractLsb' 5 6 == 0) (.libld (w.extractLsb' 16 5) (w.extractLsb' 11 5))
  | _ => .error .reservedMember

/-- Major opcode 0x1C (R51). -/
def decodeMovs (w : Insn) : Except Reject Instr := need (w.extractLsb' 16 5 == 0 && w.extractLsb' 12 4 == 0) (.movs (w.extractLsb' 21 5) (w.extractLsb' 0 12))

/-- Major opcode 0x1D (R51). -/
def decodeSets (w : Insn) : Except Reject Instr := need (w.extractLsb' 21 5 == 0 && w.extractLsb' 12 4 == 0) (.sets (w.extractLsb' 16 5) (w.extractLsb' 0 12))

/-- Major opcode 0x20 (R51). -/
def decodeVcfg (w : Insn) : Except Reject Instr :=
  match (w.extractLsb' 0 5).toNat with
  | 0 => need (w.extractLsb' 5 6 == 0) (.vsetvl (w.extractLsb' 21 5) (w.extractLsb' 16 5) (w.extractLsb' 11 5))
  | 1 => need (w.extractLsb' 16 5 == 0 && w.extractLsb' 11 5 == 0 && w.extractLsb' 5 6 == 0) (.vsetvlq (w.extractLsb' 21 5))
  | 2 => need (w.extractLsb' 21 5 == 0 && w.extractLsb' 11 5 == 0 && w.extractLsb' 5 6 == 0) (.lpart (w.extractLsb' 16 5))
  | 3 => need (w.extractLsb' 21 5 == 0 && w.extractLsb' 11 5 == 0 && w.extractLsb' 5 6 == 0) (.gang (w.extractLsb' 16 5))
  | 4 => need (w.extractLsb' 21 5 == 0 && w.extractLsb' 16 5 == 0 && w.extractLsb' 11 5 == 0 && w.extractLsb' 5 6 == 0) (.ungang)
  | _ => .error .reservedMember

/-- Major opcode 0x21 (R51). -/
def decodeVsetvli (w : Insn) : Except Reject Instr := .ok (.vsetvli (w.extractLsb' 21 5) (w.extractLsb' 16 5) (w.extractLsb' 0 16))

/-- Major opcode 0x22 (R51). -/
def decodeVint (w : Insn) : Except Reject Instr :=
  match (w.extractLsb' 0 5).toNat with
  | 0 => .ok (.vadd (w.extractLsb' 21 5) (w.extractLsb' 16 5) (w.extractLsb' 11 5) (w.extractLsb' 8 3) (w.extractLsb' 5 3))
  | 1 => .ok (.vsub (w.extractLsb' 21 5) (w.extractLsb' 16 5) (w.extractLsb' 11 5) (w.extractLsb' 8 3) (w.extractLsb' 5 3))
  | 2 => .ok (.vrsub (w.extractLsb' 21 5) (w.extractLsb' 16 5) (w.extractLsb' 11 5) (w.extractLsb' 8 3) (w.extractLsb' 5 3))
  | 3 => .ok (.vand (w.extractLsb' 21 5) (w.extractLsb' 16 5) (w.extractLsb' 11 5) (w.extractLsb' 8 3) (w.extractLsb' 5 3))
  | 4 => .ok (.vor (w.extractLsb' 21 5) (w.extractLsb' 16 5) (w.extractLsb' 11 5) (w.extractLsb' 8 3) (w.extractLsb' 5 3))
  | 5 => .ok (.vxor (w.extractLsb' 21 5) (w.extractLsb' 16 5) (w.extractLsb' 11 5) (w.extractLsb' 8 3) (w.extractLsb' 5 3))
  | 6 => .ok (.vsll (w.extractLsb' 21 5) (w.extractLsb' 16 5) (w.extractLsb' 11 5) (w.extractLsb' 8 3) (w.extractLsb' 5 3))
  | 7 => .ok (.vsrl (w.extractLsb' 21 5) (w.extractLsb' 16 5) (w.extractLsb' 11 5) (w.extractLsb' 8 3) (w.extractLsb' 5 3))
  | 8 => .ok (.vsra (w.extractLsb' 21 5) (w.extractLsb' 16 5) (w.extractLsb' 11 5) (w.extractLsb' 8 3) (w.extractLsb' 5 3))
  | 9 => .ok (.vmin (w.extractLsb' 21 5) (w.extractLsb' 16 5) (w.extractLsb' 11 5) (w.extractLsb' 8 3) (w.extractLsb' 5 3))
  | 10 => .ok (.vmax (w.extractLsb' 21 5) (w.extractLsb' 16 5) (w.extractLsb' 11 5) (w.extractLsb' 8 3) (w.extractLsb' 5 3))
  | 11 => .ok (.vminn (w.extractLsb' 21 5) (w.extractLsb' 16 5) (w.extractLsb' 11 5) (w.extractLsb' 8 3) (w.extractLsb' 5 3))
  | 12 => .ok (.vmaxn (w.extractLsb' 21 5) (w.extractLsb' 16 5) (w.extractLsb' 11 5) (w.extractLsb' 8 3) (w.extractLsb' 5 3))
  | 13 => .ok (.vmul (w.extractLsb' 21 5) (w.extractLsb' 16 5) (w.extractLsb' 11 5) (w.extractLsb' 8 3) (w.extractLsb' 5 3))
  | 14 => .ok (.vmulh (w.extractLsb' 21 5) (w.extractLsb' 16 5) (w.extractLsb' 11 5) (w.extractLsb' 8 3) (w.extractLsb' 5 3))
  | 15 => .ok (.vmulhn (w.extractLsb' 21 5) (w.extractLsb' 16 5) (w.extractLsb' 11 5) (w.extractLsb' 8 3) (w.extractLsb' 5 3))
  | 16 => .ok (.vdiv (w.extractLsb' 21 5) (w.extractLsb' 16 5) (w.extractLsb' 11 5) (w.extractLsb' 8 3) (w.extractLsb' 5 3))
  | 17 => .ok (.vdivn (w.extractLsb' 21 5) (w.extractLsb' 16 5) (w.extractLsb' 11 5) (w.extractLsb' 8 3) (w.extractLsb' 5 3))
  | 18 => .ok (.vrem (w.extractLsb' 21 5) (w.extractLsb' 16 5) (w.extractLsb' 11 5) (w.extractLsb' 8 3) (w.extractLsb' 5 3))
  | 19 => .ok (.vremn (w.extractLsb' 21 5) (w.extractLsb' 16 5) (w.extractLsb' 11 5) (w.extractLsb' 8 3) (w.extractLsb' 5 3))
  | 20 => .ok (.vaddc (w.extractLsb' 21 5) (w.extractLsb' 16 5) (w.extractLsb' 11 5) (w.extractLsb' 8 3) (w.extractLsb' 5 3))
  | 21 => .ok (.vsubb (w.extractLsb' 21 5) (w.extractLsb' 16 5) (w.extractLsb' 11 5) (w.extractLsb' 8 3) (w.extractLsb' 5 3))
  | 22 => .ok (.vsadd (w.extractLsb' 21 5) (w.extractLsb' 16 5) (w.extractLsb' 11 5) (w.extractLsb' 8 3) (w.extractLsb' 5 3))
  | 23 => .ok (.vsaddn (w.extractLsb' 21 5) (w.extractLsb' 16 5) (w.extractLsb' 11 5) (w.extractLsb' 8 3) (w.extractLsb' 5 3))
  | 24 => .ok (.vssub (w.extractLsb' 21 5) (w.extractLsb' 16 5) (w.extractLsb' 11 5) (w.extractLsb' 8 3) (w.extractLsb' 5 3))
  | 25 => .ok (.vssubn (w.extractLsb' 21 5) (w.extractLsb' 16 5) (w.extractLsb' 11 5) (w.extractLsb' 8 3) (w.extractLsb' 5 3))
  | 26 => .ok (.vmerge (w.extractLsb' 21 5) (w.extractLsb' 16 5) (w.extractLsb' 11 5) (w.extractLsb' 8 3) (w.extractLsb' 5 3))
  | 27 => need (w.extractLsb' 16 5 == 0) (.vmv (w.extractLsb' 21 5) (w.extractLsb' 11 5) (w.extractLsb' 8 3) (w.extractLsb' 5 3))
  | 28 => need (w.extractLsb' 11 5 == 0 && w.extractLsb' 8 3 == 0) (.vpope (w.extractLsb' 21 5) (w.extractLsb' 16 5) (w.extractLsb' 5 3))
  | 29 => need (w.extractLsb' 11 5 == 0 && w.extractLsb' 8 3 == 0) (.vclz (w.extractLsb' 21 5) (w.extractLsb' 16 5) (w.extractLsb' 5 3))
  | 30 => .ok (.vbext (w.extractLsb' 21 5) (w.extractLsb' 16 5) (w.extractLsb' 11 5) (w.extractLsb' 8 3) (w.extractLsb' 5 3))
  | _ => .ok (.vfshr (w.extractLsb' 21 5) (w.extractLsb' 16 5) (w.extractLsb' 11 5) (w.extractLsb' 8 3) (w.extractLsb' 5 3))

/-- Major opcode 0x23 (R51). -/
def decodeVintx (w : Insn) : Except Reject Instr :=
  match (w.extractLsb' 0 5).toNat with
  | 0 => need (w.extractLsb' 8 3 == 0) (.vaddX (w.extractLsb' 21 5) (w.extractLsb' 16 5) (w.extractLsb' 11 5) (w.extractLsb' 5 3))
  | 1 => need (w.extractLsb' 8 3 == 0) (.vsubX (w.extractLsb' 21 5) (w.extractLsb' 16 5) (w.extractLsb' 11 5) (w.extractLsb' 5 3))
  | 2 => need (w.extractLsb' 8 3 == 0) (.vrsubX (w.extractLsb' 21 5) (w.extractLsb' 16 5) (w.extractLsb' 11 5) (w.extractLsb' 5 3))
  | 3 => need (w.extractLsb' 8 3 == 0) (.vandX (w.extractLsb' 21 5) (w.extractLsb' 16 5) (w.extractLsb' 11 5) (w.extractLsb' 5 3))
  | 4 => need (w.extractLsb' 8 3 == 0) (.vorX (w.extractLsb' 21 5) (w.extractLsb' 16 5) (w.extractLsb' 11 5) (w.extractLsb' 5 3))
  | 5 => need (w.extractLsb' 8 3 == 0) (.vxorX (w.extractLsb' 21 5) (w.extractLsb' 16 5) (w.extractLsb' 11 5) (w.extractLsb' 5 3))
  | 6 => need (w.extractLsb' 8 3 == 0) (.vsllX (w.extractLsb' 21 5) (w.extractLsb' 16 5) (w.extractLsb' 11 5) (w.extractLsb' 5 3))
  | 7 => need (w.extractLsb' 8 3 == 0) (.vsrlX (w.extractLsb' 21 5) (w.extractLsb' 16 5) (w.extractLsb' 11 5) (w.extractLsb' 5 3))
  | 8 => need (w.extractLsb' 8 3 == 0) (.vsraX (w.extractLsb' 21 5) (w.extractLsb' 16 5) (w.extractLsb' 11 5) (w.extractLsb' 5 3))
  | 9 => need (w.extractLsb' 8 3 == 0) (.vminX (w.extractLsb' 21 5) (w.extractLsb' 16 5) (w.extractLsb' 11 5) (w.extractLsb' 5 3))
  | 10 => need (w.extractLsb' 8 3 == 0) (.vmaxX (w.extractLsb' 21 5) (w.extractLsb' 16 5) (w.extractLsb' 11 5) (w.extractLsb' 5 3))
  | 11 => need (w.extractLsb' 8 3 == 0) (.vminnX (w.extractLsb' 21 5) (w.extractLsb' 16 5) (w.extractLsb' 11 5) (w.extractLsb' 5 3))
  | 12 => need (w.extractLsb' 8 3 == 0) (.vmaxnX (w.extractLsb' 21 5) (w.extractLsb' 16 5) (w.extractLsb' 11 5) (w.extractLsb' 5 3))
  | 13 => need (w.extractLsb' 8 3 == 0) (.vmulX (w.extractLsb' 21 5) (w.extractLsb' 16 5) (w.extractLsb' 11 5) (w.extractLsb' 5 3))
  | 14 => need (w.extractLsb' 8 3 == 0) (.vmulhX (w.extractLsb' 21 5) (w.extractLsb' 16 5) (w.extractLsb' 11 5) (w.extractLsb' 5 3))
  | 15 => need (w.extractLsb' 8 3 == 0) (.vmulhnX (w.extractLsb' 21 5) (w.extractLsb' 16 5) (w.extractLsb' 11 5) (w.extractLsb' 5 3))
  | 16 => need (w.extractLsb' 8 3 == 0) (.vdivX (w.extractLsb' 21 5) (w.extractLsb' 16 5) (w.extractLsb' 11 5) (w.extractLsb' 5 3))
  | 17 => need (w.extractLsb' 8 3 == 0) (.vdivnX (w.extractLsb' 21 5) (w.extractLsb' 16 5) (w.extractLsb' 11 5) (w.extractLsb' 5 3))
  | 18 => need (w.extractLsb' 8 3 == 0) (.vremX (w.extractLsb' 21 5) (w.extractLsb' 16 5) (w.extractLsb' 11 5) (w.extractLsb' 5 3))
  | 19 => need (w.extractLsb' 8 3 == 0) (.vremnX (w.extractLsb' 21 5) (w.extractLsb' 16 5) (w.extractLsb' 11 5) (w.extractLsb' 5 3))
  | 20 => need (w.extractLsb' 8 3 == 0) (.vaddcX (w.extractLsb' 21 5) (w.extractLsb' 16 5) (w.extractLsb' 11 5) (w.extractLsb' 5 3))
  | 21 => need (w.extractLsb' 8 3 == 0) (.vsubbX (w.extractLsb' 21 5) (w.extractLsb' 16 5) (w.extractLsb' 11 5) (w.extractLsb' 5 3))
  | 22 => need (w.extractLsb' 8 3 == 0) (.vsaddX (w.extractLsb' 21 5) (w.extractLsb' 16 5) (w.extractLsb' 11 5) (w.extractLsb' 5 3))
  | 23 => need (w.extractLsb' 8 3 == 0) (.vsaddnX (w.extractLsb' 21 5) (w.extractLsb' 16 5) (w.extractLsb' 11 5) (w.extractLsb' 5 3))
  | 24 => need (w.extractLsb' 8 3 == 0) (.vssubX (w.extractLsb' 21 5) (w.extractLsb' 16 5) (w.extractLsb' 11 5) (w.extractLsb' 5 3))
  | 25 => need (w.extractLsb' 8 3 == 0) (.vssubnX (w.extractLsb' 21 5) (w.extractLsb' 16 5) (w.extractLsb' 11 5) (w.extractLsb' 5 3))
  | 26 => need (w.extractLsb' 8 3 == 0) (.vmergeX (w.extractLsb' 21 5) (w.extractLsb' 16 5) (w.extractLsb' 11 5) (w.extractLsb' 5 3))
  | 27 => need (w.extractLsb' 16 5 == 0 && w.extractLsb' 8 3 == 0) (.vmvX (w.extractLsb' 21 5) (w.extractLsb' 11 5) (w.extractLsb' 5 3))
  | 30 => need (w.extractLsb' 8 3 == 0) (.vbextX (w.extractLsb' 21 5) (w.extractLsb' 16 5) (w.extractLsb' 11 5) (w.extractLsb' 5 3))
  | 31 => need (w.extractLsb' 8 3 == 0) (.vfshrX (w.extractLsb' 21 5) (w.extractLsb' 16 5) (w.extractLsb' 11 5) (w.extractLsb' 5 3))
  | _ => .error .reservedMember

/-- Major opcode 0x24 (R51). -/
def decodeVinti (w : Insn) : Except Reject Instr :=
  match (w.extractLsb' 0 5).toNat with
  | 0 => .ok (.vaddi (w.extractLsb' 21 5) (w.extractLsb' 16 5) (w.extractLsb' 8 8) (w.extractLsb' 5 3))
  | 1 => .ok (.vrsubi (w.extractLsb' 21 5) (w.extractLsb' 16 5) (w.extractLsb' 8 8) (w.extractLsb' 5 3))
  | 2 => .ok (.vandi (w.extractLsb' 21 5) (w.extractLsb' 16 5) (w.extractLsb' 8 8) (w.extractLsb' 5 3))
  | 3 => .ok (.vori (w.extractLsb' 21 5) (w.extractLsb' 16 5) (w.extractLsb' 8 8) (w.extractLsb' 5 3))
  | 4 => .ok (.vxori (w.extractLsb' 21 5) (w.extractLsb' 16 5) (w.extractLsb' 8 8) (w.extractLsb' 5 3))
  | 5 => need (w.extractLsb' 14 2 == 0) (.vslli (w.extractLsb' 21 5) (w.extractLsb' 16 5) (w.extractLsb' 8 6) (w.extractLsb' 5 3))
  | 6 => need (w.extractLsb' 14 2 == 0) (.vsrli (w.extractLsb' 21 5) (w.extractLsb' 16 5) (w.extractLsb' 8 6) (w.extractLsb' 5 3))
  | 7 => need (w.extractLsb' 14 2 == 0) (.vsrai (w.extractLsb' 21 5) (w.extractLsb' 16 5) (w.extractLsb' 8 6) (w.extractLsb' 5 3))
  | 8 => need (w.extractLsb' 16 5 == 0) (.vmvi (w.extractLsb' 21 5) (w.extractLsb' 8 8) (w.extractLsb' 5 3))
  | 9 => .ok (.vmini (w.extractLsb' 21 5) (w.extractLsb' 16 5) (w.extractLsb' 8 8) (w.extractLsb' 5 3))
  | 10 => .ok (.vmaxi (w.extractLsb' 21 5) (w.extractLsb' 16 5) (w.extractLsb' 8 8) (w.extractLsb' 5 3))
  | _ => .error .reservedMember

/-- Major opcode 0x25 (R51). -/
def decodeVcmp (w : Insn) : Except Reject Instr :=
  match (w.extractLsb' 0 5).toNat with
  | 0 => need (w.extractLsb' 24 2 == 0) (.vseq (w.extractLsb' 21 3) (w.extractLsb' 16 5) (w.extractLsb' 11 5) (w.extractLsb' 8 3) (w.extractLsb' 5 3))
  | 1 => need (w.extractLsb' 24 2 == 0) (.vsne (w.extractLsb' 21 3) (w.extractLsb' 16 5) (w.extractLsb' 11 5) (w.extractLsb' 8 3) (w.extractLsb' 5 3))
  | 2 => need (w.extractLsb' 24 2 == 0) (.vslt (w.extractLsb' 21 3) (w.extractLsb' 16 5) (w.extractLsb' 11 5) (w.extractLsb' 8 3) (w.extractLsb' 5 3))
  | 3 => need (w.extractLsb' 24 2 == 0) (.vsltn (w.extractLsb' 21 3) (w.extractLsb' 16 5) (w.extractLsb' 11 5) (w.extractLsb' 8 3) (w.extractLsb' 5 3))
  | 4 => need (w.extractLsb' 24 2 == 0) (.vsle (w.extractLsb' 21 3) (w.extractLsb' 16 5) (w.extractLsb' 11 5) (w.extractLsb' 8 3) (w.extractLsb' 5 3))
  | 5 => need (w.extractLsb' 24 2 == 0) (.vslen (w.extractLsb' 21 3) (w.extractLsb' 16 5) (w.extractLsb' 11 5) (w.extractLsb' 8 3) (w.extractLsb' 5 3))
  | 6 => need (w.extractLsb' 24 2 == 0) (.vsgt (w.extractLsb' 21 3) (w.extractLsb' 16 5) (w.extractLsb' 11 5) (w.extractLsb' 8 3) (w.extractLsb' 5 3))
  | 7 => need (w.extractLsb' 24 2 == 0) (.vsgtn (w.extractLsb' 21 3) (w.extractLsb' 16 5) (w.extractLsb' 11 5) (w.extractLsb' 8 3) (w.extractLsb' 5 3))
  | 8 => need (w.extractLsb' 24 2 == 0) (.vfeq (w.extractLsb' 21 3) (w.extractLsb' 16 5) (w.extractLsb' 11 5) (w.extractLsb' 8 3) (w.extractLsb' 5 3))
  | 9 => need (w.extractLsb' 24 2 == 0) (.vfne (w.extractLsb' 21 3) (w.extractLsb' 16 5) (w.extractLsb' 11 5) (w.extractLsb' 8 3) (w.extractLsb' 5 3))
  | 10 => need (w.extractLsb' 24 2 == 0) (.vflt (w.extractLsb' 21 3) (w.extractLsb' 16 5) (w.extractLsb' 11 5) (w.extractLsb' 8 3) (w.extractLsb' 5 3))
  | 11 => need (w.extractLsb' 24 2 == 0) (.vfle (w.extractLsb' 21 3) (w.extractLsb' 16 5) (w.extractLsb' 11 5) (w.extractLsb' 8 3) (w.extractLsb' 5 3))
  | 12 => need (w.extractLsb' 24 2 == 0) (.vfunord (w.extractLsb' 21 3) (w.extractLsb' 16 5) (w.extractLsb' 11 5) (w.extractLsb' 8 3) (w.extractLsb' 5 3))
  | _ => .error .reservedMember

/-- Major opcode 0x26 (R51). -/
def decodeVfp (w : Insn) : Except Reject Instr :=
  match (w.extractLsb' 0 5).toNat with
  | 0 => .ok (.vfadd (w.extractLsb' 21 5) (w.extractLsb' 16 5) (w.extractLsb' 11 5) (w.extractLsb' 8 3) (w.extractLsb' 5 3))
  | 1 => .ok (.vfsub (w.extractLsb' 21 5) (w.extractLsb' 16 5) (w.extractLsb' 11 5) (w.extractLsb' 8 3) (w.extractLsb' 5 3))
  | 2 => .ok (.vfmul (w.extractLsb' 21 5) (w.extractLsb' 16 5) (w.extractLsb' 11 5) (w.extractLsb' 8 3) (w.extractLsb' 5 3))
  | 3 => .ok (.vfdiv (w.extractLsb' 21 5) (w.extractLsb' 16 5) (w.extractLsb' 11 5) (w.extractLsb' 8 3) (w.extractLsb' 5 3))
  | 4 => need (w.extractLsb' 11 5 == 0 && w.extractLsb' 8 3 == 0) (.vfsqrt (w.extractLsb' 21 5) (w.extractLsb' 16 5) (w.extractLsb' 5 3))
  | 5 => .ok (.vfmin (w.extractLsb' 21 5) (w.extractLsb' 16 5) (w.extractLsb' 11 5) (w.extractLsb' 8 3) (w.extractLsb' 5 3))
  | 6 => .ok (.vfmax (w.extractLsb' 21 5) (w.extractLsb' 16 5) (w.extractLsb' 11 5) (w.extractLsb' 8 3) (w.extractLsb' 5 3))
  | 7 => .ok (.vfmadd (w.extractLsb' 21 5) (w.extractLsb' 16 5) (w.extractLsb' 11 5) (w.extractLsb' 8 3) (w.extractLsb' 5 3))
  | 8 => .ok (.vfmsub (w.extractLsb' 21 5) (w.extractLsb' 16 5) (w.extractLsb' 11 5) (w.extractLsb' 8 3) (w.extractLsb' 5 3))
  | 9 => .ok (.vfnmadd (w.extractLsb' 21 5) (w.extractLsb' 16 5) (w.extractLsb' 11 5) (w.extractLsb' 8 3) (w.extractLsb' 5 3))
  | 10 => .ok (.vfnmsub (w.extractLsb' 21 5) (w.extractLsb' 16 5) (w.extractLsb' 11 5) (w.extractLsb' 8 3) (w.extractLsb' 5 3))
  | 11 => .ok (.vfsgnj (w.extractLsb' 21 5) (w.extractLsb' 16 5) (w.extractLsb' 11 5) (w.extractLsb' 8 3) (w.extractLsb' 5 3))
  | 12 => .ok (.vfsgnjn (w.extractLsb' 21 5) (w.extractLsb' 16 5) (w.extractLsb' 11 5) (w.extractLsb' 8 3) (w.extractLsb' 5 3))
  | 13 => .ok (.vfsgnjx (w.extractLsb' 21 5) (w.extractLsb' 16 5) (w.extractLsb' 11 5) (w.extractLsb' 8 3) (w.extractLsb' 5 3))
  | 14 => need (w.extractLsb' 11 5 == 0 && w.extractLsb' 8 3 == 0) (.vfclass (w.extractLsb' 21 5) (w.extractLsb' 16 5) (w.extractLsb' 5 3))
  | 15 => need (w.extractLsb' 11 5 == 0 && w.extractLsb' 8 3 == 0) (.vfrece (w.extractLsb' 21 5) (w.extractLsb' 16 5) (w.extractLsb' 5 3))
  | 16 => need (w.extractLsb' 11 5 == 0 && w.extractLsb' 8 3 == 0) (.vfrsqe (w.extractLsb' 21 5) (w.extractLsb' 16 5) (w.extractLsb' 5 3))
  | 17 => need (w.extractLsb' 11 5 == 0 && w.extractLsb' 8 3 == 0) (.vfexp2 (w.extractLsb' 21 5) (w.extractLsb' 16 5) (w.extractLsb' 5 3))
  | 18 => need (w.extractLsb' 11 5 == 0 && w.extractLsb' 8 3 == 0) (.vfcvtif (w.extractLsb' 21 5) (w.extractLsb' 16 5) (w.extractLsb' 5 3))
  | 19 => need (w.extractLsb' 11 5 == 0 && w.extractLsb' 8 3 == 0) (.vfcvtfi (w.extractLsb' 21 5) (w.extractLsb' 16 5) (w.extractLsb' 5 3))
  | 20 => need (w.extractLsb' 11 5 == 0 && w.extractLsb' 8 3 == 0) (.vfnarrow (w.extractLsb' 21 5) (w.extractLsb' 16 5) (w.extractLsb' 5 3))
  | 21 => need (w.extractLsb' 11 5 == 0 && w.extractLsb' 8 3 == 0) (.vfwiden (w.extractLsb' 21 5) (w.extractLsb' 16 5) (w.extractLsb' 5 3))
  | _ => .error .reservedMember

/-- Major opcode 0x27 (R51). -/
def decodeVfpx (w : Insn) : Except Reject Instr :=
  match (w.extractLsb' 0 5).toNat with
  | 0 => need (w.extractLsb' 8 3 == 0) (.vfaddX (w.extractLsb' 21 5) (w.extractLsb' 16 5) (w.extractLsb' 11 5) (w.extractLsb' 5 3))
  | 1 => need (w.extractLsb' 8 3 == 0) (.vfsubX (w.extractLsb' 21 5) (w.extractLsb' 16 5) (w.extractLsb' 11 5) (w.extractLsb' 5 3))
  | 2 => need (w.extractLsb' 8 3 == 0) (.vfmulX (w.extractLsb' 21 5) (w.extractLsb' 16 5) (w.extractLsb' 11 5) (w.extractLsb' 5 3))
  | 3 => need (w.extractLsb' 8 3 == 0) (.vfdivX (w.extractLsb' 21 5) (w.extractLsb' 16 5) (w.extractLsb' 11 5) (w.extractLsb' 5 3))
  | 5 => need (w.extractLsb' 8 3 == 0) (.vfminX (w.extractLsb' 21 5) (w.extractLsb' 16 5) (w.extractLsb' 11 5) (w.extractLsb' 5 3))
  | 6 => need (w.extractLsb' 8 3 == 0) (.vfmaxX (w.extractLsb' 21 5) (w.extractLsb' 16 5) (w.extractLsb' 11 5) (w.extractLsb' 5 3))
  | 7 => need (w.extractLsb' 8 3 == 0) (.vfmaddX (w.extractLsb' 21 5) (w.extractLsb' 16 5) (w.extractLsb' 11 5) (w.extractLsb' 5 3))
  | 8 => need (w.extractLsb' 8 3 == 0) (.vfmsubX (w.extractLsb' 21 5) (w.extractLsb' 16 5) (w.extractLsb' 11 5) (w.extractLsb' 5 3))
  | 9 => need (w.extractLsb' 8 3 == 0) (.vfnmaddX (w.extractLsb' 21 5) (w.extractLsb' 16 5) (w.extractLsb' 11 5) (w.extractLsb' 5 3))
  | 10 => need (w.extractLsb' 8 3 == 0) (.vfnmsubX (w.extractLsb' 21 5) (w.extractLsb' 16 5) (w.extractLsb' 11 5) (w.extractLsb' 5 3))
  | 11 => need (w.extractLsb' 8 3 == 0) (.vfsgnjX (w.extractLsb' 21 5) (w.extractLsb' 16 5) (w.extractLsb' 11 5) (w.extractLsb' 5 3))
  | 12 => need (w.extractLsb' 8 3 == 0) (.vfsgnjnX (w.extractLsb' 21 5) (w.extractLsb' 16 5) (w.extractLsb' 11 5) (w.extractLsb' 5 3))
  | 13 => need (w.extractLsb' 8 3 == 0) (.vfsgnjxX (w.extractLsb' 21 5) (w.extractLsb' 16 5) (w.extractLsb' 11 5) (w.extractLsb' 5 3))
  | _ => .error .reservedMember

/-- Major opcode 0x28 (R51). -/
def decodeVred (w : Insn) : Except Reject Instr :=
  match (w.extractLsb' 0 5).toNat with
  | 0 => need (w.extractLsb' 8 3 == 0) (.vredsum (w.extractLsb' 21 5) (w.extractLsb' 16 5) (w.extractLsb' 11 5) (w.extractLsb' 5 3))
  | 1 => need (w.extractLsb' 8 3 == 0) (.vredmin (w.extractLsb' 21 5) (w.extractLsb' 16 5) (w.extractLsb' 11 5) (w.extractLsb' 5 3))
  | 2 => need (w.extractLsb' 8 3 == 0) (.vredmax (w.extractLsb' 21 5) (w.extractLsb' 16 5) (w.extractLsb' 11 5) (w.extractLsb' 5 3))
  | 3 => need (w.extractLsb' 8 3 == 0) (.vredminn (w.extractLsb' 21 5) (w.extractLsb' 16 5) (w.extractLsb' 11 5) (w.extractLsb' 5 3))
  | 4 => need (w.extractLsb' 8 3 == 0) (.vredmaxn (w.extractLsb' 21 5) (w.extractLsb' 16 5) (w.extractLsb' 11 5) (w.extractLsb' 5 3))
  | 5 => need (w.extractLsb' 8 3 == 0) (.vredand (w.extractLsb' 21 5) (w.extractLsb' 16 5) (w.extractLsb' 11 5) (w.extractLsb' 5 3))
  | 6 => need (w.extractLsb' 8 3 == 0) (.vredor (w.extractLsb' 21 5) (w.extractLsb' 16 5) (w.extractLsb' 11 5) (w.extractLsb' 5 3))
  | 7 => need (w.extractLsb' 8 3 == 0) (.vredxor (w.extractLsb' 21 5) (w.extractLsb' 16 5) (w.extractLsb' 11 5) (w.extractLsb' 5 3))
  | 8 => need (w.extractLsb' 8 3 == 0) (.vfredsum (w.extractLsb' 21 5) (w.extractLsb' 16 5) (w.extractLsb' 11 5) (w.extractLsb' 5 3))
  | 9 => need (w.extractLsb' 8 3 == 0) (.vfredmin (w.extractLsb' 21 5) (w.extractLsb' 16 5) (w.extractLsb' 11 5) (w.extractLsb' 5 3))
  | 10 => need (w.extractLsb' 8 3 == 0) (.vfredmax (w.extractLsb' 21 5) (w.extractLsb' 16 5) (w.extractLsb' 11 5) (w.extractLsb' 5 3))
  | 11 => need (w.extractLsb' 21 5 == 0 && w.extractLsb' 19 2 == 0 && w.extractLsb' 11 5 == 0 && w.extractLsb' 8 3 == 0) (.vpopc (w.extractLsb' 16 3) (w.extractLsb' 5 3))
  | 12 => need (w.extractLsb' 21 5 == 0 && w.extractLsb' 19 2 == 0 && w.extractLsb' 11 5 == 0 && w.extractLsb' 8 3 == 0) (.vpopq (w.extractLsb' 16 3) (w.extractLsb' 5 3))
  | 13 => need (w.extractLsb' 21 5 == 0 && w.extractLsb' 19 2 == 0 && w.extractLsb' 11 5 == 0 && w.extractLsb' 8 3 == 0) (.vfirst (w.extractLsb' 16 3) (w.extractLsb' 5 3))
  | 14 => need (w.extractLsb' 19 2 == 0 && w.extractLsb' 11 5 == 0 && w.extractLsb' 8 3 == 0) (.viota (w.extractLsb' 21 5) (w.extractLsb' 16 3) (w.extractLsb' 5 3))
  | 15 => need (w.extractLsb' 16 5 == 0 && w.extractLsb' 11 5 == 0 && w.extractLsb' 8 3 == 0) (.vid (w.extractLsb' 21 5) (w.extractLsb' 5 3))
  | 16 => need (w.extractLsb' 24 2 == 0 && w.extractLsb' 19 2 == 0 && w.extractLsb' 14 2 == 0 && w.extractLsb' 8 3 == 0 && w.extractLsb' 5 3 == 0) (.mand (w.extractLsb' 21 3) (w.extractLsb' 16 3) (w.extractLsb' 11 3))
  | 17 => need (w.extractLsb' 24 2 == 0 && w.extractLsb' 19 2 == 0 && w.extractLsb' 14 2 == 0 && w.extractLsb' 8 3 == 0 && w.extractLsb' 5 3 == 0) (.mor (w.extractLsb' 21 3) (w.extractLsb' 16 3) (w.extractLsb' 11 3))
  | 18 => need (w.extractLsb' 24 2 == 0 && w.extractLsb' 19 2 == 0 && w.extractLsb' 14 2 == 0 && w.extractLsb' 8 3 == 0 && w.extractLsb' 5 3 == 0) (.mxor (w.extractLsb' 21 3) (w.extractLsb' 16 3) (w.extractLsb' 11 3))
  | 19 => need (w.extractLsb' 24 2 == 0 && w.extractLsb' 19 2 == 0 && w.extractLsb' 14 2 == 0 && w.extractLsb' 8 3 == 0 && w.extractLsb' 5 3 == 0) (.mandn (w.extractLsb' 21 3) (w.extractLsb' 16 3) (w.extractLsb' 11 3))
  | 20 => need (w.extractLsb' 24 2 == 0 && w.extractLsb' 19 2 == 0 && w.extractLsb' 11 5 == 0 && w.extractLsb' 8 3 == 0 && w.extractLsb' 5 3 == 0) (.mnot (w.extractLsb' 21 3) (w.extractLsb' 16 3))
  | 21 => need (w.extractLsb' 24 2 == 0 && w.extractLsb' 19 2 == 0 && w.extractLsb' 11 5 == 0 && w.extractLsb' 8 3 == 0 && w.extractLsb' 5 3 == 0) (.mslide1 (w.extractLsb' 21 3) (w.extractLsb' 16 3))
  | 22 => need (w.extractLsb' 24 2 == 0 && w.extractLsb' 19 2 == 0 && w.extractLsb' 11 5 == 0 && w.extractLsb' 8 3 == 0 && w.extractLsb' 5 3 == 0) (.msbf (w.extractLsb' 21 3) (w.extractLsb' 16 3))
  | 23 => need (w.extractLsb' 24 2 == 0 && w.extractLsb' 19 2 == 0 && w.extractLsb' 11 5 == 0 && w.extractLsb' 8 3 == 0 && w.extractLsb' 5 3 == 0) (.mmv (w.extractLsb' 21 3) (w.extractLsb' 16 3))
  | 24 => need (w.extractLsb' 24 2 == 0 && w.extractLsb' 11 5 == 0 && w.extractLsb' 8 3 == 0) (.mfromv (w.extractLsb' 21 3) (w.extractLsb' 16 5) (w.extractLsb' 5 3))
  | 25 => need (w.extractLsb' 19 2 == 0 && w.extractLsb' 11 5 == 0 && w.extractLsb' 8 3 == 0) (.mtov (w.extractLsb' 21 5) (w.extractLsb' 16 3) (w.extractLsb' 5 3))
  | _ => .error .reservedMember

/-- Major opcode 0x29 (R51). -/
noncomputable def decodeVperm (w : Insn) : Except Reject Instr :=
  match (w.extractLsb' 0 5).toNat with
  | 0 => need (w.extractLsb' 8 3 == 0) (.vslideup (w.extractLsb' 21 5) (w.extractLsb' 16 5) (w.extractLsb' 11 5) (w.extractLsb' 5 3))
  | 1 => need (w.extractLsb' 8 3 == 0) (.vslidedn (w.extractLsb' 21 5) (w.extractLsb' 16 5) (w.extractLsb' 11 5) (w.extractLsb' 5 3))
  | 2 => need (w.extractLsb' 8 3 == 0) (.vslide1up (w.extractLsb' 21 5) (w.extractLsb' 16 5) (w.extractLsb' 11 5) (w.extractLsb' 5 3))
  | 3 => need (w.extractLsb' 8 3 == 0) (.vslide1dn (w.extractLsb' 21 5) (w.extractLsb' 16 5) (w.extractLsb' 11 5) (w.extractLsb' 5 3))
  | 4 => need (w.extractLsb' 8 3 == 0) (.vpermx (w.extractLsb' 21 5) (w.extractLsb' 16 5) (w.extractLsb' 11 5) (w.extractLsb' 5 3))
  | 5 => need (w.extractLsb' 14 2 == 0 && w.extractLsb' 8 3 == 0 && w.extractLsb' 5 3 == 0) (.vcompress (w.extractLsb' 21 5) (w.extractLsb' 16 5) (w.extractLsb' 11 3))
  | 6 => need (w.extractLsb' 14 2 == 0 && w.extractLsb' 8 3 == 0) (.vexpand (w.extractLsb' 21 5) (w.extractLsb' 16 5) (w.extractLsb' 11 3) (w.extractLsb' 5 3))
  | 7 => need (w.extractLsb' 11 5 == 0 && w.extractLsb' 8 3 == 0) (.vrev (w.extractLsb' 21 5) (w.extractLsb' 16 5) (w.extractLsb' 5 3))
  | 8 => need (w.extractLsb' 8 3 == 0) (.vbcast (w.extractLsb' 21 5) (w.extractLsb' 16 5) (w.extractLsb' 11 5) (w.extractLsb' 5 3))
  | 9 => need (w.extractLsb' 16 5 == 0 && w.extractLsb' 8 3 == 0) (.vmvxv (w.extractLsb' 21 5) (w.extractLsb' 11 5) (w.extractLsb' 5 3))
  | 10 => need (w.extractLsb' 21 5 == 0 && w.extractLsb' 11 5 == 0 && w.extractLsb' 8 3 == 0 && w.extractLsb' 5 3 == 0) (.vmvvx (w.extractLsb' 16 5))
  | _ => .error .reservedMember

/-- Major opcode 0x2A (R51). -/
noncomputable def decodeVld (w : Insn) : Except Reject Instr :=
  match (w.extractLsb' 8 3).toNat with
  | 0 => need (w.extractLsb' 11 5 == 0) (.vld (w.extractLsb' 21 5) (w.extractLsb' 16 5) (w.extractLsb' 5 3) (w.extractLsb' 0 5))
  | 1 => .ok (.vldS (w.extractLsb' 21 5) (w.extractLsb' 16 5) (w.extractLsb' 11 5) (w.extractLsb' 5 3) (w.extractLsb' 0 5))
  | 2 => need (w.extractLsb' 14 2 == 0) (.vldG (w.extractLsb' 21 5) (w.extractLsb' 16 5) (w.extractLsb' 11 3) (w.extractLsb' 5 3) (w.extractLsb' 0 5))
  | 3 => .ok (.vldI (w.extractLsb' 21 5) (w.extractLsb' 16 5) (w.extractLsb' 11 5) (w.extractLsb' 5 3) (w.extractLsb' 0 5))
  | 4 => need (w.extractLsb' 11 5 == 0) (.vldFf (w.extractLsb' 21 5) (w.extractLsb' 16 5) (w.extractLsb' 5 3) (w.extractLsb' 0 5))
  | _ => .error .reservedMember

/-- Major opcode 0x2B (R51). -/
noncomputable def decodeVst (w : Insn) : Except Reject Instr :=
  match (w.extractLsb' 8 3).toNat with
  | 0 => need (w.extractLsb' 11 5 == 0) (.vst (w.extractLsb' 21 5) (w.extractLsb' 16 5) (w.extractLsb' 5 3) (w.extractLsb' 0 5))
  | 1 => .ok (.vstS (w.extractLsb' 21 5) (w.extractLsb' 16 5) (w.extractLsb' 11 5) (w.extractLsb' 5 3) (w.extractLsb' 0 5))
  | 2 => need (w.extractLsb' 14 2 == 0) (.vstG (w.extractLsb' 21 5) (w.extractLsb' 16 5) (w.extractLsb' 11 3) (w.extractLsb' 5 3) (w.extractLsb' 0 5))
  | 3 => .ok (.vstI (w.extractLsb' 21 5) (w.extractLsb' 16 5) (w.extractLsb' 11 5) (w.extractLsb' 5 3) (w.extractLsb' 0 5))
  | _ => .error .reservedMember

/-- Major opcode 0x2C (R51). -/
noncomputable def decodeVsamo (w : Insn) : Except Reject Instr :=
  match (w.extractLsb' 0 5).toNat with
  | 0 => need (w.extractLsb' 8 3 == 0) (.vsamoAdd (w.extractLsb' 21 5) (w.extractLsb' 16 5) (w.extractLsb' 11 5) (w.extractLsb' 5 3))
  | 1 => need (w.extractLsb' 8 3 == 0) (.vsamoMin (w.extractLsb' 21 5) (w.extractLsb' 16 5) (w.extractLsb' 11 5) (w.extractLsb' 5 3))
  | 2 => need (w.extractLsb' 8 3 == 0) (.vsamoMax (w.extractLsb' 21 5) (w.extractLsb' 16 5) (w.extractLsb' 11 5) (w.extractLsb' 5 3))
  | 3 => need (w.extractLsb' 8 3 == 0) (.vsamoMinn (w.extractLsb' 21 5) (w.extractLsb' 16 5) (w.extractLsb' 11 5) (w.extractLsb' 5 3))
  | 4 => need (w.extractLsb' 8 3 == 0) (.vsamoMaxn (w.extractLsb' 21 5) (w.extractLsb' 16 5) (w.extractLsb' 11 5) (w.extractLsb' 5 3))
  | 5 => need (w.extractLsb' 8 3 == 0) (.vsamoAnd (w.extractLsb' 21 5) (w.extractLsb' 16 5) (w.extractLsb' 11 5) (w.extractLsb' 5 3))
  | 6 => need (w.extractLsb' 8 3 == 0) (.vsamoOr (w.extractLsb' 21 5) (w.extractLsb' 16 5) (w.extractLsb' 11 5) (w.extractLsb' 5 3))
  | 7 => need (w.extractLsb' 8 3 == 0) (.vsamoXor (w.extractLsb' 21 5) (w.extractLsb' 16 5) (w.extractLsb' 11 5) (w.extractLsb' 5 3))
  | 8 => need (w.extractLsb' 8 3 == 0) (.vsamoSwap (w.extractLsb' 21 5) (w.extractLsb' 16 5) (w.extractLsb' 11 5) (w.extractLsb' 5 3))
  | 9 => need (w.extractLsb' 8 3 == 0) (.vsldl (w.extractLsb' 21 5) (w.extractLsb' 16 5) (w.extractLsb' 11 5) (w.extractLsb' 5 3))
  | 10 => need (w.extractLsb' 8 3 == 0) (.vsstu (w.extractLsb' 21 5) (w.extractLsb' 16 5) (w.extractLsb' 11 5) (w.extractLsb' 5 3))
  | _ => .error .reservedMember

/-- Major opcode 0x2D (R51). -/
noncomputable def decodeAmo (w : Insn) : Except Reject Instr :=
  match (w.extractLsb' 0 5).toNat with
  | 0 => need (w.extractLsb' 5 5 == 0) (.amoadd (w.extractLsb' 21 5) (w.extractLsb' 16 5) (w.extractLsb' 11 5) (w.extractLsb' 10 1))
  | 1 => need (w.extractLsb' 5 5 == 0) (.amomin (w.extractLsb' 21 5) (w.extractLsb' 16 5) (w.extractLsb' 11 5) (w.extractLsb' 10 1))
  | 2 => need (w.extractLsb' 5 5 == 0) (.amomax (w.extractLsb' 21 5) (w.extractLsb' 16 5) (w.extractLsb' 11 5) (w.extractLsb' 10 1))
  | 3 => need (w.extractLsb' 5 5 == 0) (.amominn (w.extractLsb' 21 5) (w.extractLsb' 16 5) (w.extractLsb' 11 5) (w.extractLsb' 10 1))
  | 4 => need (w.extractLsb' 5 5 == 0) (.amomaxn (w.extractLsb' 21 5) (w.extractLsb' 16 5) (w.extractLsb' 11 5) (w.extractLsb' 10 1))
  | 5 => need (w.extractLsb' 5 5 == 0) (.amoand (w.extractLsb' 21 5) (w.extractLsb' 16 5) (w.extractLsb' 11 5) (w.extractLsb' 10 1))
  | 6 => need (w.extractLsb' 5 5 == 0) (.amoor (w.extractLsb' 21 5) (w.extractLsb' 16 5) (w.extractLsb' 11 5) (w.extractLsb' 10 1))
  | 7 => need (w.extractLsb' 5 5 == 0) (.amoxor (w.extractLsb' 21 5) (w.extractLsb' 16 5) (w.extractLsb' 11 5) (w.extractLsb' 10 1))
  | 8 => need (w.extractLsb' 5 5 == 0) (.amoswap (w.extractLsb' 21 5) (w.extractLsb' 16 5) (w.extractLsb' 11 5) (w.extractLsb' 10 1))
  | 9 => need (w.extractLsb' 5 5 == 0) (.amocas (w.extractLsb' 21 5) (w.extractLsb' 16 5) (w.extractLsb' 11 5) (w.extractLsb' 10 1))
  | _ => .error .reservedMember

/-- Major opcode 0x2E (R51). -/
noncomputable def decodeVamo (w : Insn) : Except Reject Instr :=
  match (w.extractLsb' 0 5).toNat with
  | 0 => need (w.extractLsb' 8 3 == 0) (.vamoadd (w.extractLsb' 21 5) (w.extractLsb' 16 5) (w.extractLsb' 11 5) (w.extractLsb' 5 3))
  | 1 => need (w.extractLsb' 8 3 == 0) (.vamomin (w.extractLsb' 21 5) (w.extractLsb' 16 5) (w.extractLsb' 11 5) (w.extractLsb' 5 3))
  | 2 => need (w.extractLsb' 8 3 == 0) (.vamomax (w.extractLsb' 21 5) (w.extractLsb' 16 5) (w.extractLsb' 11 5) (w.extractLsb' 5 3))
  | 3 => need (w.extractLsb' 8 3 == 0) (.vamominn (w.extractLsb' 21 5) (w.extractLsb' 16 5) (w.extractLsb' 11 5) (w.extractLsb' 5 3))
  | 4 => need (w.extractLsb' 8 3 == 0) (.vamomaxn (w.extractLsb' 21 5) (w.extractLsb' 16 5) (w.extractLsb' 11 5) (w.extractLsb' 5 3))
  | 5 => need (w.extractLsb' 8 3 == 0) (.vamoand (w.extractLsb' 21 5) (w.extractLsb' 16 5) (w.extractLsb' 11 5) (w.extractLsb' 5 3))
  | 6 => need (w.extractLsb' 8 3 == 0) (.vamoor (w.extractLsb' 21 5) (w.extractLsb' 16 5) (w.extractLsb' 11 5) (w.extractLsb' 5 3))
  | 7 => need (w.extractLsb' 8 3 == 0) (.vamoxor (w.extractLsb' 21 5) (w.extractLsb' 16 5) (w.extractLsb' 11 5) (w.extractLsb' 5 3))
  | 8 => need (w.extractLsb' 8 3 == 0) (.vamoswap (w.extractLsb' 21 5) (w.extractLsb' 16 5) (w.extractLsb' 11 5) (w.extractLsb' 5 3))
  | _ => .error .reservedMember

/-- Major opcode 0x30 (R51). -/
noncomputable def decodeWin (w : Insn) : Except Reject Instr :=
  match (w.extractLsb' 0 5).toNat with
  | 0 => need (w.extractLsb' 24 2 == 0 && w.extractLsb' 8 3 == 0 && w.extractLsb' 5 3 == 0) (.wbind (w.extractLsb' 21 3) (w.extractLsb' 16 5) (w.extractLsb' 11 5))
  | 1 => need (w.extractLsb' 24 2 == 0 && w.extractLsb' 16 5 == 0 && w.extractLsb' 8 3 == 0 && w.extractLsb' 5 3 == 0) (.wmode (w.extractLsb' 21 3) (w.extractLsb' 11 5))
  | 2 => need (w.extractLsb' 24 2 == 0 && w.extractLsb' 8 3 == 0 && w.extractLsb' 5 3 == 0) (.wform (w.extractLsb' 21 3) (w.extractLsb' 16 5) (w.extractLsb' 11 5))
  | 3 => need (w.extractLsb' 24 2 == 0 && w.extractLsb' 16 5 == 0 && w.extractLsb' 11 5 == 0 && w.extractLsb' 8 3 == 0 && w.extractLsb' 5 3 == 0) (.wopen (w.extractLsb' 21 3))
  | 4 => need (w.extractLsb' 24 2 == 0 && w.extractLsb' 16 5 == 0 && w.extractLsb' 11 5 == 0 && w.extractLsb' 8 3 == 0 && w.extractLsb' 5 3 == 0) (.wclose (w.extractLsb' 21 3))
  | 5 => need (w.extractLsb' 24 2 == 0 && w.extractLsb' 16 5 == 0 && w.extractLsb' 11 5 == 0 && w.extractLsb' 8 3 == 0 && w.extractLsb' 5 3 == 0) (.wflush (w.extractLsb' 21 3))
  | 6 => need (w.extractLsb' 24 2 == 0 && w.extractLsb' 16 5 == 0 && w.extractLsb' 11 5 == 0 && w.extractLsb' 8 3 == 0 && w.extractLsb' 5 3 == 0) (.wdrop (w.extractLsb' 21 3))
  | 7 => need (w.extractLsb' 8 3 == 0 && w.extractLsb' 5 3 == 0) (.wbindi (w.extractLsb' 24 2) (w.extractLsb' 21 3) (w.extractLsb' 16 5) (w.extractLsb' 11 5))
  | 8 => need (w.extractLsb' 24 2 == 0 && w.extractLsb' 16 5 == 0 && w.extractLsb' 11 5 == 0 && w.extractLsb' 8 3 == 0 && w.extractLsb' 5 3 == 0) (.wnext (w.extractLsb' 21 3))
  | 9 => need (w.extractLsb' 24 2 == 0 && w.extractLsb' 16 5 == 0 && w.extractLsb' 11 5 == 0 && w.extractLsb' 8 3 == 0 && w.extractLsb' 5 3 == 0) (.wstat (w.extractLsb' 21 3))
  | _ => .error .reservedMember

/-- Major opcode 0x31 (R51). -/
noncomputable def decodeWld (w : Insn) : Except Reject Instr :=
  match (w.extractLsb' 9 3).toNat with
  | 0 => need (w.extractLsb' 17 1 == 0 && w.extractLsb' 0 6 == 0) (.wld (w.extractLsb' 21 5) (w.extractLsb' 18 3) (w.extractLsb' 12 5) (w.extractLsb' 6 3))
  | 1 => need (w.extractLsb' 17 1 == 0) (.wldS (w.extractLsb' 21 5) (w.extractLsb' 18 3) (w.extractLsb' 12 5) (w.extractLsb' 6 3) (w.extractLsb' 0 6))
  | 2 => need (w.extractLsb' 17 1 == 0 && w.extractLsb' 0 6 == 0) (.wldX (w.extractLsb' 21 5) (w.extractLsb' 18 3) (w.extractLsb' 12 5) (w.extractLsb' 6 3))
  | 3 => need (w.extractLsb' 17 1 == 0 && w.extractLsb' 3 3 == 0) (.wldG (w.extractLsb' 21 5) (w.extractLsb' 18 3) (w.extractLsb' 12 5) (w.extractLsb' 6 3) (w.extractLsb' 0 3))
  | 4 => need (w.extractLsb' 17 1 == 0 && w.extractLsb' 0 6 == 0) (.wldD1 (w.extractLsb' 21 5) (w.extractLsb' 18 3) (w.extractLsb' 12 5) (w.extractLsb' 6 3))
  | _ => .error .reservedMember

/-- Major opcode 0x32 (R51). -/
noncomputable def decodeWst (w : Insn) : Except Reject Instr :=
  match (w.extractLsb' 9 3).toNat with
  | 0 => need (w.extractLsb' 17 1 == 0 && w.extractLsb' 0 6 == 0) (.wst (w.extractLsb' 21 5) (w.extractLsb' 18 3) (w.extractLsb' 12 5) (w.extractLsb' 6 3))
  | 1 => need (w.extractLsb' 17 1 == 0) (.wstS (w.extractLsb' 21 5) (w.extractLsb' 18 3) (w.extractLsb' 12 5) (w.extractLsb' 6 3) (w.extractLsb' 0 6))
  | 2 => need (w.extractLsb' 17 1 == 0 && w.extractLsb' 0 6 == 0) (.wstX (w.extractLsb' 21 5) (w.extractLsb' 18 3) (w.extractLsb' 12 5) (w.extractLsb' 6 3))
  | 3 => need (w.extractLsb' 17 1 == 0 && w.extractLsb' 3 3 == 0) (.wstG (w.extractLsb' 21 5) (w.extractLsb' 18 3) (w.extractLsb' 12 5) (w.extractLsb' 6 3) (w.extractLsb' 0 3))
  | 4 => need (w.extractLsb' 17 1 == 0 && w.extractLsb' 0 6 == 0) (.wstD1 (w.extractLsb' 21 5) (w.extractLsb' 18 3) (w.extractLsb' 12 5) (w.extractLsb' 6 3))
  | _ => .error .reservedMember

/-- Major opcode 0x34 (R51). -/
noncomputable def decodeItr (w : Insn) : Except Reject Instr :=
  match (w.extractLsb' 0 5).toNat with
  | 0 => need (w.extractLsb' 23 3 == 0 && w.extractLsb' 16 5 == 0 && w.extractLsb' 11 5 == 0 && w.extractLsb' 8 3 == 0 && w.extractLsb' 5 3 == 0) (.ibegin (w.extractLsb' 21 2))
  | 1 => need (w.extractLsb' 23 3 == 0 && w.extractLsb' 8 3 == 0 && w.extractLsb' 5 3 == 0) (.irange (w.extractLsb' 21 2) (w.extractLsb' 16 5) (w.extractLsb' 11 5))
  | 2 => need (w.extractLsb' 23 3 == 0 && w.extractLsb' 8 3 == 0 && w.extractLsb' 5 3 == 0) (.ilist (w.extractLsb' 21 2) (w.extractLsb' 16 5) (w.extractLsb' 11 5))
  | 3 => need (w.extractLsb' 23 3 == 0 && w.extractLsb' 19 2 == 0 && w.extractLsb' 11 5 == 0 && w.extractLsb' 8 3 == 0 && w.extractLsb' 5 3 == 0) (.ictr (w.extractLsb' 21 2) (w.extractLsb' 16 3))
  | 4 => need (w.extractLsb' 23 3 == 0 && w.extractLsb' 8 3 == 0 && w.extractLsb' 5 3 == 0) (.imap (w.extractLsb' 21 2) (w.extractLsb' 16 5) (w.extractLsb' 11 5))
  | 5 => need (w.extractLsb' 23 3 == 0 && w.extractLsb' 8 3 == 0 && w.extractLsb' 5 3 == 0) (.imapt (w.extractLsb' 21 2) (w.extractLsb' 16 5) (w.extractLsb' 11 5))
  | 6 => need (w.extractLsb' 23 3 == 0 && w.extractLsb' 8 3 == 0 && w.extractLsb' 5 3 == 0) (.ifiltb (w.extractLsb' 21 2) (w.extractLsb' 16 5) (w.extractLsb' 11 5))
  | 7 => need (w.extractLsb' 23 3 == 0 && w.extractLsb' 8 3 == 0 && w.extractLsb' 5 3 == 0) (.ifiltc (w.extractLsb' 21 2) (w.extractLsb' 16 5) (w.extractLsb' 11 5))
  | 8 => need (w.extractLsb' 23 3 == 0 && w.extractLsb' 18 3 == 0 && w.extractLsb' 11 5 == 0 && w.extractLsb' 8 3 == 0 && w.extractLsb' 5 3 == 0) (.izip (w.extractLsb' 21 2) (w.extractLsb' 16 2))
  | 9 => need (w.extractLsb' 23 3 == 0 && w.extractLsb' 18 3 == 0 && w.extractLsb' 11 5 == 0 && w.extractLsb' 8 3 == 0 && w.extractLsb' 5 3 == 0) (.ichain (w.extractLsb' 21 2) (w.extractLsb' 16 2))
  | 10 => need (w.extractLsb' 23 3 == 0 && w.extractLsb' 11 5 == 0 && w.extractLsb' 8 3 == 0 && w.extractLsb' 5 3 == 0) (.iflat (w.extractLsb' 21 2) (w.extractLsb' 16 5))
  | 11 => need (w.extractLsb' 23 3 == 0 && w.extractLsb' 16 5 == 0 && w.extractLsb' 12 4 == 0 && w.extractLsb' 8 3 == 0 && w.extractLsb' 5 3 == 0) (.ifill (w.extractLsb' 21 2) (w.extractLsb' 11 1))
  | 12 => need (w.extractLsb' 23 3 == 0 && w.extractLsb' 11 5 == 0 && w.extractLsb' 8 3 == 0 && w.extractLsb' 5 3 == 0) (.inext (w.extractLsb' 21 2) (w.extractLsb' 16 5))
  | 13 => need (w.extractLsb' 23 3 == 0 && w.extractLsb' 16 5 == 0 && w.extractLsb' 11 5 == 0 && w.extractLsb' 8 3 == 0 && w.extractLsb' 5 3 == 0) (.ienough (w.extractLsb' 21 2))
  | 14 => need (w.extractLsb' 23 3 == 0 && w.extractLsb' 16 5 == 0 && w.extractLsb' 11 5 == 0 && w.extractLsb' 8 3 == 0 && w.extractLsb' 5 3 == 0) (.istat (w.extractLsb' 21 2))
  | 15 => need (w.extractLsb' 23 3 == 0 && w.extractLsb' 16 5 == 0 && w.extractLsb' 11 5 == 0 && w.extractLsb' 8 3 == 0 && w.extractLsb' 5 3 == 0) (.iseal (w.extractLsb' 21 2))
  | _ => .error .reservedMember

/-- Major opcode 0x36 (R51). -/
noncomputable def decodeMtx (w : Insn) : Except Reject Instr :=
  match (w.extractLsb' 0 5).toNat with
  | 0 => need (w.extractLsb' 24 2 == 0 && w.extractLsb' 16 5 == 0 && w.extractLsb' 8 3 == 0 && w.extractLsb' 5 3 == 0) (.mlds (w.extractLsb' 21 3) (w.extractLsb' 11 5))
  | 1 => need (w.extractLsb' 21 5 == 0 && w.extractLsb' 8 3 == 0 && w.extractLsb' 5 3 == 0) (.mldsv (w.extractLsb' 16 5) (w.extractLsb' 11 5))
  | 2 => need (w.extractLsb' 21 5 == 0 && w.extractLsb' 16 5 == 0 && w.extractLsb' 11 5 == 0 && w.extractLsb' 8 3 == 0 && w.extractLsb' 5 3 == 0) (.mswap)
  | 3 => need (w.extractLsb' 21 5 == 0 && w.extractLsb' 16 5 == 0 && w.extractLsb' 11 5 == 0 && w.extractLsb' 8 3 == 0 && w.extractLsb' 5 3 == 0) (.mzero)
  | 4 => need (w.extractLsb' 11 5 == 0 && w.extractLsb' 8 3 == 0 && w.extractLsb' 5 3 == 0) (.mrow (w.extractLsb' 21 5) (w.extractLsb' 16 5))
  | 5 => need (w.extractLsb' 11 5 == 0 && w.extractLsb' 8 3 == 0 && w.extractLsb' 5 3 == 0) (.mrowa (w.extractLsb' 21 5) (w.extractLsb' 16 5))
  | 6 => need (w.extractLsb' 14 2 == 0 && w.extractLsb' 8 3 == 0 && w.extractLsb' 5 3 == 0) (.mrows (w.extractLsb' 21 5) (w.extractLsb' 16 5) (w.extractLsb' 11 3))
  | 7 => need (w.extractLsb' 14 2 == 0 && w.extractLsb' 8 3 == 0 && w.extractLsb' 5 3 == 0) (.mrowsa (w.extractLsb' 21 5) (w.extractLsb' 16 5) (w.extractLsb' 11 3))
  | 8 => need (w.extractLsb' 19 2 == 0 && w.extractLsb' 11 5 == 0 && w.extractLsb' 8 3 == 0 && w.extractLsb' 5 3 == 0) (.mroww (w.extractLsb' 21 5) (w.extractLsb' 16 3))
  | 9 => need (w.extractLsb' 19 2 == 0 && w.extractLsb' 11 5 == 0 && w.extractLsb' 8 3 == 0 && w.extractLsb' 5 3 == 0) (.mrowwa (w.extractLsb' 21 5) (w.extractLsb' 16 3))
  | 10 => need (w.extractLsb' 21 5 == 0 && w.extractLsb' 16 5 == 0 && w.extractLsb' 11 5 == 0 && w.extractLsb' 8 3 == 0 && w.extractLsb' 5 3 == 0) (.mwait)
  | _ => .error .reservedMember

/-- Major opcode 0x37 (R51). -/
noncomputable def decodeKv (w : Insn) : Except Reject Instr :=
  match (w.extractLsb' 0 5).toNat with
  | 0 => need (w.extractLsb' 21 5 == 0 && w.extractLsb' 16 5 == 0 && w.extractLsb' 9 2 == 0 && w.extractLsb' 5 3 == 0) (.kvset (w.extractLsb' 11 5) (w.extractLsb' 8 1))
  | 1 => need (w.extractLsb' 9 2 == 0) (.kvxlat (w.extractLsb' 21 5) (w.extractLsb' 16 5) (w.extractLsb' 11 5) (w.extractLsb' 8 1) (w.extractLsb' 5 3))
  | 2 => need (w.extractLsb' 9 2 == 0) (.kvxlatf (w.extractLsb' 21 5) (w.extractLsb' 16 5) (w.extractLsb' 11 5) (w.extractLsb' 8 1) (w.extractLsb' 5 3))
  | 3 => need (w.extractLsb' 9 2 == 0 && w.extractLsb' 5 3 == 0) (.attn (w.extractLsb' 21 5) (w.extractLsb' 16 5) (w.extractLsb' 11 5) (w.extractLsb' 8 1))
  | 4 => need (w.extractLsb' 9 2 == 0 && w.extractLsb' 5 3 == 0) (.attnc (w.extractLsb' 21 5) (w.extractLsb' 16 5) (w.extractLsb' 11 5) (w.extractLsb' 8 1))
  | 5 => need (w.extractLsb' 9 2 == 0 && w.extractLsb' 5 3 == 0) (.kvapp (w.extractLsb' 21 5) (w.extractLsb' 16 5) (w.extractLsb' 11 5) (w.extractLsb' 8 1))
  | 6 => need (w.extractLsb' 21 5 == 0 && w.extractLsb' 16 5 == 0 && w.extractLsb' 9 2 == 0 && w.extractLsb' 5 3 == 0) (.kvinv (w.extractLsb' 11 5) (w.extractLsb' 8 1))
  | 7 => need (w.extractLsb' 21 5 == 0 && w.extractLsb' 16 5 == 0 && w.extractLsb' 11 5 == 0 && w.extractLsb' 9 2 == 0 && w.extractLsb' 5 3 == 0) (.kvstat (w.extractLsb' 8 1))
  | _ => .error .reservedMember

/-- Major opcode 0x38 (R51). -/
noncomputable def decodeSync (w : Insn) : Except Reject Instr :=
  match (w.extractLsb' 0 5).toNat with
  | 0 => need (w.extractLsb' 21 5 == 0 && w.extractLsb' 16 5 == 0 && w.extractLsb' 11 5 == 0 && w.extractLsb' 5 6 == 0) (.fence)
  | 1 => need (w.extractLsb' 21 5 == 0 && w.extractLsb' 16 5 == 0 && w.extractLsb' 11 5 == 0 && w.extractLsb' 5 6 == 0) (.vfence)
  | 2 => need (w.extractLsb' 21 5 == 0 && w.extractLsb' 16 5 == 0 && w.extractLsb' 11 5 == 0 && w.extractLsb' 5 6 == 0) (.lsync)
  | 3 => need (w.extractLsb' 21 5 == 0 && w.extractLsb' 11 5 == 0 && w.extractLsb' 5 6 == 0) (.barrive (w.extractLsb' 16 5))
  | 4 => need (w.extractLsb' 21 5 == 0 && w.extractLsb' 5 6 == 0) (.bwait (w.extractLsb' 16 5) (w.extractLsb' 11 5))
  | 5 => need (w.extractLsb' 21 5 == 0 && w.extractLsb' 5 6 == 0) (.binit (w.extractLsb' 16 5) (w.extractLsb' 11 5))
  | 6 => need (w.extractLsb' 11 5 == 0 && w.extractLsb' 5 6 == 0) (.tlwait (w.extractLsb' 21 5) (w.extractLsb' 16 5))
  | 7 => need (w.extractLsb' 21 5 == 0 && w.extractLsb' 11 5 == 0 && w.extractLsb' 5 6 == 0) (.hevt (w.extractLsb' 16 5))
  | 8 => need (w.extractLsb' 21 5 == 0 && w.extractLsb' 11 5 == 0 && w.extractLsb' 5 6 == 0) (.hwait (w.extractLsb' 16 5))
  | 9 => need (w.extractLsb' 21 5 == 0 && w.extractLsb' 11 5 == 0 && w.extractLsb' 5 6 == 0) (.harm (w.extractLsb' 16 5))
  | _ => .error .reservedMember

/-- Major opcode 0x39 (R51). -/
noncomputable def decodeXch (w : Insn) : Except Reject Instr :=
  match (w.extractLsb' 0 5).toNat with
  | 0 => need (w.extractLsb' 21 5 == 0 && w.extractLsb' 8 3 == 0 && w.extractLsb' 5 3 == 0) (.xsend (w.extractLsb' 16 5) (w.extractLsb' 11 5))
  | 1 => need (w.extractLsb' 16 5 == 0 && w.extractLsb' 8 3 == 0 && w.extractLsb' 5 3 == 0) (.xrecv (w.extractLsb' 21 5) (w.extractLsb' 11 5))
  | 2 => need (w.extractLsb' 8 3 == 0) (.xstep (w.extractLsb' 21 5) (w.extractLsb' 16 5) (w.extractLsb' 11 5) (w.extractLsb' 5 3))
  | 3 => need (w.extractLsb' 11 5 == 0 && w.extractLsb' 8 3 == 0) (.xredsum (w.extractLsb' 21 5) (w.extractLsb' 16 5) (w.extractLsb' 5 3))
  | 4 => need (w.extractLsb' 11 5 == 0 && w.extractLsb' 8 3 == 0) (.xredmax (w.extractLsb' 21 5) (w.extractLsb' 16 5) (w.extractLsb' 5 3))
  | 5 => need (w.extractLsb' 8 3 == 0) (.xbcast (w.extractLsb' 21 5) (w.extractLsb' 16 5) (w.extractLsb' 11 5) (w.extractLsb' 5 3))
  | 6 => need (w.extractLsb' 8 3 == 0 && w.extractLsb' 5 3 == 0) (.xring (w.extractLsb' 21 5) (w.extractLsb' 16 5) (w.extractLsb' 11 5))
  | 7 => need (w.extractLsb' 16 5 == 0 && w.extractLsb' 11 5 == 0 && w.extractLsb' 8 3 == 0 && w.extractLsb' 5 3 == 0) (.xstat (w.extractLsb' 21 5))
  | _ => .error .reservedMember

/-- Major opcode 0x3A (R51). -/
noncomputable def decodeLch (w : Insn) : Except Reject Instr :=
  match (w.extractLsb' 0 5).toNat with
  | 0 => need (w.extractLsb' 21 5 == 0 && w.extractLsb' 11 5 == 0 && w.extractLsb' 5 6 == 0) (.launch (w.extractLsb' 16 5))
  | 1 => need (w.extractLsb' 11 5 == 0 && w.extractLsb' 5 6 == 0) (.launcht (w.extractLsb' 21 5) (w.extractLsb' 16 5))
  | 2 => need (w.extractLsb' 11 5 == 0 && w.extractLsb' 5 6 == 0) (.lwait (w.extractLsb' 21 5) (w.extractLsb' 16 5))
  | _ => .error .reservedMember

/-- Major opcode 0x3B (R51). -/
noncomputable def decodeSys (w : Insn) : Except Reject Instr :=
  match (w.extractLsb' 0 5).toNat with
  | 0 => need (w.extractLsb' 21 5 == 0 && w.extractLsb' 16 5 == 0 && w.extractLsb' 11 5 == 0 && w.extractLsb' 5 6 == 0) (.tret)
  | 1 => need (w.extractLsb' 21 5 == 0 && w.extractLsb' 11 5 == 0 && w.extractLsb' 5 6 == 0) (.ctxsave (w.extractLsb' 16 5))
  | 2 => need (w.extractLsb' 21 5 == 0 && w.extractLsb' 11 5 == 0 && w.extractLsb' 5 6 == 0) (.ctxload (w.extractLsb' 16 5))
  | 3 => need (w.extractLsb' 21 5 == 0 && w.extractLsb' 5 6 == 0) (.xlinv (w.extractLsb' 16 5) (w.extractLsb' 11 5))
  | 4 => need (w.extractLsb' 21 5 == 0 && w.extractLsb' 16 5 == 0 && w.extractLsb' 11 5 == 0 && w.extractLsb' 5 6 == 0) (.xlinva)
  | 5 => need (w.extractLsb' 21 5 == 0 && w.extractLsb' 16 5 == 0 && w.extractLsb' 11 5 == 0 && w.extractLsb' 5 6 == 0) (.wfe)
  | 6 => need (w.extractLsb' 21 5 == 0 && w.extractLsb' 16 5 == 0 && w.extractLsb' 11 5 == 0 && w.extractLsb' 5 6 == 0) (.halt)
  | 7 => need (w.extractLsb' 11 5 == 0 && w.extractLsb' 5 6 == 0) (.caprd (w.extractLsb' 21 5) (w.extractLsb' 16 5))
  | _ => .error .reservedMember

/-- The member a word names by its major opcode and member fields (R51), before the limits of R39 to R41. -/
noncomputable def decodeMember (w : Insn) : Except Reject Instr :=
  match (w.extractLsb' 26 6).toNat with
  | 1 => decodeSop w
  | 2 => decodeAddi w
  | 3 => decodeAndi w
  | 4 => decodeOri w
  | 5 => decodeXori w
  | 6 => decodeSlti w
  | 7 => decodeShi w
  | 8 => decodeLui w
  | 9 => decodeAuipc w
  | 10 => decodeBfx w
  | 11 => decodeBfi w
  | 12 => decodeLds w
  | 13 => decodeSts w
  | 16 => decodeBeq w
  | 17 => decodeBne w
  | 18 => decodeBlt w
  | 19 => decodeBge w
  | 20 => decodeBltn w
  | 21 => decodeBgen w
  | 22 => decodeJ w
  | 23 => decodeJal w
  | 24 => decodeJalr w
  | 25 => decodeLoop w
  | 26 => decodeLoopi w
  | 27 => decodeCtl w
  | 28 => decodeMovs w
  | 29 => decodeSets w
  | 32 => decodeVcfg w
  | 33 => decodeVsetvli w
  | 34 => decodeVint w
  | 35 => decodeVintx w
  | 36 => decodeVinti w
  | 37 => decodeVcmp w
  | 38 => decodeVfp w
  | 39 => decodeVfpx w
  | 40 => decodeVred w
  | 41 => decodeVperm w
  | 42 => decodeVld w
  | 43 => decodeVst w
  | 44 => decodeVsamo w
  | 45 => decodeAmo w
  | 46 => decodeVamo w
  | 48 => decodeWin w
  | 49 => decodeWld w
  | 50 => decodeWst w
  | 52 => decodeItr w
  | 54 => decodeMtx w
  | 55 => decodeKv w
  | 56 => decodeSync w
  | 57 => decodeXch w
  | 58 => decodeLch w
  | 59 => decodeSys w
  | _ => .error .reservedMajor

/-- The decoder (R35, R37 to R41, R51, R55). -/
noncomputable def decode (w : Insn) : Except Reject Instr :=
  match decodeMember w with
  | .ok i => if i.wellFormed then .ok i else .error .illegalField
  | .error r => .error r

/-- What a fetched word makes the hart do: the instruction, or the step that raises ILLEGAL_INSN (R55). -/
noncomputable def decodeOrReserved (w : Insn) : Instr :=
  match decode w with
  | .ok i => i
  | .error _ => .reservedWord w

/-- A word from its bytes in memory, the least significant at the lowest address (R5, R35). -/
def wordOfBytes (b0 b1 b2 b3 : Byte) : Insn := b3 ++ b2 ++ b1 ++ b0

/-- The byte of a word at offset k of its four bytes (R5, R35). -/
def byteOfWord (w : Insn) (k : Nat) : Byte := w.extractLsb' (8 * k) 8

/-- The host's check of the opcode table: the bits as the hardware stores them, through the decoder. -/
noncomputable def decodeTableWord (nbits w : Nat) : Option Instr :=
  if nbits ≤ 32 then
    let x : Insn := BitVec.ofNat 32 (w % 2 ^ nbits)
    (decode (wordOfBytes (byteOfWord x 0) (byteOfWord x 1) (byteOfWord x 2) (byteOfWord x 3))).toOption
  else none

/-- The word of an instruction, field by field from R37 and R51; an event has none. -/
def encode : Instr → Option Insn
  | .add d a b => some (sr 0x01#6 d a b 0#6 0#5)
  | .sub d a b => some (sr 0x01#6 d a b 0#6 1#5)
  | .and d a b => some (sr 0x01#6 d a b 0#6 2#5)
  | .or d a b => some (sr 0x01#6 d a b 0#6 3#5)
  | .xor d a b => some (sr 0x01#6 d a b 0#6 4#5)
  | .sll d a b => some (sr 0x01#6 d a b 0#6 5#5)
  | .srl d a b => some (sr 0x01#6 d a b 0#6 6#5)
  | .sra d a b => some (sr 0x01#6 d a b 0#6 7#5)
  | .slt d a b => some (sr 0x01#6 d a b 0#6 8#5)
  | .sltn d a b => some (sr 0x01#6 d a b 0#6 9#5)
  | .mul d a b => some (sr 0x01#6 d a b 0#6 10#5)
  | .mulh d a b => some (sr 0x01#6 d a b 0#6 11#5)
  | .mulhn d a b => some (sr 0x01#6 d a b 0#6 12#5)
  | .div d a b => some (sr 0x01#6 d a b 0#6 13#5)
  | .divn d a b => some (sr 0x01#6 d a b 0#6 14#5)
  | .rem d a b => some (sr 0x01#6 d a b 0#6 15#5)
  | .remn d a b => some (sr 0x01#6 d a b 0#6 16#5)
  | .min d a b => some (sr 0x01#6 d a b 0#6 17#5)
  | .max d a b => some (sr 0x01#6 d a b 0#6 18#5)
  | .minn d a b => some (sr 0x01#6 d a b 0#6 19#5)
  | .maxn d a b => some (sr 0x01#6 d a b 0#6 20#5)
  | .rol d a b => some (sr 0x01#6 d a b 0#6 21#5)
  | .ror d a b => some (sr 0x01#6 d a b 0#6 22#5)
  | .clz d a => some (sr 0x01#6 d a 0#5 0#6 23#5)
  | .ctz d a => some (sr 0x01#6 d a 0#5 0#6 24#5)
  | .popc d a => some (sr 0x01#6 d a 0#5 0#6 25#5)
  | .bext d a b => some (sr 0x01#6 d a b 0#6 26#5)
  | .bextn d a b => some (sr 0x01#6 d a b 0#6 27#5)
  | .fshl d a b => some (sr 0x01#6 d a b 0#6 28#5)
  | .fshr d a b => some (sr 0x01#6 d a b 0#6 29#5)
  | .addi d a i => some (si 0x02#6 d a i)
  | .andi d a i => some (si 0x03#6 d a i)
  | .ori d a i => some (si 0x04#6 d a i)
  | .xori d a i => some (si 0x05#6 d a i)
  | .slti d a i => some (si 0x06#6 d a i)
  | .slli d a s => some (si 0x07#6 d a (0#10 ++ s))
  | .srli d a s => some (si 0x07#6 d a (256#10 ++ s))
  | .srai d a s => some (si 0x07#6 d a (512#10 ++ s))
  | .lui d i => some (su 0x08#6 d i)
  | .auipc d i => some (su 0x09#6 d i)
  | .bfx d a l p => some (si 0x0A#6 d a (0#4 ++ l ++ p))
  | .bfxS d a l p => some (si 0x0A#6 d a (1#4 ++ l ++ p))
  | .bfi d a l p => some (si 0x0B#6 d a (0#4 ++ l ++ p))
  | .ldb d a o => some (sm 0x0C#6 d a 0#3 o)
  | .ldh d a o => some (sm 0x0C#6 d a 1#3 o)
  | .ldw d a o => some (sm 0x0C#6 d a 2#3 o)
  | .ldd d a o => some (sm 0x0C#6 d a 3#3 o)
  | .ldbn d a o => some (sm 0x0C#6 d a 4#3 o)
  | .ldhn d a o => some (sm 0x0C#6 d a 5#3 o)
  | .ldwn d a o => some (sm 0x0C#6 d a 6#3 o)
  | .stb s a o => some (sm 0x0D#6 s a 0#3 o)
  | .sth s a o => some (sm 0x0D#6 s a 1#3 o)
  | .stw s a o => some (sm 0x0D#6 s a 2#3 o)
  | .std s a o => some (sm 0x0D#6 s a 3#3 o)
  | .beq a b o => some (br 0x10#6 a b o)
  | .bne a b o => some (br 0x11#6 a b o)
  | .blt a b o => some (br 0x12#6 a b o)
  | .bge a b o => some (br 0x13#6 a b o)
  | .bltn a b o => some (br 0x14#6 a b o)
  | .bgen a b o => some (br 0x15#6 a b o)
  | .j o => some (jp 0x16#6 o)
  | .jal o => some (jp 0x17#6 o)
  | .jalr d a i => some (si 0x18#6 d a i)
  | .loop c a l => some (lp 0x19#6 c 0#2 a l)
  | .loopS c l => some (lp 0x19#6 c 1#2 0#5 l)
  | .loopi c n l => some (lpi 0x1A#6 c n l)
  | .nop => some (sr 0x1B#6 0#5 0#5 0#5 0#6 0#5)
  | .exit => some (sr 0x1B#6 0#5 0#5 0#5 0#6 1#5)
  | .brk => some (sr 0x1B#6 0#5 0#5 0#5 0#6 2#5)
  | .scall => some (sr 0x1B#6 0#5 0#5 0#5 0#6 3#5)
  | .yield => some (sr 0x1B#6 0#5 0#5 0#5 0#6 4#5)
  | .fork a => some (sr 0x1B#6 0#5 a 0#5 0#6 5#5)
  | .rdv => some (sr 0x1B#6 0#5 0#5 0#5 0#6 6#5)
  | .lfork a => some (sr 0x1B#6 0#5 a 0#5 0#6 7#5)
  | .ljoin => some (sr 0x1B#6 0#5 0#5 0#5 0#6 8#5)
  | .lexit => some (sr 0x1B#6 0#5 0#5 0#5 0#6 9#5)
  | .qput a => some (sr 0x1B#6 0#5 a 0#5 0#6 10#5)
  | .qget d => some (sr 0x1B#6 d 0#5 0#5 0#6 11#5)
  | .lvget d a => some (sr 0x1B#6 d a 0#5 0#6 12#5)
  | .lvput a b => some (sr 0x1B#6 0#5 a b 0#6 13#5)
  | .libld a b => some (sr 0x1B#6 0#5 a b 0#6 14#5)
  | .movs d r => some (si 0x1C#6 d 0#5 (0#4 ++ r))
  | .sets a r => some (si 0x1D#6 0#5 a (0#4 ++ r))
  | .lcntWrite .. => none
  | .preemptReqWrite => none
  | .vsetvl d a b => some (sr 0x20#6 d a b 0#6 0#5)
  | .vsetvlq d => some (sr 0x20#6 d 0#5 0#5 0#6 1#5)
  | .lpart a => some (sr 0x20#6 0#5 a 0#5 0#6 2#5)
  | .gang a => some (sr 0x20#6 0#5 a 0#5 0#6 3#5)
  | .ungang => some (sr 0x20#6 0#5 0#5 0#5 0#6 4#5)
  | .vsetvli d a i => some (si 0x21#6 d a i)
  | .gangFormed .. => none
  | .vadd d a b p k => some (vr 0x22#6 d a b p k 0#5)
  | .vsub d a b p k => some (vr 0x22#6 d a b p k 1#5)
  | .vrsub d a b p k => some (vr 0x22#6 d a b p k 2#5)
  | .vand d a b p k => some (vr 0x22#6 d a b p k 3#5)
  | .vor d a b p k => some (vr 0x22#6 d a b p k 4#5)
  | .vxor d a b p k => some (vr 0x22#6 d a b p k 5#5)
  | .vsll d a b p k => some (vr 0x22#6 d a b p k 6#5)
  | .vsrl d a b p k => some (vr 0x22#6 d a b p k 7#5)
  | .vsra d a b p k => some (vr 0x22#6 d a b p k 8#5)
  | .vmin d a b p k => some (vr 0x22#6 d a b p k 9#5)
  | .vmax d a b p k => some (vr 0x22#6 d a b p k 10#5)
  | .vminn d a b p k => some (vr 0x22#6 d a b p k 11#5)
  | .vmaxn d a b p k => some (vr 0x22#6 d a b p k 12#5)
  | .vmul d a b p k => some (vr 0x22#6 d a b p k 13#5)
  | .vmulh d a b p k => some (vr 0x22#6 d a b p k 14#5)
  | .vmulhn d a b p k => some (vr 0x22#6 d a b p k 15#5)
  | .vdiv d a b p k => some (vr 0x22#6 d a b p k 16#5)
  | .vdivn d a b p k => some (vr 0x22#6 d a b p k 17#5)
  | .vrem d a b p k => some (vr 0x22#6 d a b p k 18#5)
  | .vremn d a b p k => some (vr 0x22#6 d a b p k 19#5)
  | .vaddc d a b p k => some (vr 0x22#6 d a b p k 20#5)
  | .vsubb d a b p k => some (vr 0x22#6 d a b p k 21#5)
  | .vsadd d a b p k => some (vr 0x22#6 d a b p k 22#5)
  | .vsaddn d a b p k => some (vr 0x22#6 d a b p k 23#5)
  | .vssub d a b p k => some (vr 0x22#6 d a b p k 24#5)
  | .vssubn d a b p k => some (vr 0x22#6 d a b p k 25#5)
  | .vmerge d a b p k => some (vr 0x22#6 d a b p k 26#5)
  | .vmv d b p k => some (vr 0x22#6 d 0#5 b p k 27#5)
  | .vpope d a k => some (vr 0x22#6 d a 0#5 0#3 k 28#5)
  | .vclz d a k => some (vr 0x22#6 d a 0#5 0#3 k 29#5)
  | .vbext d a b p k => some (vr 0x22#6 d a b p k 30#5)
  | .vfshr d a b p k => some (vr 0x22#6 d a b p k 31#5)
  | .vaddX d a b k => some (vr 0x23#6 d a b 0#3 k 0#5)
  | .vsubX d a b k => some (vr 0x23#6 d a b 0#3 k 1#5)
  | .vrsubX d a b k => some (vr 0x23#6 d a b 0#3 k 2#5)
  | .vandX d a b k => some (vr 0x23#6 d a b 0#3 k 3#5)
  | .vorX d a b k => some (vr 0x23#6 d a b 0#3 k 4#5)
  | .vxorX d a b k => some (vr 0x23#6 d a b 0#3 k 5#5)
  | .vsllX d a b k => some (vr 0x23#6 d a b 0#3 k 6#5)
  | .vsrlX d a b k => some (vr 0x23#6 d a b 0#3 k 7#5)
  | .vsraX d a b k => some (vr 0x23#6 d a b 0#3 k 8#5)
  | .vminX d a b k => some (vr 0x23#6 d a b 0#3 k 9#5)
  | .vmaxX d a b k => some (vr 0x23#6 d a b 0#3 k 10#5)
  | .vminnX d a b k => some (vr 0x23#6 d a b 0#3 k 11#5)
  | .vmaxnX d a b k => some (vr 0x23#6 d a b 0#3 k 12#5)
  | .vmulX d a b k => some (vr 0x23#6 d a b 0#3 k 13#5)
  | .vmulhX d a b k => some (vr 0x23#6 d a b 0#3 k 14#5)
  | .vmulhnX d a b k => some (vr 0x23#6 d a b 0#3 k 15#5)
  | .vdivX d a b k => some (vr 0x23#6 d a b 0#3 k 16#5)
  | .vdivnX d a b k => some (vr 0x23#6 d a b 0#3 k 17#5)
  | .vremX d a b k => some (vr 0x23#6 d a b 0#3 k 18#5)
  | .vremnX d a b k => some (vr 0x23#6 d a b 0#3 k 19#5)
  | .vaddcX d a b k => some (vr 0x23#6 d a b 0#3 k 20#5)
  | .vsubbX d a b k => some (vr 0x23#6 d a b 0#3 k 21#5)
  | .vsaddX d a b k => some (vr 0x23#6 d a b 0#3 k 22#5)
  | .vsaddnX d a b k => some (vr 0x23#6 d a b 0#3 k 23#5)
  | .vssubX d a b k => some (vr 0x23#6 d a b 0#3 k 24#5)
  | .vssubnX d a b k => some (vr 0x23#6 d a b 0#3 k 25#5)
  | .vmergeX d a b k => some (vr 0x23#6 d a b 0#3 k 26#5)
  | .vmvX d b k => some (vr 0x23#6 d 0#5 b 0#3 k 27#5)
  | .vbextX d a b k => some (vr 0x23#6 d a b 0#3 k 30#5)
  | .vfshrX d a b k => some (vr 0x23#6 d a b 0#3 k 31#5)
  | .vaddi d a i k => some (vi 0x24#6 d a i k 0#5)
  | .vrsubi d a i k => some (vi 0x24#6 d a i k 1#5)
  | .vandi d a i k => some (vi 0x24#6 d a i k 2#5)
  | .vori d a i k => some (vi 0x24#6 d a i k 3#5)
  | .vxori d a i k => some (vi 0x24#6 d a i k 4#5)
  | .vslli d a s k => some (vi 0x24#6 d a (0#2 ++ s) k 5#5)
  | .vsrli d a s k => some (vi 0x24#6 d a (0#2 ++ s) k 6#5)
  | .vsrai d a s k => some (vi 0x24#6 d a (0#2 ++ s) k 7#5)
  | .vmvi d i k => some (vi 0x24#6 d 0#5 i k 8#5)
  | .vmini d a i k => some (vi 0x24#6 d a i k 9#5)
  | .vmaxi d a i k => some (vi 0x24#6 d a i k 10#5)
  | .vseq d a b p k => some (vr 0x25#6 (0#2 ++ d) a b p k 0#5)
  | .vsne d a b p k => some (vr 0x25#6 (0#2 ++ d) a b p k 1#5)
  | .vslt d a b p k => some (vr 0x25#6 (0#2 ++ d) a b p k 2#5)
  | .vsltn d a b p k => some (vr 0x25#6 (0#2 ++ d) a b p k 3#5)
  | .vsle d a b p k => some (vr 0x25#6 (0#2 ++ d) a b p k 4#5)
  | .vslen d a b p k => some (vr 0x25#6 (0#2 ++ d) a b p k 5#5)
  | .vsgt d a b p k => some (vr 0x25#6 (0#2 ++ d) a b p k 6#5)
  | .vsgtn d a b p k => some (vr 0x25#6 (0#2 ++ d) a b p k 7#5)
  | .vfeq d a b p k => some (vr 0x25#6 (0#2 ++ d) a b p k 8#5)
  | .vfne d a b p k => some (vr 0x25#6 (0#2 ++ d) a b p k 9#5)
  | .vflt d a b p k => some (vr 0x25#6 (0#2 ++ d) a b p k 10#5)
  | .vfle d a b p k => some (vr 0x25#6 (0#2 ++ d) a b p k 11#5)
  | .vfunord d a b p k => some (vr 0x25#6 (0#2 ++ d) a b p k 12#5)
  | .vfadd d a b p k => some (vr 0x26#6 d a b p k 0#5)
  | .vfsub d a b p k => some (vr 0x26#6 d a b p k 1#5)
  | .vfmul d a b p k => some (vr 0x26#6 d a b p k 2#5)
  | .vfdiv d a b p k => some (vr 0x26#6 d a b p k 3#5)
  | .vfsqrt d a k => some (vr 0x26#6 d a 0#5 0#3 k 4#5)
  | .vfmin d a b p k => some (vr 0x26#6 d a b p k 5#5)
  | .vfmax d a b p k => some (vr 0x26#6 d a b p k 6#5)
  | .vfmadd d a b p k => some (vr 0x26#6 d a b p k 7#5)
  | .vfmsub d a b p k => some (vr 0x26#6 d a b p k 8#5)
  | .vfnmadd d a b p k => some (vr 0x26#6 d a b p k 9#5)
  | .vfnmsub d a b p k => some (vr 0x26#6 d a b p k 10#5)
  | .vfsgnj d a b p k => some (vr 0x26#6 d a b p k 11#5)
  | .vfsgnjn d a b p k => some (vr 0x26#6 d a b p k 12#5)
  | .vfsgnjx d a b p k => some (vr 0x26#6 d a b p k 13#5)
  | .vfclass d a k => some (vr 0x26#6 d a 0#5 0#3 k 14#5)
  | .vfrece d a k => some (vr 0x26#6 d a 0#5 0#3 k 15#5)
  | .vfrsqe d a k => some (vr 0x26#6 d a 0#5 0#3 k 16#5)
  | .vfexp2 d a k => some (vr 0x26#6 d a 0#5 0#3 k 17#5)
  | .vfcvtif d a k => some (vr 0x26#6 d a 0#5 0#3 k 18#5)
  | .vfcvtfi d a k => some (vr 0x26#6 d a 0#5 0#3 k 19#5)
  | .vfnarrow d a k => some (vr 0x26#6 d a 0#5 0#3 k 20#5)
  | .vfwiden d a k => some (vr 0x26#6 d a 0#5 0#3 k 21#5)
  | .vfaddX d a b k => some (vr 0x27#6 d a b 0#3 k 0#5)
  | .vfsubX d a b k => some (vr 0x27#6 d a b 0#3 k 1#5)
  | .vfmulX d a b k => some (vr 0x27#6 d a b 0#3 k 2#5)
  | .vfdivX d a b k => some (vr 0x27#6 d a b 0#3 k 3#5)
  | .vfminX d a b k => some (vr 0x27#6 d a b 0#3 k 5#5)
  | .vfmaxX d a b k => some (vr 0x27#6 d a b 0#3 k 6#5)
  | .vfmaddX d a b k => some (vr 0x27#6 d a b 0#3 k 7#5)
  | .vfmsubX d a b k => some (vr 0x27#6 d a b 0#3 k 8#5)
  | .vfnmaddX d a b k => some (vr 0x27#6 d a b 0#3 k 9#5)
  | .vfnmsubX d a b k => some (vr 0x27#6 d a b 0#3 k 10#5)
  | .vfsgnjX d a b k => some (vr 0x27#6 d a b 0#3 k 11#5)
  | .vfsgnjnX d a b k => some (vr 0x27#6 d a b 0#3 k 12#5)
  | .vfsgnjxX d a b k => some (vr 0x27#6 d a b 0#3 k 13#5)
  | .vredsum d a b k => some (vr 0x28#6 d a b 0#3 k 0#5)
  | .vredmin d a b k => some (vr 0x28#6 d a b 0#3 k 1#5)
  | .vredmax d a b k => some (vr 0x28#6 d a b 0#3 k 2#5)
  | .vredminn d a b k => some (vr 0x28#6 d a b 0#3 k 3#5)
  | .vredmaxn d a b k => some (vr 0x28#6 d a b 0#3 k 4#5)
  | .vredand d a b k => some (vr 0x28#6 d a b 0#3 k 5#5)
  | .vredor d a b k => some (vr 0x28#6 d a b 0#3 k 6#5)
  | .vredxor d a b k => some (vr 0x28#6 d a b 0#3 k 7#5)
  | .vfredsum d a b k => some (vr 0x28#6 d a b 0#3 k 8#5)
  | .vfredmin d a b k => some (vr 0x28#6 d a b 0#3 k 9#5)
  | .vfredmax d a b k => some (vr 0x28#6 d a b 0#3 k 10#5)
  | .vpopc s k => some (vr 0x28#6 0#5 (0#2 ++ s) 0#5 0#3 k 11#5)
  | .vpopq s k => some (vr 0x28#6 0#5 (0#2 ++ s) 0#5 0#3 k 12#5)
  | .vfirst s k => some (vr 0x28#6 0#5 (0#2 ++ s) 0#5 0#3 k 13#5)
  | .viota d s k => some (vr 0x28#6 d (0#2 ++ s) 0#5 0#3 k 14#5)
  | .vid d k => some (vr 0x28#6 d 0#5 0#5 0#3 k 15#5)
  | .mand d a b => some (vr 0x28#6 (0#2 ++ d) (0#2 ++ a) (0#2 ++ b) 0#3 0#3 16#5)
  | .mor d a b => some (vr 0x28#6 (0#2 ++ d) (0#2 ++ a) (0#2 ++ b) 0#3 0#3 17#5)
  | .mxor d a b => some (vr 0x28#6 (0#2 ++ d) (0#2 ++ a) (0#2 ++ b) 0#3 0#3 18#5)
  | .mandn d a b => some (vr 0x28#6 (0#2 ++ d) (0#2 ++ a) (0#2 ++ b) 0#3 0#3 19#5)
  | .mnot d a => some (vr 0x28#6 (0#2 ++ d) (0#2 ++ a) 0#5 0#3 0#3 20#5)
  | .mslide1 d a => some (vr 0x28#6 (0#2 ++ d) (0#2 ++ a) 0#5 0#3 0#3 21#5)
  | .msbf d a => some (vr 0x28#6 (0#2 ++ d) (0#2 ++ a) 0#5 0#3 0#3 22#5)
  | .mmv d a => some (vr 0x28#6 (0#2 ++ d) (0#2 ++ a) 0#5 0#3 0#3 23#5)
  | .mfromv d a k => some (vr 0x28#6 (0#2 ++ d) a 0#5 0#3 k 24#5)
  | .mtov d s k => some (vr 0x28#6 d (0#2 ++ s) 0#5 0#3 k 25#5)
  | .vslideup d a b k => some (vr 0x29#6 d a b 0#3 k 0#5)
  | .vslidedn d a b k => some (vr 0x29#6 d a b 0#3 k 1#5)
  | .vslide1up d a b k => some (vr 0x29#6 d a b 0#3 k 2#5)
  | .vslide1dn d a b k => some (vr 0x29#6 d a b 0#3 k 3#5)
  | .vpermx d a b k => some (vr 0x29#6 d a b 0#3 k 4#5)
  | .vcompress d a s => some (vr 0x29#6 d a (0#2 ++ s) 0#3 0#3 5#5)
  | .vexpand d a s k => some (vr 0x29#6 d a (0#2 ++ s) 0#3 k 6#5)
  | .vrev d a k => some (vr 0x29#6 d a 0#5 0#3 k 7#5)
  | .vbcast d a b k => some (vr 0x29#6 d a b 0#3 k 8#5)
  | .vmvxv d b k => some (vr 0x29#6 d 0#5 b 0#3 k 9#5)
  | .vmvvx a => some (vr 0x29#6 0#5 a 0#5 0#3 0#3 10#5)
  | .vld d b k f => some (vm 0x2A#6 d b 0#5 0#3 k f)
  | .vldS d b s k f => some (vm 0x2A#6 d b s 1#3 k f)
  | .vldG d b n k f => some (vm 0x2A#6 d b (0#2 ++ n) 2#3 k f)
  | .vldI d b i k f => some (vm 0x2A#6 d b i 3#3 k f)
  | .vldFf d b k f => some (vm 0x2A#6 d b 0#5 4#3 k f)
  | .vst d b k f => some (vm 0x2B#6 d b 0#5 0#3 k f)
  | .vstS d b s k f => some (vm 0x2B#6 d b s 1#3 k f)
  | .vstG d b n k f => some (vm 0x2B#6 d b (0#2 ++ n) 2#3 k f)
  | .vstI d b i k f => some (vm 0x2B#6 d b i 3#3 k f)
  | .vsamoAdd d b i k => some (vm 0x2C#6 d b i 0#3 k 0#5)
  | .vsamoMin d b i k => some (vm 0x2C#6 d b i 0#3 k 1#5)
  | .vsamoMax d b i k => some (vm 0x2C#6 d b i 0#3 k 2#5)
  | .vsamoMinn d b i k => some (vm 0x2C#6 d b i 0#3 k 3#5)
  | .vsamoMaxn d b i k => some (vm 0x2C#6 d b i 0#3 k 4#5)
  | .vsamoAnd d b i k => some (vm 0x2C#6 d b i 0#3 k 5#5)
  | .vsamoOr d b i k => some (vm 0x2C#6 d b i 0#3 k 6#5)
  | .vsamoXor d b i k => some (vm 0x2C#6 d b i 0#3 k 7#5)
  | .vsamoSwap d b i k => some (vm 0x2C#6 d b i 0#3 k 8#5)
  | .vsldl d b i k => some (vm 0x2C#6 d b i 0#3 k 9#5)
  | .vsstu d b i k => some (vm 0x2C#6 d b i 0#3 k 10#5)
  | .amoadd d a b w => some (sr 0x2D#6 d a b (w ++ 0#5) 0#5)
  | .amomin d a b w => some (sr 0x2D#6 d a b (w ++ 0#5) 1#5)
  | .amomax d a b w => some (sr 0x2D#6 d a b (w ++ 0#5) 2#5)
  | .amominn d a b w => some (sr 0x2D#6 d a b (w ++ 0#5) 3#5)
  | .amomaxn d a b w => some (sr 0x2D#6 d a b (w ++ 0#5) 4#5)
  | .amoand d a b w => some (sr 0x2D#6 d a b (w ++ 0#5) 5#5)
  | .amoor d a b w => some (sr 0x2D#6 d a b (w ++ 0#5) 6#5)
  | .amoxor d a b w => some (sr 0x2D#6 d a b (w ++ 0#5) 7#5)
  | .amoswap d a b w => some (sr 0x2D#6 d a b (w ++ 0#5) 8#5)
  | .amocas d a b w => some (sr 0x2D#6 d a b (w ++ 0#5) 9#5)
  | .vamoadd d a b k => some (vr 0x2E#6 d a b 0#3 k 0#5)
  | .vamomin d a b k => some (vr 0x2E#6 d a b 0#3 k 1#5)
  | .vamomax d a b k => some (vr 0x2E#6 d a b 0#3 k 2#5)
  | .vamominn d a b k => some (vr 0x2E#6 d a b 0#3 k 3#5)
  | .vamomaxn d a b k => some (vr 0x2E#6 d a b 0#3 k 4#5)
  | .vamoand d a b k => some (vr 0x2E#6 d a b 0#3 k 5#5)
  | .vamoor d a b k => some (vr 0x2E#6 d a b 0#3 k 6#5)
  | .vamoxor d a b k => some (vr 0x2E#6 d a b 0#3 k 7#5)
  | .vamoswap d a b k => some (vr 0x2E#6 d a b 0#3 k 8#5)
  | .wbind w a b => some (vr 0x30#6 (0#2 ++ w) a b 0#3 0#3 0#5)
  | .wmode w b => some (vr 0x30#6 (0#2 ++ w) 0#5 b 0#3 0#3 1#5)
  | .wform w a b => some (vr 0x30#6 (0#2 ++ w) a b 0#3 0#3 2#5)
  | .wopen w => some (vr 0x30#6 (0#2 ++ w) 0#5 0#5 0#3 0#3 3#5)
  | .wclose w => some (vr 0x30#6 (0#2 ++ w) 0#5 0#5 0#3 0#3 4#5)
  | .wflush w => some (vr 0x30#6 (0#2 ++ w) 0#5 0#5 0#3 0#3 5#5)
  | .wdrop w => some (vr 0x30#6 (0#2 ++ w) 0#5 0#5 0#3 0#3 6#5)
  | .wbindi s w a b => some (vr 0x30#6 (s ++ w) a b 0#3 0#3 7#5)
  | .wnext w => some (vr 0x30#6 (0#2 ++ w) 0#5 0#5 0#3 0#3 8#5)
  | .wstat w => some (vr 0x30#6 (0#2 ++ w) 0#5 0#5 0#3 0#3 9#5)
  | .wld d w x k => some (wm 0x31#6 d w 0#1 x 0#3 k 0#6)
  | .wldS d w x k o => some (wm 0x31#6 d w 0#1 x 1#3 k o)
  | .wldX d w x k => some (wm 0x31#6 d w 0#1 x 2#3 k 0#6)
  | .wldG d w x k n => some (wm 0x31#6 d w 0#1 x 3#3 k (0#3 ++ n))
  | .wldD1 d w x k => some (wm 0x31#6 d w 0#1 x 4#3 k 0#6)
  | .wst d w x k => some (wm 0x32#6 d w 0#1 x 0#3 k 0#6)
  | .wstS d w x k o => some (wm 0x32#6 d w 0#1 x 1#3 k o)
  | .wstX d w x k => some (wm 0x32#6 d w 0#1 x 2#3 k 0#6)
  | .wstG d w x k n => some (wm 0x32#6 d w 0#1 x 3#3 k (0#3 ++ n))
  | .wstD1 d w x k => some (wm 0x32#6 d w 0#1 x 4#3 k 0#6)
  | .ibegin s => some (vr 0x34#6 (0#3 ++ s) 0#5 0#5 0#3 0#3 0#5)
  | .irange s a b => some (vr 0x34#6 (0#3 ++ s) a b 0#3 0#3 1#5)
  | .ilist s a b => some (vr 0x34#6 (0#3 ++ s) a b 0#3 0#3 2#5)
  | .ictr s c => some (vr 0x34#6 (0#3 ++ s) (0#2 ++ c) 0#5 0#3 0#3 3#5)
  | .imap s a b => some (vr 0x34#6 (0#3 ++ s) a b 0#3 0#3 4#5)
  | .imapt s a b => some (vr 0x34#6 (0#3 ++ s) a b 0#3 0#3 5#5)
  | .ifiltb s a b => some (vr 0x34#6 (0#3 ++ s) a b 0#3 0#3 6#5)
  | .ifiltc s a b => some (vr 0x34#6 (0#3 ++ s) a b 0#3 0#3 7#5)
  | .izip s t => some (vr 0x34#6 (0#3 ++ s) (0#3 ++ t) 0#5 0#3 0#3 8#5)
  | .ichain s t => some (vr 0x34#6 (0#3 ++ s) (0#3 ++ t) 0#5 0#3 0#3 9#5)
  | .iflat s a => some (vr 0x34#6 (0#3 ++ s) a 0#5 0#3 0#3 10#5)
  | .ifill s f => some (vr 0x34#6 (0#3 ++ s) 0#5 (0#4 ++ f) 0#3 0#3 11#5)
  | .inext s v => some (vr 0x34#6 (0#3 ++ s) v 0#5 0#3 0#3 12#5)
  | .ienough s => some (vr 0x34#6 (0#3 ++ s) 0#5 0#5 0#3 0#3 13#5)
  | .istat s => some (vr 0x34#6 (0#3 ++ s) 0#5 0#5 0#3 0#3 14#5)
  | .iseal s => some (vr 0x34#6 (0#3 ++ s) 0#5 0#5 0#3 0#3 15#5)
  | .mlds w b => some (vr 0x36#6 (0#2 ++ w) 0#5 b 0#3 0#3 0#5)
  | .mldsv a b => some (vr 0x36#6 0#5 a b 0#3 0#3 1#5)
  | .mswap => some (vr 0x36#6 0#5 0#5 0#5 0#3 0#3 2#5)
  | .mzero => some (vr 0x36#6 0#5 0#5 0#5 0#3 0#3 3#5)
  | .mrow d a => some (vr 0x36#6 d a 0#5 0#3 0#3 4#5)
  | .mrowa d a => some (vr 0x36#6 d a 0#5 0#3 0#3 5#5)
  | .mrows d a m => some (vr 0x36#6 d a (0#2 ++ m) 0#3 0#3 6#5)
  | .mrowsa d a m => some (vr 0x36#6 d a (0#2 ++ m) 0#3 0#3 7#5)
  | .mroww d w => some (vr 0x36#6 d (0#2 ++ w) 0#5 0#3 0#3 8#5)
  | .mrowwa d w => some (vr 0x36#6 d (0#2 ++ w) 0#5 0#3 0#3 9#5)
  | .mwait => some (vr 0x36#6 0#5 0#5 0#5 0#3 0#3 10#5)
  | .kvset s c => some (vr 0x37#6 0#5 0#5 s (0#2 ++ c) 0#3 0#5)
  | .kvxlat d a s c k => some (vr 0x37#6 d a s (0#2 ++ c) k 1#5)
  | .kvxlatf d a s c k => some (vr 0x37#6 d a s (0#2 ++ c) k 2#5)
  | .attn d a s c => some (vr 0x37#6 d a s (0#2 ++ c) 0#3 3#5)
  | .attnc d a s c => some (vr 0x37#6 d a s (0#2 ++ c) 0#3 4#5)
  | .kvapp d a s c => some (vr 0x37#6 d a s (0#2 ++ c) 0#3 5#5)
  | .kvinv s c => some (vr 0x37#6 0#5 0#5 s (0#2 ++ c) 0#3 6#5)
  | .kvstat c => some (vr 0x37#6 0#5 0#5 0#5 (0#2 ++ c) 0#3 7#5)
  | .attnBlock .. => none
  | .fence => some (sr 0x38#6 0#5 0#5 0#5 0#6 0#5)
  | .vfence => some (sr 0x38#6 0#5 0#5 0#5 0#6 1#5)
  | .lsync => some (sr 0x38#6 0#5 0#5 0#5 0#6 2#5)
  | .barrive a => some (sr 0x38#6 0#5 a 0#5 0#6 3#5)
  | .bwait a b => some (sr 0x38#6 0#5 a b 0#6 4#5)
  | .binit a b => some (sr 0x38#6 0#5 a b 0#6 5#5)
  | .bwaitReturn .. => none
  | .tlwait e a => some (sr 0x38#6 e a 0#5 0#6 6#5)
  | .hevt a => some (sr 0x38#6 0#5 a 0#5 0#6 7#5)
  | .hwait a => some (sr 0x38#6 0#5 a 0#5 0#6 8#5)
  | .harm a => some (sr 0x38#6 0#5 a 0#5 0#6 9#5)
  | .harnessCycle .. => none
  | .xsend a b => some (vr 0x39#6 0#5 a b 0#3 0#3 0#5)
  | .xrecv d b => some (vr 0x39#6 d 0#5 b 0#3 0#3 1#5)
  | .xstep d a b k => some (vr 0x39#6 d a b 0#3 k 2#5)
  | .xredsum d a k => some (vr 0x39#6 d a 0#5 0#3 k 3#5)
  | .xredmax d a k => some (vr 0x39#6 d a 0#5 0#3 k 4#5)
  | .xbcast d a b k => some (vr 0x39#6 d a b 0#3 k 5#5)
  | .xring d a b => some (vr 0x39#6 d a b 0#3 0#3 6#5)
  | .xstat d => some (vr 0x39#6 d 0#5 0#5 0#3 0#3 7#5)
  | .exchangePairTransfer .. => none
  | .exchangeWatchdogExpiry .. => none
  | .ringCommit .. => none
  | .ringAbortNotice .. => none
  | .launch a => some (sr 0x3A#6 0#5 a 0#5 0#6 0#5)
  | .launcht d a => some (sr 0x3A#6 d a 0#5 0#6 1#5)
  | .lwait d a => some (sr 0x3A#6 d a 0#5 0#6 2#5)
  | .tret => some (sr 0x3B#6 0#5 0#5 0#5 0#6 0#5)
  | .ctxsave a => some (sr 0x3B#6 0#5 a 0#5 0#6 1#5)
  | .ctxload a => some (sr 0x3B#6 0#5 a 0#5 0#6 2#5)
  | .xlinv a b => some (sr 0x3B#6 0#5 a b 0#6 3#5)
  | .xlinva => some (sr 0x3B#6 0#5 0#5 0#5 0#6 4#5)
  | .wfe => some (sr 0x3B#6 0#5 0#5 0#5 0#6 5#5)
  | .halt => some (sr 0x3B#6 0#5 0#5 0#5 0#6 6#5)
  | .caprd d a => some (sr 0x3B#6 d a 0#5 0#6 7#5)
  | .wfeTimeout .. => none
  | .reservedWord w => some w
  | .loopWrap .. => none
  | .slabLanded .. => none
  | .writebackPerformed .. => none
  | .streamRowEnter .. => none
  | .iteratorTableRead .. => none
  | .matrixOpStart .. => none
  | .matrixOpComplete .. => none
  | .placeStart .. => none
  | .hardPreemption .. => none
  | .preemptLeftExpiry .. => none
  | .supervisorPreemptTimeout .. => none
  | .contextRestore .. => none
  | .parentStallSwap .. => none
  | .priorityPromotion .. => none
  | .doorbell .. => none
  | .completionHead .. => none
  | .registerWrite .. => none
  | .priqWrite .. => none
  | .queueCreate .. => none
  | .queueSwapIn .. => none
  | .queueReset .. => none
  | .packetDispatch .. => none
  | .childDispatch .. => none
  | .transferDispatch .. => none
  | .transferRetire .. => none
  | .launchRetire .. => none
  | .completionRecordWrite .. => none
  | .pageResponse .. => none
  | .atsInvalidation .. => none
  | .functionLevelReset .. => none
  | .packetAgeEscalation .. => none
  | .meshRestitch .. => none
  | .lamefFlitReceive .. => none
  | .lamefFlitReplay .. => none
  | .lamefPortDown .. => none
  | .memoryDoubleError .. => none
  | .coldReset => none
  | .hotReset => none
  | .configRequest .. => none
  | .powerStateChange .. => none
  | .tenantCreate .. => none
  | .tenantTeardown .. => none
  | .pageReassign .. => none
  | .partitionChange .. => none
  | .getVersion => none
  | .getCapabilities => none
  | .negotiateAlgorithms .. => none
  | .getDigests => none
  | .getCertificate .. => none
  | .challenge .. => none
  | .getMeasurements .. => none
  | .accessPerformed .. => none
  | .kvWalkerReadReturn .. => none
  | .exchangeRefused .. => none
  | .ringStepMessage .. => none
  | .singleBitError .. => none

/-- The word of an instruction as TRAPVAL holds it (R311); 0 for an event, which raises no such trap. -/
def encodeWord (i : Instr) : Insn := (encode i).getD 0

end Sys2Proof
end

