-- ==== Sys2Proof/Machine/Float.lean ====
section
/-!
DEFINITION. Binary floating point: exact values, and RoundF32 and RoundBF16 with their flags (R50, R98, R99,
R105 to R108, R213). A finite value is a sign, a natural significand and a power of two, so every sum and
product is exact until it is rounded once.
-/

namespace Sys2Proof.Machine

/-- FFLAGS bits (R98): NV, DZ, OF, UF, NX from bit 4 down. -/
abbrev Flags := BitVec 5
def fNV : Flags := 0x10
def fDZ : Flags := 0x08
def fOF : Flags := 0x04
def fUF : Flags := 0x02
def fNX : Flags := 0x01

/-- A binary format of IEEE 754: exponent bits, fraction bits. -/
structure FFmt where
  eb : Nat
  mb : Nat
  deriving DecidableEq, Repr

def f32 : FFmt := ⟨8, 23⟩
def bf16 : FFmt := ⟨8, 7⟩
def f16 : FFmt := ⟨5, 10⟩
def e5m2 : FFmt := ⟨5, 2⟩

def FFmt.bias (f : FFmt) : Nat := 2 ^ (f.eb - 1) - 1
/-- Exponent of the smallest normal number. -/
def FFmt.emin (f : FFmt) : Int := 1 - (f.bias : Int)
def FFmt.width (f : FFmt) : Nat := 1 + f.eb + f.mb
def FFmt.infCode (f : FFmt) : Nat := (2 ^ f.eb - 1) * 2 ^ f.mb
def FFmt.signBit (f : FFmt) : Nat := 2 ^ (f.eb + f.mb)
/-- The canonical NaN (R50). -/
def FFmt.canonNaN (f : FFmt) : Nat := f.infCode + 2 ^ (f.mb - 1)

/-- An exact value: (-1)^neg * m * 2^e, an infinity, or a NaN with whether it signals. -/
inductive Num where
  | nan (sig : Bool)
  | inf (neg : Bool)
  | fin (neg : Bool) (m : Nat) (e : Int)
  deriving DecidableEq, Repr

/-- The value of a code of a format (R50). -/
def decodeF (f : FFmt) (w : Nat) : Num :=
  let neg := w / f.signBit % 2 == 1
  let mag := w % f.signBit
  let ef := mag / 2 ^ f.mb
  let fr := mag % 2 ^ f.mb
  if ef == 2 ^ f.eb - 1 then
    if fr == 0 then .inf neg else .nan (fr < 2 ^ (f.mb - 1))
  else if ef == 0 then .fin neg fr (f.emin - f.mb)
  else .fin neg (2 ^ f.mb + fr) (f.emin - f.mb + (ef - 1 : Nat))

def Num.isNaN : Num → Bool
  | .nan _ => true
  | _ => false

def Num.isSig : Num → Bool
  | .nan s => s
  | _ => false

/-- An exact result before rounding; `sticky` says that the true value lies strictly above m in magnitude,
by less than one unit of 2^e. -/
inductive Ex where
  | nan
  | inf (neg : Bool)
  | fin (neg : Bool) (m : Nat) (e : Int) (sticky : Bool)
  deriving DecidableEq, Repr

/-- Whether a magnitude n + rem/2^sh rounds up, by FCR.RM (R98): 0 RNE, 1 RTZ, 2 RDN, 3 RUP, 4 RMM. -/
def roundsUp (mode : BitVec 3) (neg odd : Bool) (rem half : Nat) (sticky : Bool) : Bool :=
  let inexact := rem != 0 || sticky
  if mode == 1 then false
  else if mode == 2 then neg && inexact
  else if mode == 3 then !neg && inexact
  else if mode == 4 then half != 0 && rem ≥ half
  else half != 0 && (rem > half || (rem == half && (sticky || odd)))

/-- m * 2^e cut at the quantum 2^q: the rounded multiple of 2^q, and whether it is inexact. -/
def roundAt (mode : BitVec 3) (neg : Bool) (m : Nat) (e q : Int) (sticky : Bool) : Nat × Bool :=
  if q ≤ e then
    let n := m <<< (e - q).toNat
    (if roundsUp mode neg (n % 2 == 1) 0 0 sticky then n + 1 else n, sticky)
  else
    let sh := (q - e).toNat
    let n := m >>> sh
    let rem := m - n <<< sh
    (if roundsUp mode neg (n % 2 == 1) rem (1 <<< (sh - 1)) sticky then n + 1 else n, rem != 0 || sticky)

def signed (f : FFmt) (neg : Bool) (mag : Nat) : Nat := if neg then f.signBit + mag else mag

/-- RoundF32 and RoundBF16 (R50): the code and the flags OF, UF (tiny after rounding and inexact) and NX. -/
def roundEx (f : FFmt) (mode : BitVec 3) : Ex → Nat × Flags
  | .nan => (f.canonNaN, 0)
  | .inf neg => (signed f neg f.infCode, 0)
  | .fin neg m e sticky =>
    if m == 0 then (signed f neg 0, 0)
    else
      let top := e + Nat.log2 m
      let qn := top - f.mb
      let q := max qn (f.emin - f.mb)
      let r := roundAt mode neg m e q sticky
      let mag := (q - (f.emin - f.mb)).toNat * 2 ^ f.mb + r.1
      if mag ≥ f.infCode then
        let toInf := if mode == 1 then false else if mode == 2 then neg else if mode == 3 then !neg else true
        (signed f neg (if toInf then f.infCode else f.infCode - 1), fOF ||| fNX)
      else
        let tiny := top < f.emin && !(top == f.emin - 1 && (roundAt mode neg m e qn sticky).1 == 2 ^ (f.mb + 1))
        (signed f neg mag, (if r.2 then fNX else 0) ||| (if r.2 && tiny then fUF else 0))

/-- The exact value of a finite Num as an Ex. -/
def Num.toEx : Num → Ex
  | .nan _ => .nan
  | .inf n => .inf n
  | .fin n m e => .fin n m e false

/-- (-1)^neg * m * 2^e as an integer multiple of 2^q, for q at most e. -/
def scaled (neg : Bool) (m : Nat) (e q : Int) : Int :=
  if neg then -((m <<< (e - q).toNat : Nat) : Int) else ((m <<< (e - q).toNat : Nat) : Int)

/-- Exact a + b of finite values; an exact zero of unlike signs is -0 only under RDN (IEEE 754). -/
def addFin (mode : BitVec 3) (n1 : Bool) (m1 : Nat) (e1 : Int) (n2 : Bool) (m2 : Nat) (e2 : Int) : Ex :=
  let q := min e1 e2
  let t := scaled n1 m1 e1 q + scaled n2 m2 e2 q
  if t == 0 then .fin (if n1 == n2 then n1 else mode == 2) 0 0 false
  else .fin (t < 0) t.natAbs q false

def nvIf (b : Bool) : Flags := if b then fNV else 0

/-- a + b (R105). -/
def exAdd (mode : BitVec 3) (a b : Num) : Ex × Flags :=
  match a, b with
  | .nan s, y => (.nan, nvIf (s || y.isSig))
  | x, .nan s => (.nan, nvIf (s || x.isSig))
  | .inf n1, .inf n2 => if n1 == n2 then (.inf n1, 0) else (.nan, fNV)
  | .inf n, _ => (.inf n, 0)
  | _, .inf n => (.inf n, 0)
  | .fin n1 m1 e1, .fin n2 m2 e2 => (addFin mode n1 m1 e1 n2 m2 e2, 0)

def Num.neg : Num → Num
  | .nan s => .nan s
  | .inf n => .inf (!n)
  | .fin n m e => .fin (!n) m e

def exSub (mode : BitVec 3) (a b : Num) : Ex × Flags := exAdd mode a b.neg

/-- The product as a Num: a NaN result is quiet, `true` beside it says 0 * ∞ (R105). -/
def mulNum (a b : Num) : Num × Bool :=
  match a, b with
  | .nan s, y => (.nan (s || y.isSig), false)
  | x, .nan s => (.nan (s || x.isSig), false)
  | .inf n1, .inf n2 => (.inf (n1 != n2), false)
  | .inf n1, .fin n2 m _ => if m == 0 then (.nan false, true) else (.inf (n1 != n2), false)
  | .fin n1 m _, .inf n2 => if m == 0 then (.nan false, true) else (.inf (n1 != n2), false)
  | .fin n1 m1 e1, .fin n2 m2 e2 => (.fin (n1 != n2) (m1 * m2) (e1 + e2), false)

def exMul (a b : Num) : Ex × Flags :=
  let p := mulNum a b
  (p.1.toEx, nvIf (p.2 || p.1.isSig))

/-- ±(a*b) ± d, rounded once (R105). 0 * ∞ raises NV whatever d holds. -/
def exFma (mode : BitVec 3) (negP negD : Bool) (a b d : Num) : Ex × Flags :=
  let p := mulNum a b
  let q := if negP then p.1.neg else p.1
  let d' := if negD then d.neg else d
  let r := exAdd mode q d'
  (r.1, r.2 ||| nvIf p.2)

/-- a / b (R105): NV for 0/0 and ∞/∞, DZ for finite nonzero / 0. A NaN operand of either kind gives the canonical NaN
without a flag: the table names no sNaN for VFDIV. -/
def exDiv (a b : Num) : Ex × Flags :=
  match a, b with
  | .nan _, _ => (.nan, 0)
  | _, .nan _ => (.nan, 0)
  | .inf _, .inf _ => (.nan, fNV)
  | .inf n1, .fin n2 _ _ => (.inf (n1 != n2), 0)
  | .fin n1 _ _, .inf n2 => (.fin (n1 != n2) 0 0 false, 0)
  | .fin n1 m1 e1, .fin n2 m2 e2 =>
    if m2 == 0 then if m1 == 0 then (.nan, fNV) else (.inf (n1 != n2), fDZ)
    else
      let k := 64 + Nat.log2 m2
      let n := m1 <<< k
      (.fin (n1 != n2) (n / m2) (e1 - e2 - k) (n % m2 != 0), 0)

/-- Integer square root, one result bit per unit of fuel. -/
def isqrt (n : Nat) : Nat → Nat → Nat
  | 0, r => r
  | i + 1, r => if (r + 2 ^ i) * (r + 2 ^ i) ≤ n then isqrt n i (r + 2 ^ i) else isqrt n i r

/-- √a (R105): √-0 = -0, NV below zero; a NaN of either kind gives the canonical NaN without a flag. -/
def exSqrt : Num → Ex × Flags
  | .nan _ => (.nan, 0)
  | .inf n => if n then (.nan, fNV) else (.inf false, 0)
  | .fin n m e =>
    if m == 0 then (.fin n 0 0 false, 0)
    else if n then (.nan, fNV)
    else
      let odd := (e % 2).toNat
      let big := m <<< (80 + odd)
      let r := isqrt big 64 0
      (.fin false r ((e - odd - 80) / 2) (r * r != big), 0)

/-- Order of two values, with -0 = +0; a NaN is less than nothing and nothing is less than it. -/
def numLt (a b : Num) : Bool :=
  match a, b with
  | .nan _, _ => false
  | _, .nan _ => false
  | .inf true, .inf true => false
  | .inf true, _ => true
  | _, .inf true => false
  | .inf false, _ => false
  | _, .inf false => true
  | .fin n1 m1 e1, .fin n2 m2 e2 =>
    let q := min e1 e2
    scaled n1 m1 e1 q < scaled n2 m2 e2 q

def numEq (a b : Num) : Bool :=
  match a, b with
  | .nan _, _ => false
  | _, .nan _ => false
  | x, y => !numLt x y && !numLt y x

def Num.isNeg : Num → Bool
  | .nan _ => false
  | .inf n => n
  | .fin n _ _ => n

/-- VFMIN and VFMAX on codes (R105): -0 < +0, one NaN gives the other operand. With one signalling NaN and a number the
pseudocode's comment (canonical NaN where NV is set) and the row (the other operand) differ: the model gives the other
operand, with NV (DEDUCED, log 37). -/
def fMinMax (f : FFmt) (wantMax : Bool) (wa wb : Nat) : Nat × Flags :=
  let a := decodeF f wa
  let b := decodeF f wb
  let nv := nvIf (a.isSig || b.isSig)
  if a.isNaN then (if b.isNaN then f.canonNaN else wb, nv)
  else if b.isNaN then (wa, nv)
  else
    let less := numLt a b || (numEq a b && a.isNeg && !b.isNeg)
    (if less == wantMax then wb else wa, nv)

/-- Max of R235: the IEEE maximum; any NaN gives the canonical NaN. -/
def ieeeMax (wa wb : Nat) : Nat :=
  if (decodeF f32 wa).isNaN || (decodeF f32 wb).isNaN then f32.canonNaN else (fMinMax f32 true wa wb).1

/-- Add of R213. -/
def addF32 (x y : Nat) : Nat := (roundEx f32 0 (exAdd 0 (decodeF f32 x) (decodeF f32 y)).1).1

def mulF32 (x y : Nat) : Nat := (roundEx f32 0 (exMul (decodeF f32 x) (decodeF f32 y)).1).1

def subF32 (x y : Nat) : Nat := (roundEx f32 0 (exSub 0 (decodeF f32 x) (decodeF f32 y)).1).1

def divF32 (x y : Nat) : Nat := (roundEx f32 0 (exDiv (decodeF f32 x) (decodeF f32 y)).1).1

/-- GroupSum (R213) over exact products. -/
def groupSum (ps : List (Num × Bool)) : Nat :=
  if ps.any (fun p => p.1.isNaN || p.2) then f32.canonNaN
  else
    let pos := ps.any (fun p => p.1 == .inf false)
    let neg := ps.any (fun p => p.1 == .inf true)
    if pos && neg then f32.canonNaN
    else if pos then f32.infCode
    else if neg then signed f32 true f32.infCode
    else
      let q : Int := -400
      let tot := ps.foldl (fun (t : Int) p => match p.1 with
        | .fin n m e => t + scaled n m e q
        | _ => t) 0
      if tot == 0 then
        if !ps.isEmpty && ps.all (fun p => p.1.isNeg) then signed f32 true 0 else 0
      else (roundEx f32 0 (.fin (tot < 0) tot.natAbs q false)).1

/-- One-hot class of VFCLASS (R106). -/
def classF (f : FFmt) (w : Nat) : Nat :=
  match decodeF f w with
  | .inf true => 1
  | .inf false => 2 ^ 7
  | .nan true => 2 ^ 8
  | .nan false => 2 ^ 9
  | .fin n m _ =>
    if m == 0 then (if n then 2 ^ 3 else 2 ^ 4)
    else if m < 2 ^ f.mb then (if n then 2 ^ 2 else 2 ^ 5)
    else if n then 2 else 2 ^ 6

/-- T8 of R106: a magnitude truncated to 8 significant bits. -/
def trunc8 (neg : Bool) (m : Nat) (e : Int) : Ex :=
  let l := Nat.log2 m
  if l < 8 then .fin neg m e false
  else .fin neg (m >>> (l - 7)) (e + (l - 7 : Nat)) false

/-- VFRECE before its rounding (R106). -/
def exRece : Num → Ex × Flags
  | .nan s => (.nan, nvIf s)
  | .inf n => (.fin n 0 0 false, 0)
  | .fin n m e =>
    if m == 0 then (.inf n, fDZ)
    else
      let k := 64 + Nat.log2 m
      (trunc8 n (2 ^ k / m) (-e - k), 0)

/-- VFRSQE before its rounding (R106). -/
def exRsqe : Num → Ex × Flags
  | .nan s => (.nan, nvIf s)
  | .inf n => if n then (.nan, fNV) else (.fin false 0 0 false, 0)
  | .fin n m e =>
    if m == 0 then (.inf n, fDZ)
    else if n then (.nan, fNV)
    else
      let odd := (e % 2).toNat
      let v := m <<< odd
      let k := 100 + Nat.log2 v
      -- r = floor(√(2^(2k) / v)), so the result is r * 2^(-k) * 2^(-(e - odd)/2)
      let r := isqrt (2 ^ (2 * k) / v) (k + 1) 0
      (trunc8 false r (-(k : Int) - (e - odd) / 2), 0)

/-- floor of a finite value. -/
def floorNum (neg : Bool) (m : Nat) (e : Int) : Int :=
  if 0 ≤ e then (if neg then -((m <<< e.toNat : Nat) : Int) else ((m <<< e.toNat : Nat) : Int))
  else
    let sh := (-e).toNat
    if neg then -(((m + (1 <<< sh) - 1) >>> sh : Nat) : Int) else ((m >>> sh : Nat) : Int)

/-- T[j] = RoundF32(2^(j/64), RNE) (R236), for j from 0 to 63. -/
def exp2Table : List Nat :=
  [0x3F800000, 0x3F8164D2, 0x3F82CD87, 0x3F843A29, 0x3F85AAC3, 0x3F871F62, 0x3F88980F, 0x3F8A14D5] ++
  [0x3F8B95C2, 0x3F8D1ADF, 0x3F8EA43A, 0x3F9031DC, 0x3F91C3D3, 0x3F935A2B, 0x3F94F4F0, 0x3F96942D] ++
  [0x3F9837F0, 0x3F99E046, 0x3F9B8D3A, 0x3F9D3EDA, 0x3F9EF532, 0x3FA0B051, 0x3FA27043, 0x3FA43516] ++
  [0x3FA5FED7, 0x3FA7CD94, 0x3FA9A15B, 0x3FAB7A3A, 0x3FAD583F, 0x3FAF3B79, 0x3FB123F6, 0x3FB311C4] ++
  [0x3FB504F3, 0x3FB6FD92, 0x3FB8FBAF, 0x3FBAFF5B, 0x3FBD08A4, 0x3FBF179A, 0x3FC12C4D, 0x3FC346CD] ++
  [0x3FC5672A, 0x3FC78D75, 0x3FC9B9BE, 0x3FCBEC15, 0x3FCE248C, 0x3FD06334, 0x3FD2A81E, 0x3FD4F35B] ++
  [0x3FD744FD, 0x3FD99D16, 0x3FDBFBB8, 0x3FDE60F5, 0x3FE0CCDF, 0x3FE33F89, 0x3FE5B907, 0x3FE8396A] ++
  [0x3FEAC0C7, 0x3FED4F30, 0x3FEFE4BA, 0x3FF28177, 0x3FF5257D, 0x3FF7D0DF, 0x3FFA83B3, 0x3FFD3E0C]

/-- c1 = FP32(ln 2) and c2 = FP32((ln 2)²/2) (R236). -/
def exp2C1 : Nat := 0x3F317218
def exp2C2 : Nat := 0x3E75FDF0

/-- ExpTwo up to p5 * 2^nn, exactly (R108). The operand is a value; `none` beside a code is a result that the
early returns give. -/
def expTwoEx (x : Num) : Ex × Flags :=
  match x with
  | .nan s => (.nan, nvIf s)
  | .inf n => if n then (.fin false 0 0 false, 0) else (.inf false, 0)
  | .fin n m e =>
    let nn := floorNum n m e
    if nn < -149 then (.fin false 0 0 false, 0)
    else
      let q := min e (-6)
      let f := scaled n m e q - nn * ((1 <<< (-q).toNat : Nat) : Int)
      let fn := f.toNat
      let unit := 1 <<< (-q - 6).toNat
      let j := fn / unit
      let t := fn % unit
      let p1 := (roundEx f32 0 (exMul (.fin false t q) (decodeF f32 exp2C2)).1).1
      let p2 := addF32 exp2C1 p1
      let p3 := (roundEx f32 0 (exMul (.fin false t q) (decodeF f32 p2)).1).1
      let p4 := addF32 0x3F800000 p3
      let p5 := mulF32 (exp2Table.getD j 0) p4
      match decodeF f32 p5 with
      | .fin n5 m5 e5 => (.fin n5 m5 (e5 + nn) false, 0)
      | y => (y.toEx, 0)

/-- ExpTwo as ATTN uses it: RNE at every step, no flag (R235). -/
def expTwoF32 (w : Nat) : Nat := (roundEx f32 0 (expTwoEx (decodeF f32 w)).1).1

/-- A value rounded to an integer by mode, and whether it was inexact (R107, R137). -/
def toInteger (mode : BitVec 3) (neg : Bool) (m : Nat) (e : Int) : Int × Bool :=
  let r := roundAt mode neg m e 0 false
  (if neg then -(r.1 : Int) else r.1, r.2)

/-- The value of an integer, exactly. -/
def intNum (i : Int) : Num := .fin (i < 0) i.natAbs 0

end Sys2Proof.Machine
end

