-- ==== Sys2Proof/Machine/Formats.lean ====
section
/-!
DEFINITION. The storage formats (R54, R118, R133 to R139): widening on load, narrowing on store, block records
and the near elements of windows (R152, R167).
-/

namespace Sys2Proof.Machine

/-! ### Shape of a format (R54, R118, R134) -/

/-- Bits of one element. -/
def fmtBits (fc : Nat) : Nat :=
  [32, 16, 16, 8, 8, 6, 6, 4, 8, 8, 6, 6, 4, 8, 8, 6, 8, 6, 8, 8, 4, 4, 8, 8, 16, 16, 32, 32, 64].getD fc 0

/-- Elements of a block of a scaled format, 0 for the others (R134). -/
def fmtBlock (fc : Nat) : Nat :=
  if (8 ≤ fc && fc ≤ 13) || fc == 16 || fc == 17 then 32 else if fc == 23 then 16 else 0

/-- RB of R134. -/
def fmtRec (fc : Nat) : Nat := 1 + (fmtBlock fc * fmtBits fc + 7) / 8

def fmtScaled (fc : Nat) : Bool := fmtBlock fc != 0

/-- A sub-byte format that is not scaled (R118). -/
def fmtSub (fc : Nat) : Bool := !fmtScaled fc && fmtBits fc < 8

/-- A format with a whole number of bytes per element, not scaled. -/
def fmtWhole (fc : Nat) : Bool := !fmtScaled fc && 8 ≤ fmtBits fc

/-- S of R118, for whole-byte formats. -/
def fmtBytes (fc : Nat) : Nat := fmtBits fc / 8

def fmtInt (fc : Nat) : Bool := (18 ≤ fc && fc ≤ 21) || (24 ≤ fc && fc ≤ 28)

def fmtSigned (fc : Nat) : Bool := fc == 18 || fc == 20 || fc == 24 || fc == 26

/-- The element format of a scaled code (R134). -/
def fmtElt (fc : Nat) : Nat :=
  if 8 ≤ fc && fc ≤ 12 then fc - 5 else if fc == 16 then 14 else if fc == 17 then 15 else fc

/-- emax of R134. -/
def fmtEmax (fc : Nat) : Int := ([8, 15, 2, 4, 2] : List Int).getD (fc - 8) 0

/-- Which element kinds and widths a VLD or VST of a format takes (R118). `unit` says that the mode is unit or
fault-only-first. -/
def fmtLegal (fc : Nat) (ek : Bool) (sew : Nat) (unit : Bool) : Bool :=
  if fc > 28 then false
  else if fmtInt fc then
    (unit || !fmtSub fc) &&
    (if fc ≤ 21 then (if ek then sew == 16 || sew == 32 else true)
     else !ek && (if fc ≤ 25 then 16 ≤ sew else if fc ≤ 27 then 32 ≤ sew else sew == 64))
  else ek && (sew == 16 || sew == 32) && (unit || fmtWhole fc)

/-! ### Values of codes (R133 to R135) -/

def fmtPlain (eb mb : Nat) : FFmt := ⟨eb, mb⟩

/-- A plain format without infinities (R133): bias 2^(eb-1) - 1. -/
def decodeNoInf (f : FFmt) (w : Nat) : Num :=
  let neg := w / f.signBit % 2 == 1
  let ef := w % f.signBit / 2 ^ f.mb
  let fr := w % 2 ^ f.mb
  if ef == 0 then .fin neg fr (f.emin - f.mb) else .fin neg (2 ^ f.mb + fr) (f.emin - f.mb + (ef - 1 : Nat))

/-- Length of the run of `b` from bit `i - 1` of m downward (R135). -/
def runLen (m : Nat) (b : Bool) : Nat → Nat
  | 0 => 0
  | i + 1 => if m.testBit i == b then runLen m b i + 1 else 0

/-- The magnitude of a tapered code of `n` magnitude bits, times 2^12 (R135). -/
def taperedMag (n m : Nat) : Nat :=
  if m == 0 then 0
  else
    let b := m.testBit (n - 1)
    let k := runLen m b n
    let regime : Int := if b then (k : Int) - 1 else -(k : Int)
    let left := n - k - 1
    let e := if left == 0 then 0 else if m.testBit (left - 1) then 1 else 0
    let fb := left - 1
    let fr := m % 2 ^ fb
    let ex := 2 * regime + (e : Int) + 12 - (fb : Int)
    if 0 ≤ ex then (2 ^ fb + fr) <<< ex.toNat else (2 ^ fb + fr) >>> (-ex).toNat

/-- The value of an element code, none for a reserved code (R133, R135). Scaled codes name their element
format. -/
def eltValue (fc w : Nat) : Option Num :=
  match fc with
  | 0 => some (decodeF f32 w)
  | 1 => some (decodeF bf16 w)
  | 2 => some (decodeF f16 w)
  | 3 => some (if w % 128 == 127 then .nan false else decodeNoInf ⟨4, 3⟩ w)
  | 4 => some (decodeF e5m2 w)
  | 5 => some (decodeNoInf ⟨2, 3⟩ w)
  | 6 => some (decodeNoInf ⟨3, 2⟩ w)
  | 7 => some (decodeNoInf ⟨2, 1⟩ w)
  | 13 => some (.fin (w ≥ 128) (if w ≥ 128 then 256 - w else w) (-6))
  | 23 => some (.fin (w ≥ 128) (if w ≥ 128 then 256 - w else w) (-6))
  | 14 => if w == 0x80 then none else some (.fin (w ≥ 128) (taperedMag 7 (w % 128)) (-12))
  | 15 => if w == 0x20 then none else some (.fin (w ≥ 32) (taperedMag 5 (w % 32)) (-12))
  | 22 => if w == 0xFF then none else some (.fin false 1 ((w : Int) - 127))
  | _ => some (.fin false 0 0)

def Num.shift (x : Num) (k : Int) : Num :=
  match x with
  | .fin n m e => .fin n m (e + k)
  | y => y

/-- A w-bit pattern read as signed. -/
def sInt (w x : Nat) : Int := if x ≥ 2 ^ (w - 1) then (x : Int) - (2 ^ w : Nat) else x

/-- An integer taken modulo 2^w. -/
def wrapI (w : Nat) (i : Int) : Nat := (i % (2 ^ w : Nat)).toNat

/-- The float format of a register width under EK = 1 (R45). -/
def fmtOf (sew : Nat) : FFmt := if sew == 16 then bf16 else f32

/-- Widen (R136): the register element of a stored code with its block scale, none for a reserved code or
scale. -/
def widen (fc : Nat) (ek : Bool) (sew code : Nat) (scale : Nat) : Option Nat :=
  if fmtInt fc then
    if fc == 28 then some code
    else
      let v := if fmtSigned fc then sInt (fmtBits fc) code else (code : Int)
      if ek then some (roundEx (fmtOf sew) 0 (intNum v).toEx).1 else some (wrapI sew v)
  else if fmtScaled fc && scale == 0xFF then none
  else
    match eltValue (fmtElt fc) code with
    | none => none
    | some v =>
      let v' := if fmtScaled fc then v.shift ((scale : Int) - 127) else v
      some (roundEx (fmtOf sew) 0 v'.toEx).1

/-! ### Narrowing (R137, R138) -/

def clampI (lo hi i : Int) : Int := if i < lo then lo else if hi < i then hi else i

/-- The code of a plain format without infinities, with its largest code; `nanOver` gives what an overflow
stores (R137). -/
def narrowNoInf (f : FFmt) (maxCode : Nat) (overNaN : Bool) (x : Num) : Nat :=
  let ovf (neg : Bool) := signed f neg (if overNaN then maxCode + 1 else maxCode)
  match x with
  | .nan _ => 0
  | .inf neg => ovf neg
  | .fin neg m e =>
    if m == 0 then signed f neg 0
    else
      let q := max (e + Nat.log2 m - f.mb) (f.emin - f.mb)
      let r := roundAt 0 neg m e q false
      let mag := (q - (f.emin - f.mb)).toNat * 2 ^ f.mb + r.1
      if mag > maxCode then ovf neg else signed f neg mag

/-- A store to an IEEE format (R137). -/
def narrowIeee (f : FFmt) (sat : Bool) (x : Num) : Nat :=
  let c := (roundEx f 0 x.toEx).1
  if sat && c % f.signBit == f.infCode then c - 1 else c

/-- The nearest power of two, a tie to the even code (R137). -/
def narrowE8m0 (x : Num) : Nat :=
  match x with
  | .nan _ => 0xFF
  | .inf neg => if neg then 0 else 0xFE
  | .fin neg m e =>
    if neg || m == 0 then 0
    else
      let l := Nat.log2 m
      let k := e + l + 127
      if k < 0 then 0
      else if k ≥ 254 then 0xFE
      else
        let c := k.toNat
        let mid := 3 * 2 ^ l
        if 2 * m > mid then c + 1 else if 2 * m == mid then (if c % 2 == 0 then c else c + 1) else c

/-- Comparison of a magnitude m * 2^e with v / 2^13: -1, 0 or 1. -/
def cmpMag (m : Nat) (e : Int) (v : Nat) : Int :=
  let q := min e (-13)
  let a := m <<< (e - q).toNat
  let b := v <<< (-13 - q).toNat
  if a < b then -1 else if a == b then 0 else 1

/-- The largest code of at most `fuel` whose magnitude is at most m * 2^e. -/
def taperedBelow (n m : Nat) (e : Int) : Nat → Nat
  | 0 => 0
  | c + 1 => if cmpMag m e (2 * taperedMag n (c + 1)) ≥ 0 then c + 1 else taperedBelow n m e c

/-- A store to a tapered format of n magnitude bits (R138). -/
def narrowTapered (n : Nat) (x : Num) : Nat :=
  let top := 2 ^ n - 1
  let sg (neg : Bool) (c : Nat) := if neg then 2 ^ n + c else c
  match x with
  | .nan _ => 2 ^ n
  | .inf neg => sg neg top
  | .fin neg m e =>
    if m == 0 then 0
    else
      let c := taperedBelow n m e top
      if c == 0 then sg neg 1
      else if c == top then sg neg top
      else
        let k := cmpMag m e (taperedMag n c + taperedMag n (c + 1))
        sg neg (if k < 0 then c else if k > 0 then c + 1 else if c % 2 == 0 then c else c + 1)

/-- The code of a plain or tapered format (R137, R138). -/
def narrowFloat (fc : Nat) (sat : Bool) (x : Num) : Nat :=
  match fc with
  | 0 => narrowIeee f32 sat x
  | 1 => narrowIeee bf16 sat x
  | 2 => narrowIeee f16 sat x
  | 3 => match x with
    | .nan _ => 0x7F
    | y => narrowNoInf ⟨4, 3⟩ 0x7E (!sat) y
  | 4 => narrowIeee e5m2 sat x
  | 5 => narrowNoInf ⟨2, 3⟩ 0x1F false x
  | 6 => narrowNoInf ⟨3, 2⟩ 0x1F false x
  | 7 => narrowNoInf ⟨2, 1⟩ 0x7 false x
  | 14 => narrowTapered 7 x
  | 15 => narrowTapered 5 x
  | 22 => narrowE8m0 x
  | _ => 0

/-- Narrow of R137 for an unscaled format: x is the register element, read as a float when ek holds. -/
def narrow (fc : Nat) (sat : Bool) (rm : BitVec 3) (ek : Bool) (sew x : Nat) : Nat :=
  if fmtInt fc then
    if fc == 28 then x
    else
      let w := fmtBits fc
      let lo : Int := if fmtSigned fc then -(2 ^ (w - 1) : Nat) else 0
      let hi : Int := if fmtSigned fc then (2 ^ (w - 1) : Nat) - 1 else (2 ^ w : Nat) - 1
      let v : Int :=
        if ek then
          match decodeF (fmtOf sew) x with
          | .nan _ => 0
          | .inf n => if n then lo else hi
          | .fin n m e => (toInteger rm n m e).1
        else if fmtSigned fc then sInt sew x else x
      wrapI w (clampI lo hi v)
  else narrowFloat fc sat (decodeF (fmtOf sew) x)

/-! ### Block records (R134, R139) -/

/-- An element code of a scaled format, q already divided by the scale (R139). -/
def narrowScaled (fc : Nat) (q : Num) : Nat :=
  if fc == 13 || fc == 23 then
    match q with
    | .nan _ => 0
    | .inf n => if n then 256 - 127 else 127
    | .fin n m e => wrapI 8 (clampI (-127) 127 (toInteger 0 n m (e + 6)).1)
  else narrowFloat (fmtElt fc) true q

/-- floor(log2 |x|) of the finite nonzero inputs, as the largest; none when every one is 0 or infinite. -/
def blockTop (xs : List Num) : Option Int :=
  xs.foldl (fun acc x => match x with
    | .fin _ m e => if m == 0 then acc else
        match acc with
        | none => some (e + Nat.log2 m)
        | some a => some (max a (e + Nat.log2 m))
    | _ => acc) none

/-- The scale byte and the element codes of a record (R139). -/
def encodeBlock (fc : Nat) (xs : List Num) : Nat × List Nat :=
  if xs.any Num.isNaN then (0xFF, xs.map (fun _ => 0))
  else
    let x : Int := match blockTop xs with
      | none => 0
      | some t => clampI 0 254 (t + 127 - fmtEmax fc)
    (x.toNat, xs.map (fun v => narrowScaled fc (v.shift (127 - x))))

/-- The bytes of a record: the scale, then the codes packed from bit 0 upward (R134). -/
def packCodes (bits : Nat) (codes : List Nat) : Nat :=
  codes.foldr (fun c acc => c + acc * 2 ^ bits) 0

def recordNat (fc : Nat) (xs : List Num) : Nat :=
  let r := encodeBlock fc xs
  r.1 + 256 * packCodes (fmtBits fc) r.2

/-! ### Near elements (R152, R167) -/

/-- Q of R152 in bytes. -/
def nearBytes (fc : Nat) (nh : Bool) : Nat :=
  if 18 ≤ fc && fc ≤ 21 then 1
  else if fc == 24 || fc == 25 then 2
  else if fc == 26 || fc == 27 then 4
  else if fc == 28 then 8
  else if nh then 2 else 4

/-- A delivered element at its near width (R152), none for a reserved code. -/
def nearOf (fc : Nat) (nh : Bool) (code scale : Nat) : Option Nat :=
  if fmtInt fc then
    let v := if fmtSigned fc then sInt (fmtBits fc) code else (code : Int)
    some (wrapI (8 * nearBytes fc nh) v)
  else widen fc true (if nh then 16 else 32) code scale

/-- The near canonical NaN (R169, RCT = 0). -/
def nearNaN (nh : Bool) : Nat := (fmtOf (if nh then 16 else 32)).canonNaN

/-- Near2Reg (R167). A NaN that changes its format becomes the canonical one (DESIGN CHOICE, log 44). -/
def near2reg (fc : Nat) (nh : Bool) (sew x : Nat) : Nat :=
  if fmtInt fc then
    let w := 8 * nearBytes fc nh
    if fmtSigned fc then wrapI sew (sInt w x) else x
  else
    let src := fmtOf (if nh then 16 else 32)
    if src == fmtOf sew then x else (roundEx (fmtOf sew) 0 (decodeF src x).toEx).1

/-- Reg2Near (R167): integers are clamped to the near range; a NaN that changes its format is as in `near2reg`. -/
def reg2near (fc : Nat) (nh : Bool) (sew x : Nat) : Nat :=
  if fmtInt fc then
    let w := 8 * nearBytes fc nh
    if fc == 28 then x
    else if fmtSigned fc then wrapI w (clampI (-(2 ^ (w - 1) : Nat)) ((2 ^ (w - 1) : Nat) - 1) (sInt sew x))
    else min x (2 ^ w - 1)
  else
    let dst := fmtOf (if nh then 16 else 32)
    if dst == fmtOf sew then x else (roundEx dst 0 (decodeF (fmtOf sew) x).toEx).1

/-- The stored code of a near element of an unscaled format at a write-back (R159): Narrow under the window's
SAT. A near integer already lies within a clamp of Narrow's own. -/
def narrowNear (fc : Nat) (nh sat : Bool) (x : Nat) : Nat :=
  if fmtInt fc then narrow fc sat 0 false (8 * nearBytes fc nh) x
  else narrowFloat fc sat (decodeF (fmtOf (if nh then 16 else 32)) x)

/-- Near2BF16 (R210). A wider integer of a stream window, for which the spec gives no value, is rounded RNE (DESIGN
CHOICE, log 45). -/
def near2bf16 (fc x : Nat) : Nat :=
  if fmtInt fc then
    let v := if fmtSigned fc then sInt (8 * nearBytes fc true) x else (x : Int)
    (roundEx bf16 0 (intNum v).toEx).1
  else x

end Sys2Proof.Machine
end

