-- ==== Sys2Proof/Config.lean ====
section
/-!
DEFINITION. What the spec leaves to the part or leaves open: constants without a body, so that nothing in
Lean can evaluate one or prove a value of one. A claim that mentions one holds for every value it may have.
-/

namespace Sys2Proof.Config

/-- FREE VALUE (log 2): how many cycles, beyond the fewest that can have, have passed between two reads of CYCLE (R80). Cycle counts are
timing, which the model leaves out; the argument is the model's counter of free values. -/
opaque cyclesBetween : Nat → Nat

/-- FREE VALUE (log 39): how many granule rows a started vector instruction has finished when a hard pre-emption stops
the stream (R324). -/
opaque rowsDone : Nat → Nat

/-- FREE VALUE (log 71): what a load of a device page returns: the device's registers are not the spec's (R121, R312). -/
opaque mmioValue : Nat → Word

/-- FREE VALUE (log 2): the cycles left that a read of PREEMPT.LEFT returns while a soft pre-emption is
pending (R310, R323). -/
opaque leftAt : Nat → BitVec 17

/-- FREE VALUE (log 52): what a slot that still carries a tag gives element e of an access that does not raise it, because a
RESIDENCY ranks before it (R169, R314); the first argument is the tag's TRAPVAL. -/
opaque taggedValue : Word → Nat → Word

/-- FREE VALUE (log 5): what a byte written under an erased key reads as (R347). -/
opaque erasedByte : Nat → Byte

/-- FREE VALUE (log 6): the silicon revision fused at manufacture (R352). -/
opaque siliconSteps : Byte
/-- The revision starts at 1. -/
def siliconRevision : Byte := if siliconSteps == 0 then 1 else siliconSteps

/-- FREE VALUE (log 6): the serial number fused at manufacture (R352). -/
opaque serialNumber : Word

/-- FREE VALUE (log 7): the SHA3-384 digests that SPDM answers carry: of the certificate chain (0), the boot ROM (1) and the
fuse state with the enabled core sites (2), and of a configuration written as numbers (R350, R351). -/
opaque deviceDigest : Nat → BitVec 384
opaque digestOf : List Nat → BitVec 384

/-- FREE VALUE (log 69): the fuses, the firmware images in flash by number (Prozen, control processors, link firmware), and
Sage's functions of them: the hash of a public key, and whether a signature verifies (R349). -/
opaque fusedKeyHash : BitVec 256
opaque identitySeed : BitVec 256
opaque imageKey : Nat → BitVec 544
opaque imageVersion : Nat → Nat
opaque imageHash : Nat → BitVec 384
opaque shake256 : BitVec 544 → BitVec 256
opaque signedBy : BitVec 544 → Nat → Bool

/-- FREE VALUE (log 13): what the 32-bit maximum of KVAPP leaves in LEN, from the old LEN and a value p + R that 32
bits do not hold (R240). -/
opaque lenOver : Nat → Nat → BitVec 32

/-- FREE VALUE (log 14): INDEX of a KV_FAULT of KVAPP raised before the walk has read the block size, from the
position (R226, R240). -/
opaque kvIndex : Nat → BitVec 32

/-- FREE VALUE (log 15): the lane ceiling that the launch controller writes to GRANTCEIL.CTRL for a soft
pre-emption, before it is held below the old one (R301, R323). -/
opaque softCeil : Nat → BitVec 16

/-- FREE VALUE (log 16): the UTAG in the record of a packet that could not be read (R292, R299). -/
opaque unreadTag : Nat → Word

/-- FREE VALUE (log 20): the width and the rate in GT/s to which the host link trained (R337, R352). -/
opaque linkWidth : BitVec 5
opaque linkRate : Byte

/-- FREE VALUE (log 21): whether a reset fails for another cause than its firmware, at which step of R353 and for what
reason. -/
opaque resetFailure : Nat → Option (Nat × Nat)

/-- FREE VALUE (log 22): registers of BAR0 whose format the driver interface keeps: which write clears the page
request failure of which function (R340), and which sets DEV (R276, R353). -/
opaque clearsFailure : BitVec 26 → BitVec 32 → Option (BitVec 6)
opaque setsDev : BitVec 26 → BitVec 32 → Option (BitVec 12)

/-- FREE VALUE (log 22): where BAR0 holds the status of a failed device, and how that shows step and reason (R353); which
write sets the power cap, in watts (R354); where a function's configuration space shows a capability, by its number, and
what a doubleword there reads as (R337). -/
opaque statusOffset : BitVec 26
opaque statusWord : Nat → Nat → BitVec 32
opaque setsCap : BitVec 26 → BitVec 32 → Option Nat
opaque capabilityOffset : BitVec 6 → Nat → BitVec 12
opaque configWord : BitVec 6 → BitVec 12 → BitVec 32

/-- FREE VALUE (log 7): the registry identifiers of XMSS^MT and SHA3-384 in NEGOTIATE_ALGORITHMS (R351). -/
opaque asymId : BitVec 16
opaque hashId : BitVec 16

/-- FREE VALUE (log 24): the image areas that Prozen gives a launch for hard pre-emption (R310). -/
opaque imageAreas : Nat → List Word

end Sys2Proof.Config
end

