-- ==== Sys2Proof/Machine/State.lean ====
section
/-!
DEFINITION. The state of the device as plain data: 64 cores of 8 harts, generic memory, and what the launch
controller, the link and the host side hold. Every field cites the rule that gives it. INVENTORY.md lists the
reset value of each.
-/

namespace Sys2Proof.Machine

/-! ### Traps -/

/-- The trap causes of R311; `Cause.code` in Ops.lean gives their codes. -/
inductive Cause where
  | illegalInsn | priv | misalign | perm | notPresent | compressed | residency | reservedCode | kvFault
  | fp | brk | scall | windowBind | iter | exchange | uncorrectable | config
  deriving DecidableEq, Repr

/-- A trap as raised: its cause, TRAPVAL and TRAPELEM (R311). -/
structure Trap where
  cause : Cause
  val : Word
  elem : Nat
  deriving DecidableEq, Repr

/-! ### Windows (R143) -/

inductive WinState where
  | unbound | bound | opened
  deriving DecidableEq, Repr

/-- One near-store slot of a held element: its near value, dirty bit and tag (R143, R169). -/
structure Slot where
  val : Word
  dirty : Bool
  tag : Option Trap
  deriving DecidableEq, Repr

/-- The state of one window (R143). Elements are kept by their coordinates; two held elements never share a
slot (R153). -/
structure Window where
  st : WinState
  gather : Bool
  base : Word
  dims : List Word        -- WBIND elements: STRIDE and EXTENT (R147)
  mode : Word             -- R148
  forms : List Word       -- WFORM elements (R149)
  origins : List Word     -- O_d
  formVl : Nat            -- the VL that WFORM recorded
  stack : StackNum        -- bound iterator stack of a gather window (R170)
  sat : Bool
  rct : Bool
  unit0 : Nat             -- first allocation unit u0 (R154)
  tiles : List (Int × Int) -- tile origins (R171)
  slots : List (List Int × Slot)
  rowsTaken : Nat         -- rows of the held box consumed by MROWW (R175)
  rowsSent : Nat          -- rows that entered the elastic queue since the window opened (R172)
  held : Option Trap      -- the failure that holds a stream row back (R172)
  deriving DecidableEq, Repr

/-- What an RE operation does (R157, R159, R164, R169, R171, R175, R176). -/
inductive ReKind where
  | deliver | advance | flush | close | drop | redeliver | rebuild | closeBound
  deriving DecidableEq, Repr

/-- A box of tensor points: one closed interval per dimension (R150, R158). -/
abbrev Box := List (Int × Int)

/-- The number of an engine operation, the issue number of its instruction, and how HARM holds it (R28,
R263, R312). -/
structure OpTag where
  num : Nat
  seq : Nat
  held : Option (BitVec 4)
  stamp : Nat
  deriving DecidableEq, Repr

/-- An incomplete RE operation: boxes still to write back, slabs still to land, each slab with the
scoreboard entry it holds (R159, R162), and a write-back that failed (R169). -/
structure ReOp where
  tag : OpTag
  win : WinNum
  kind : ReKind
  out : List Box
  slabs : List Box
  only : List (List Int)   -- for a re-delivery, the elements re-delivered (R169)
  failed : Option Trap
  save : Option Window     -- the descriptor and slots of a window that this operation closes (R164)
  rowsIn : Nat             -- rows of the first slab that have entered the elastic queue (R172)
  todo : Bool              -- a WCLOSE or WDROP that HARM held: it acts on its window once it may start (R263)
  deriving DecidableEq, Repr

/-! ### Iterator stacks (R179, R199) -/

inductive StackState where
  | free | building | sealed | ended | absorbed | bound
  deriving DecidableEq, Repr

inductive SlotKind where
  | irange | ilist | ictr | imap | imapt | ifiltb | ifiltc | izip | ichain | iflat
  deriving DecidableEq, Repr

/-- A source or adaptor slot, with the fields of its image (R199). -/
structure ISlot where
  kind : SlotKind
  flag : Bool
  other : Nat
  a : Word
  b : Word
  c : Word
  deriving DecidableEq, Repr

/-- An element formed ahead of its pull: its fields, its outer run (R186), whether it closed the run, and
the slots of all four stacks just after it was formed (R198). -/
structure IElem where
  f0 : Word
  f1 : Word
  run : Option Nat
  closes : Bool
  slots : List (List ISlot)
  deriving DecidableEq, Repr

structure IStack where
  st : StackState
  slots : List ISlot       -- committed slots (R198)
  two : Bool
  align : Bool
  absorber : Option StackNum
  runMark : Bool
  delivered : Nat
  buf : List IElem         -- prefetch buffer, oldest first
  seen : List (Word × Nat × Nat) -- table reads made for the next element: address, size, value (R195)
  work : List (List ISlot) -- the prefetch copy of the four stacks' slots; empty means not begun
  runNo : Nat
  fault : Option Trap      -- deferred fault (R191)
  exhausted : Bool
  win : Option WinNum      -- the gather window it is bound to (R170)
  retry : Bool             -- a deferred fault was raised; the next pull forms its group again (R192)
  deriving DecidableEq, Repr

/-- An incomplete ISEAL or IENOUGH: one that the Harness holds, or that stands behind one (R263). -/
structure ItOp where
  tag : OpTag
  stack : StackNum
  enough : Bool
  deriving DecidableEq, Repr

/-! ### KV, exchange, launch status -/

/-- A KV context (R229, R232). -/
structure KvCtx where
  root : Word
  restarts : Nat
  lastBlk : BitVec 32
  deriving DecidableEq, Repr

/-- A cached walk entry of a core, tagged by address space and root (R230). `idx` names which radix entry,
descriptor or map entry it is. -/
structure KvEntry where
  aspace : BitVec 10
  root : Word
  level : Nat            -- 1, 2 radix; 3 descriptor; 4 block map
  idx : List Nat
  seq : Nat              -- the sequence whose walk read it,
  gen : Nat              -- and the GEN that walk read
  data : List Word
  deriving DecidableEq, Repr

inductive XKind where
  | send | recv | ring
  deriving DecidableEq, Repr

/-- An incomplete exchange operation (R277, R279, R285). -/
structure XOp where
  tag : OpTag
  kind : XKind
  word : Insn
  chan : Word            -- channel word, or the descriptor address of XRING
  bytes : List Byte      -- the captured payload
  vd : VReg
  vtype : Word
  vl : Nat
  sent : Bool
  rev : BitVec 32
  step : BitVec 16
  arrived : Option (List Byte)
  key : Nat              -- where doubleword 2 of the ring descriptor lies
  succ : Word
  pred : Word
  mem : Nat              -- ring members
  wdog : Nat
  deriving DecidableEq, Repr

/-- The status that XSTAT reports and an EXCHANGE still to be raised (R282, R284). -/
structure XStatus where
  last : BitVec 4
  aborts : Nat
  revn : BitVec 32
  top : Nat              -- the number whose status LAST holds
  deriving DecidableEq, Repr

/-! ### The hart -/

/-- A loop counter and its system registers (R66); `changes` counts how often it took a new value (R151, R182). -/
structure LoopCtr where
  cnt : Word
  rem : Word
  body : Word
  endAddr : Word
  changes : Nat
  deriving DecidableEq, Repr

/-- A lane thread: its byte offset in the lane instruction buffer, and whether it has executed LEXIT (R82 to R86). -/
structure Thread where
  pc : Word
  exited : Bool
  deriving DecidableEq, Repr

/-- What a scalar unit, a parked hart or an ended hart is doing (R74 to R76, R94, R95, R321, R323). A waiting
hart executes the instruction at its pc again, except where an event ends the wait. A WFE keeps whether it was woken
and how many entries q1 and lq held, a LAUNCH that waits for its quota the packet that it captured (R305). -/
inductive Wait where
  | queue | timeline (e : BitVec 5) (n : Nat) | barrier (addr : Word) (target : BitVec 32) | output (o : BitVec 4)
  | event (woken : Bool) (held : Nat)
  | harts | gang (m : Nat) | child (n : Word) | quota (packet : List Word) | room | stream | threads | finish
  deriving DecidableEq, Repr

inductive Run where
  | idle | running | waiting (w : Wait) | atLoopEnd | parked | gangParked | exited | saved
  deriving DecidableEq, Repr

/-- The supervisor registers (R310) but for the trap registers. `hardReq` is a hard pre-emption that software asked
for by PREEMPT.REQ, `hard` one that the controller or LEFT brought; HARD reads their union. -/
structure SupRegs where
  trapVec : Word
  aspace : BitVec 10
  ptRoot : Word
  rangeBase : Word
  ceilSup : BitVec 16
  ceilCtrl : BitVec 16
  hard : Bool
  hardReq : Bool
  soft : Bool
  why : BitVec 4
  left : BitVec 17
  ctxPtr : Word
  deriving DecidableEq, Repr

/-- The trap registers and STATUS (R310, R316). -/
structure TrapRegs where
  ux : Bool
  sq : Bool
  lt : Bool
  pp : Bool
  priv : Bool
  cause : Byte
  pc : Word
  val : Word
  elem : BitVec 24
  seq : Word
  point : Word
  stop : Word            -- where the scalar unit stopped at a lane-thread trap (R316)
  redeliver : List (WinNum × Word × List Int) -- raised tags: window, instruction, element (R169)
  atEnd : Bool              -- the trap was taken at a back-edge whose check has yet to run (R68, R169)
  deriving DecidableEq, Repr

/-- What a trap of a queued vector instruction must put back: the state that the scalar unit writes, as it stood when
that instruction issued (R312). `bufs` are the lane-quad buffers of the hart's lanes. -/
structure ScalarSnap where
  xu : Vector Word 32
  xs : Vector Word 32
  loops : Vector LoopCtr 8
  active : List CtrNum
  q0 : List Word
  owed : Nat             -- entries of later QPUTs that an earlier instruction has popped: each QPUT issued again drops its own (R116)
  q1 : List Word
  lq : List Word
  instret : Word
  vtype : Word
  vl : Nat
  arming : Option (BitVec 4)
  hbound : Bool
  lib : Option (Word × Word)
  bufs : List (List Host.Cell)
  sup : SupRegs
  trap : TrapRegs
  deriving DecidableEq, Repr

/-- What a vector instruction captured when the scalar unit issued it (R20, R324). `from` is the element it
starts at, `num` the timeline number it took once it issued. -/
structure Capture where
  pc : Word
  vtype : Word
  vl : Nat
  epoch : Nat
  xs : List Word
  start : Nat
  num : Option Nat
  arm : Option (BitVec 4) -- the output that HARM armed it with (R263)
  began : Bool            -- it has finished some of its granule rows (R101, R324)
  grp : List VBits        -- the state group of an ATTN as it stood when it issued (R238)
  deriving DecidableEq, Repr

/-- A vector instruction issued and not completed (R324); `held` names the output that holds it at its engine (R263). -/
structure Issued where
  word : Insn
  cap : Capture
  seq : Nat
  held : Option (BitVec 4)
  stamp : Nat
  snap : ScalarSnap
  adv : Option Bool        -- no instruction, but the window advances of a counter change: `cap.xs` holds c0 to c7 before
                           -- and after it; true for a wrap, whose trap stands at the loop's end (R151, R163)
  deriving DecidableEq, Repr

/-- What the vector instructions behind a pull have overwritten, which its deferred fault puts back (R189, R312): registers
and masks, FFLAGS and VSTART. -/
structure Undo where
  v : List (Nat × VBits)
  m : List (Nat × VBits)
  flags : Option (BitVec 5 × Nat)
  deriving DecidableEq, Repr

/-- An INEXT or WNEXT that has left the stream and not completed (R189, R312). One that the Harness holds, or whose group
cannot be formed yet, forms it later. -/
structure Pull where
  entry : Issued
  num : Nat
  held : Option (BitVec 4)
  stack : Option StackNum  -- the stack that its completion commits to; none once it is committed
  win : Option WinNum      -- WNEXT's window
  group : List IElem
  two : Bool
  formed : Bool            -- its group has been cut from the stack
  undo : Undo
  deriving DecidableEq, Repr

/-- An effect of the scalar unit on the Harness that is held until every earlier vector instruction has retired
(R312): a SETS of a Harness register, or a pulse of HEVT. -/
inductive Late where
  | set (reg : Nat) (v : Word)
  | pulse (input : Nat)
  deriving DecidableEq, Repr

/-- A ring message on its way: the hart that sent it, its revolution, step and bytes (R279). -/
structure RingMsg where
  dev : BitVec 12
  src : Who
  rev : BitVec 32
  step : BitVec 16
  bytes : List Byte
  deriving DecidableEq, Repr

structure Hart where
  run : Run
  pc : Word
  xu : Vector Word 32      -- user bank (R309)
  xs : Vector Word 32      -- supervisor bank (R309)
  v : Vector VBits 32
  m : Vector VBits 8
  vtype : Word             -- R42
  vl : Nat                 -- R90
  vstart : Nat
  epoch : Nat              -- how many times the length was set: tells which queued instructions a new VL governs
  lanes : Nat              -- VGRANT.LANES
  avail : Nat              -- VGRANT.AVAIL
  segs : Nat               -- VGRANT.SEGS
  gang : Option (Nat × CoreId) -- gang size and base core (R95)
  fcr : BitVec 10          -- R98
  fflags : BitVec 5
  kvstart : Word           -- R234
  loops : Vector LoopCtr 8
  active : List CtrNum     -- running loops, newest start rank first (R66)
  slices : Vector (Option (Word × Word)) 8 -- slice start and length of a spatial level (R71)
  q0 : List Word
  owed : Nat               -- entries that QPUT has still to drop, popped before a trap discarded their QPUTs (R116, R312)
  q1 : List Word
  lq : List Word
  tlre : Word
  tlit : Word
  tlkv : Word
  tlxc : Word
  tlln : Word
  instret : Word
  capBase : Word
  stream : List Issued
  pulls : List Pull        -- oldest first
  late : List (Nat × Late) -- with the issue number of each, oldest first
  nextSeq : Nat
  wins : Vector Window 8
  reOps : List ReOp
  ahead : List (WinNum × Nat × Word) -- a counter change that waits for scoreboard entries: a window that it has advanced,
                           -- the counter and its value there (R163)
  iters : Vector IStack 4
  itOps : List ItOp
  kv : Vector KvCtx 2
  xops : List XOp
  xst : XStatus
  xbound : Bool            -- has issued XSEND, XRECV or XRING (R285)
  xpend : List Trap        -- EXCHANGE traps to raise at the next instruction boundaries (R284)
  revDead : List (BitVec 32) -- revolutions aborted at this member (R280)
  ringDrops : Nat          -- old ring messages dropped (R279)
  revDone : List (BitVec 32) -- revolutions seen to commit (R280)
  slotsLn : Vector (Word × Byte) 64 -- launch status slots (R306)
  arming : Option (BitVec 4)        -- HARM (R263)
  hbound : Bool            -- has accessed the Harness (R265)
  mbound : Bool            -- has issued a matrix member (R220)
  threads : Option (Vector Thread 32)
  lib : Option (Word × Word) -- LIBLD's recorded xa, xb (R82)
  sup : SupRegs
  trap : TrapRegs
  launch : Option Nat      -- the launch it belongs to
  place : Nat
  depth : Nat              -- launch depth (R305)
  pasid : BitVec 20
  fn : BitVec 6            -- host function of its root launch's queue
  lost : Option Word       -- a remote store that no path could carry, to raise at the next release (R271)
  pageReq : Option Nat     -- the page request that the last trap sent (R323)
  victim : Bool            -- chosen as a victim: it is pre-empted hard once its 65,536 cycles have passed (R301)
  ending : Bool            -- hart 0 of its core has exited: the hart ends at its RDV (R74)
  drawn : Option (List Nat) -- CTXSAVE has withdrawn its matrix operations of these numbers and its exchange operations
  deriving DecidableEq, Repr

/-! ### The core -/

/-- What a pending matrix operation is (R204, R209 to R218). -/
inductive MxKind where
  | zero | ldsv | lds | swap | row | rowStream | wait
  deriving DecidableEq, Repr

/-- A matrix operation issued and not complete, with its captured operands (R206, R217). -/
structure MxOp where
  tag : OpTag
  who : Who
  word : Insn
  kind : MxKind
  accumulate : Bool
  row : Row
  mask : BitVec 256
  k : Byte               -- shadow row of MLDSV
  vd : VReg
  lmul : Nat
  ta : Bool
  win : WinNum
  closed : Bool          -- its window closed after it issued (R216)
  corner : List Int      -- cursor and offsets of MLDS at issue (R210)
  lo : Nat               -- elements MLDS covers
  hi : Nat
  started : Bool
  res : BitVec 8192      -- the result row, formed when a row operation starts (R207, R213)
  away : Bool            -- withdrawn by a save: incomplete, and out of the unit until it is resubmitted (R220)
  deriving DecidableEq, Repr

structure QueueRow where
  who : Who
  win : WinNum
  row : Row
  pt : List Int            -- the coordinates that its elements share (R172)
  deriving DecidableEq, Repr

/-- The matrix unit of a core (R201, R202). -/
structure MatrixUnit where
  owner : Option Nat
  active : Vector Row 256
  shadow : Vector Row 256
  queue : List QueueRow
  counter : Word
  ops : List MxOp
  deriving DecidableEq, Repr

/-- The Harness of a core; `pulses` are the inputs whose pulses it has not counted yet (R257). -/
structure Harness where
  owner : Option Nat
  hcnt : Vector Word 16
  hterm : Vector Word 16
  hout : Vector Word 16   -- EN, FREE, TERM and FIRES; ARMED and WAITERS are computed (R260)
  pulses : List (BitVec 6)
  deriving DecidableEq, Repr

/-- An owner's unit image while its harts are saved and the core is another's (R302). -/
structure UnitImage where
  launch : Nat
  matrix : Option (Vector Row 256 × Vector Row 256 × Word × List MxOp)
  harness : Option Harness
  deriving DecidableEq, Repr

structure Core where
  harts : Vector Hart 8
  layout : Nat             -- harts per core (R18)
  scratchSize : Nat        -- Z (R126)
  scratch : List Host.Cell -- lane * 2^17 + offset
  locks : Vector (BitVec 64) 32 -- R129
  qbufs : Vector (List Host.Cell) 8 -- instruction buffers of the lane quads (R17, R82)
  matrix : MatrixUnit
  harness : Harness
  kvCache : List KvEntry   -- most recently used first (R230)
  ranges : List (List Word) -- cached range table: 64 entries of 4 doublewords (R328)
  walks : List (BitVec 10 × Nat × Word) -- cached walks: address space, virtual page, leaf with its page (R328)
  images : List UnitImage
  user : Option Nat        -- the launch that last ran on the core
  deriving DecidableEq, Repr

/-! ### Memory order, launches, host side -/

/-- Who performs a generic access: the scalar unit or one lane group (R64, R125). -/
inductive Unit' where
  | scalar | group (q : Nat)
  deriving DecidableEq, Repr

/-- An agent that reads generic memory (R392). -/
structure Observer where
  who : Who
  by' : Unit'
  deriving DecidableEq, Repr

/-- A write that one observer does not see yet: the hart that made it, its slices, and its bytes as the observer still sees
them (R393, R394). -/
structure Lag where
  obs : Observer
  src : Who
  slices : List Nat
  old : List Host.Cell
  deriving DecidableEq, Repr

/-- A load of a scalar unit that its next stores may overtake: the register and bank it writes, its bytes, whether it
extends the sign (R392). -/
structure LateLoad where
  who : Who
  d : XReg
  sup : Bool
  key : Nat
  size : Nat
  signed : Bool
  deriving DecidableEq, Repr

/-- How far observers are apart (R248, R392 to R394; log 26). The last three fields are kept only while a write lags: what
each hart has released, at which scope; the bytes written after a release; which hart has read such a byte of which. -/
structure Order where
  hide : List Observer     -- observers that see the next write late
  lag : List Lag
  loads : List LateLoad
  rels : List (Who × Nat)
  tags : List (Nat × Who × Nat)
  saw : List (Who × Who)
  deriving DecidableEq, Repr

/-- One access to a device page: its hart, address and size, and what a store writes (R121). -/
structure MmioAccess where
  who : Who
  addr : Nat
  size : Nat
  data : Option Nat
  deriving DecidableEq, Repr

/-- A generic store accepted and not yet performed: its agent, slice and bytes (R64, R125). -/
structure PStore where
  id : Nat
  who : Who
  by' : Unit'
  seq : Nat
  slice : Nat
  va : Word              -- the virtual address of its first byte
  fenced : Bool          -- a FENCE at hart scope follows it (R248)
  cells : List Host.Cell
  deriving DecidableEq, Repr

/-- One place: its cores, whether its harts have started (R296, R297). -/
structure Place where
  cores : List CoreId
  started : Bool
  deriving DecidableEq, Repr

/-- A launch that has not retired: from a queue or, with a pool entry, from a parent hart (R290, R305). A status
other than 0 ends it (R320, R341). -/
structure Launch where
  id : Nat
  queue : Option (BitVec 14)
  seqNo : Word
  depth : Nat
  part : BitVec 4
  aspace : BitVec 10
  pasid : BitVec 20
  fn : BitVec 6
  prio : Nat
  pmax : Nat
  layout : Nat              -- harts per core
  notify : Bool
  xgroup : BitVec 16
  utag : Word
  args : Word
  entry : Word
  code : List (Word × Nat)  -- code and .lib regions: virtual base and size (R35, R57)
  codeKeys : List (Nat × Nat) -- where their bytes lie, as mapped at the start: first byte and length (R35)
  zsize : Nat
  places : List Place
  areas : List Word         -- image areas for hard pre-emption: entry 8p + k for hart k of place p (R310 CTXPTR)
  status : Byte
  cause : Byte
  errHart : HartNum
  errCore : CoreId
  stamp : Nat
  deriving DecidableEq, Repr

/-- A pool entry: a child submitted and not retired (R305, R306). -/
structure Child where
  id : Nat
  parent : Who
  parentLaunch : Nat
  word : Insn              -- the LAUNCH or LAUNCHT that submitted it (R265)
  num : Word
  tag : OpTag
  depth : Nat
  packet : List Word
  launch : Option Nat
  ready : Option Nat       -- order in which it became ready (R301)
  promoted : Bool          -- R301
  asked : List Nat         -- host pages that it has asked for (R292)
  away : Option Nat        -- the saved context of its parent, while that is saved (R307)
  deriving DecidableEq, Repr

/-- A completion record still to be written (R299, R300). -/
structure Record where
  seqNo : Word
  queue : BitVec 14
  status : Byte
  cause : Byte
  core : CoreId
  hart : HartNum
  utag : Word
  notify : Bool
  deriving DecidableEq, Repr

/-- A virtual queue (R287 to R289). -/
structure VQueue where
  num : BitVec 14
  fn : BitVec 6
  desc : List Word
  head : Nat               -- ring index of the next packet not read
  tail : Nat
  cHead : Nat
  cWrite : Nat
  nextNo : Word
  slot : Bool              -- holds a hardware slot
  bell : Nat               -- order of its last doorbell
  wants : Option Nat       -- doorbelled without a slot, and in which order
  pkt : Option (List Word) -- the packet read and not dispatched; empty when it could not be read
  ready : Option Nat       -- order in which its head became ready (R301)
  promoted : Bool          -- R301
  asked : List Nat         -- host pages that the packet at the head has asked for (R292)
  open' : List Word        -- numbers dispatched and not yet counted as retired
  records : List Record
  deriving DecidableEq, Repr

/-- A transfer in progress (R344). -/
structure Transfer where
  id : Nat
  queue : BitVec 14
  seqNo : Word
  utag : Word
  notify : Bool
  src : Word
  dst : Word
  len : Nat
  pos : Nat                -- bytes moved
  asked : List Nat         -- host pages that it has asked for
  zero : Bool
  status : Byte
  cause : Byte
  deriving DecidableEq, Repr

/-- A context saved by hard pre-emption: where it ran, its image area, and what the launch controller keeps of the
hart beside the image (R323). -/
structure Saved where
  id : Nat
  home : Who
  area : Word
  why : BitVec 4
  request : Option Nat     -- the page request that its trap sent
  ready : Option Nat       -- order in which it became ready (R301)
  frame : Hart
  members : List Hart      -- the parked members of a gang hart
  stalled : Bool           -- swapped out of a stall on its children, until its wait can end (R307)
  landed : List (Word × Byte) -- children that retired meanwhile: LN number, STATUS (R306)
  lnPulses : Nat           -- their completions that no Harness could count yet (R257)
  stores : List PStore     -- its stores behind a vector instruction that has not retired (R312)
  deriving DecidableEq, Repr

/-- A page request: in use under its group, or waiting for a free one (R339 to R342). -/
structure PageReq where
  id : Nat
  fn : BitVec 6
  group : BitVec 8
  pasid : BitVec 20
  page : Nat
  wr : Bool
  quarantined : Bool
  deriving DecidableEq, Repr

/-- What ATS grants: function, PASID, bus page, writable (R339). -/
structure AtsGrant where
  fn : BitVec 6
  pasid : BitVec 20
  page : Nat
  writable : Bool
  deriving DecidableEq, Repr

structure Partition where
  cores : BitVec 64
  channels : List (List Nat)
  groups : List (List Nat)
  sparse : Bool
  deriving DecidableEq, Repr

/-- A tenant and the addresses that Prozen records for its address space (R310 "launch", R347). -/
structure Tenant where
  live : Bool
  part : BitVec 4
  ptRoot : Word
  rangeBase : Word
  trapVec : Word
  capBase : Word
  deriving DecidableEq, Repr

/-- A Lamef port (R270). -/
structure Port where
  up : Bool
  rxNext : BitVec 12
  txNext : BitVec 12
  unacked : List (BitVec 12)
  replays : Nat            -- failed replays of the flit `resent`
  resent : Option (BitVec 12)
  rejected : Option (BitVec 12)
  deriving DecidableEq, Repr

/-- What a function's configuration space shows (R337). -/
inductive PciCap where
  | sriov | pasid | ats | pri | atomicOp | msix | doe | flr
  deriving DecidableEq, Repr

/-- A configuration request answered: what it asks for, the capability that stands there, the doubleword (R337, R353). -/
structure ConfigReply where
  fn : BitVec 6
  offset : BitVec 12
  shows : Option PciCap
  value : BitVec 32
  deriving DecidableEq, Repr

inductive SpdmState where
  | start | version | capabilities | negotiated
  deriving DecidableEq, Repr

/-- What Sage answers on the DOE mailbox (R351). -/
inductive SpdmReply where
  | version | capabilities | algorithms | digests (chain : BitVec 384) | certificate (offset length : BitVec 16) | challengeAuth (index : Nat) (nonce : BitVec 256)
  | measurements (index : Nat) (nonce : BitVec 256) (values : List (Nat × BitVec 384)) | error
  deriving DecidableEq, Repr

/-- Sage (R349 to R351). -/
structure Sage where
  nextIndex : Nat
  rollback : Nat
  spdm : SpdmState
  replies : List SpdmReply
  failed : Option (Nat × Nat) -- the failing step of R353 and a reason
  deriving DecidableEq, Repr

/-- A message-signalled interrupt table entry and what was sent (R343). -/
structure Msix where
  masked : List (BitVec 6 × Nat)
  pending : List (BitVec 6 × Nat)
  sent : List (BitVec 6 × Nat)
  deriving DecidableEq, Repr

/-- Whom the next instruction is executed for: a hart's scalar unit, or one of its lane threads (R21). -/
structure Agent where
  who : Who
  lane : Option Nat
  deriving DecidableEq, Repr

/-- What comes next besides the current agent's own instructions: an event; a change of agent; the instruction at the
head of the vector stream, as far as element e (R101); the k-th behind it, where that may run ahead; the head reading the
result of a row operation from granule row r on, which then completes (R208); the scalar unit's next instruction, which only
issues where it is a member of the vector stream (R20); the same, a load whose bytes are read again once its next stores have
gone ahead (R392); an observer that sees the next write late, or now sees every write (R394). -/
inductive Sched where
  | event (i : Instr)
  | agent (a : Agent)
  | upTo (e : Nat)
  | ahead (k e : Nat)
  | straddle (num r : Nat)
  | queue
  | defer
  | hide (o : Observer)
  | see (o : Observer)
  deriving DecidableEq, Repr

structure State where
  cores : Vector Core 64
  mem : List Host.Cell
  stores : List PStore
  order : Order
  mmio : List MmioAccess   -- accesses to device pages, in order (R121, R312)
  nextId : Nat             -- identities of stores, launches, saved contexts, order stamps
  owners : List (Nat × BitVec 10) -- page of device memory (by key) and the tenant that owns it (R348)
  parts : Vector Partition 16
  tenants : List (BitVec 10 × Tenant)
  queues : List VQueue
  launches : List Launch
  pool : List Child
  transfers : List Transfer
  saved : List Saved
  pageReqs : List PageReq
  pageWait : List PageReq -- page requests waiting for a free group (R340)
  pageDrops : List (BitVec 6 × Nat) -- DROPPED of PRIQ (R342)
  pageFail : List (BitVec 6) -- functions that send no request until cleared (R340)
  refused : List (BitVec 6 × Nat) -- pages refused once: a second refusal ends the launch (R340)
  grants : List AtsGrant    -- what the host would grant
  atsCache : List AtsGrant  -- ATS translation cache (R337)
  msix : Msix
  ports : Vector Port 24
  ringMail : List (Who × BitVec 16 × RingMsg) -- ring messages on their way: the hart, the exchange group, the message (R279, R285)
  aged : List Nat           -- packets escalated by age (R267)
  mesh : List (BitVec 64 × MeshShape) -- stitched regions (R268)
  dev : BitVec 12
  bad : List ErrorSite      -- granules marked uncorrectable (R334)
  corrected : Nat           -- single-bit errors counted (R334)
  sage : Sage
  power : Power
  bar0 : List (Nat × BitVec 32) -- stored registers of BAR0 (R338)
  config : List ConfigReply -- configuration requests answered (R337, R353)
  powerCap : Nat            -- module power cap in watts (R354)
  agent : Agent
  agenda : List Sched
  turn : Nat                -- steps left before another agent's turn
  idleTurns : Nat               -- turns in a row in which nothing could go on
  replay : Option Issued    -- the queued instruction being executed
  pace : Option Nat         -- within a step: how far a vector member executes, all the way with none
  cycle : Nat               -- what CYCLE last read, and the agents that have read that value (R80)
  cycleBy : List Agent
  fresh : Nat               -- the counter at which free values are taken
  deriving DecidableEq, Repr

/-! ### Stops -/

/-- Why a run stops. The spec turns every condition that a hart meets into a trap, so no meaning ends here;
the constructor is for a state in which no current hart exists. -/
inductive Fault where
  /-- Raised by no meaning. Safe: the machine only stops. -/
  | none
  deriving DecidableEq, Repr

/-- Why an instruction has no meaning here. -/
inductive Refusal where
  /-- An instruction without a meaning yet. Raised by `exec` only. Safe: the machine only stops. -/
  | notModelled (mnemonic : String)
  deriving DecidableEq, Repr

/-! ### Reset -/

/-- The loop registers at hart start (R66). -/
def LoopCtr.zero : LoopCtr := ⟨0, 0, 0, 0, 0⟩

/-- An unbound window with every field clear (R143). -/
def Window.clear : Window :=
  { st := .unbound, gather := false, base := 0, dims := [], mode := 0, forms := [], origins := [], formVl := 0,
    stack := 0, sat := false, rct := false, unit0 := 0, tiles := [], slots := [], rowsTaken := 0, rowsSent := 0,
    held := none }

/-- A free stack (R179). -/
def IStack.clear : IStack :=
  { st := .free, slots := [], two := false, align := false, absorber := none, runMark := false, delivered := 0,
    buf := [], seen := [], work := [], runNo := 0, fault := none, exhausted := false, win := none,
    retry := false }

/-- VTYPE with VILL = 1 and every other field 0 (R24, R43). -/
def villType : Word := 0x8000000000000000

/-- The supervisor registers before a launch writes them (R310; log 1). -/
def SupRegs.reset : SupRegs :=
  { trapVec := 0, aspace := 0, ptRoot := 0, rangeBase := 0, ceilSup := 0xFFFF, ceilCtrl := 32, hard := false, hardReq := false,
    soft := false, why := 0, left := 0, ctxPtr := 0 }

/-- The trap registers at reset (R310). -/
def TrapRegs.reset : TrapRegs :=
  { ux := false, sq := false, lt := false, pp := false, priv := false, cause := 0, pc := 0, val := 0, elem := 0,
    seq := 0, point := 0, stop := 0, redeliver := [], atEnd := false }

/-- A hart slot as R24 gives a starting hart, before a launch has started it. -/
def Hart.reset : Hart :=
  { run := .idle, pc := 0, xu := Vector.replicate 32 0, xs := Vector.replicate 32 0, v := Vector.replicate 32 0,
    m := Vector.replicate 8 0, vtype := villType, vl := 0, vstart := 0, epoch := 0, lanes := 32, avail := 32,
    segs := 1, gang := none, fcr := 0x10, fflags := 0, kvstart := 0, loops := Vector.replicate 8 LoopCtr.zero,
    active := [], slices := Vector.replicate 8 none, q0 := [], owed := 0, q1 := [], lq := [], tlre := 0, tlit := 0, tlkv := 0,
    tlxc := 0, tlln := 0, instret := 0, capBase := 0, stream := [], pulls := [], late := [], nextSeq := 0,
    wins := Vector.replicate 8 Window.clear, reOps := [], ahead := [], iters := Vector.replicate 4 IStack.clear, itOps := [],
    kv := Vector.replicate 2 ⟨0, 0, 0xFFFFFFFF⟩, xops := [], xst := ⟨0, 0, 0, 0⟩, xbound := false, xpend := [],
    revDead := [], ringDrops := 0, revDone := [], slotsLn := Vector.replicate 64 (0, 0),
    arming := none, hbound := false, mbound := false, threads := none, lib := none,
    sup := SupRegs.reset, trap := TrapRegs.reset, launch := none, place := 0, depth := 0, pasid := 0, fn := 0,
    lost := none, pageReq := none, victim := false, ending := false, drawn := none }

/-- A matrix unit without an owner (R201, R202). -/
def MatrixUnit.reset : MatrixUnit :=
  { owner := none, active := Vector.replicate 256 0, shadow := Vector.replicate 256 0, queue := [], counter := 0,
    ops := [] }

/-- A Harness without an owner, every register zero (R256). -/
def Harness.reset : Harness :=
  { owner := none, hcnt := Vector.replicate 16 0, hterm := Vector.replicate 16 0, hout := Vector.replicate 16 0,
    pulses := [] }

def Core.reset : Core :=
  { harts := Vector.replicate 8 Hart.reset, layout := 1, scratchSize := 0, scratch := [],
    locks := Vector.replicate 32 0, qbufs := Vector.replicate 8 [], matrix := MatrixUnit.reset, harness := Harness.reset, kvCache := [],
    ranges := [], walks := [], images := [], user := none }

def Partition.reset : Partition := { cores := 0, channels := [], groups := [], sparse := true }

def Port.reset : Port := { up := true, rxNext := 0, txNext := 0, unacked := [], replays := 0, resent := none, rejected := none }

/-- Every observer sees every write. -/
def Order.idle : Order := ⟨[], [], [], [], [], []⟩

/-- How many steps an agent takes before another's turn (log 26). -/
def turnSteps : Nat := 64

/-- The device after a cold reset, as R353 steps 1 to 4 leave it: firmware started, no partition, tenant,
queue or launch yet. -/
def State.reset : State :=
  { cores := Vector.replicate 64 Core.reset, mem := [], stores := [], order := Order.idle, mmio := [], nextId := 0, owners := [],
    parts := Vector.replicate 16 Partition.reset, tenants := [], queues := [], launches := [], pool := [],
    transfers := [], saved := [], pageReqs := [], pageWait := [], pageDrops := [], pageFail := [], refused := [],
    grants := [], atsCache := [], msix := ⟨[], [], []⟩, ports := Vector.replicate 24 Port.reset, ringMail := [], aged := [],
    mesh := [], dev := 0, bad := [], corrected := 0,
    sage := { nextIndex := 0, rollback := 0, spdm := .start, replies := [], failed := none },
    power := .d0, bar0 := [], config := [], powerCap := 2400, agent := ⟨⟨0, 0⟩, none⟩, agenda := [], turn := turnSteps,
    idleTurns := 0, replay := none, pace := none, cycle := 0, cycleBy := [], fresh := 0 }

end Sys2Proof.Machine
end

