-- ==== Sys2Proof/Machine/Sets.lean ====
section
/-!
DEFINITION. The sets of a window: boxes, slabs, held and current sets, cursor, placement and byte ranges
(R147 to R158). Everything here is exact integer arithmetic over the descriptor and the counters.
-/

namespace Sys2Proof.Machine

/-! ### Boxes -/

def intRange (lo hi : Int) : List Int := (List.range (hi - lo + 1).toNat).map (fun (i : Nat) => lo + (i : Int))

def boxEmpty (b : Box) : Bool := b.any (fun i => i.2 < i.1)

def boxCount (b : Box) : Nat := b.foldl (fun n i => n * (i.2 - i.1 + 1).toNat) 1

/-- p lies in the box. -/
def inBox : Box → List Int → Bool
  | [], [] => true
  | i :: b, x :: p => i.1 ≤ x && x ≤ i.2 && inBox b p
  | _, _ => false

/-- The points of a box in increasing order of (p_{D-1}, …, p_0) (R158). -/
def boxPoints : Box → List (List Int)
  | [] => [[]]
  | i :: b =>
    let tails := boxPoints b
    let xs := intRange i.1 i.2
    tails.flatMap (fun t => xs.map (fun x => x :: t))

/-- The pieces of interval `t` outside interval `f`. -/
def outside (f t : Int × Int) : List (Int × Int) :=
  if f.2 < f.1 then [t]
  else [(t.1, min t.2 (f.1 - 1)), (max t.1 (f.2 + 1), t.2)].filter (fun i => i.1 ≤ i.2)

def inside (f t : Int × Int) : Int × Int := (max f.1 t.1, min f.2 t.2)

/-- Slabs(Bfrom, Bto) of R158: `pre` holds the dimensions already cut, innermost last. -/
def slabsFrom (pre : Box) : Box → Box → List Box
  | f :: bf, t :: bt =>
    let here := if f == t then [] else (outside f t).map (fun i => pre ++ i :: bt)
    here ++ slabsFrom (pre ++ [if f == t then t else inside f t]) bf bt
  | _, _ => []

def slabs (bf bt : Box) : List Box := (slabsFrom [] bf bt).filter (fun b => !boxEmpty b)

/-- The smallest box that bounds a nonempty list of points (R169). -/
def boundBox : List (List Int) → Box
  | [] => []
  | p :: ps => ps.foldl (fun b q => (b.zip q).map (fun x => (min x.1.1 x.2, max x.1.2 x.2))) (p.map (fun x => (x, x)))

/-! ### Descriptor fields (R147 to R149) -/

def bitsOf (x : Word) (lo len : Nat) : Nat := (x.extractLsb' lo len).toNat

def sbits (x : Word) (lo len : Nat) : Int := (x.extractLsb' lo len).toInt

def Window.d (w : Window) : Nat := w.dims.length
def Window.stride (w : Window) (d : Nat) : Int := sbits (w.dims.getD d 0) 32 32
def Window.extent (w : Window) (d : Nat) : Nat := bitsOf (w.dims.getD d 0) 0 32
def Window.k (w : Window) (d : Nat) : Nat := bitsOf (w.forms.getD d 0) 60 4
def Window.step (w : Window) (d : Nat) : Int := sbits (w.forms.getD d 0) 44 16
def Window.lo (w : Window) (d : Nat) : Int := sbits (w.forms.getD d 0) 28 16
def Window.hi (w : Window) (d : Nat) : Int := sbits (w.forms.getD d 0) 12 16
def Window.org (w : Window) (d : Nat) : Int := (w.origins.getD d 0).toInt
def Window.fmt (w : Window) : Nat := bitsOf w.mode 0 5
def Window.acc (w : Window) : Nat := bitsOf w.mode 5 2
def Window.lead (w : Window) : Nat := bitsOf w.mode 8 2
def Window.nh (w : Window) : Bool := w.mode.getLsbD 10
def Window.strm (w : Window) : Bool := w.mode.getLsbD 11
def Window.lk (w : Window) : Nat := bitsOf w.mode 12 3
def Window.alloc (w : Window) : Nat := bitsOf w.mode 16 16
def Window.writable (w : Window) : Bool := w.acc == 2 || w.acc == 3
def Window.isOpen (w : Window) : Bool := w.st == .opened

/-! ### Sets (R150), with `c` the counters read as signed values -/

def Window.cursor (w : Window) (c : Nat → Int) (d : Nat) : Int :=
  w.org d + (if w.k d == 15 then 0 else w.step d * c (w.k d))

def Window.iv (w : Window) (c : Nat → Int) (d : Nat) : Int × Int :=
  let b := w.cursor c d
  (b + w.lo d, b + w.hi d)

def Window.hull (w : Window) (c : Nat → Int) (d : Nat) : Int × Int :=
  let i := w.iv c d
  if w.k d == w.lk && w.lead != 0 then
    let s := w.step d * (w.lead : Int)
    (i.1 + min 0 s, i.2 + max 0 s)
  else i

def Window.clip (w : Window) (d : Nat) (i : Int × Int) : Int × Int := (max i.1 0, min i.2 ((w.extent d : Int) - 1))

/-- The current set of a gather window: tile rectangle and tile number (R171). -/
def Window.gatherBox (w : Window) : Box :=
  [(w.lo 0, w.hi 0), (w.lo 1, w.hi 1), (0, (w.tiles.length : Int) - 1)]

/-- The current set C, and the held set H (R150). A window that is not open has empty sets (R144). -/
def Window.current (w : Window) (c : Nat → Int) : Box :=
  if w.gather then w.gatherBox else (List.range w.d).map (fun d => w.clip d (w.iv c d))

def Window.heldBox (w : Window) (c : Nat → Int) : Box :=
  if w.gather then w.gatherBox else (List.range w.d).map (fun d => w.clip d (w.hull c d))

/-- p is a point of C of an open window. -/
def Window.inSet (w : Window) (c : Nat → Int) (p : List Int) : Bool := w.isOpen && inBox (w.current c) p

/-- Dimensions of the window tied to counter k (R163). -/
def Window.tied (w : Window) (k : Nat) : Nat :=
  if w.isOpen && !w.gather then ((List.range w.d).filter (fun d => w.k d == k)).length else 0

/-! ### Placement (R152 to R154) -/

def Window.allocExt (w : Window) (d : Nat) : Nat :=
  if w.gather then (w.hi d - w.lo d + 1).toNat
  else
    let width := w.hi d - w.lo d + 1 + (if w.k d == w.lk then (w.step d).natAbs * w.lead else 0)
    min (w.extent d) width.toNat

/-- Π A_d. -/
def Window.slotsNeeded (w : Window) : Nat := (List.range w.d).foldl (fun n d => n * w.allocExt d) 1

/-- Lowest and highest value of Σ p_d·STRIDE_d over the tensor. -/
def Window.flatRange (w : Window) : Int × Int :=
  (List.range w.d).foldl (fun r d =>
    let top := w.stride d * ((w.extent d : Int) - 1)
    (r.1 + min 0 top, r.2 + max 0 top)) (0, 0)

/-- Flat element index of a point (R156). -/
def Window.flat (w : Window) (p : List Int) : Int :=
  (List.range w.d).foldl (fun n d => n + p.getD d 0 * w.stride d) 0

/-- p lies inside the tensor. -/
def Window.inTensor (w : Window) (p : List Int) : Bool :=
  (List.range w.d).all (fun d => 0 ≤ p.getD d 0 && p.getD d 0 < (w.extent d : Int))

/-- The tensor point of a held point: for a gather window, tile origin plus offset (R171). -/
def Window.tensorPt (w : Window) (p : List Int) : List Int :=
  if w.gather then
    let o := w.tiles.getD (p.getD 2 0).toNat (0, 0)
    [o.1 + p.getD 0 0, o.2 + p.getD 1 0]
  else p

/-- The slot number of a held point: s(p) of R153, or its place in its tile (R170). -/
def Window.slotNo (w : Window) (p : List Int) : Nat :=
  if w.gather then
    (p.getD 2 0).toNat * (w.allocExt 0 * w.allocExt 1) + (p.getD 0 0 - w.lo 0).toNat + w.allocExt 0 * (p.getD 1 0 - w.lo 1).toNat
  else
    ((List.range w.d).foldl (fun (a : Nat × Nat) d =>
      (a.1 + (p.getD d 0 % (w.allocExt d : Int)).toNat * a.2, a.2 * w.allocExt d)) (0, 1)).1

def Window.slot? (w : Window) (p : List Int) : Option Slot := w.slots.lookup p

def Window.putSlot (w : Window) (p : List Int) (v : Slot) : Window :=
  { w with slots := if (w.slot? p).isSome then w.slots.map (fun q => if q.1 == p then (p, v) else q)
                    else w.slots ++ [(p, v)] }

def Window.dropBox (w : Window) (b : Box) : Window := { w with slots := w.slots.filter (fun q => !inBox b q.1) }

/-- What a window keeps of a box that was written back. -/
def Window.afterOut (win : Window) (k : ReKind) (b : Box) : Window :=
  match k with
  | .flush => { win with slots := win.slots.map (fun q => if inBox b q.1 then (q.1, { q.2 with dirty := false }) else q) }
  | .rebuild => { win with slots := [] }
  | _ => win.dropBox b

end Sys2Proof.Machine
end

