-- ==== Sys2Proof/Machine/Ops.lean ====
section
/-!
DEFINITION. The named operations over the state: harts, registers, type state, memory cells, waiting, windows'
advances and the back-edge check, taking a trap (R315) and returning from one (R316).
-/

namespace Sys2Proof.Machine

abbrev Out := Host.Outcome State Fault Refusal

/-! ### Cores and harts -/

def State.core (s : State) (c : CoreId) : Core := s.cores.get c
def State.setCore (s : State) (c : CoreId) (k : Core) : State := { s with cores := s.cores.set c k }
def Core.hart (k : Core) (h : HartNum) : Hart := k.harts.get h
def Core.setHart (k : Core) (n : HartNum) (h : Hart) : Core := { k with harts := k.harts.set n h }
def State.hart (s : State) (w : Who) : Hart := (s.core w.core).hart w.hart
def State.setHart (s : State) (w : Who) (h : Hart) : State := s.setCore w.core ((s.core w.core).setHart w.hart h)
def State.modHart (s : State) (w : Who) (f : Hart → Hart) : State := s.setHart w (f (s.hart w))
def State.modCore (s : State) (c : CoreId) (f : Core → Core) : State := s.setCore c (f (s.core c))

/-- The hart that the next instruction is executed for. -/
def State.who (s : State) : Who := s.agent.who
def State.me (s : State) : Hart := s.hart s.who
def State.setMe (s : State) (h : Hart) : State := s.setHart s.who h
def State.modMe (s : State) (f : Hart → Hart) : State := s.setMe (f s.me)
def State.myCore (s : State) : Core := s.core s.who.core
def State.modMyCore (s : State) (f : Core → Core) : State := s.modCore s.who.core f

/-- The harts of a core, and of the package, in increasing number. -/
def allHarts : List HartNum := [0, 1, 2, 3, 4, 5, 6, 7]
def allCores : List CoreId := List.ofFn (fun i : Fin 64 => i)
def allWho : List Who := allCores.flatMap (fun c => allHarts.map (fun h => ⟨c, h⟩))

/-- Harts of the core's layout (R18). -/
def Core.layoutHarts (k : Core) : List HartNum := allHarts.filter (fun h => h.val < k.layout)

/-- The entry is a child of the hart that runs at w. -/
def Child.isOf (c : Child) (w : Who) : Bool := c.parent == w && c.away.isNone

/-! ### Vector and mask register bits (R5, R47, R50) -/

def getBits (v : VBits) (pos w : Nat) : Nat := v.toNat / 2 ^ pos % 2 ^ w

def setBits (v : VBits) (pos w x : Nat) : VBits :=
  v ^^^ (BitVec.ofNat 2097152 ((getBits v pos w ^^^ x % 2 ^ w) <<< pos))

def Hart.vreg (h : Hart) (r : Nat) : VBits := h.v.toList.getD r 0
def Hart.setVreg (h : Hart) (r : Nat) (b : VBits) : Hart := { h with v := h.v.setIfInBounds r b }
def Hart.mreg (h : Hart) (m : MReg) : VBits := h.m.get ⟨m.toNat, m.isLt⟩
def Hart.setMreg (h : Hart) (m : MReg) (b : VBits) : Hart := { h with m := h.m.set m.toNat b m.isLt }

/-- Bits of one register with n lanes. -/
def Hart.regBits (h : Hart) : Nat := h.lanes * 1024

/-- Granule g of register v (R19, R50). -/
def Hart.granule (h : Hart) (r g : Nat) : Nat := getBits (h.vreg r) (64 * g) 64
def Hart.setGranule (h : Hart) (r g x : Nat) : Hart := h.setVreg r (setBits (h.vreg r) (64 * g) 64 x)

/-- Elem(v, e, w) and SetElem (R50), without the replicate modifier. -/
def Hart.elem (h : Hart) (r e w : Nat) : Nat :=
  let b := e * w
  getBits (h.vreg (r + b / h.regBits)) (b % h.regBits) w

def Hart.setElem (h : Hart) (r e w x : Nat) : Hart :=
  let b := e * w
  let j := r + b / h.regBits
  h.setVreg j (setBits (h.vreg j) (b % h.regBits) w x)

def Hart.maskBit (h : Hart) (m : MReg) (e : Nat) : Bool := (h.mreg m).getLsbD e
def Hart.setMaskBit (h : Hart) (m : MReg) (e : Nat) (b : Bool) : Hart :=
  h.setMreg m (setBits (h.mreg m) e 1 (if b then 1 else 0))

/-! ### Scalar registers (R19, R84, R309) -/

/-- Whether x1 to x31 name the supervisor bank (R309). -/
def Hart.supBank (h : Hart) : Bool := h.trap.priv && !h.trap.ux

def Hart.x (h : Hart) (r : XReg) : Word :=
  if r == 0 then 0
  else if h.supBank then h.xs.get ⟨r.toNat, r.isLt⟩ else h.xu.get ⟨r.toNat, r.isLt⟩

def Hart.setX (h : Hart) (r : XReg) (v : Word) : Hart :=
  if r == 0 then h
  else if h.supBank then { h with xs := h.xs.set r.toNat v r.isLt }
  else { h with xu := h.xu.set r.toNat v r.isLt }

/-- Register r of the executing agent: a lane thread's xj is granule L of vj (R84). -/
def State.x (s : State) (r : XReg) : Word :=
  match s.agent.lane with
  | none => s.me.x r
  | some l => if r == 0 then 0 else BitVec.ofNat 64 (s.me.granule r.toNat l)

/-- Writes of x0 are discarded (R19, R84). A lane thread's write replaces the granule, with its mark (R334). -/
def State.setX (s : State) (r : XReg) (v : Word) : State :=
  match s.agent.lane with
  | none => s.setMe (s.me.setX r v)
  | some l =>
    if r == 0 then s
    else { s.setMe (s.me.setGranule r.toNat l v.toNat) with bad := s.bad.filter (· != .vreg s.who r l) }

/-! ### Type state (R42) -/

def Hart.vill (h : Hart) : Bool := h.vtype.getLsbD 63
def sewOf (t : Word) : Nat := 8 <<< bitsOf t 0 2
def lmulOf (t : Word) : Nat := 1 <<< bitsOf t 4 2
def ekOf (t : Word) : Bool := t.getLsbD 3
def taOf (t : Word) : Bool := t.getLsbD 6
def maOf (t : Word) : Bool := t.getLsbD 7
def trowsOf (t : Word) : Nat := bitsOf t 16 4 + 1
def tdimOf (t : Word) : Nat := 16 * (bitsOf t 20 4 + 1)
/-- SCOPE; VTYPE with VILL = 1 has SCOPE 0, which is hart scope (R44, R247). -/
def scopeOf (t : Word) : Nat := bitsOf t 8 3
/-- VLMAX (R19). -/
def vlmaxOf (n : Nat) (t : Word) : Nat := n * 1024 * lmulOf t / sewOf t

/-! ### Windows, stacks, loops of a hart -/

def Hart.win (h : Hart) (w : WinNum) : Window := h.wins.get ⟨w.toNat, w.isLt⟩
def Hart.setWin (h : Hart) (w : WinNum) (v : Window) : Hart := { h with wins := h.wins.set w.toNat v w.isLt }
def Hart.iter (h : Hart) (i : StackNum) : IStack := h.iters.get ⟨i.toNat, i.isLt⟩
def Hart.setIter (h : Hart) (i : StackNum) (v : IStack) : Hart := { h with iters := h.iters.set i.toNat v i.isLt }
def Hart.loop (h : Hart) (k : CtrNum) : LoopCtr := h.loops.get ⟨k.toNat, k.isLt⟩
def Hart.setLoop (h : Hart) (k : CtrNum) (v : LoopCtr) : Hart := { h with loops := h.loops.set k.toNat v k.isLt }

/-- The counters as the signed values of R150. -/
def Hart.ctr (h : Hart) (k : Nat) : Int := (h.loops.toList.getD k LoopCtr.zero).cnt.toInt

def allWins : List WinNum := [0, 1, 2, 3, 4, 5, 6, 7]
def allStacks : List StackNum := [0, 1, 2, 3]
def allCtrs : List CtrNum := [0, 1, 2, 3, 4, 5, 6, 7]

/-! ### Waiting, stopping -/

/-- The scalar unit waits at its instruction, which it executes again (R31, R74, R321). -/
def State.waits (s : State) (w : Wait) : State := s.modMe (fun h => { h with run := .waiting w })

def stall (w : Wait) (s : State) : Out := .next (s.waits w)

/-- A wake event for a hart in WFE (R318). -/
def Hart.wake (h : Hart) : Hart :=
  match h.run with
  | .waiting (.event _ n) => { h with run := .waiting (.event true n) }
  | _ => h

/-- The issue number that an engine operation or a store of this instruction carries (R312). -/
def State.seqNow (s : State) : Nat :=
  match s.replay with
  | some e => e.seq
  | none => s.me.nextSeq

def majorOf (w : Insn) : Nat := (w.extractLsb' 26 6).toNat
def fnOf (w : Insn) : Nat := (w.extractLsb' 0 5).toNat

/-- Members without an address phase and a data phase: MSWAP, MZERO and MWAIT, VMVXV, and the members that push a
status into q1 (R56, R312). -/
def phaseless (w : Insn) : Bool :=
  let f := fnOf w
  match majorOf w with
  | 0x29 => f == 9
  | 0x30 => f == 9
  | 0x34 => f == 14
  | 0x36 => f == 2 || f == 3 || f == 10
  | 0x37 => f == 7
  | _ => false

/-- The outstanding instruction has retired, once those before it have (R312): its phases have passed, and no enable
of FCR is set. A VST has once it has begun. An MWAIT has not while a stream window of the hart may still hold a row back (R172). -/
def Hart.retired (h : Hart) (e : Issued) : Bool :=
  e.adv.isNone && (phaseless e.word || (majorOf e.word == 0x2B && e.cap.began)) && h.fcr.extractLsb' 5 5 == 0 &&
  !(majorOf e.word == 0x36 && fnOf e.word == 10 &&
    h.reOps.any (fun o => ((h.wins.toList.getD o.win.toNat Window.clear).mode.getLsbD 11)))

/-- Every earlier vector instruction of the hart has retired, for an item of issue number q (R312). A pull has once its group
is formed. -/
def Hart.settled (h : Hart) (q : Nat) : Bool :=
  h.stream.all (fun e => q ≤ e.seq || h.retired e) && h.pulls.all (fun p => p.formed || q ≤ p.entry.seq)

/-- Every instruction before the scalar unit's next one has completed its own work (R315 step 1). -/
def Hart.allDone (h : Hart) : Bool := h.stream.isEmpty && h.settled h.nextSeq

/-- A hard pre-emption is due: HARD of PREEMPT reads 1 (R310, R323). -/
def Hart.hardNow (h : Hart) : Bool := h.sup.hard || h.sup.hardReq

/-! ### Memory cells: rising keys, no entry equal to what an unlisted byte reads as -/

/-- What a byte that nothing has written reads as: zeroed device memory (R353); host and remote memory read 0
too (DESIGN CHOICE, log 3). -/
def Memory.dflt : Byte := 0

def Memory.read : List Host.Cell → Nat → Byte
  | [], _ => Memory.dflt
  | (k, b) :: m, a => if a == k then b else Memory.read m a

def Memory.write : List Host.Cell → Nat → Byte → List Host.Cell
  | [], a, v => if v == Memory.dflt then [] else [(a, v)]
  | (k, b) :: m, a, v =>
    if a < k then (if v == Memory.dflt then (k, b) :: m else (a, v) :: (k, b) :: m)
    else if a == k then (if v == Memory.dflt then m else (a, v) :: m)
    else (k, b) :: Memory.write m a v

def Memory.rising : List Host.Cell → Bool
  | [] => true
  | [c] => c.2 != Memory.dflt
  | c :: d :: m => c.1 < d.1 && c.2 != Memory.dflt && Memory.rising (d :: m)

/-- The canonical form of a memory. -/
def Memory.wf (m : List Host.Cell) : Bool := Memory.rising m

def Memory.writeAll (m : List Host.Cell) (cs : List Host.Cell) : List Host.Cell :=
  cs.foldl (fun m c => Memory.write m c.1 c.2) m

/-- Bytes of a little-endian value, and the value of bytes (R5). -/
def bytesOf (n v : Nat) : List Byte := (List.range n).map (fun i => BitVec.ofNat 8 (v / 256 ^ i))
def natOf (bs : List Byte) : Nat := bs.foldr (fun b n => b.toNat + 256 * n) 0

/-! ### Trap causes (R311) -/

def Cause.code : Cause → Byte
  | .illegalInsn => 0x01 | .priv => 0x02 | .misalign => 0x03 | .perm => 0x04 | .notPresent => 0x05
  | .compressed => 0x07 | .residency => 0x08 | .reservedCode => 0x09 | .kvFault => 0x0A | .fp => 0x0B
  | .brk => 0x0D | .scall => 0x0E | .windowBind => 0x0F | .iter => 0x10 | .exchange => 0x13
  | .uncorrectable => 0x14 | .config => 0x15

/-- The causes that squash their instruction (R311). -/
def Cause.squash : Cause → Bool
  | .misalign | .perm | .notPresent | .compressed => true
  | _ => false

/-! ### The scalar state that a trap of a queued vector instruction puts back (R312) -/

def Hart.statusWord (t : TrapRegs) : Word :=
  BitVec.ofNat 64 ((if t.ux then 16 else 0) + (if t.sq then 8 else 0) + (if t.lt then 4 else 0)
    + (if t.pp then 2 else 0) + (if t.priv then 1 else 0))

/-- The logical lane of the core, and the core, that lane l of the hart is (R91, R95). -/
def State.laneCore (s : State) (w : Who) (l : Nat) : CoreId × Nat :=
  match (s.hart w).gang with
  | some (_, b) => (Fin.ofNat 64 (b.val + l / 32), l % 32)
  | none => (w.core, w.hart.val * (32 / (s.core w.core).layout) + l)

/-- The lane quads of the partition of hart w, whatever part of it is granted, each as a core and a quad of it, in the
order of their lanes (R17, R82). -/
def State.quadOf (s : State) (w : Who) (l : Nat) : CoreId × Fin 8 :=
  let p := s.laneCore w l
  (p.1, Fin.ofNat 8 (p.2 / 4))

def State.quads (s : State) (w : Who) : List (CoreId × Fin 8) :=
  (List.range ((s.hart w).avail / 4)).map (fun i => s.quadOf w (4 * i))

def State.qbuf (s : State) (q : CoreId × Fin 8) : List Host.Cell := (s.core q.1).qbufs.get q.2
def State.setQbuf (s : State) (q : CoreId × Fin 8) (b : List Host.Cell) : State :=
  s.modCore q.1 (fun k => { k with qbufs := k.qbufs.set q.2 b })

def Hart.snap (h : Hart) (bufs : List (List Host.Cell)) : ScalarSnap :=
  { xu := h.xu, xs := h.xs, loops := h.loops, active := h.active, q0 := h.q0, owed := h.owed, q1 := h.q1, lq := h.lq,
    instret := h.instret, vtype := h.vtype, vl := h.vl, arming := h.arming, hbound := h.hbound, lib := h.lib,
    bufs := bufs, sup := h.sup, trap := h.trap }

def State.snap (s : State) : ScalarSnap := s.me.snap ((s.quads s.who).map s.qbuf)

/-- The supervisor registers as SETS, VSETVL and a write of PREEMPT left them at p, with what the controller and LEFT
have done since kept (R310, R323). -/
def SupRegs.back (r p : SupRegs) : SupRegs :=
  { r with
    trapVec := p.trapVec, ceilSup := p.ceilSup, ctxPtr := p.ctxPtr, hardReq := p.hardReq
    why := if r.hard then r.why else p.why, soft := r.soft || (p.soft && !r.hard)
    left := if r.soft || r.hard then r.left else p.left }

def Hart.restoreSnap (h : Hart) (p : ScalarSnap) : Hart :=
  { h with
    xu := p.xu, xs := p.xs, loops := p.loops, active := p.active, q0 := p.q0, owed := p.owed, q1 := p.q1, lq := p.lq,
    instret := p.instret, vtype := p.vtype, vl := p.vl, arming := p.arming, hbound := p.hbound, lib := p.lib,
    sup := h.sup.back p.sup, trap := { p.trap with redeliver := h.trap.redeliver } }

/-- The executing hart as it stood when the queued instruction issued, at a loop's end where it is a wrap. -/
def State.restoreSnap (s : State) (e : Issued) : State :=
  ((s.quads s.who).zip e.snap.bufs).foldl (fun s b => s.setQbuf b.1 b.2)
    (s.modMe (fun h => { h.restoreSnap e.snap with run := if e.adv == some true then .atLoopEnd else .running }))

def Undo.apply (u : Undo) (h : Hart) : Hart :=
  let h1 := u.m.foldl (fun h q => { h with m := h.m.setIfInBounds q.1 q.2 }) (u.v.foldl (fun h q => h.setVreg q.1 q.2) h)
  match u.flags with
  | some f => { h1 with fflags := f.1, vstart := f.2 }
  | none => h1

/-- A pull that is undone gives its elements back to the front of what was formed (R192, R198). -/
def Hart.giveBack (h : Hart) (p : Pull) : Hart :=
  match p.stack with
  | some i => h.setIter i { h.iter i with buf := p.group ++ (h.iter i).buf }
  | none => h

/-- Discards every effect of the instructions after issue number q of hart w: queued vector instructions, effects
on the Harness, stores and engine operations, whose numbers stay consumed (R312, R313). -/
def State.discardAfter (s : State) (w : Who) (q : Nat) : State :=
  let s := s.modHart w (fun h =>
    { (h.pulls.filter (fun p => q < p.entry.seq)).foldr (fun p h => h.giveBack p) h with
      stream := [], pulls := h.pulls.filter (fun p => p.entry.seq ≤ q), late := h.late.filter (fun l => l.1 ≤ q)
      reOps := h.reOps.filter (fun o => o.tag.seq ≤ q), ahead := [], itOps := h.itOps.filter (fun o => o.tag.seq ≤ q),
      xops := h.xops.filter (fun o => o.tag.seq ≤ q) })
  let s := s.modCore w.core (fun k =>
    { k with matrix := { k.matrix with ops := k.matrix.ops.filter (fun o => o.who != w || o.away || o.tag.seq ≤ q) } })
  { s with stores := s.stores.filter (fun t => t.who != w || t.seq ≤ q), replay := none }

/-! ### Taking a trap (R315) -/

/-- Steps 3 to 6 of R315 on a hart: the trap registers, STATUS, TRAPSEQ, the trap point (R316) and the PC. Where the
scalar unit stopped is kept from the trap that left user mode: a nested trap does not replace it (R316). -/
def Hart.enterTrap (h : Hart) (t : Trap) (pc : Word) (squash lane : Bool) : Hart :=
  { h with
    run := .running
    pc := h.sup.trapVec &&& ~~~(3 : Word)
    pageReq := none
    trap := { h.trap with
      cause := t.cause.code, pc := pc, val := t.val, elem := BitVec.ofNat 24 t.elem
      pp := h.trap.priv, priv := true, ux := false, sq := squash, lt := lane
      seq := h.trap.seq + 1, point := pc
      stop := if h.trap.priv then h.trap.stop else h.pc
      atEnd := if h.trap.priv then h.trap.atEnd else h.run == .atLoopEnd } }

/-- A trap at the instruction at `pc` of the executing agent: a lane thread's trap is its hart's (R88). A queued
vector instruction's trap first discards what came after it and puts the scalar state back (R312). -/
def trapAt (t : Trap) (squash : Bool) (pc : Word) (s : State) : State :=
  match s.replay with
  | some e =>
    ((s.discardAfter s.who e.seq).restoreSnap e).modMe (fun h => h.enterTrap t pc squash false)
  | none =>
    match s.agent.lane with
    | some l =>
      { s.modMe (fun h => h.enterTrap { t with elem := l } pc squash true) with agent := ⟨s.who, none⟩ }
    | none => s.modMe (fun h => h.enterTrap t pc squash false)

/-- The address of the instruction being executed: the PC, a lane thread's offset, or a queued vector
instruction's own address (R312). -/
def State.pcNow (s : State) : Word :=
  match s.replay with
  | some e => e.cap.pc
  | none =>
    match s.agent.lane, s.me.threads with
    | some l, some ts => (ts.toList.getD l ⟨0, true⟩).pc
    | _, _ => s.me.pc

/-- The trap of the instruction being executed (R312, R315). A scalar instruction's trap waits until every
earlier vector instruction has completed its own work. -/
def raise (t : Trap) (s : State) : Out :=
  if s.replay.isNone && s.agent.lane.isNone && !s.me.allDone then stall .stream s
  else .next (trapAt t t.cause.squash s.pcNow s)

/-- ILLEGAL_INSN, PRIV, CONFIG, BRK and SCALL carry the word (R311). -/
def raiseWord (c : Cause) (w : Insn) (s : State) : Out := raise ⟨c, w.zeroExtend 64, 0⟩ s

def illegal (w : Insn) (s : State) : Out := raiseWord .illegalInsn w s
def config (w : Insn) (s : State) : Out := raiseWord .config w s

/-! ### Range scoreboard and window advances (R151, R158, R159, R162, R163) -/

/-- Scoreboard entries in use on a core, and those that a WNEXT has reserved (R162, R163). -/
def Core.scoreboard (k : Core) : Nat :=
  allHarts.foldl (fun n h => n + ((k.hart h).reOps.map (fun o => o.slabs.length)).sum
    + ((k.hart h).pulls.filter (fun p => p.win.isSome && p.stack.isSome)).length) 0

/-- A new RE operation of a hart, numbered next on TLRE and held on the output that armed it (R28, R263). -/
def Hart.pushRe (h : Hart) (arm : Option (BitVec 4)) (stamp seq : Nat) (win : WinNum) (kind : ReKind) (out slabs : List Box)
    (only : List (List Int)) (save : Option Window) : Hart :=
  { h with
    tlre := h.tlre + 1
    reOps := h.reOps ++ [{
      tag := ⟨(h.tlre + 1).toNat, seq, arm, stamp⟩, win := win, kind := kind, out := out,
      slabs := slabs, only := only, failed := none, save := save, rowsIn := 0, todo := false }] }

/-- One advance of window w as the counters go from `old` to `new` (R151, R158). -/
def Hart.advance (h : Hart) (old new : Nat → Int) (seq : Nat) (w : WinNum) : Hart :=
  let win := h.win w
  let hOld := win.heldBox old
  let hNew := win.heldBox new
  h.pushRe none 0 seq w .advance (slabs hNew hOld) (slabs hOld hNew) [] none

/-- A failed write-back of a window, or a held stream row (R169, R172). -/
def Hart.failedOn (h : Hart) (w : WinNum) : Option Trap :=
  match h.reOps.find? (fun o => o.win == w && o.failed.isSome) with
  | some o => o.failed
  | none => (h.win w).held

/-- The trap of a failed operation is being taken, so the engine tries again (R169, R172). -/
def Hart.clearFailed (h : Hart) (w : WinNum) : Hart :=
  let h' : Hart := { h with reOps := h.reOps.map (fun o => if o.win == w then { o with failed := none } else o) }
  h'.setWin w { h.win w with held := none }

/-- What the advances of a counter change came to: all made, `full` where an entry of the scoreboard is lacking, with those
already made standing (R163), or a failed write-back that the change meets (R169). -/
inductive AdvRes where
  | done (s : State)
  | full (s : State)
  | fail (w : WinNum) (t : Trap)

/-- The counters as they were when window w advanced last: a change that waits has advanced some windows already. -/
def Hart.behind (h : Hart) (old : Nat → Int) (w : WinNum) (k : Nat) : Int :=
  match h.ahead.find? (fun a => a.1 == w && a.2.1 == k) with
  | some a => a.2.2.toInt
  | none => old k

/-- The advances of every window that names counter k, in window order, each once its entries are reserved (R163). -/
def advanceAll (k : Nat) (old new : Nat → Int) (seq : Nat) (s : State) : List WinNum → AdvRes
  | [] => .done (s.modMe (fun h => { h with ahead := [] }))
  | w :: ws =>
    let n := (s.me.win w).tied k
    if n == 0 || (s.me.ahead.any (fun a => a.1 == w && a.2.1 == k) && s.me.behind old w k == new k) then
      advanceAll k old new seq s ws
    else
      match s.me.failedOn w with
      | some t => .fail w t
      | none =>
        if s.myCore.scoreboard + n > 64 then .full s
        else
          advanceAll k old new seq (s.modMe (fun h =>
            { h.advance (h.behind old w) new seq w with ahead := (w, k, BitVec.ofInt 64 (new k)) :: h.ahead.filter (·.1 != w) })) ws

/-- A member that takes an RE number, or a counter change, still stands in the vector stream: a new counter value
advances the windows only after it, as RE operations are numbered in program order (R28, R151, R157; DEDUCED, log 12). -/
def Hart.winPending (h : Hart) : Bool :=
  h.stream.any (fun e => e.adv.isSome ||
    (majorOf e.word == 0x30 && [3, 4, 5, 6, 8].contains (fnOf e.word) && e.cap.num.isNone))

/-- The counters c0 to c7. -/
def Hart.ctrs (h : Hart) : List Word := h.loops.toList.map (·.cnt)

/-- The signed value of counter k in a list of counter values. -/
def ctrIn (l : List Word) (k : Nat) : Int := (l.getD k 0).toInt

/-- Counter k takes value v. -/
def Hart.putCtr (h : Hart) (k : CtrNum) (v : Word) : Hart :=
  h.setLoop k { h.loop k with cnt := v, changes := (h.loop k).changes + 1 }

/-- The advances of a counter change stand in the vector stream, behind what they must follow. `p` is where the trap of
a failed write-back stands, `wrap` whether it is a loop's end. -/
def State.queueAdvance (s : State) (before : State) (p : Word) (wrap : Bool) : State :=
  let h := before.me
  let cap : Capture :=
    { pc := p, vtype := h.vtype, vl := h.vl, epoch := h.epoch, xs := h.ctrs ++ s.me.ctrs, start := h.vstart, num := none
      arm := none, began := false, grp := [] }
  { s.modMe (fun g => { g with
      nextSeq := g.nextSeq + 1
      stream := g.stream ++ [⟨0, cap, g.nextSeq, none, s.nextId, before.snap, some wrap⟩] }) with
    nextId := s.nextId + 1 }

/-- Counter k takes value v at the instruction or loop end at p, and its windows advance (R151). Where that must wait, the
counter keeps its value (R163). -/
def setCounter (k : CtrNum) (v : Word) (p : Word) (wrap : Bool) (s : State) : AdvRes :=
  if s.me.winPending then .done ((s.modMe (fun h => h.putCtr k v)).queueAdvance s p wrap)
  else
    match advanceAll k.toNat s.me.ctr (s.me.putCtr k v).ctr s.seqNow s allWins with
    | .done s' => .done (s'.modMe (fun h => h.putCtr k v))
    | r => r

/-! ### Completion of a scalar instruction and the back-edge check (R68) -/

/-- A lane thread's next offset. -/
def State.setThreadPc (s : State) (l : Nat) (p : Word) : State :=
  s.modMe (fun h => { h with threads := h.threads.map (fun ts => ts.setIfInBounds l ⟨p, false⟩) })

def State.goTo (s : State) (p : Word) : State := s.modMe (fun h => { h with pc := p, run := .running })

/-- ENDk of a wrap that lands on TOP: the byte address after max(LEN, 1) words (R66, R68). -/
def LoopCtr.top (l : LoopCtr) : Word := l.body &&& 0x0000FFFFFFFFFFFC
def LoopCtr.endOf (l : LoopCtr) : Word := l.top + 4 * (max (bitsOf l.body 48 16) 1 : Nat)

/-- The back-edge check of R68 over the running loops, newest start rank first. A wrap that lacks scoreboard
entries stops at the loop's end (R163); one that a failed write-back holds takes that trap (R169). -/
def backEdge (p : Word) (s : State) : List CtrNum → State
  | [] => s.goTo p
  | k :: ks =>
    let l := s.me.loop k
    if p == l.endAddr then
      if l.rem == 0 then
        backEdge p (s.modMe (fun h => { h with active := h.active.filter (· != k) })) ks
      else
        match setCounter k (l.cnt + 1) p true s with
        | .full s => s.modMe (fun h => { h with pc := p, run := .atLoopEnd })
        | .fail w t =>
          let s := s.modMe (fun h => { h.clearFailed w with pc := p, run := .atLoopEnd })
          trapAt t true p s
        | .done s' =>
          (s'.modMe (fun h => h.setLoop k { h.loop k with rem := l.rem - 1, endAddr := l.endOf })).goTo l.top
    else backEdge p s ks

def arrive (p : Word) (s : State) : State := backEdge p s s.me.active

/-- An instruction completes and control goes to p: INSTRET counts it (R80), the back-edge check runs (R68). A
lane thread only moves its own offset; its instructions are not counted. -/
def complete (p : Word) (s : State) : State :=
  match s.agent.lane with
  | some l => s.setThreadPc l p
  | none => arrive p (s.modMe (fun h => { h with instret := h.instret + 1 }))

/-- Completion at the next word. -/
def finish (s : State) : State := complete (s.pcNow + 4) s

def done (s : State) : Out := .next (finish s)

/-! ### Returning from a trap (R316) -/

/-- TRET's effect on the resume address and STATUS, but for re-deliveries and a pending pre-emption. -/
def Hart.tretStatus (h : Hart) : Hart := { h with trap := { h.trap with priv := h.trap.pp, ux := false } }

/-- The state at the address p that TRET forms (R316): with LT = 1 and lane threads present the trapping thread
resumes at TRAPPC and the scalar unit where it stopped; a TRAPPC that software moved runs the back-edge check. -/
def tretResume (s : State) : State :=
  let h := s.me
  let t := h.trap
  match h.threads with
  | some ts =>
    if t.lt then
      s.modMe (fun h =>
        { h.tretStatus with pc := t.stop, run := if t.atEnd then .atLoopEnd else .running, threads := some (ts.setIfInBounds t.elem.toNat ⟨t.pc, false⟩) })
    else if !t.pp && t.pc != t.point then arrive t.pc (s.modMe Hart.tretStatus)
    else s.modMe (fun h => { h.tretStatus with pc := t.pc, run := if t.atEnd && !t.pp then .atLoopEnd else .running })
  | none =>
    if !t.pp && t.pc != t.point then arrive t.pc (s.modMe Hart.tretStatus)
    else s.modMe (fun h => { h.tretStatus with pc := t.pc, run := if t.atEnd && !t.pp then .atLoopEnd else .running })

end Sys2Proof.Machine
end

