-- ==== Sys2Proof/Machine/Mem.lean ====
section
/-!
DEFINITION. Generic memory: places of bytes (R26, R331, R345, R346), translation (R328 to R332, R339), the
store queues (R64, R125), reads of agents and engines, page requests (R339, R340).
-/

namespace Sys2Proof.Machine

/-! ### Places of bytes -/

/-- A byte of generic memory as one key: device memory of a partition, host memory by its bus address, memory of
a remote device by its number and offset. -/
def devKey (part pa : Nat) : Nat := part * 2 ^ 52 + pa
def hostKey (bus : Nat) : Nat := 2 ^ 60 + bus
def remoteKey (pa : Nat) : Nat := 2 ^ 61 + pa

/-- TGT of R331. -/
inductive Target where
  | device | host | remote | mmio
  deriving DecidableEq, Repr

def State.launchOf (s : State) (h : Hart) : Option Launch :=
  match h.launch with
  | none => none
  | some id => s.launches.find? (fun l => l.id == id)

def State.partOf (s : State) (h : Hart) : BitVec 4 :=
  match s.launchOf h with
  | some l => l.part
  | none => 0

def State.part (s : State) (p : BitVec 4) : Partition := s.parts.get ⟨p.toNat, p.isLt⟩

/-- The share of a partition on a die, in bytes (R345). -/
def Partition.share (p : Partition) (die : Nat) (sram : Bool) : Nat :=
  if sram then (p.groups.getD die []).length * (48 * 2 ^ 20) else (p.channels.getD die []).length * 2 ^ 30

/-- A device physical address names memory of the partition (R345). -/
def Partition.owns (p : Partition) (pa : Nat) : Bool :=
  pa < 2 ^ 44 && pa % 2 ^ 41 < p.share (pa / 2 ^ 42 % 4) (pa / 2 ^ 41 % 2 == 1)

/-- The slice of a byte (R124, R346). -/
def State.sliceOf (s : State) (key : Nat) : Nat :=
  if key ≥ 2 ^ 61 then 2 ^ 20 + (key - 2 ^ 61) / 2 ^ 40
  else if key ≥ 2 ^ 60 then 2 ^ 19
  else
    let pa := key % 2 ^ 52
    let p := s.part (BitVec.ofNat 4 (key / 2 ^ 52))
    let die := pa / 2 ^ 42 % 4
    let u := pa % 2 ^ 41 / 256
    if pa / 2 ^ 41 % 2 == 1 then
      let l := p.groups.getD die []
      64 * die + 32768 + l.getD (u % l.length) 0
    else
      let l := p.channels.getD die []
      64 * die + l.getD (u % l.length) 0

/-- The byte of its slice that offset o of a share of n slices lies in (R346). -/
def sliceByte (n o : Nat) : Nat := o / 256 / n * 256 + o % 256

/-! ### The capability list of a partition (R352) -/

/-- The list lies outside the partition's own memory, where only its mapping leads (log 20). -/
def capKey (part off : Nat) : Nat := 2 ^ 57 + part * 2 ^ 16 + off

/-- The partition owns cores on at least two dies. -/
def Partition.crossDie (p : Partition) : Bool :=
  1 < ((List.range 4).filter (fun d => p.cores.extractLsb' (16 * d) 16 != 0)).length

def Port.mask (ps : List Port) : Nat := ps.foldr (fun p n => (if p.up then 1 else 0) + 2 * n) 0

/-- The records that the partition has: identifier and body, in increasing identifier (log 20). -/
def State.capRecords (s : State) (part : BitVec 4) : List (Nat × List Word) :=
  let p := s.part part
  [(1, [0x0058363400000001, Config.siliconRevision.zeroExtend 64, Config.serialNumber])] ++
  (if p.sparse then [(2, [])] else []) ++ (if p.crossDie then [(3, [])] else []) ++
  [(4, [BitVec.ofNat 64 (Port.mask s.ports.toList), s.dev.zeroExtend 64]),
   (5, (List.range 4).map (fun d => BitVec.ofNat 64 ((p.channels.getD d []).length + 256 * (p.groups.getD d []).length))),
   (6, [0x0000000000FFFFFF]),
   (7, [Config.linkWidth.zeroExtend 64 ||| (Config.linkRate.zeroExtend 64 <<< 8)])]

/-- The doublewords of records from an offset on, each with its header of version 1. -/
def capWordsFrom : Nat → List (Nat × List Word) → List Word
  | _, [] => []
  | off, r :: rs =>
    let len := 8 * (r.2.length + 1)
    let next := if rs.isEmpty then 0 else off + len
    (BitVec.ofNat 64 (next * 2 ^ 40 + len * 2 ^ 24 + 2 ^ 16 + r.1) :: r.2) ++ capWordsFrom (off + len) rs

def State.capWords (s : State) (part : BitVec 4) : List Word := capWordsFrom 0 (s.capRecords part)

/-! ### Reads and writes of memory as engines and the device see it -/

/-- A byte of memory, or of a capability list. -/
def State.byte (s : State) (key : Nat) : Byte :=
  if key < 2 ^ 57 || 2 ^ 58 ≤ key then Memory.read s.mem key
  else
    let o := key % 2 ^ 16
    BitVec.ofNat 8 (((s.capWords (BitVec.ofNat 4 ((key - 2 ^ 57) / 2 ^ 16))).getD (o / 8) 0).toNat / 256 ^ (o % 8))

def State.bytes (s : State) (key n : Nat) : List Byte := (List.range n).map (fun i => s.byte (key + i))
def State.readN (s : State) (key n : Nat) : Nat := natOf (s.bytes key n)

/-- A write of a whole granule clears its mark of a double error (R334). -/
def clearMarks (bad : List ErrorSite) (cells : List Host.Cell) : List ErrorSite :=
  bad.filter (fun e => match e with
    | .memory a => !(List.range 8).all (fun i => cells.any (fun c => c.1 == a / 8 * 8 + i))
    | _ => true)

/-! ### What each observer sees (R392 to R394) -/

/-- A byte as an observer sees it, given what memory holds. -/
def Order.seen (o : Order) (b : Observer) (key : Nat) (now : Byte) : Byte :=
  (o.lag.findSome? (fun l => if l.obs == b then (l.old.find? (fun c => c.1 == key)).map (·.2) else none)).getD now

/-- The observers that p names see every write. -/
def Order.shows (o : Order) (p : Observer → Bool) : Order :=
  if o.lag.isEmpty then o else { o with lag := o.lag.filter (fun l => !p l.obs) }

/-- Every observer sees every write. -/
def Order.shown (o : Order) : Order :=
  if o.lag.isEmpty then o else { o with lag := [], rels := [], tags := [], saw := [] }

def State.allSee (s : State) : State := { s with order := s.order.shown }

/-- A write of hart w, of its unit `own` or of an engine: the observers to be kept behind see it late, but never the agent that
made it (R64, R125). Another one that lags in the same slice, or behind a write of the same byte, sees everything with it, so
that each slice's writes and each byte's come to it in one order (R392, R393). A byte written after a release is noted. -/
def Order.wrote (o : Order) (w : Who) (own : Option Unit') (slices : List Nat) (cells : List Host.Cell) (mem : List Host.Cell) : Order :=
  if o.hide.isEmpty && o.lag.isEmpty then o
  else
    let late := o.hide.filter (fun b => !(b.who == w && some b.by' == own))
    let caught (b : Observer) : Bool := !late.contains b && o.lag.any (fun l => l.obs == b &&
      (slices.any l.slices.contains || l.old.any (fun c => cells.any (fun d => d.1 == c.1))))
    { o with
      hide := []
      lag := late.map (fun b => ⟨b, w, slices, cells.map (fun c => (c.1, o.seen b c.1 (Memory.read mem c.1)))⟩) ++
        o.lag.filter (fun l => !caught l.obs)
      tags := (o.rels.filter (fun r => r.1 == w)).flatMap (fun r => cells.map (fun c => (c.1, r.1, r.2))) ++ o.tags }

/-- A write that every observer sees at once, with all before it: one of the device's own units, an atomic, an arrival. -/
def State.writeCells (s : State) (cells : List Host.Cell) : State :=
  { s with mem := Memory.writeAll s.mem cells, bad := clearMarks s.bad cells, order := s.order.shown }

/-- A write of a hart. -/
def State.writeBy (s : State) (w : Who) (own : Option Unit') (slices : List Nat) (cells : List Host.Cell) : State :=
  { s with
    mem := Memory.writeAll s.mem cells, bad := clearMarks s.bad cells
    order := s.order.wrote w own slices cells s.mem }

def cellsAt (key : Nat) (bs : List Byte) : List Host.Cell := bs.zipIdx.map (fun p => (key + p.2, p.1))

def State.writeN (s : State) (key n v : Nat) : State := s.writeCells (cellsAt key (bytesOf n v))

/-- No Lamef port is up, so no path leads to another device (R271; DEDUCED, log 53). -/
def State.noPath (s : State) : Bool := s.ports.toList.all (fun p => !p.up)

/-- A byte whose granule carries the mark of a double error (R334), or to which no path leads (R271). -/
def State.badByte (s : State) (key : Nat) : Bool :=
  (2 ^ 61 ≤ key && s.noPath) ||
  s.bad.any (fun e => match e with
    | .memory a => a / 8 == key / 8
    | _ => false)

/-- UNCORRECTABLE's TRAPVAL for a byte of generic memory: WHERE 0, or 7 on another device, and the virtual address
(R335). -/
def memBadVal (key : Nat) (va : Word) : Word :=
  (va &&& 0x00FFFFFFFFFFFFFF) ||| (if 2 ^ 61 ≤ key then 0x7000000000000000 else 0)

/-! ### Translation (R328 to R332) -/

inductive Acc where
  | fetch | load | store | amo
  deriving DecidableEq, Repr

def Acc.writes : Acc → Bool
  | .store | .amo => true
  | _ => false

/-- What a page request asks for: a bus page, and whether to write it (R339). -/
structure Ask where
  page : Nat
  wr : Bool
  deriving DecidableEq, Repr

/-- A failed access: its cause, its address and, where ATS refused the page, what it asks for (R339). -/
structure MemErr where
  cause : Cause
  addr : Word
  page : Option Ask
  wr : Bool
  deriving DecidableEq, Repr

/-- A translated byte: where it lies, and the range attribute it came through (R329). -/
structure Phys where
  tgt : Target
  key : Nat
  compressed : Bool
  es : Nat              -- element size of a transposed range, 0 otherwise
  offset : Nat          -- offset in its range, for a compressed tensor
  base : Nat            -- physical address of the first byte of the range or page
  deriving DecidableEq, Repr

/-- Flags of a page or range entry that fail (R331, R332): reserved bits, TGT, W without R, the access kind, S
in user mode. -/
def flagsBad (e : Word) (acc : Acc) (priv : Bool) : Bool :=
  let r := e.getLsbD 3
  let w := e.getLsbD 4
  let x := e.getLsbD 5
  bitsOf e 6 2 != 0 || bitsOf e 1 2 != 0 || bitsOf e 52 12 != 0 || bitsOf e 9 3 > 3 || (w && !r) ||
  (e.getLsbD 8 && !priv) ||
  (match acc with
    | .fetch => !x
    | .load => !r
    | .store | .amo => !(w && r))

/-- Forced flags of a launch's code: readable and executable, never writable (R35, R57). -/
def codeFlags (e : Word) : Word := (e &&& ~~~(0x110 : Word)) ||| 0x28

def State.inCode (s : State) (h : Hart) (va : Nat) : Bool :=
  match s.launchOf h with
  | some l => l.code.any (fun r => r.1.toNat ≤ va && va < r.1.toNat + r.2)
  | none => false

/-- A byte of the code that a launch executes: no path writes it, whatever address leads there (R35; DEDUCED, log 38). -/
def State.isCode (s : State) (key : Nat) : Bool :=
  s.launches.any (fun l => l.codeKeys.any (fun r => r.1 ≤ key && key < r.1 + r.2))

/-- ATS lets the function reach the bus page under the PASID (R339). -/
def State.atsGrants (s : State) (h : Hart) (page : Nat) (wr : Bool) : Bool :=
  (s.atsCache ++ s.grants).any (fun g => g.fn == h.fn && g.pasid == h.pasid && g.page == page && (g.writable || !wr))

/-- One of n bytes from key on is code. -/
def State.codeIn (s : State) (key n : Nat) : Bool :=
  s.launches.any (fun l => l.codeKeys.any (fun r => r.1 < key + n && key < r.1 + r.2))

/-- The place that a target and a physical address name; PERM beyond the partition's share (R345) and for a write of
code (R35), NOTPRESENT where ATS refuses (R339). -/
def State.place (s : State) (h : Hart) (acc : Acc) (va : Word) (tgt pa : Nat) : Except MemErr (Target × Nat) :=
  match tgt with
  | 0 =>
    let p := s.partOf h
    if (s.part p).owns pa && !(acc.writes && s.isCode (devKey p.toNat pa)) then .ok (.device, devKey p.toNat pa)
    else .error ⟨.perm, va, none, acc.writes⟩
  | 1 =>
    if acc.writes && s.isCode (hostKey pa) then .error ⟨.perm, va, none, true⟩
    else if s.atsGrants h (pa / 4096) acc.writes then .ok (.host, hostKey pa)
    else .error ⟨.notPresent, va, some ⟨pa / 4096, acc.writes⟩, acc.writes⟩
  | 2 => if acc.writes && s.isCode (remoteKey pa) then .error ⟨.perm, va, none, true⟩ else .ok (.remote, remoteKey pa)
  | _ => .ok (.mmio, pa)

/-- The same place without those checks, for a logical byte of a compressed tensor: what is read of it is its image's
bytes (R140). -/
def State.logical (s : State) (h : Hart) (tgt pa : Nat) : Target × Nat :=
  match tgt with
  | 0 => (.device, devKey (s.partOf h).toNat pa)
  | 1 => (.host, hostKey pa)
  | 2 => (.remote, remoteKey pa)
  | _ => (.mmio, pa)

/-- Physical offset of byte o of a transposed range (R329). -/
def transposed (o es rowb : Nat) : Nat :=
  let row := 64 * rowb
  let n := o / es
  let i := n / row
  let j := n % row
  ((i - i % 64 + j % 64) * row + (j - j % 64 + i % 64)) * es + o % es

/-- The walk of R328 step 3 from a table's physical address: the leaf with its level. A table beyond the partition's share is
PERM (R345). -/
def walkFrom (s : State) (part va : Nat) : Nat → Nat → Except Cause (Word × Nat)
  | 0, table =>
    let at' := table + 8 * (va / 4096 % 512)
    let e := BitVec.ofNat 64 (s.readN (devKey part at') 8)
    if !(s.part (BitVec.ofNat 4 part)).owns at' then .error .perm
    else if !e.getLsbD 0 then .error .notPresent
    else if bitsOf e 3 3 == 0 then .error .perm
    else .ok (e, 0)
  | l + 1, table =>
    let idx := if l + 1 == 3 then va / 2 ^ 39 % 2 ^ 17 else va / 2 ^ (12 + 9 * (l + 1)) % 512
    let e := BitVec.ofNat 64 (s.readN (devKey part (table + 8 * idx)) 8)
    if !(s.part (BitVec.ofNat 4 part)).owns (table + 8 * idx) then .error .perm
    else if !e.getLsbD 0 then .error .notPresent
    else if bitsOf e 3 3 != 0 then
      if l + 1 == 3 || bitsOf e 12 (9 * (l + 1)) != 0 then .error .perm else .ok (e, l + 1)
    else if bitsOf e 52 12 != 0 || bitsOf e 6 2 != 0 || bitsOf e 1 2 != 0 || bitsOf e 9 3 > 3 then .error .perm
    else walkFrom s part va l (bitsOf e 12 40 * 4096)

/-- The leaf for va: a cached walk of the address space, else a walk at PTROOT (R328). -/
def State.leaf (s : State) (w : Who) (va : Nat) : Except Cause (Word × Nat) :=
  let h := s.hart w
  match (s.core w.core).walks.find? (fun c => c.1 == h.sup.aspace &&
      c.2.1 == va / 2 ^ (12 + 9 * (c.2.2.toNat >>> 62))) with
  | some c => .ok (c.2.2 &&& 0x3FFFFFFFFFFFFFFF, c.2.2.toNat >>> 62)
  | none => walkFrom s (s.partOf h).toNat va 3 (bitsOf h.sup.ptRoot 20 32 * 2 ^ 20)

/-- A valid entry of the range table that breaks R329. -/
def rangeBad (r : List Word) : Bool :=
  let d0 := r.getD 0 0
  let d1 := r.getD 1 0
  let d2 := r.getD 2 0
  let d3 := r.getD 3 0
  bitsOf d0 1 11 != 0 || bitsOf d0 56 8 != 0 || bitsOf d1 0 12 != 0 || bitsOf d1 56 8 != 0 || d2.getLsbD 0 ||
  bitsOf d2 52 12 != 0 || bitsOf d2 1 2 != 0 || bitsOf d2 6 2 != 0 || bitsOf d2 9 3 > 3 || bitsOf d3 0 2 == 3 ||
  bitsOf d3 4 12 != 0 || bitsOf d3 32 32 != 0

def rangeHit (va : Nat) (r : List Word) : Bool :=
  (r.getD 0 0).getLsbD 0 && bitsOf (r.getD 0 0) 12 44 ≤ va / 4096 && va / 4096 ≤ bitsOf (r.getD 1 0) 12 44

/-- The offset of va in the capability list that the launch controller maps read-only at CAPBASE (R352). -/
def State.capOffset (s : State) (h : Hart) (va : Nat) : Option Nat :=
  let b := h.capBase.toNat
  if h.launch.isSome && b ≤ va && va < b + 256 && va < b + 8 * (s.capWords (s.partOf h)).length then some (va - b) else none

/-- Translation of one byte address for a hart (R328, R332). -/
def translate (s : State) (w : Who) (acc : Acc) (va : Word) : Except MemErr Phys :=
  let h := s.hart w
  let fail (c : Cause) : Except MemErr Phys := .error ⟨c, va, none, acc.writes⟩
  let code := s.inCode h va.toNat
  if bitsOf va 56 8 != 0 then fail .perm
  else
    match s.capOffset h va.toNat with
    | some o => if acc == .load then .ok ⟨.device, capKey (s.partOf h).toNat o, false, 0, o, 0⟩ else fail .perm
    | none =>
    match (s.core w.core).ranges.find? (rangeHit va.toNat) with
    | some r =>
      let d2 := r.getD 2 0
      let fl := if code then codeFlags (d2 &&& 0xFFE) else d2 &&& 0xFFE
      if rangeBad r || flagsBad fl acc h.trap.priv then fail .perm
      else
        let o := va.toNat - bitsOf (r.getD 0 0) 12 44 * 4096
        let pbase := bitsOf d2 12 40 * 4096
        let xf := bitsOf (r.getD 3 0) 0 2
        let es := if xf == 2 then 1 <<< bitsOf (r.getD 3 0) 2 2 else 0
        let off := if xf == 2 then transposed o es (bitsOf (r.getD 3 0) 16 16) else o
        if xf == 1 then
          let l := s.logical h (bitsOf d2 9 3) (pbase + o)
          .ok ⟨l.1, l.2, true, 0, o, pbase⟩
        else
          match s.place h acc va (bitsOf d2 9 3) (pbase + off) with
          | .error e => .error e
          | .ok (t, k) => .ok ⟨t, k, false, es, o, pbase⟩
    | none =>
      match s.leaf w va.toNat with
      | .error c => fail c
      | .ok (e, l) =>
        let fl := if code then codeFlags e else e
        if flagsBad fl acc h.trap.priv then fail .perm
        else
          let sz := 12 + 9 * l
          let pbase := bitsOf e sz (52 - sz) * 2 ^ sz
          match s.place h acc va (bitsOf e 9 3) (pbase + va.toNat % 2 ^ sz) with
          | .error e => .error e
          | .ok (t, k) => .ok ⟨t, k, false, 0, va.toNat % 2 ^ sz, pbase⟩

/-- The grant that ATS gave for a bus page is cached, the newest of 4,096 first (R337, R339). -/
def State.noteAts (s : State) (h : Hart) (page : Nat) : State :=
  match s.grants.find? (fun g => g.fn == h.fn && g.pasid == h.pasid && g.page == page) with
  | some g => if s.atsCache.contains g then s else { s with atsCache := (g :: s.atsCache).take 4096 }
  | none => s

/-- The walk of the hart's address space to va is cached (R328). -/
def cacheWalk (w : Who) (va : Word) (s : State) : State :=
  let h := s.hart w
  if (s.core w.core).ranges.any (rangeHit va.toNat) then s
  else
    match s.leaf w va.toNat with
    | .error _ => s
    | .ok (e, l) =>
      let entry : BitVec 10 × Nat × Word :=
        (h.sup.aspace, va.toNat / 2 ^ (12 + 9 * l), e ||| (BitVec.ofNat 64 l <<< 62))
      s.modCore w.core (fun k =>
        if k.walks.contains entry then k else { k with walks := (entry :: k.walks).take 512 })

/-- A translation just made is cached: its walk, and the ATS grant of a bus address (R328, R339). -/
def noteWalk (w : Who) (va : Word) (s : State) : State :=
  let s1 := cacheWalk w va s
  if s.grants.isEmpty then s1
  else
    match translate s w .load va with
    | .ok p => if p.tgt == .host then s1.noteAts (s.hart w) ((p.key - 2 ^ 60) / 4096) else s1
    | .error _ => s1

/-- The element size of the transposed range that va lies in, 0 otherwise; a range entry that breaks R329 is met as
PERM by the translation. -/
def rangeEs (k : Core) (va : Nat) : Nat :=
  match k.ranges.find? (rangeHit va) with
  | some r => if !rangeBad r && bitsOf (r.getD 3 0) 0 2 == 2 then 1 <<< bitsOf (r.getD 3 0) 2 2 else 0
  | none => 0

/-- A generic access of `size` bytes at va but for its last check: MISALIGN, then PERM, then NOTPRESENT (R63, R120,
R121, R132, R314, R330). `mmio` allows a device page. -/
def accessRaw (s : State) (w : Who) (acc : Acc) (size : Nat) (mmio : Bool) (va : Word) : Except MemErr Phys :=
  let es := rangeEs (s.core w.core) va.toNat
  if (size != 0 && va.toNat % size != 0) || (es != 0 && es != size) then .error ⟨.misalign, va, none, acc.writes⟩
  else
    match translate s w acc va with
    | .error e => .error e
    | .ok p => if p.tgt == .mmio && !mmio then .error ⟨.perm, va, none, acc.writes⟩ else .ok p

/-- A generic access of `size` bytes at va, COMPRESSED last (R141, R314). -/
def access (s : State) (w : Who) (acc : Acc) (size : Nat) (mmio : Bool) (va : Word) : Except MemErr Phys :=
  match accessRaw s w acc size mmio va with
  | .error e => .error e
  | .ok p => if p.compressed then .error ⟨.compressed, va, none, acc.writes⟩ else .ok p

/-! ### Page requests (R339, R340) -/

/-- A request of the hart for the page stands: it is outstanding or waits for a group. -/
def State.asking (s : State) (h : Hart) (page : Nat) : Option Nat :=
  ((s.pageReqs ++ s.pageWait).find? (fun r => r.fn == h.fn && r.pasid == h.pasid && r.page == page && !r.quarantined)).map (·.id)

/-- Sends a PRI Page Request of a hart for a bus page, in a free group of its function; with none free it waits, and
a function whose failure stands sends none (R339, R340). The request's identity is returned. -/
def State.requestPage (s : State) (h : Hart) (a : Ask) : State × Option Nat :=
  if s.pageFail.contains h.fn then (s, none)
  else
    let used := (s.pageReqs.filter (fun r => r.fn == h.fn)).map (fun r => r.group.toNat)
    let r : PageReq := ⟨s.nextId, h.fn, 0, h.pasid, a.page, a.wr, false⟩
    match (List.range 256).find? (fun g => !used.contains g) with
    | some g => ({ s with nextId := s.nextId + 1, pageReqs := s.pageReqs ++ [{ r with group := BitVec.ofNat 8 g }] }, some r.id)
    | none => ({ s with nextId := s.nextId + 1, pageWait := s.pageWait ++ [r] }, some r.id)

/-- An engine of hart w asks for a page, once while the request stands. -/
def State.askPage (s : State) (w : Who) (a : Ask) : State :=
  if (s.asking (s.hart w) a.page).isSome then s else (s.requestPage (s.hart w) a).1

/-- The request that stands for the host page of an address (R323). -/
def State.askedFor (s : State) (w : Who) (va : Word) : Option Nat :=
  let page (acc : Acc) : Option Nat :=
    match translate s w acc va with
    | .ok _ => none
    | .error e => e.page.map (·.page)
  match (match page .load with
    | some p => some p
    | none => page .store) with
  | some p => s.asking (s.hart w) p
  | none => none

/-- Records the page request that the trap sent, for WHY = 1 (R323). -/
def State.sendPage (s : State) (w : Who) (page : Option Ask) : State :=
  match page with
  | none => s
  | some a =>
    let r := s.requestPage (s.hart w) a
    r.1.modHart w (fun h => { h with pageReq := r.2 })

/-- The trap of a failed access at element e, with its page request (R339). -/
def raiseMem (e : MemErr) (elem : Nat) (s : State) : Out :=
  match raise ⟨e.cause, e.addr, elem⟩ s with
  | .next s' => if s'.me.trap.priv && e.page.isSome then .next (s'.sendPage s'.who e.page) else .next s'
  | o => o

/-! ### The store queues (R64, R125) -/

/-- A store accepted: its cells, the agent that performs it, its issue number. -/
def State.queueStore (s : State) (by' : Unit') (va : Word) (cells : List Host.Cell) : State :=
  match cells with
  | [] => s
  | c :: _ =>
    { s with
      nextId := s.nextId + 1
      stores := s.stores ++ [⟨s.nextId, s.who, by', s.seqNow, s.sliceOf c.1, va, false, cells⟩] }

/-- The last cell of a store that names the key. -/
def lastCell : List Host.Cell → Nat → Byte → Byte
  | [], _, b => b
  | c :: cs, k, b => lastCell cs k (if c.1 == k then c.2 else b)

/-- A byte as an agent of the hart reads it: its own latest queued store, else memory (R64, R125). -/
def State.ownByte (s : State) (w : Who) (by' : Unit') (key : Nat) : Byte :=
  match (s.stores.reverse.find? (fun t => t.who == w && t.by' == by' && t.cells.any (fun c => c.1 == key))) with
  | some t => lastCell t.cells key 0
  | none => s.order.seen ⟨w, by'⟩ key (s.byte key)

def State.ownN (s : State) (w : Who) (by' : Unit') (key n : Nat) : Nat :=
  natOf ((List.range n).map (fun i => s.ownByte w by' (key + i)))

/-- A queued store may be performed: it is the oldest of its agent and slice, and every earlier vector
instruction of its hart has retired (R64, R125, R312). A scalar store behind a KVAPP so comes after its LEN, where R242 allows
either order without TLWAIT (DESIGN CHOICE, log 49). -/
def State.storeReady (s : State) (t : PStore) : Bool :=
  (s.hart t.who).settled t.seq &&
  (match s.stores.find? (fun u => u.who == t.who && u.by' == t.by' && u.slice == t.slice) with
    | some u => u.id == t.id
    | none => false)

/-! ### Flits of the Lamef ports (R270) -/

/-- The port numbers its next n flits and keeps the last 256 it sent. -/
def Port.send (p : Port) (n : Nat) : Port :=
  let l := p.unacked ++ (List.range n).map (fun i => p.txNext + BitVec.ofNat 12 i)
  { p with txNext := p.txNext + BitVec.ofNat 12 n, unacked := l.drop (l.length - 256) }

def State.modPort (s : State) (i : Nat) (f : Port → Port) : State :=
  { s with ports := s.ports.setIfInBounds i (f (s.ports.toList.getD i Port.reset)) }

/-- n flits leave by the lowest port that is up. -/
def State.sendFlits (s : State) (n : Nat) : State :=
  match s.ports.toList.findIdx? (fun p => p.up) with
  | some i => s.modPort i (fun p => p.send n)
  | none => s

/-- An access to another device goes over the link (R270). -/
def State.linkTo (s : State) (key : Nat) (n : Nat) : State := if 2 ^ 61 ≤ key then s.sendFlits n else s

/-- A store is performed at its home slice; one to another device goes there in a flit (R270), and is lost where no
path leads (R271). -/
def State.performStore (s : State) (t : PStore) : State :=
  let s' : State := { s with stores := s.stores.filter (fun u => u.id != t.id) }
  if t.cells.any (fun c => 2 ^ 61 ≤ c.1) && s.noPath then s'.modHart t.who (fun h => { h with lost := some (h.lost.getD t.va) })
  else (if t.cells.any (fun c => 2 ^ 61 ≤ c.1) then s'.sendFlits 1 else s').writeBy t.who (some t.by') [t.slice] t.cells

/-- Stores of a hart that are not yet performed, and those of its scalar unit. -/
def State.storesOf (s : State) (w : Who) : List PStore := s.stores.filter (fun t => t.who == w)
def State.scalarStores (s : State) (w : Who) : List PStore := s.stores.filter (fun t => t.who == w && t.by' == .scalar)

/-- A hart-scope FENCE orders the scalar unit's stores before every later access of the hart (R248, R249): those behind
one are performed as soon as no earlier vector instruction of the hart is outstanding. -/
def State.fencedDone (s : State) : State :=
  (s.stores.filter (fun t => t.who == s.who && t.fenced && s.me.settled t.seq)).foldl (fun s t => s.performStore t) s

/-! ### Releases and acquires (R248) -/

/-- The cores of a hart, those of its gang among them (R247). -/
def State.span (s : State) (w : Who) : List Nat :=
  match (s.hart w).gang with
  | some (m, b) => (List.range m).map (b.val + ·)
  | none => [w.core.val]

/-- A scope of hart a includes hart b (R247). -/
def State.inScope (s : State) (scope : Nat) (a b : Who) : Bool :=
  match scope with
  | 0 => a == b
  | 1 => (s.span a).any (s.span b).contains
  | 2 => (s.span a).any (fun c => (s.span b).any (fun d => c / 16 == d / 16))
  | _ => true

/-- Hart w reads bytes: it has seen a write that follows a release whose scope holds both harts. -/
def State.sawBytes (s : State) (w : Who) (keys : List Nat) : State :=
  if s.order.lag.isEmpty then s
  else
    let new := s.order.tags.filter (fun t => keys.contains t.1 && s.inScope t.2.2 t.2.1 w)
    { s with order := { s.order with saw := new.map (fun t => (w, t.2.1)) ++ s.order.saw } }

/-- The hart acquires and releases at a scope. It sees its own writes, and every write where it has seen one that follows a
release of a hart within the scope, or has used an engine (R248). -/
def State.fenceAt (s : State) (scope : Nat) : State :=
  if s.order.lag.isEmpty then s
  else
    let h := s.me
    let all := s.order.saw.any (fun p => p.1 == s.who && s.inScope scope s.who p.2) ||
      [h.tlre, h.tlit, h.tlkv, h.tlxc, h.tlln, s.myCore.matrix.counter].any (· != 0)
    { s with order := { s.order with
        lag := s.order.lag.filter (fun l => !(l.obs.who == s.who && (all || l.src == s.who)))
        rels := (s.who, scope) :: s.order.rels } }

/-! ### Lane scratch (R126, R127) -/

def scratchKey (lane off : Nat) : Nat := lane * 2 ^ 17 + off

def State.scratchByte (s : State) (w : Who) (l off : Nat) : Byte :=
  let p := s.laneCore w l
  Memory.read (s.core p.1).scratch (scratchKey p.2 off)

def State.scratchN (s : State) (w : Who) (l off n : Nat) : Nat :=
  natOf ((List.range n).map (fun i => s.scratchByte w l (off + i)))

def State.setScratchN (s : State) (w : Who) (l off n v : Nat) : State :=
  let p := s.laneCore w l
  let s' := s.modCore p.1 (fun k => { k with scratch := Memory.writeAll k.scratch (cellsAt (scratchKey p.2 off) (bytesOf n v)) })
  if n == 8 then { s' with bad := s'.bad.filter (· != .scratch p.1 p.2 off) } else s'

/-- Checks of a scratch access of `size` bytes at unsigned offset a (R126). -/
def scratchCheck (z size a : Nat) : Option Cause :=
  if a % size != 0 then some .misalign else if a + size > z then some .perm else none

/-! ### The lane instruction buffers (R17, R82) -/

/-- The word at an offset of the buffer of lane l's quad. -/
def State.bufWord (s : State) (w : Who) (l off : Nat) : Insn :=
  let b := s.qbuf (s.quadOf w l)
  BitVec.ofNat 32 (natOf ((List.range 4).map (fun i => Memory.read b (off + i))))

end Sys2Proof.Machine
end

