-- ==== Sys2Proof/Machine/Operands.lean ====
section
/-!
DEFINITION. Operand forms: immediates (R41), the bit-field and shift operations of the scalar unit (R59 to R62),
register groups (R46), the replicate modifier (R40) and the integer functions of the vector members (R102).
-/

namespace Sys2Proof.Machine

/-! ### Immediates -/

def sext16 (i : BitVec 16) : Word := i.signExtend 64
def zext16 (i : BitVec 16) : Word := i.zeroExtend 64
def sext13 (o : BitVec 13) : Word := o.signExtend 64
/-- sext(imm21) << 16 (R41). -/
def imm21 (i : BitVec 21) : Word := i.signExtend 64 <<< 16
/-- Branch and jump displacements in bytes (R41). -/
def off16 (o : BitVec 16) : Word := o.signExtend 64 <<< 2
def off26 (o : BitVec 26) : Word := o.signExtend 64 <<< 2

/-! ### Scalar arithmetic (R59 to R61); s is b[5:0] -/

def sh6 (b : Word) : Nat := bitsOf b 0 6
def boolWord (c : Bool) : Word := if c then 1 else 0

def mulHigh (a b : Word) : Word := ((a.signExtend 128 * b.signExtend 128).extractLsb' 64 64)
def mulHighN (a b : Word) : Word := ((a.zeroExtend 128 * b.zeroExtend 128).extractLsb' 64 64)

/-- R60: x / 0 is all ones, -2^63 / -1 is -2^63. -/
def divS (a b : Word) : Word := if b == 0 then BitVec.allOnes 64 else a.sdiv b
def divN (a b : Word) : Word := if b == 0 then BitVec.allOnes 64 else a / b
def remS (a b : Word) : Word := if b == 0 then a else a.srem b
def remN (a b : Word) : Word := if b == 0 then a else a % b

/-- Leading zero bits of a w-bit value. -/
def clzNat (w x : Nat) : Nat := if x == 0 then w else w - 1 - Nat.log2 x

/-- Trailing zero bits; w when x = 0. -/
def ctzNat (x : Nat) : Nat → Nat → Nat
  | 0, n => n
  | k + 1, n => if x.testBit n then n else ctzNat x k (n + 1)

/-- Set bits among the low k bits. -/
def popNat (x : Nat) : Nat → Nat
  | 0 => 0
  | k + 1 => popNat x k + (if x.testBit k then 1 else 0)

/-- Bits [top-1 : pos] of x, with the field's sign when `sg` holds, as a w-bit pattern. -/
def field (w x pos top : Nat) (sg : Bool) : Nat :=
  let len := top - pos
  let f := x / 2 ^ pos % 2 ^ len
  if sg then wrapI w (sInt len f) else f

/-- BEXT and BEXTN (R61). -/
def bitExtract (a b : Word) (sg : Bool) : Word :=
  let pos := bitsOf b 0 6
  let len := bitsOf b 6 6 + 1
  BitVec.ofNat 64 (field 64 a.toNat pos (min (pos + len) 64) sg)

/-- FSHL: bits [127-s : 64-s] of xd·2^64 + a (R59). -/
def funnelL (d a : Word) (s : Nat) : Word := ((d ++ a) <<< s).extractLsb' 64 64
/-- FSHR: bits [s+63 : s] of a·2^64 + xd (R59). -/
def funnelR (d a : Word) (s : Nat) : Word := ((a ++ d) >>> s).extractLsb' 0 64

/-- BFX (R61): the immediate holds len - 1. -/
def bfxVal (a : Word) (l p : BitVec 6) (sg : Bool) : Word :=
  BitVec.ofNat 64 (field 64 a.toNat p.toNat (p.toNat + l.toNat + 1) sg)

/-- BFI (R61). -/
def bfiVal (d a : Word) (l p : BitVec 6) : Word :=
  let m : Word := BitVec.ofNat 64 (2 ^ (l.toNat + 1) - 1)
  (d &&& ~~~(m <<< p.toNat)) ||| ((a &&& m) <<< p.toNat)

/-! ### Register groups (R46) -/

/-- Eight times EMUL for an operand of width w. -/
def emul8 (t : Word) (w : Nat) : Nat := 8 * lmulOf t * w / sewOf t
/-- Registers of the group. -/
def emulOf (t : Word) (w : Nat) : Nat := max 1 (emul8 t w / 8)
def groupOk (t : Word) (r w : Nat) : Bool :=
  emul8 t w ≤ 64 && r % emulOf t w == 0 && r + emulOf t w ≤ 32
def overlaps (a na b nb : Nat) : Bool := a < b + nb && b < a + na
/-- A destination group may overlap a source group only of the same EMUL (R46). -/
def overlapOk (t : Word) (d wd r wr : Nat) : Bool :=
  emul8 t wd == emul8 t wr || !overlaps d (emulOf t wd) r (emulOf t wr)

/-! ### The replicate modifier (R40) -/

/-- The element of vb that element e reads. -/
def repElem (p : BitVec 3) (e : Nat) : Nat :=
  if p.getLsbD 2 then e % 2 ^ (bitsOf (p.zeroExtend 64) 0 2) else e

/-! ### Integer functions F(a, b, d) of R102 at w bits -/

def iSat (lo hi i : Int) (w : Nat) : Nat := wrapI w (clampI lo hi i)
def sMin (w : Nat) : Int := -(2 ^ (w - 1) : Nat)
def sMax (w : Nat) : Int := (2 ^ (w - 1) : Nat) - 1

def fAdd (w a b _ : Nat) : Nat := (a + b) % 2 ^ w
def fSub (w a b _ : Nat) : Nat := (a + 2 ^ w - b) % 2 ^ w
def fRsub (w a b _ : Nat) : Nat := (b + 2 ^ w - a) % 2 ^ w
def fAnd (_ a b _ : Nat) : Nat := a &&& b
def fOr (_ a b _ : Nat) : Nat := a ||| b
def fXor (_ a b _ : Nat) : Nat := a ^^^ b
def fSll (w a b _ : Nat) : Nat := a * 2 ^ (b % w) % 2 ^ w
def fSrl (w a b _ : Nat) : Nat := a / 2 ^ (b % w)
def fSra (w a b _ : Nat) : Nat := wrapI w (sInt w a / (2 ^ (b % w) : Nat))
def fMin (w a b _ : Nat) : Nat := if sInt w a ≤ sInt w b then a else b
def fMax (w a b _ : Nat) : Nat := if sInt w a ≤ sInt w b then b else a
def fMinn (_ a b _ : Nat) : Nat := min a b
def fMaxn (_ a b _ : Nat) : Nat := max a b
def fMul (w a b _ : Nat) : Nat := a * b % 2 ^ w
def fMulh (w a b _ : Nat) : Nat := wrapI w (sInt w a * sInt w b / (2 ^ w : Nat))
def fMulhn (w a b _ : Nat) : Nat := a * b / 2 ^ w
def fDiv (w a b _ : Nat) : Nat := if b == 0 then 2 ^ w - 1 else wrapI w (Int.tdiv (sInt w a) (sInt w b))
def fDivn (w a b _ : Nat) : Nat := if b == 0 then 2 ^ w - 1 else a / b
def fRem (w a b _ : Nat) : Nat := if b == 0 then a else wrapI w (Int.tmod (sInt w a) (sInt w b))
def fRemn (_ a b _ : Nat) : Nat := if b == 0 then a else a % b
def fSadd (w a b _ : Nat) : Nat := iSat (sMin w) (sMax w) (sInt w a + sInt w b) w
def fSaddn (w a b _ : Nat) : Nat := min (a + b) (2 ^ w - 1)
def fSsub (w a b _ : Nat) : Nat := iSat (sMin w) (sMax w) (sInt w a - sInt w b) w
def fSsubn (_ a b _ : Nat) : Nat := a - b
def fMv (_ _ b _ : Nat) : Nat := b
def fPop (w a _ _ : Nat) : Nat := popNat a w
def fClz (w a _ _ : Nat) : Nat := clzNat w a
/-- VBEXT: pos = b[k-1:0], len = b[2k-1:k] + 1 with k = log2(SEW). -/
def fBext (w a b _ : Nat) : Nat :=
  let pos := b % w
  let len := b / w % w + 1
  field w a pos (min (pos + len) w) true
/-- VFSHR: bits [s+SEW-1 : s] of ua·2^SEW + d. -/
def fFshr (w a b d : Nat) : Nat := (a * 2 ^ w + d) / 2 ^ (b % w) % 2 ^ w

end Sys2Proof.Machine
end

