-- ==== Sys2Proof/Machine/Flags.lean ====
section
/-!
DEFINITION. FCR and FFLAGS (R98, R99): the rounding mode, the trap enables, accrual, and the rounding of a float
member's exact result with its flags (R105).
-/

namespace Sys2Proof.Machine

/-- FCR.RM. -/
def Hart.rm (h : Hart) : BitVec 3 := h.fcr.extractLsb' 0 3
/-- FCR[9:5], the enables of NV, DZ, OF, UF and NX in the order of FFLAGS. -/
def Hart.enables (h : Hart) : Flags := h.fcr.extractLsb' 5 5
def Hart.sat (h : Hart) : Bool := h.fcr.getLsbD 3
def Hart.rct (h : Hart) : Bool := h.fcr.getLsbD 4
/-- The flags fl accrue to FFLAGS. -/
def Hart.accrue (h : Hart) (fl : Flags) : Hart := { h with fflags := h.fflags ||| fl }
/-- A raised flag has its enable set (R99). -/
def Hart.traps (h : Hart) (fl : Flags) : Bool := h.enables &&& fl != 0

/-- Rounds an exact result to the element width, with every flag of the element (R99, R105). -/
def roundWith (sew : Nat) (mode : BitVec 3) (r : Ex × Flags) : Nat × Flags :=
  let q := roundEx (fmtOf sew) mode r.1
  (q.1, q.2 ||| r.2)

/-- The float functions of R105 on codes a, b and d. -/
def vfAdd (m : BitVec 3) (w a b _ : Nat) := roundWith w m (exAdd m (decodeF (fmtOf w) a) (decodeF (fmtOf w) b))
def vfSub (m : BitVec 3) (w a b _ : Nat) := roundWith w m (exSub m (decodeF (fmtOf w) a) (decodeF (fmtOf w) b))
def vfMul (m : BitVec 3) (w a b _ : Nat) := roundWith w m (exMul (decodeF (fmtOf w) a) (decodeF (fmtOf w) b))
def vfDiv (m : BitVec 3) (w a b _ : Nat) := roundWith w m (exDiv (decodeF (fmtOf w) a) (decodeF (fmtOf w) b))
def vfSqrt (m : BitVec 3) (w a _ _ : Nat) := roundWith w m (exSqrt (decodeF (fmtOf w) a))
def vfMin (_ : BitVec 3) (w a b _ : Nat) := fMinMax (fmtOf w) false a b
def vfMax (_ : BitVec 3) (w a b _ : Nat) := fMinMax (fmtOf w) true a b
def vfFma (negP negD : Bool) (m : BitVec 3) (w a b d : Nat) :=
  roundWith w m (exFma m negP negD (decodeF (fmtOf w) a) (decodeF (fmtOf w) b) (decodeF (fmtOf w) d))

/-- Sign injection (R105): a with sign s. -/
def withSign (w a : Nat) (s : Bool) : Nat := (if s then 2 ^ (w - 1) else 0) + a % 2 ^ (w - 1)
def signOf (w a : Nat) : Bool := a.testBit (w - 1)
def vfSgnj (_ : BitVec 3) (w a b _ : Nat) : Nat × Flags := (withSign w a (signOf w b), 0)
def vfSgnjn (_ : BitVec 3) (w a b _ : Nat) : Nat × Flags := (withSign w a (!signOf w b), 0)
def vfSgnjx (_ : BitVec 3) (w a b _ : Nat) : Nat × Flags := (withSign w a (signOf w a != signOf w b), 0)

def vfClass (_ : BitVec 3) (w a _ _ : Nat) : Nat × Flags := (classF (fmtOf w) a, 0)
def vfRece (_ : BitVec 3) (w a _ _ : Nat) := roundWith w 1 (exRece (decodeF (fmtOf w) a))
def vfRsqe (_ : BitVec 3) (w a _ _ : Nat) := roundWith w 1 (exRsqe (decodeF (fmtOf w) a))
def vfExp2 (_ : BitVec 3) (w a _ _ : Nat) := roundWith w 0 (expTwoEx (decodeF (fmtOf w) a))

/-- VFCVTIF (R107). -/
def vfCvtif (m : BitVec 3) (w a _ _ : Nat) := roundWith w m ((intNum (sInt w a)).toEx, 0)

/-- VFCVTFI (R107): NaN and values above give the largest integer, values below the smallest, with NV. -/
def vfCvtfi (m : BitVec 3) (w a _ _ : Nat) : Nat × Flags :=
  match decodeF (fmtOf w) a with
  | .nan _ => (wrapI w (sMax w), fNV)
  | .inf n => (wrapI w (if n then sMin w else sMax w), fNV)
  | .fin n s e =>
    let r := toInteger m n s e
    if r.1 > sMax w then (wrapI w (sMax w), fNV)
    else if r.1 < sMin w then (wrapI w (sMin w), fNV)
    else (wrapI w r.1, if r.2 then fNX else 0)

/-- A code of one float width at another (R107), rounded by m. -/
def vfConvert (src dst : FFmt) (m : BitVec 3) (a : Nat) : Nat × Flags :=
  let x := decodeF src a
  let q := roundEx dst m x.toEx
  (q.1, q.2 ||| nvIf x.isSig)

end Sys2Proof.Machine
end

