-- ==== Sys2Proof/Machine/Issue.lean ====
section
/-!
DEFINITION. Issue: which words a lane thread and a hart with lane threads may execute (R53, R87), the checks of
R56, the vector stream (R20, R312, R324), the element loop (R48 to R50, R99) and bad register granules (R334).
-/

namespace Sys2Proof.Machine

/-! ### Word gates -/

/-- The members of R53. -/
def laneAllowed (w : Insn) : Bool :=
  let m := majorOf w
  (1 ≤ m && m ≤ 0x0D) || (0x10 ≤ m && m ≤ 0x18) || m == 0x1C || (m == 0x1B && [0, 2, 9, 12, 13].contains (fnOf w))

/-- The members of R87 between LFORK and LJOIN. -/
def forkAllowed (w : Insn) : Bool :=
  let m := majorOf w
  (1 ≤ m && m ≤ 0x1A) && m != 0x0E && m != 0x0F || m == 0x1C || m == 0x1D ||
  (m == 0x1B && [0, 2, 3, 4, 8, 10, 11].contains (fnOf w)) || (m == 0x38 && [0, 6, 7, 8].contains (fnOf w))

/-- The gate of step 2 of R56, and R87 for the scalar unit of a hart whose lane threads exist. A supervisor handler of
a lane-thread trap may execute the members of SYS beside those of R87, or it could not return (R316; DEDUCED, log 10). -/
def gated (w : Insn) (s : State) : Bool :=
  match s.agent.lane with
  | some _ => !laneAllowed w
  | none => s.me.threads.isSome && !forkAllowed w && !(s.me.trap.priv && majorOf w == 0x3B)

/-! ### The vector stream -/

/-- Whether a word is an engine command of R263 that issues in the vector stream. -/
def isEngine (w : Insn) : Bool :=
  let m := majorOf w
  let f := fnOf w
  (m == 0x30 && [3, 4, 5, 6, 8].contains f) || (m == 0x34 && [12, 13, 15].contains f) || m == 0x36 ||
  (m == 0x37 && f != 7) || (m == 0x39 && [0, 1, 6].contains f)

/-- What executing a vector instruction came to: it completed, it cannot run yet, or it trapped, with the part
of its effect that stands. `squash` is a trap whose instruction is squashed whatever its cause (R169, R172); `wait`
leaves the instruction at the head of the stream with what it has done so far. -/
inductive VRes where
  | done (s : State)
  | block
  | trap (t : Trap) (s : State)
  | squash (t : Trap) (s : State)
  | wait (cap : Capture) (held : Option (BitVec 4)) (s : State)

/-- Members that set VSTART to 0 when they complete: those of R44, and MLDS (R49, R210). -/
def clearsVstart (w : Insn) : Bool :=
  let f := fnOf w
  match majorOf w with
  | 0x30 => f == 0 || f == 2 || f == 7
  | 0x34 => f == 12
  | 0x36 => f ≤ 1 || (4 ≤ f && f ≤ 9)
  | 0x37 => 1 ≤ f && f ≤ 5
  | 0x39 => f ≤ 6
  | m => (0x22 ≤ m && m ≤ 0x2C) || m == 0x2E || m == 0x31 || m == 0x32

/-- VSTART as an instruction issuing now sees it: an outstanding member that clears it will have done so (R49). -/
def Hart.vstartNow (h : Hart) : Nat := if h.stream.any (fun e => e.adv.isNone && clearsVstart e.word) then 0 else h.vstart

/-- The classes that accept a nonzero VSTART (R49). -/
def acceptsStart (w : Insn) : Bool :=
  let m := majorOf w
  (0x22 ≤ m && m ≤ 0x27) || (0x2A ≤ m && m ≤ 0x2C) || m == 0x2E || m == 0x31 || m == 0x32

/-- Those that stop between granule rows (R49, R324). VLD.FF either has run or has not: its VL comes from the whole of it
(R123). -/
def pauses (w : Insn) : Bool := acceptsStart w && !(majorOf w == 0x2A && (w.extractLsb' 8 3).toNat == 4)

def State.capture (s : State) (caps : List Word) : Capture :=
  let h := s.me
  { pc := h.pc, vtype := h.vtype, vl := h.vl, epoch := h.epoch, xs := caps, start := h.vstartNow, num := none, arm := none, began := false, grp := [] }

/-- The instruction issues into the vector stream behind others, with its captured operands (R20). -/
def State.enqueue (s : State) (w : Insn) (cap : Capture) (held : Option (BitVec 4)) (snap : ScalarSnap) : State :=
  { s.modMe (fun h =>
      { h with
        nextSeq := h.nextSeq + 1
        stream := h.stream ++ [⟨w, cap, h.nextSeq, held, s.nextId, snap, none⟩] }) with
    nextId := s.nextId + 1 }

/-- An engine command takes the arming of HARM when it issues (R263). -/
def State.disarm (s : State) (w : Insn) : State :=
  if isEngine w then s.modMe (fun h => { h with arming := none }) else s

/-- VSTART at a trap that does not set it: what it was when the instruction issued (R50, R312). -/
def keepStart (e : Issued) (s s' : State) : State :=
  s'.modMe (fun h => if h.vstart == s.me.vstart then { h with vstart := e.cap.start } else h)

/-- A trap of the vector stream, which keeps the page request that it sent (R339). -/
def streamTrap (t : Trap) (squash : Bool) (pc : Word) (s : State) : State :=
  (trapAt t squash pc s).modMe (fun h => { h with pageReq := s.me.pageReq })

/-! ### What stands behind a pull (R189, R192, R312) -/

/-- The old values that h' has overwritten in h, beside those noted already. -/
def noteOld (old new : List VBits) (l : List (Nat × VBits)) : List (Nat × VBits) :=
  l ++ ((old.zip new).zipIdx.filter (fun q => q.1.1 != q.1.2 && !l.any (fun a => a.1 == q.2))).map (fun q => (q.2, q.1.1))

def Undo.note (u : Undo) (h h' : Hart) : Undo :=
  ⟨noteOld h.v.toList h'.v.toList u.v, noteOld h.m.toList h'.m.toList u.m, some (u.flags.getD (h.fflags, h.vstart))⟩

/-- An instruction that ran from s to s' behind a pull whose group is not formed leaves it what to put back. -/
def noteBehind (s s' : State) : State :=
  if s.me.pulls.all (·.formed) then s'
  else s'.modMe (fun h => { h with pulls := h.pulls.map (fun p => if p.formed then p else { p with undo := p.undo.note s.me h }) })

/-- The members that run behind a pull whose group is not formed: what they do can be taken back. The others wait, as R312
has an access that cannot be held wait (DESIGN CHOICE, log 73). -/
def mayPass (w : Insn) : Bool :=
  let m := majorOf w
  (0x22 ≤ m && m ≤ 0x2A) || (m == 0x2B && (w.extractLsb' 8 3).toNat != 3) || m == 0x31

/-- What becomes of the entry at the head of the stream, taken out of it and executed in s. -/
def endReplay (e : Issued) (s : State) : VRes → State
  | .done s' => ({ noteBehind s s' with replay := none } : State).fencedDone
  | .block => { s with pace := none }
  | .trap t s' => (streamTrap t t.cause.squash e.cap.pc (keepStart e s s')).fencedDone
  | .squash t s' => (streamTrap t true e.cap.pc (keepStart e s s')).fencedDone
  | .wait cap held s' =>
    { (noteBehind s s').modMe (fun h => { h with stream := { e with cap := cap, held := held } :: h.stream }) with replay := none }

/-- What the vector instruction of issue number q does to a queue stands when a later instruction traps: the state
that a later one's trap puts back shows it too (R312). -/
def Hart.keepInSnaps (h : Hart) (q : Nat) (f : ScalarSnap → ScalarSnap) : Hart :=
  let keep (e : Issued) : Issued := if q < e.seq then { e with snap := f e.snap } else e
  { h with stream := h.stream.map keep, pulls := h.pulls.map (fun p => { p with entry := keep p.entry }) }

/-! ### The interlock with XRECV, INEXT and WNEXT (R171, R189, R277) -/

/-- The vector register groups that a member reads: the first register and how many (R38, R46, R51). -/
def vecReads (w : Insn) (t : Word) : List (Nat × Nat) :=
  let f := fnOf w
  let md := (w.extractLsb' 8 3).toNat
  let wm := (w.extractLsb' 9 3).toNat
  let g := lmulOf t
  let d := ((w.extractLsb' 21 5).toNat, g)
  let a := ((w.extractLsb' 16 5).toNat, g)
  let b := ((w.extractLsb' 11 5).toNat, g)
  let x := ((w.extractLsb' 12 5).toNat, g)
  let long (r : Nat × Nat) : Nat × Nat := (r.1, emulOf t 64)
  let fields (r : Nat × Nat) (n : Nat) : Nat × Nat := (r.1, n * g)
  match majorOf w with
  | 0x22 => if f == 27 then [b] else if f == 28 || f == 29 then [a] else if f == 31 then [d, a, b] else [a, b]
  | 0x23 => if f == 27 then [] else if f == 31 then [d, a] else [a]
  | 0x24 => if f == 8 then [] else [a]
  | 0x25 => [a, b]
  | 0x26 =>
    if 7 ≤ f && f ≤ 10 then [d, a, b] else if f == 20 then [fields a 2] else if f == 4 || 14 ≤ f then [a] else [a, b]
  | 0x27 => if 7 ≤ f && f ≤ 10 then [d, a] else [a]
  | 0x28 => if f ≤ 10 then [a, b] else if f == 24 then [a] else []
  | 0x29 => if f == 9 then [] else if f == 4 then [a, b] else [a]
  | 0x2A => if md == 3 then [b] else []
  | 0x2B => if md == 3 then [d, b] else if md == 2 then [fields d ((w.extractLsb' 11 3).toNat + 1)] else [d]
  | 0x2C => [d, b]
  | 0x2E => [long a, b]
  | 0x30 => if f == 0 || f == 7 then [long a] else if f == 2 then [long a, long b] else []
  | 0x31 => if wm == 2 then [x] else []
  | 0x32 => if wm == 2 then [d, x] else if wm == 3 then [fields d ((w.extractLsb' 0 3).toNat + 1)] else [d]
  | 0x36 =>
    let acc := if f == 5 || f == 7 || f == 9 then [(d.1, emulOf t 32)] else []
    if f == 1 || (4 ≤ f && f ≤ 7) then a :: acc else acc
  | 0x37 => if f == 1 || f == 2 then [a] else if f == 3 || f == 4 then [a, fields d 2] else if f == 5 then [a, d] else []
  | 0x39 => if f == 1 || f == 7 then [] else [a]
  | _ => []

/-- The vector register groups that a member writes. INEXT's second group counts whether or not its stack has two
fields. -/
def vecWrites (w : Insn) (t : Word) : List (Nat × Nat) :=
  let f := fnOf w
  let g := lmulOf t
  let d := ((w.extractLsb' 21 5).toNat, g)
  let fields (n : Nat) : Nat × Nat := (d.1, n * g)
  match majorOf w with
  | 0x22 | 0x23 | 0x24 | 0x26 | 0x27 | 0x2C | 0x2E => [d]
  | 0x28 => if f ≤ 10 || f == 14 || f == 15 || f == 25 then [d] else []
  | 0x29 => if f ≤ 9 then [d] else []
  | 0x2A => if (w.extractLsb' 8 3).toNat == 2 then [fields ((w.extractLsb' 11 3).toNat + 1)] else [d]
  | 0x31 => if (w.extractLsb' 9 3).toNat == 3 then [fields ((w.extractLsb' 0 3).toNat + 1)] else [d]
  | 0x34 => if f == 12 then [((w.extractLsb' 16 5).toNat, 2 * g)] else []
  | 0x36 => if 4 ≤ f && f ≤ 9 then [(d.1, emulOf t 32)] else []
  | 0x37 => if f == 1 || f == 2 then [d] else if f == 3 || f == 4 then [fields 2] else []
  | 0x39 => if 1 ≤ f && f ≤ 6 then [d] else []
  | _ => []

/-- A member that names m0 as a mask that it reads or writes: VCMP, the mask members of VRED, VCOMPRESS and VEXPAND,
MROWS and MROWSA, and INEXT. -/
def usesM0 (w : Insn) : Bool :=
  let f := fnOf w
  let d := w.extractLsb' 21 3 == 0#3
  let a := w.extractLsb' 16 3 == 0#3
  let b := w.extractLsb' 11 3 == 0#3
  match majorOf w with
  | 0x25 => d
  | 0x28 =>
    if (11 ≤ f && f ≤ 14) || f == 25 then a else if 16 ≤ f && f ≤ 19 then d || a || b
    else if 20 ≤ f && f ≤ 23 then d || a else f == 24 && d
  | 0x29 => (f == 5 || f == 6) && b
  | 0x34 => f == 12
  | 0x36 => (f == 6 || f == 7) && b
  | _ => false

/-- The window that a member acts on. -/
def windowOf (w : Insn) : Option WinNum :=
  let f := fnOf w
  match majorOf w with
  | 0x30 => some (w.extractLsb' 21 3)
  | 0x31 | 0x32 => some (w.extractLsb' 18 3)
  | 0x36 => if f == 0 then some (w.extractLsb' 21 3) else if f == 8 || f == 9 then some (w.extractLsb' 16 3) else none
  | _ => none

/-- The vector register groups that an incomplete INEXT will write. -/
def Pull.dest (p : Pull) : Nat × Nat :=
  ((p.entry.word.extractLsb' 16 5).toNat, (if p.two then 2 else 1) * lmulOf p.entry.cap.vtype)

/-- A member that reads or writes the destination of an incomplete XRECV or INEXT waits for it, one that acts on a
gather window whose WNEXT has not replaced the tiles waits for that, and VPOPQ for the counts before its own (R31). -/
def Hart.outBusy (h : Hart) (w : Insn) (t : Word) : Bool :=
  let touches (r : Nat × Nat) : Bool := (vecReads w t ++ vecWrites w t).any (fun g => overlaps r.1 r.2 g.1 g.2)
  h.xops.any (fun o => o.kind == .recv && touches (o.vd.toNat, emulOf o.vtype (sewOf o.vtype))) ||
  h.pulls.any (fun p =>
    match p.win with
    | none => touches p.dest || usesM0 w
    | some i => p.stack.isSome && windowOf w == some i && !(majorOf w == 0x30 && fnOf w == 8)) ||
  (majorOf w == 0x28 && fnOf w == 12 && !h.pulls.isEmpty) ||
  (!mayPass w && h.pulls.any (fun p => !p.formed))

/-- Every earlier vector instruction of the hart has completed: the stream is empty, and no XRECV or pull is left
(R189, R249, R278). -/
def Hart.vecDone (h : Hart) : Bool := h.stream.isEmpty && h.pulls.isEmpty && h.xops.all (fun o => o.kind == .send)

/-- An element of an instruction at which a granule row of its widest operand ends: the rows at or below e stay whole, and the
blocks of a scaled store (R101, R120, R208). -/
def rowEnd (h : Hart) (x : Issued) (e : Nat) : Nat :=
  let row := h.lanes * 64 / (if majorOf x.word == 0x2E then 64 else sewOf x.cap.vtype)
  let n := if majorOf x.word == 0x2B then Nat.lcm row 32 else row
  e / n * n

/-- An instruction that could complete executes its elements below e only, and stays at the head of the stream with the
rest (R101, R324). The tail is not written yet. -/
def paced (w : Insn) (body : Capture → State → VRes) (cap : Capture) (s : State) (r : VRes) : VRes :=
  match s.pace, r with
  | some e, .done _ =>
    if pauses w && e < cap.vl then
      if e ≤ cap.start then .wait cap none s
      else
        match body { cap with vl := e, vtype := cap.vtype &&& ~~~(64 : Word) } s with
        | .done s' => .wait { cap with start := e, began := true } none (s'.modMe (fun h => { h with vstart := s.me.vstart }))
        | _ => r
    else r
  | _, _ => r

/-- Vector instructions that have issued and not completed (R324). -/
def Hart.outstanding (h : Hart) : Nat := (h.stream.filter (fun e => e.adv.isNone)).length + h.pulls.length

/-- A vector member: at issue the checks of R56 and the capture of R20; it runs at once when the stream is empty,
and otherwise when it reaches the head, where Step executes it again in replay. A 33rd outstanding instruction
stalls the scalar unit (R324). What a member reads comes after the stores that an earlier FENCE orders (R161, R194, R248). -/
def vissue (w : Insn) (check : State → Option Cause) (caps : State → List Word) (body : Capture → State → VRes)
    (s : State) : Out :=
  let s := s.fencedDone
  match s.replay with
  | some e =>
    .next (endReplay e s (if s.me.outBusy w e.cap.vtype then .block else paced w body e.cap s (body e.cap s)))
  | none =>
    match check s with
    | some c => raiseWord c w s
    | none =>
      let cap := { s.capture (caps s) with arm := if isEngine w then s.me.arming else none }
      let snap := s.snap
      if s.me.stream.isEmpty && s.pace.isNone then
        match (if s.me.outBusy w cap.vtype then .block else body cap s) with
        | .done s' => done ((noteBehind s s').disarm w)
        | .block => done ((s.enqueue w cap none snap).disarm w)
        | .wait cap' held s' => done ((s'.enqueue w cap' held snap).disarm w)
        | .trap t s' => .next (streamTrap t t.cause.squash s.pcNow s')
        | .squash t s' => .next (streamTrap t true s.pcNow s')
      else if s.me.outstanding ≥ 32 then stall .stream s
      else done ((s.enqueue w cap none snap).disarm w)

/-! ### Checks (R44 to R49) -/

/-- Steps 5 and 6 of R56 for a member of R44: VILL, then the member's own check, then VSTART where it must be 0. -/
def checkType (vstartOk : Bool) (ok : Hart → Bool) (s : State) : Option Cause :=
  if s.me.vill then some .illegalInsn
  else if !ok s.me || (!vstartOk && s.me.vstartNow != 0) then some .illegalInsn
  else none

/-- Every vector register group of the list (register, width) is legal (R46). -/
def groupsOk (h : Hart) (gs : List (Nat × Nat)) : Bool := gs.all (fun g => groupOk h.vtype g.1 g.2)

/-! ### Registers of the stream -/

/-- The vector state that a captured type governs. -/
def Capture.sew (c : Capture) : Nat := sewOf c.vtype
def Capture.lmul (c : Capture) : Nat := lmulOf c.vtype
def Capture.elems (c : Capture) : List Nat := List.range' c.start (c.vl - c.start)

/-- Active(e) (R39, R50). -/
def Hart.isActive (h : Hart) (k : MReg) (e : Nat) : Bool := k == 0 || h.maskBit k e

/-- Zeroes the bits of a register at `pos` and above. -/
def cutBits (v : VBits) (pos : Nat) : VBits := BitVec.ofNat 2097152 (v.toNat % 2 ^ pos)

/-- Zeroes the group of `cnt` registers at r from bit `b` on (R48). -/
def Hart.zeroFrom (h : Hart) (r cnt b : Nat) : Hart :=
  (List.range cnt).foldl (fun h i =>
    let lo := i * h.regBits
    if b ≤ lo then h.setVreg (r + i) 0
    else if b < lo + h.regBits then h.setVreg (r + i) (cutBits (h.vreg (r + i)) (b - lo))
    else h) h

/-- The tail of a vector destination of width w (R48). -/
def Hart.tail (h : Hart) (t : Word) (r w vl : Nat) : Hart :=
  if taOf t then h.zeroFrom r (emulOf t w) (vl * w) else h

/-- The tail of a mask destination (R48). -/
def Hart.maskTail (h : Hart) (t : Word) (m : MReg) (vl : Nat) : Hart :=
  if taOf t then h.setMreg m (cutBits (h.mreg m) vl) else h

/-! ### Bad granules (R334, R335) -/

/-- UNCORRECTABLE's TRAPVAL for a register granule (R335). -/
def regLoc (whr r lane : Nat) : Word := BitVec.ofNat 64 (whr * 2 ^ 60 + r * 2 ^ 16 + lane)

def firstSome {α : Type} : List (Option α) → Option α
  | [] => none
  | some a :: _ => some a
  | none :: l => firstSome l

/-- UNCORRECTABLE for element e of width w of the group at r, where its granule is marked; TRAPELEM is 0 (R50). -/
def badElem (s : State) (r w e : Nat) : Option Trap :=
  let reg := r + e * w / s.me.regBits
  let g := e * w % s.me.regBits / 64
  if s.bad.contains (.vreg s.who (BitVec.ofNat 5 reg) g) then some ⟨.uncorrectable, regLoc 2 reg (g % s.me.lanes), 0⟩ else none

def badMaskBit (s : State) (m : MReg) (e : Nat) : Option Trap :=
  if s.bad.contains (.mreg s.who m (e / 64)) then some ⟨.uncorrectable, regLoc 3 m.toNat (e / 64 % s.me.lanes), 0⟩ else none

/-- One register read: element e of width w of the group at r, or a mask bit. -/
inductive Rd where
  | elem (r w e : Nat)
  | mask (m : MReg) (e : Nat)

def badRead (s : State) : Rd → Option Trap
  | .elem r w e => badElem s r w e
  | .mask m e => badMaskBit s m e

/-- A marked granule among what the elements `es` read: the first of the lowest element (R314, R334). -/
def badReads (s : State) (es : List Nat) (rd : Nat → List Rd) : Option Trap :=
  if s.bad.isEmpty then none else es.findSome? (fun e => (rd e).findSome? (badRead s))

/-- The bit of mask k that element e reads; none where mk = 0 (R39). -/
def kRead (k : MReg) (e : Nat) : List Rd := if k == 0 then [] else [.mask k e]

/-- What a member under mask k reads for element e: its mask bit, and where the element is active `rd e`. -/
def activeReads (h : Hart) (k : MReg) (rd : Nat → List Rd) (e : Nat) : List Rd :=
  kRead k e ++ if h.isActive k e then rd e else []

/-- The same element of every source group (register, width). -/
def sameElem (srcs : List (Nat × Nat)) (e : Nat) : List Rd := srcs.map (fun g => .elem g.1 g.2 e)

/-- A marked granule that the elements `es` read in the source groups, under mask k. -/
def badSource (s : State) (es : List Nat) (srcs : List (Nat × Nat)) (k : MReg) : Option Trap :=
  badReads s es (activeReads s.me k (sameElem srcs))

/-- Whether an instruction writes element e of a destination: an active element, a masked-off one under MA, the tail
under TA (R48). `act` says which elements are active. -/
def Capture.writes (c : Capture) (act : Nat → Bool) (e : Nat) : Bool :=
  if e < c.vl then c.start ≤ e && (act e || maOf c.vtype) else taOf c.vtype

/-- Marks of the granules of the group at r, of `regs` registers, that the writes of whole elements of width w replace
(R334). `wr` says which elements are written. -/
def State.healWrites (s : State) (r regs w : Nat) (wr : Nat → Bool) : State :=
  if s.bad.isEmpty then s
  else
    { s with bad := s.bad.filter (fun b => match b with
        | .vreg who reg g =>
          !(who == s.who && r ≤ reg.toNat && reg.toNat < r + regs &&
            (let g' := (reg.toNat - r) * (s.me.lanes * 16) + g
             (List.range (64 / w)).all (fun i => wr (g' * (64 / w) + i))))
        | _ => true) }

/-- The same for a member that writes its destination group of width w as R48 says, under mask k as it stood in h. -/
def State.healVec (s : State) (cap : Capture) (h : Hart) (k : MReg) (r w : Nat) : State :=
  s.healWrites r (emulOf cap.vtype w) w (cap.writes (fun e => k == 0 || h.maskBit k e))

/-- The same where the member stops at element e with those below it committed. -/
def State.healUpTo (s : State) (cap : Capture) (h : Hart) (k : MReg) (r w e : Nat) : State :=
  s.healWrites r (emulOf cap.vtype w) w (fun i => i < e && cap.writes (fun i => k == 0 || h.maskBit k i) i)

/-- Marks of the granules of mask register m that a write of mask bits replaces (R334). -/
def State.healMask (s : State) (m : MReg) (wr : Nat → Bool) : State :=
  if s.bad.isEmpty then s
  else
    { s with bad := s.bad.filter (fun b => match b with
        | .mreg who reg g => !(who == s.who && reg == m && (List.range 64).all (fun i => wr (64 * g + i)))
        | _ => true) }

/-! ### The element loop (R48, R50, R99) -/

/-- Runs f over the elements in increasing order: an active element takes f's result unless one of its flags
has its enable set, which stops the loop there; a masked-off element is zeroed under MA. Elements are read as
they stand at that moment, as the spec's pseudocode reads them. -/
def elemLoop (f : Hart → Nat → Nat × Flags) (k : MReg) (d w : Nat) (ma : Bool) :
    List Nat → Hart → Hart × Option (Nat × Flags)
  | [], h => (h, none)
  | e :: es, h =>
    if h.isActive k e then
      let r := f h e
      if h.traps r.2 then (h, some (e, r.2))
      else elemLoop f k d w ma es ((h.setElem d e w r.1).accrue r.2)
    else elemLoop f k d w ma es (if ma then h.setElem d e w 0 else h)

/-- TRAPVAL of FP (R99). -/
def fpVal (fl : Flags) : Word := fl.zeroExtend 64

/-- An elementwise member with a vector destination of width w: what an element reads, and its function. -/
def vecBody (rd : Hart → Nat → List Rd) (d w : Nat) (k : MReg) (f : Capture → Hart → Nat → Nat × Flags)
    (cap : Capture) (s : State) : VRes :=
  match badReads s cap.elems (activeReads s.me k (rd s.me)) with
  | some t => .trap t s
  | none =>
    let r := elemLoop (f cap) k d w (maOf cap.vtype) cap.elems s.me
    match r.2 with
    | some (e, fl) => .trap ⟨.fp, fpVal fl, e⟩ ((s.setMe { r.1 with vstart := e }).healUpTo cap s.me k d w e)
    | none =>
      .done ((s.setMe { r.1.tail cap.vtype d w cap.vl with vstart := 0 }).healVec cap s.me k d w)

/-- The loop over a mask destination (R48, R104). -/
def maskLoop (f : Hart → Nat → Bool × Flags) (k : MReg) (m : MReg) (ma : Bool) :
    List Nat → Hart → Hart × Option (Nat × Flags)
  | [], h => (h, none)
  | e :: es, h =>
    if h.isActive k e then
      let r := f h e
      if h.traps r.2 then (h, some (e, r.2))
      else maskLoop f k m ma es ((h.setMaskBit m e r.1).accrue r.2)
    else maskLoop f k m ma es (if ma then h.setMaskBit m e false else h)

def maskBody (rd : Nat → List Rd) (m : MReg) (k : MReg)
    (f : Capture → Hart → Nat → Bool × Flags) (cap : Capture) (s : State) : VRes :=
  let act := fun e => k == 0 || s.me.maskBit k e
  match badReads s cap.elems (activeReads s.me k rd) with
  | some t => .trap t s
  | none =>
    let r := maskLoop (f cap) k m (maOf cap.vtype) cap.elems s.me
    match r.2 with
    | some (e, fl) =>
      .trap ⟨.fp, fpVal fl, e⟩ ((s.setMe { r.1 with vstart := e }).healMask m (fun i => i < e && cap.writes act i))
    | none =>
      .done ((s.setMe { r.1.maskTail cap.vtype m cap.vl with vstart := 0 }).healMask m (cap.writes act))

end Sys2Proof.Machine
end

