-- ==== Sys2Proof/Machine/Scalar.lean ====
section
/-!
DEFINITION. Scalar arithmetic, bit fields, immediates (R59 to R62), scalar loads and stores (R63, R64, R84). The
same members run on the scalar unit and in a lane thread; `State.x` and `State.setX` name the registers of either.
-/

namespace Sys2Proof.Machine

/-- xd takes v, and the instruction completes at the next word. -/
def writeX (d : XReg) (v : Word) (s : State) : Out := done (s.setX d v)

/-! ### SOP (R59, R60, R61) -/

def execAdd (d a b : XReg) (s : State) : Out := writeX d (s.x a + s.x b) s
def execSub (d a b : XReg) (s : State) : Out := writeX d (s.x a - s.x b) s
def execAnd (d a b : XReg) (s : State) : Out := writeX d (s.x a &&& s.x b) s
def execOr (d a b : XReg) (s : State) : Out := writeX d (s.x a ||| s.x b) s
def execXor (d a b : XReg) (s : State) : Out := writeX d (s.x a ^^^ s.x b) s
def execSll (d a b : XReg) (s : State) : Out := writeX d (s.x a <<< sh6 (s.x b)) s
def execSrl (d a b : XReg) (s : State) : Out := writeX d (s.x a >>> sh6 (s.x b)) s
def execSra (d a b : XReg) (s : State) : Out := writeX d ((s.x a).sshiftRight (sh6 (s.x b))) s
def execSlt (d a b : XReg) (s : State) : Out := writeX d (boolWord ((s.x a).slt (s.x b))) s
def execSltn (d a b : XReg) (s : State) : Out := writeX d (boolWord ((s.x a).ult (s.x b))) s
def execMul (d a b : XReg) (s : State) : Out := writeX d (s.x a * s.x b) s
def execMulh (d a b : XReg) (s : State) : Out := writeX d (mulHigh (s.x a) (s.x b)) s
def execMulhn (d a b : XReg) (s : State) : Out := writeX d (mulHighN (s.x a) (s.x b)) s
def execDiv (d a b : XReg) (s : State) : Out := writeX d (divS (s.x a) (s.x b)) s
def execDivn (d a b : XReg) (s : State) : Out := writeX d (divN (s.x a) (s.x b)) s
def execRem (d a b : XReg) (s : State) : Out := writeX d (remS (s.x a) (s.x b)) s
def execRemn (d a b : XReg) (s : State) : Out := writeX d (remN (s.x a) (s.x b)) s
def execMin (d a b : XReg) (s : State) : Out := writeX d (if (s.x a).sle (s.x b) then s.x a else s.x b) s
def execMax (d a b : XReg) (s : State) : Out := writeX d (if (s.x a).sle (s.x b) then s.x b else s.x a) s
def execMinn (d a b : XReg) (s : State) : Out := writeX d (if (s.x a).ule (s.x b) then s.x a else s.x b) s
def execMaxn (d a b : XReg) (s : State) : Out := writeX d (if (s.x a).ule (s.x b) then s.x b else s.x a) s
def execRol (d a b : XReg) (s : State) : Out := writeX d ((s.x a).rotateLeft (sh6 (s.x b))) s
def execRor (d a b : XReg) (s : State) : Out := writeX d ((s.x a).rotateRight (sh6 (s.x b))) s
def execBext (d a b : XReg) (s : State) : Out := writeX d (bitExtract (s.x a) (s.x b) true) s
def execBextn (d a b : XReg) (s : State) : Out := writeX d (bitExtract (s.x a) (s.x b) false) s
def execFshl (d a b : XReg) (s : State) : Out := writeX d (funnelL (s.x d) (s.x a) (sh6 (s.x b))) s
def execFshr (d a b : XReg) (s : State) : Out := writeX d (funnelR (s.x d) (s.x a) (sh6 (s.x b))) s
def execClz (d a : XReg) (s : State) : Out := writeX d (BitVec.ofNat 64 (clzNat 64 (s.x a).toNat)) s
def execCtz (d a : XReg) (s : State) : Out := writeX d (BitVec.ofNat 64 (ctzNat (s.x a).toNat 64 0)) s
def execPopc (d a : XReg) (s : State) : Out := writeX d (BitVec.ofNat 64 (popNat (s.x a).toNat 64)) s

/-! ### Immediates and bit fields (R61, R62) -/

def execAddi (d a : XReg) (i : BitVec 16) (s : State) : Out := writeX d (s.x a + sext16 i) s
def execAndi (d a : XReg) (i : BitVec 16) (s : State) : Out := writeX d (s.x a &&& zext16 i) s
def execOri (d a : XReg) (i : BitVec 16) (s : State) : Out := writeX d (s.x a ||| zext16 i) s
def execXori (d a : XReg) (i : BitVec 16) (s : State) : Out := writeX d (s.x a ^^^ zext16 i) s
def execSlti (d a : XReg) (i : BitVec 16) (s : State) : Out := writeX d (boolWord ((s.x a).slt (sext16 i))) s
def execSlli (d a : XReg) (i : BitVec 6) (s : State) : Out := writeX d (s.x a <<< i.toNat) s
def execSrli (d a : XReg) (i : BitVec 6) (s : State) : Out := writeX d (s.x a >>> i.toNat) s
def execSrai (d a : XReg) (i : BitVec 6) (s : State) : Out := writeX d ((s.x a).sshiftRight i.toNat) s
def execLui (d : XReg) (i : BitVec 21) (s : State) : Out := writeX d (imm21 i) s
/-- In a lane thread the PC is the thread's offset (R62, R84). -/
def execAuipc (d : XReg) (i : BitVec 21) (s : State) : Out := writeX d (s.pcNow + imm21 i) s
def execBfx (d a : XReg) (l p : BitVec 6) (s : State) : Out := writeX d (bfxVal (s.x a) l p false) s
def execBfxS (d a : XReg) (l p : BitVec 6) (s : State) : Out := writeX d (bfxVal (s.x a) l p true) s
def execBfi (d a : XReg) (l p : BitVec 6) (s : State) : Out := writeX d (bfiVal (s.x d) (s.x a) l p) s

/-! ### Loads and stores (R63, R64, R84) -/

/-- The bytes that LDS reads at va, or why it fails. A lane thread reads its lane's scratch (R84, R126). An access
to a device page waits until every earlier vector instruction has retired (R312); the device gives it a free value. -/
def scalarLoad (size : Nat) (k : Nat → Word) (d : XReg) (va : Word) (s : State) : Out :=
  match s.agent.lane with
  | some l =>
    match scratchCheck s.myCore.scratchSize size va.toNat with
    | some c => raise ⟨c, va, l⟩ s
    | none =>
      match s.bad.find? (fun b => b == .scratch (s.laneCore s.who l).1 (s.laneCore s.who l).2 (va.toNat / 8 * 8)) with
      | some _ => raise ⟨.uncorrectable, regLoc 6 0 l, l⟩ s
      | none => writeX d (k (s.scratchN s.who l va.toNat size)) s
  | none =>
    match access s s.who .load size true va with
    | .error e => raiseMem e 0 s
    | .ok p =>
      if p.tgt == .mmio then
        if s.me.settled s.me.nextSeq then
          writeX d (k ((Config.mmioValue s.fresh).toNat % 256 ^ size))
            { s with fresh := s.fresh + 1, mmio := s.mmio ++ [⟨s.who, p.key, size, none⟩] }
        else stall .stream s
      else if s.badByte p.key then raise ⟨.uncorrectable, memBadVal p.key va, 0⟩ s
      else
        writeX d (k (s.ownN s.who .scalar p.key size))
          (((noteWalk s.who va s).linkTo p.key 1).sawBytes s.who ((List.range size).map (p.key + ·)))

/-- STS: the store enters the scalar unit's queue of its slice (R64); a lane thread writes its scratch. -/
def scalarStore (size : Nat) (v : Word) (va : Word) (s : State) : Out :=
  match s.agent.lane with
  | some l =>
    match scratchCheck s.myCore.scratchSize size va.toNat with
    | some c => raise ⟨c, va, l⟩ s
    | none => done (s.setScratchN s.who l va.toNat size v.toNat)
  | none =>
    match access s s.who .store size true va with
    | .error e => raiseMem e 0 s
    | .ok p =>
      if p.tgt == .mmio then
        if s.me.settled s.me.nextSeq then done { s with mmio := s.mmio ++ [⟨s.who, p.key, size, some (v.toNat % 256 ^ size)⟩] }
        else stall .stream s
      else done ((noteWalk s.who va s).queueStore .scalar va (cellsAt p.key (bytesOf size v.toNat)))

def signExt (w : Nat) (n : Nat) : Word := BitVec.ofNat 64 (wrapI 64 (sInt w n))
def zeroExt (n : Nat) : Word := BitVec.ofNat 64 n

def execLdb (d a : XReg) (o : BitVec 13) (s : State) : Out := scalarLoad 1 (signExt 8) d (s.x a + sext13 o) s
def execLdh (d a : XReg) (o : BitVec 13) (s : State) : Out := scalarLoad 2 (signExt 16) d (s.x a + sext13 o) s
def execLdw (d a : XReg) (o : BitVec 13) (s : State) : Out := scalarLoad 4 (signExt 32) d (s.x a + sext13 o) s
def execLdd (d a : XReg) (o : BitVec 13) (s : State) : Out := scalarLoad 8 (zeroExt) d (s.x a + sext13 o) s
def execLdbn (d a : XReg) (o : BitVec 13) (s : State) : Out := scalarLoad 1 (zeroExt) d (s.x a + sext13 o) s
def execLdhn (d a : XReg) (o : BitVec 13) (s : State) : Out := scalarLoad 2 (zeroExt) d (s.x a + sext13 o) s
def execLdwn (d a : XReg) (o : BitVec 13) (s : State) : Out := scalarLoad 4 (zeroExt) d (s.x a + sext13 o) s
def execStb (d a : XReg) (o : BitVec 13) (s : State) : Out := scalarStore 1 (s.x d) (s.x a + sext13 o) s
def execSth (d a : XReg) (o : BitVec 13) (s : State) : Out := scalarStore 2 (s.x d) (s.x a + sext13 o) s
def execStw (d a : XReg) (o : BitVec 13) (s : State) : Out := scalarStore 4 (s.x d) (s.x a + sext13 o) s
def execStd (d a : XReg) (o : BitVec 13) (s : State) : Out := scalarStore 8 (s.x d) (s.x a + sext13 o) s

end Sys2Proof.Machine
end

