-- ==== Sys2Proof/Machine/Control.lean ====
section
/-!
DEFINITION. Branches and jumps (R36, R65, R69), hardware loops (R66 to R71), the plain control members (R73), the
queue members of the scalar unit (R77).
-/

namespace Sys2Proof.Machine

/-! ### Branches and jumps -/

/-- A taken branch or J at a to t ends every running loop around a that does not hold t (R69). -/
def Hart.leaveLoops (h : Hart) (a t : Word) : Hart :=
  { h with active := h.active.filter (fun k =>
      let l := h.loop k
      !(l.top.toNat ≤ a.toNat && a.toNat < l.endAddr.toNat && !(l.top.toNat ≤ t.toNat && t.toNat ≤ l.endAddr.toNat))) }

/-- Control goes from the branch at the PC to t. -/
def branchTo (t : Word) (s : State) : Out :=
  match s.agent.lane with
  | some _ => .next (complete t s)
  | none => .next (complete t (s.modMe (fun h => h.leaveLoops s.pcNow t)))

def branchIf (c : Bool) (o : BitVec 16) (s : State) : Out :=
  if c then branchTo (s.pcNow + off16 o) s else done s

def execBeq (a b : XReg) (o : BitVec 16) (s : State) : Out := branchIf (s.x a == s.x b) o s
def execBne (a b : XReg) (o : BitVec 16) (s : State) : Out := branchIf (s.x a != s.x b) o s
def execBlt (a b : XReg) (o : BitVec 16) (s : State) : Out := branchIf ((s.x a).slt (s.x b)) o s
def execBge (a b : XReg) (o : BitVec 16) (s : State) : Out := branchIf (!(s.x a).slt (s.x b)) o s
def execBltn (a b : XReg) (o : BitVec 16) (s : State) : Out := branchIf ((s.x a).ult (s.x b)) o s
def execBgen (a b : XReg) (o : BitVec 16) (s : State) : Out := branchIf (!(s.x a).ult (s.x b)) o s

def execJ (o : BitVec 26) (s : State) : Out := branchTo (s.pcNow + off26 o) s

/-- JAL links in x1 and ends no loop (R65, R69). -/
def execJal (o : BitVec 26) (s : State) : Out := .next (complete (s.pcNow + off26 o) (s.setX 1 (s.pcNow + 4)))

/-- JALR (R36, R65): a misaligned target traps at the JALR. -/
def execJalr (d a : XReg) (i : BitVec 16) (s : State) : Out :=
  let t := s.x a + sext16 i
  if t &&& 3 != 0 then raise ⟨.misalign, t, 0⟩ s
  else .next (complete t (s.setX d (s.pcNow + 4)))

/-! ### Hardware loops -/

/-- A failed write-back that an advance meets squashes its instruction (R169). -/
def raiseFailed (w : WinNum) (t : Trap) (s : State) : Out :=
  match raise t s with
  | .next s' => if s'.me.trap.seq == s.me.trap.seq then .next s' else .next (trapAt t true s.pcNow (s.modMe (fun h => h.clearFailed w)))
  | o => o

/-- The loop instruction at the PC with count n, first index s0 and a body of len words (R67). -/
def startLoop (k : CtrNum) (n s0 : Word) (len : Nat) (s : State) : Out :=
  let top := s.me.pc + 4
  let e := top + 4 * BitVec.ofNat 64 len
  if n == 0 then .next (complete e (s.modMe (fun h => { h with active := h.active.filter (· != k) })))
  else
    let r := if (s.me.loop k).cnt == s0 then AdvRes.done s else setCounter k s0 s.me.pc false s
    match r with
    | .full s => stall .room s
    | .fail w t => raiseFailed w t s
    | .done s' =>
      .next (complete top (s'.modMe (fun h =>
        { h.setLoop k { h.loop k with cnt := s0, rem := n - 1, body := (BitVec.ofNat 64 len <<< 48) ||| (top &&& 0x0000FFFFFFFFFFFC), endAddr := e } with
          active := k :: h.active.filter (· != k) })))

def execLoop (c : CtrNum) (a : XReg) (l : BitVec 16) (s : State) : Out := startLoop c (s.x a) 0 l.toNat s

def execLoopi (c : CtrNum) (n : BitVec 13) (l : BitVec 10) (s : State) : Out :=
  startLoop c (n.zeroExtend 64) 0 l.toNat s

/-- LOOP.S runs the place's slice of a spatial level; on any other counter it is illegal (R71). -/
def execLoopS (c : CtrNum) (l : BitVec 16) (s : State) : Out :=
  match s.me.slices.toList.getD c.toNat none with
  | none => illegal (lp 0x19#6 c 1#2 0#5 l) s
  | some (start, n) => startLoop c n start l.toNat s

/-! ### NOP, BRK, SCALL, QPUT, QGET -/

def execNop (s : State) : Out := done s
def ctlWord (d a b : XReg) (fn : BitVec 5) : Insn := sr 0x1B#6 d a b 0#6 fn

/-- BRK and SCALL trap at themselves, TRAPVAL holding the word (R73). -/
def execBrk (s : State) : Out := raiseWord .brk (ctlWord 0 0 0 2) s
def execScall (s : State) : Out := raiseWord .scall (ctlWord 0 0 0 3) s

/-- QPUT pushes into q0, of depth 16, and waits for room (R30, R31, R77). One issued again after a trap whose entry has been
popped already places none (R116, R312; DEDUCED, log 70). -/
def execQput (a : XReg) (s : State) : Out :=
  if s.me.owed != 0 && !s.me.trap.priv then done (s.modMe (fun h => { h with owed := h.owed - 1 }))
  else if s.me.q0.length ≥ 16 then stall .queue s
  else done (s.modMe (fun h => { h with q0 := h.q0 ++ [h.x a] }))

/-- QGET pops the oldest entry of q1 and waits for one (R31, R77). -/
def execQget (d : XReg) (s : State) : Out :=
  match s.me.q1 with
  | [] => stall .queue s
  | v :: q => writeX d v (s.modMe (fun h => { h with q1 := q }))

/-! ### Lane threads (R82 to R86) -/

/-- Bytes of [va, va + n) translated as fetches are (R82): the first failing address decides, and data that carries a
mark is consumed (R334). -/
def libCheck (s : State) (va : Word) (n : Nat) : Except MemErr (List Byte) :=
  (List.range (n / 4)).foldl (fun acc i =>
    match acc with
    | .error e => .error e
    | .ok bs =>
      let a := va + 4 * BitVec.ofNat 64 i
      match access s s.who .fetch 4 false a with
      | .error e => .error e
      | .ok p => if s.badByte p.key then .error ⟨.uncorrectable, memBadVal p.key a, none, false⟩ else .ok (bs ++ s.bytes p.key 4)) (.ok [])

/-- The buffer of each of the hart's quads holds the bytes, and zero beyond them; the marks of what they held are gone
(R82, R334). -/
def State.loadBufs (s : State) (w : Who) (bs : List Byte) : State :=
  let qs := s.quads w
  { qs.foldl (fun s q => s.setQbuf q (Memory.writeAll [] (cellsAt 0 bs))) s with
    bad := s.bad.filter (fun e => match e with
      | .laneBuf c q _ => !qs.contains (c, q)
      | _ => true) }

def execLibld (a b : XReg) (s : State) : Out :=
  let va := s.x a
  let n := (s.x b).toNat
  if n % 4 != 0 || n < 4 || n > 4096 then illegal (ctlWord 0 a b 14) s
  else if va &&& 3 != 0 then raise ⟨.misalign, va, 0⟩ s
  else
    match libCheck s va n with
    | .error e => raiseMem e 0 s
    | .ok bs => done ((s.loadBufs s.who bs).modMe (fun h => { h with lib := some (va, s.x b) }))

/-- LFORK waits until every earlier vector instruction has completed, then starts one thread per lane (R83). The hart's
own lane threads make a second LFORK illegal; in a gang it raises CONFIG. -/
def execLfork (a : XReg) (s : State) : Out :=
  let off := s.x a
  if s.me.threads.isSome then illegal (ctlWord 0 a 0 7) s
  else if s.me.gang.isSome then config (ctlWord 0 a 0 7) s
  else if off &&& 3 != 0 || off.toNat ≥ 4096 then raise ⟨.misalign, off, 0⟩ s
  else if !s.me.vecDone then stall .stream s
  else done (s.modMe (fun h => { h with threads := some (Vector.ofFn (fun i => ⟨off, h.lanes ≤ i.val⟩)) }))

/-- LJOIN waits until every thread has executed LEXIT (R86). -/
def execLjoin (s : State) : Out :=
  match s.me.threads with
  | none => done s
  | some ts => if ts.toList.all (fun t => t.exited) then done (s.modMe (fun h => { h with threads := none })) else stall .threads s

/-- LEXIT ends its thread; outside a lane thread it is illegal (R85, R86). -/
def execLexit (s : State) : Out :=
  match s.agent.lane with
  | none => illegal (ctlWord 0 0 0 9) s
  | some l => .next (s.modMe (fun h =>
      { h with threads := h.threads.map (fun ts => ts.setIfInBounds l ⟨(ts.toList.getD l ⟨0, true⟩).pc, true⟩) }))

/-- Row and register that LVGET and LVPUT name (R85). -/
def rowGranule (sel : Word) (n l : Nat) : Nat := bitsOf sel 5 4 * n + l

def execLvget (d a : XReg) (s : State) : Out :=
  match s.agent.lane with
  | none => illegal (ctlWord d a 0 12) s
  | some l =>
    let sel := s.x a
    writeX d (BitVec.ofNat 64 (s.me.granule (bitsOf sel 0 5) (rowGranule sel s.me.lanes l))) s

def execLvput (a b : XReg) (s : State) : Out :=
  match s.agent.lane with
  | none => illegal (ctlWord 0 a b 13) s
  | some l =>
    let sel := s.x b
    let g := rowGranule sel s.me.lanes l
    done { s.modMe (fun h => h.setGranule (bitsOf sel 0 5) g (s.x a).toNat) with
      bad := s.bad.filter (· != .vreg s.who (sel.extractLsb' 0 5) g) }

end Sys2Proof.Machine
end

