-- ==== Sys2Proof/Machine/SysReg.lean ====
section
/-!
DEFINITION. MOVS and SETS and every register they name (R66, R70, R78 to R81, R90, R98, R254, R256 to R260, R310).
-/

namespace Sys2Proof.Machine

/-! ### Held commands (R263) and what HOUT reads (R260) -/

/-- The stamps of the commands of a hart held on output o, with the hart. -/
def State.heldOf (s : State) (w : Who) (o : BitVec 4) : List Nat :=
  let h := s.hart w
  let tags := h.reOps.map (·.tag) ++ h.itOps.map (·.tag) ++ h.xops.map (·.tag) ++
    ((s.core w.core).matrix.ops.filter (fun m => m.who == w && !m.away)).map (·.tag) ++
    (s.pool.filter (fun c => c.isOf w)).map (·.tag)
  (tags.filter (fun t => t.held == some o)).map (·.stamp) ++
  (h.stream.filter (fun e => e.held == some o)).map (·.stamp) ++
  (h.pulls.filter (fun p => p.held == some o)).map (·.entry.stamp)

/-- ARMED and WAITERS of an output (R260). -/
def State.armed (s : State) (c : CoreId) (o : BitVec 4) : Nat :=
  (allHarts.map (fun h => (s.heldOf ⟨c, h⟩ o).length)).sum

def State.waiters (s : State) (c : CoreId) (o : BitVec 4) : List HartNum :=
  allHarts.filter (fun h => ((s.core c).hart h).run == .waiting (.output o))

/-- The hart's launch owns the core's Harness (R256). -/
def State.ownsHarness (s : State) : Bool := s.myCore.harness.owner == s.me.launch

/-- HCNT, HTERM and HOUT as fields that a SETS writes (R258 to R260); reserved fields read as zero. -/
def hcntMask : Word := 0xC03FFFFFFFFFFFFF
def htermMask : Word := 0x00000000FFFFFFFF
def houtMask : Word := 0xC00F0000FFFFFFFF

/-! ### Acting for another hart -/

/-- Runs f with another hart's scalar unit as the agent, and then returns to the present one. -/
def State.asHart (s : State) (w : Who) (f : State → State) : State :=
  let s' := f { s with agent := ⟨w, none⟩, replay := none }
  { s' with agent := s.agent, replay := s.replay }

/-! ### A cycle of the Harness (R257 to R261) -/

def wn (n : Nat) : Word := BitVec.ofNat 64 n

def State.pulse (s : State) (c : CoreId) (i : Nat) : State :=
  s.modCore c (fun k => { k with harness := { k.harness with pulses := k.harness.pulses ++ [BitVec.ofNat 6 i] } })

/-- Counter i after the pulses of a cycle (R258, R261). -/
def countPulses (pulses : List (BitVec 6)) (c : Word) : Word :=
  if c.getLsbD 63 then
    let n := (pulses.filter (fun p => p.toNat == bitsOf c 48 6)).length
    (c &&& 0xFFFFFFFF00000000) ||| wn (min (bitsOf c 0 32 + n) (2 ^ 32 - 1))
  else c

def levelOf (c : Word) : Bool := c.getLsbD 63 && bitsOf c 32 16 ≤ bitsOf c 0 32

def productTrue (h : Harness) (mask : Nat) : Bool :=
  mask != 0 && (List.range 16).all (fun i => !mask.testBit i || levelOf (h.hcnt.toList.getD i 0))

/-- The firing product of term t: A when true, else B when true (R259). -/
def firingProduct (h : Harness) (t : Nat) : Option Nat :=
  let w := h.hterm.toList.getD t 0
  if productTrue h (bitsOf w 0 16) then some (bitsOf w 0 16)
  else if productTrue h (bitsOf w 16 16) then some (bitsOf w 16 16)
  else none

/-- The held command of the given stamp is released (R261, R263). -/
def OpTag.release (t : OpTag) (stamp : Nat) : OpTag := if t.stamp == stamp then { t with held := none } else t

def releaseOn (c : CoreId) (stamp : Nat) (s : State) : State :=
  let s1 := allHarts.foldl (fun s k => s.modHart ⟨c, k⟩ (fun h => { h with
    reOps := h.reOps.map (fun o => { o with tag := o.tag.release stamp })
    itOps := h.itOps.map (fun o => { o with tag := o.tag.release stamp })
    xops := h.xops.map (fun o => { o with tag := o.tag.release stamp })
    stream := h.stream.map (fun e => if e.held.isSome && e.stamp == stamp then { e with held := none } else e)
    pulls := h.pulls.map (fun p => if p.entry.stamp == stamp then { p with held := none } else p) })) s
  let s2 := s1.modCore c (fun k =>
    { k with matrix := { k.matrix with ops := k.matrix.ops.map (fun o => { o with tag := o.tag.release stamp }) } })
  { s2 with pool := s2.pool.map (fun x => if x.parent.core == c && x.away.isNone then { x with tag := x.tag.release stamp } else x) }

/-- The stamps of the commands held on an output of a core. -/
def State.heldOn (s : State) (c : CoreId) (o : BitVec 4) : List Nat := allHarts.flatMap (fun k => s.heldOf ⟨c, k⟩ o)

/-- Output o of a core: fires where it is enabled, its term is true and it has a consumer (R260, R261). -/
def fireOutput (c : CoreId) (s : State) (o : BitVec 4) : State :=
  let h := (s.core c).harness
  let w := h.hout.toList.getD o.toNat 0
  let held := s.heldOn c o
  let waits := s.waiters c o
  match firingProduct h (bitsOf w 48 4) with
  | none => s
  | some mask =>
    if !w.getLsbD 63 || !(w.getLsbD 62 || !held.isEmpty || !waits.isEmpty) then s
    else
      let s1 := s.modCore c (fun k => { k with harness := { k.harness with
        hout := k.harness.hout.setIfInBounds o.toNat ((w &&& 0xFFFFFFFF00000000) ||| wn (min (bitsOf w 0 32 + 1) (2 ^ 32 - 1)))
        hcnt := Vector.ofFn (fun i =>
          let x := k.harness.hcnt.get i
          if mask.testBit i.val && x.getLsbD 62 then (x &&& 0xFFFFFFFF00000000) ||| wn (bitsOf x 0 32 - bitsOf x 32 16) else x) } })
      let s2 := match held.min? with
        | some stamp => releaseOn c stamp s1
        | none => s1
      let s3 := waits.foldl (fun s k => s.asHart ⟨c, k⟩ finish) s2
      let s4 := allHarts.foldl (fun s k => s.modHart ⟨c, k⟩ Hart.wake) s3
      if 8 ≤ o.toNat then s4.pulse c (48 + o.toNat) else s4

/-- A cycle of the Harness in which the n oldest pulses still to be counted come, then the outputs are taken in increasing
number (R261). How many pulses one cycle brings is timing: one, unless the agenda says otherwise (log 8). -/
def harnessCycle (c : CoreId) (n : Nat) (s : State) : State :=
  let s1 := s.modCore c (fun k => { k with harness := { k.harness with
    pulses := k.harness.pulses.drop n, hcnt := k.harness.hcnt.map (countPulses (k.harness.pulses.take n)) } })
  (List.range 16).foldl (fun s o => fireOutput c s (BitVec.ofNat 4 o)) s1

/-- The pulses of operations already complete are counted before a Harness register is read or written. -/
def harnessCatchUp (c : CoreId) (s : State) : State :=
  (s.core c).harness.pulses.foldl (fun s _ => harnessCycle c 1 s) s

/-! ### Reads -/

def Hart.statusReg (h : Hart) : Word := Hart.statusWord h.trap

/-- TLMX is 0 for a hart whose launch does not own the matrix unit (R28). -/
def State.tlmx (s : State) : Word :=
  if s.myCore.matrix.owner == s.me.launch && s.me.launch.isSome then s.myCore.matrix.counter else 0

/-- VGRANT (R90). -/
def Hart.vgrant (h : Hart) : Word := wn (h.segs * 2 ^ 32 + h.avail * 2 ^ 16 + h.lanes)

/-- CORELOC (R80): the package core number of R10. -/
def coreLoc (w : Who) : Word := wn w.core.val

def State.hartId (s : State) : Word :=
  wn ((if s.me.gang.isSome then 1 else s.myCore.layout) * 16 + s.who.hart.val)

def Hart.qstat (h : Hart) : Word := wn (h.lq.length * 2 ^ 16 + h.q1.length * 2 ^ 8 + h.q0.length)

/-- PREEMPT (R310). LEFT while a soft pre-emption is pending is a free value (timing, log 2). -/
def State.preemptReg (s : State) : Word :=
  let p := s.me.sup
  (boolWord s.me.hardNow <<< 63) ||| (boolWord p.soft <<< 62) ||| (p.why.zeroExtend 64 <<< 56) |||
  (if p.soft then (Config.leftAt s.fresh).zeroExtend 64 else p.left.zeroExtend 64)

/-- A Harness register as the hart sees it: its own last SETS that is still held comes first (R312). -/
def State.harnessReg (s : State) (r : Nat) : Word :=
  let k := s.myCore.harness
  let now :=
    if r < 0x090 then k.hcnt.toList.getD (r - 0x080) 0
    else if r < 0x0A0 then k.hterm.toList.getD (r - 0x090) 0
    else k.hout.toList.getD (r - 0x0A0) 0
  s.me.late.foldl (fun v l => match l.2 with
    | .set q x => if q == r then x else v
    | .pulse _ => v) now

/-- CYCLE: at least what was read last, and later than what the executing agent itself has read (R80; log 2). -/
def State.cycleNow (s : State) : Nat :=
  s.cycle + (if s.cycleBy.contains s.agent then 1 else 0) + Config.cyclesBetween s.fresh

/-- The value of an assigned register, none for an unassigned number (R79, R310). -/
def State.sysReg (s : State) (r : Nat) : Option Word :=
  let h := s.me
  if r == 0x000 then some h.vtype
  else if r == 0x001 then some (wn h.vl)
  else if r == 0x002 then some (wn h.vstart)
  else if r == 0x003 then some h.vgrant
  else if r == 0x004 then some (h.fcr.zeroExtend 64)
  else if r == 0x005 then some (h.fflags.zeroExtend 64)
  else if r == 0x006 then some h.kvstart
  else if r == 0x007 then some (wn (s.agent.lane.getD 0))
  else if 0x010 ≤ r && r < 0x018 then some (h.loop (BitVec.ofNat 3 (r - 0x010))).cnt
  else if 0x018 ≤ r && r < 0x020 then some (h.loop (BitVec.ofNat 3 (r - 0x018))).rem
  else if 0x020 ≤ r && r < 0x028 then some (h.loop (BitVec.ofNat 3 (r - 0x020))).body
  else if r == 0x030 then some s.hartId
  else if r == 0x031 then some (coreLoc s.who)
  else if r == 0x032 then some ((s.partOf h).zeroExtend 64)
  else if r == 0x034 then some (wn s.cycleNow)
  else if r == 0x035 then some h.instret
  else if r == 0x038 then some h.capBase
  else if r == 0x040 then some h.tlre
  else if r == 0x041 then some h.tlit
  else if r == 0x042 then some s.tlmx
  else if r == 0x043 then some h.tlkv
  else if r == 0x044 then some h.tlxc
  else if r == 0x045 then some h.tlln
  else if r == 0x050 then some h.qstat
  else if 0x080 ≤ r && r < 0x0A0 then some (s.harnessReg r)
  else if 0x0A0 ≤ r && r < 0x0B0 then
    let o := BitVec.ofNat 4 (r - 0x0A0)
    some (s.harnessReg r |||
      wn (s.armed s.who.core o * 2 ^ 40 + (s.waiters s.who.core o).length * 2 ^ 36))
  else if r == 0x100 then some h.statusReg
  else if r == 0x101 then some (h.sup.trapVec &&& ~~~(3 : Word))
  else if r == 0x102 then some (h.trap.cause.zeroExtend 64)
  else if r == 0x103 then some h.trap.pc
  else if r == 0x104 then some h.trap.val
  else if r == 0x105 then some (h.trap.elem.zeroExtend 64)
  else if r == 0x106 then some h.trap.seq
  else if r == 0x108 then some (h.sup.aspace.zeroExtend 64)
  else if r == 0x109 then some h.sup.ptRoot
  else if r == 0x10A then some h.sup.rangeBase
  else if r == 0x10B then some (h.sup.aspace.zeroExtend 64)
  else if r == 0x110 then some ((h.sup.ceilSup.zeroExtend 64 <<< 16) ||| h.sup.ceilCtrl.zeroExtend 64)
  else if r == 0x111 then some s.preemptReg
  else if r == 0x112 then some h.sup.ctxPtr
  else none

/-- Registers that a lane thread may read (R84). -/
def laneReadable (r : Nat) : Bool := [0x007, 0x030, 0x031, 0x032, 0x034].contains r

/-- MOVS of the registers that R81 names waits until every earlier vector instruction has completed, one of a timeline
counter for engine members still to take their number (R254). -/
def State.movsWaits (s : State) (r : Nat) : Bool :=
  if r ≤ 0x006 then !s.me.vecDone
  else if 0x040 ≤ r && r ≤ 0x045 then
    s.me.stream.any (fun e => (e.adv.isSome && r == 0x040) || (e.adv.isNone && isEngine e.word && e.cap.num.isNone))
  else false

def isHarnessReg (r : Nat) : Bool := 0x080 ≤ r && r < 0x0B0

/-- A read that takes a free value moves the counter of free values on. -/
def State.took (s : State) (r : Nat) : State :=
  if r == 0x034 then
    { s with
      fresh := s.fresh + 1, cycle := s.cycleNow
      cycleBy := if s.cycleNow == s.cycle then s.agent :: s.cycleBy else [s.agent] }
  else if (r == 0x111 && s.me.sup.soft) then { s with fresh := s.fresh + 1 } else s

def movsWord (d : XReg) (r : BitVec 12) : Insn := si 0x1C#6 d 0#5 (r.zeroExtend 16)
def setsWord (a : XReg) (r : BitVec 12) : Insn := si 0x1D#6 0#5 a (r.zeroExtend 16)

/-- MOVS (R79): steps 3, 4 and 7 of R56, then the copy. -/
def execMovs (d : XReg) (r : BitVec 12) (s : State) : Out :=
  let w := movsWord d r
  if s.agent.lane.isSome && !laneReadable r.toNat then illegal w s
  else
    match s.sysReg r.toNat with
    | none => illegal w s
    | some _ =>
      if 0x100 ≤ r.toNat && !s.me.trap.priv then raiseWord .priv w s
      else if isHarnessReg r.toNat && !s.ownsHarness then config w s
      else if s.agent.lane.isNone && s.movsWaits r.toNat then stall .stream s
      else
        let s' := if isHarnessReg r.toNat then (harnessCatchUp s.who.core s).modMe (fun h => { h with hbound := true }) else s
        writeX d ((s'.sysReg r.toNat).getD 0) (s'.took r.toNat)

/-! ### Writes -/

/-- Numbers that a SETS may name: assigned and not read-only (R79, R310). -/
def writable (r : Nat) : Bool :=
  r == 0x002 || r == 0x004 || r == 0x005 || r == 0x006 || (0x010 ≤ r && r < 0x028) || (0x080 ≤ r && r < 0x0B0) ||
  (0x100 ≤ r && r ≤ 0x106) || r == 0x110 || r == 0x111 || r == 0x112

/-- Software asks for a hard pre-emption of the hart (R310, R323). -/
def requestHard (s : State) : State := s.modMe (fun h => { h with sup := { h.sup with hardReq := true } })

/-- The registers whose write only stores fields. -/
def setReg (r : Nat) (v : Word) (s : State) : State :=
  if r == 0x002 then s.modMe (fun h => { h with vstart := bitsOf v 0 24 })
  else if r == 0x004 then s.modMe (fun h => { h with fcr := v.extractLsb' 0 10 })
  else if r == 0x005 then s.modMe (fun h => { h with fflags := v.extractLsb' 0 5 })
  else if r == 0x006 then s.modMe (fun h => { h with kvstart := v })
  else if 0x018 ≤ r && r < 0x020 then
    let k := BitVec.ofNat 3 (r - 0x018)
    s.modMe (fun h => h.setLoop k { h.loop k with rem := v })
  else if 0x020 ≤ r && r < 0x028 then
    let k := BitVec.ofNat 3 (r - 0x020)
    s.modMe (fun h => h.setLoop k { h.loop k with body := v &&& ~~~(3 : Word) })
  else if 0x080 ≤ r && r < 0x090 then
    s.modMyCore (fun k => { k with harness := { k.harness with hcnt := k.harness.hcnt.setIfInBounds (r - 0x080) (v &&& hcntMask) } })
  else if 0x090 ≤ r && r < 0x0A0 then
    s.modMyCore (fun k => { k with harness := { k.harness with hterm := k.harness.hterm.setIfInBounds (r - 0x090) (v &&& htermMask) } })
  else if 0x0A0 ≤ r && r < 0x0B0 then
    s.modMyCore (fun k => { k with harness := { k.harness with hout := k.harness.hout.setIfInBounds (r - 0x0A0) (v &&& houtMask) } })
  else if r == 0x100 then
    s.modMe (fun h => { h with trap := { h.trap with ux := v.getLsbD 4, lt := v.getLsbD 2, pp := v.getLsbD 1 } })
  else if r == 0x101 then s.modMe (fun h => { h with sup := { h.sup with trapVec := v &&& ~~~(3 : Word) } })
  else if r == 0x102 then s.modMe (fun h => { h with trap := { h.trap with cause := v.extractLsb' 0 8 } })
  else if r == 0x103 then s.modMe (fun h => { h with trap := { h.trap with pc := v } })
  else if r == 0x104 then s.modMe (fun h => { h with trap := { h.trap with val := v } })
  else if r == 0x105 then s.modMe (fun h => { h with trap := { h.trap with elem := v.extractLsb' 0 24 } })
  else if r == 0x106 then s.modMe (fun h => { h with trap := { h.trap with seq := v } })
  else if r == 0x110 then s.modMe (fun h => { h with sup := { h.sup with ceilSup := v.extractLsb' 16 16 } })
  else if r == 0x111 then
    let s' := s.modMe (fun h => { h with sup := { h.sup with why := v.extractLsb' 56 4 } })
    if v.getLsbD 61 then requestHard s' else s'
  else if r == 0x112 then s.modMe (fun h => { h with sup := { h.sup with ctxPtr := v &&& 0x00FFFFFFFFFFF000 } })
  else s

/-- An effect on the Harness takes place: a write, after the pulses of operations already complete, or a pulse. -/
def Late.act (l : Late) (s : State) : State :=
  match l with
  | .set r v => setReg r v (harnessCatchUp s.who.core s)
  | .pulse i => s.pulse s.who.core i

/-- An effect of the scalar unit on the Harness takes place at once where every earlier vector instruction has retired,
and is held otherwise (R312; DEDUCED, log 11). -/
def State.later (s : State) (l : Late) : State :=
  let s1 := s.modMe (fun h => { h with hbound := true })
  if s.me.settled s.me.nextSeq then l.act s1 else s1.modMe (fun h => { h with late := h.late ++ [(h.nextSeq, l)] })

/-- The held effects of the current hart whose turn has come take place. -/
def landLate : List (Nat × Late) → State → State
  | [], s => s
  | l :: ls, s => if s.me.settled l.1 then landLate ls (l.2.act (s.modMe (fun h => { h with late := ls }))) else s

/-- What a SETS of a Harness register writes: reserved and read-only bits are ignored (R258 to R260). -/
def harnessMask (r : Nat) : Word := if r < 0x090 then hcntMask else if r < 0x0A0 then htermMask else houtMask

/-- SETS (R70, R79, R81): steps 3, 4 and 7 of R56; a new LCNT advances its windows. -/
def execSets (a : XReg) (r : BitVec 12) (s : State) : Out :=
  let w := setsWord a r
  let n := r.toNat
  let v := s.x a
  if !writable n then illegal w s
  else if 0x100 ≤ n && !s.me.trap.priv then raiseWord .priv w s
  else if n == 0x004 && bitsOf v 0 3 > 4 then illegal w s
  else if isHarnessReg n && !s.ownsHarness then config w s
  else if n ≤ 0x006 && !s.me.vecDone then stall .stream s
  else if 0x010 ≤ n && n < 0x018 then
    let k := BitVec.ofNat 3 (n - 0x010)
    if (s.me.loop k).cnt == v then done s
    else
      match setCounter k v s.me.pc false s with
      | .full s => stall .room s
      | .fail w t => raiseFailed w t s
      | .done s' => done s'
  else if isHarnessReg n then done (s.later (.set n (v &&& harnessMask n)))
  else done (setReg n v s)

end Sys2Proof.Machine
end

