-- ==== Sys2Proof/Machine/VInt.lean ====
section
/-!
DEFINITION. The integer members of VINT, VINTX and VINTI (R102, R103).
-/

namespace Sys2Proof.Machine

/-- A vector operand with its replicate modifier (R40), 0 for an operand that has none. -/
abbrev Src := VReg × BitVec 3

/-- What element e reads of the operands. -/
def srcReads (cap : Capture) (srcs : List Src) (e : Nat) : List Rd :=
  srcs.map (fun r => .elem r.1.toNat cap.sew (repElem r.2 e))

/-- The element loop of R102: `f` gives F(a, b, d) at SEW bits, `b` reads the second operand of element e, `srcs`
are the vector operands besides vd, which is a source too when `rd` holds. -/
def intMember (w : Insn) (f : Nat → Nat → Nat → Nat → Nat) (rd : Bool) (d : VReg) (a : VReg) (srcs : List Src)
    (b : Capture → Hart → Nat → Nat) (caps : State → List Word) (k : MReg) (s : State) : Out :=
  vissue w
    (checkType true (fun h => groupsOk h ((d :: srcs.map (·.1)).map (fun r => (r.toNat, sewOf h.vtype)))))
    caps
    (fun cap s =>
      vecBody (fun _ => srcReads cap (if rd then (d, 0) :: srcs else srcs)) d.toNat cap.sew k
        (fun c h e => (f c.sew (h.elem a.toNat e c.sew) (b c h e) (h.elem d.toNat e c.sew), 0)) cap s)
    s

/-- vb as a vector operand, with the replicate modifier (R40). -/
def vecB (b : VReg) (p : BitVec 3) (c : Capture) (h : Hart) (e : Nat) : Nat := h.elem b.toNat (repElem p e) c.sew
/-- The low SEW bits of the captured scalar (R102). -/
def scalB (c : Capture) (_ : Hart) (_ : Nat) : Nat := (c.xs.getD 0 0).toNat % 2 ^ c.sew
/-- imm8 sign-extended to SEW. -/
def immB (i : BitVec 8) (c : Capture) (_ : Hart) (_ : Nat) : Nat := wrapI c.sew i.toInt
/-- An immediate shift amount, which acts modulo SEW in F. -/
def shiftB (i : BitVec 6) (_ : Capture) (_ : Hart) (_ : Nat) : Nat := i.toNat

def capX (b : XReg) (s : State) : List Word := [s.x b]

/-- The loop of VADDC and VSUBB (R103): every element is active, the mask gives the carry in and takes the carry
out. -/
def carryLoop (sub : Bool) (d a : VReg) (b : Capture → Hart → Nat → Nat) (k : MReg) (c : Capture) :
    List Nat → Hart → Hart
  | [], h => h
  | e :: es, h =>
    let x := h.elem a.toNat e c.sew
    let y := b c h e
    let cin := if k != 0 && h.maskBit k e then 1 else 0
    let m := 2 ^ c.sew
    let r := if sub then (x + m + m - y - cin) % m else (x + y + cin) % m
    let co := if sub then x < y + cin else x + y + cin ≥ m
    let h1 := h.setElem d.toNat e c.sew r
    carryLoop sub d a b k c es (if k == 0 then h1 else h1.setMaskBit k e co)

def carryMember (w : Insn) (sub : Bool) (d a : VReg) (srcs : List Src) (b : Capture → Hart → Nat → Nat)
    (caps : State → List Word) (k : MReg) (s : State) : Out :=
  vissue w
    (checkType true (fun h => groupsOk h ((d :: srcs.map (·.1)).map (fun r => (r.toNat, sewOf h.vtype)))))
    caps
    (fun cap s =>
      match badReads s cap.elems (fun e => kRead k e ++ srcReads cap srcs e) with
      | some t => .trap t s
      | none =>
        let h := carryLoop sub d a b k cap cap.elems s.me
        let s' := (s.setMe { h.tail cap.vtype d.toNat cap.sew cap.vl with vstart := 0 }).healVec cap s.me 0 d.toNat cap.sew
        .done (if k == 0 then s' else s'.healMask k (fun e => cap.start ≤ e && e < cap.vl)))
    s

/-- VMERGE (R103): b where the mask bit is set, a elsewhere; every element is active. -/
def mergeMember (w : Insn) (d a : VReg) (srcs : List Src) (b : Capture → Hart → Nat → Nat)
    (caps : State → List Word) (k : MReg) (s : State) : Out :=
  vissue w
    (checkType true (fun h => groupsOk h ((d :: srcs.map (·.1)).map (fun r => (r.toNat, sewOf h.vtype)))))
    caps
    (fun cap s =>
      vecBody (fun h e => .mask k e ::
          srcReads cap (if h.maskBit k e then srcs.drop 1 else srcs.take 1) e) d.toNat cap.sew 0
        (fun c h e => (if h.maskBit k e then b c h e else h.elem a.toNat e c.sew, 0)) cap s)
    s

/-! ### VINT -/

def execVadd (d : VReg) (a : VReg) (b : VReg) (p : BitVec 3) (k : MReg) (s : State) : Out :=
  intMember (vr 0x22#6 d a b p k 0#5) fAdd false d a [(a, 0), (b, p)] (vecB b p) (fun _ => []) k s
def execVsub (d : VReg) (a : VReg) (b : VReg) (p : BitVec 3) (k : MReg) (s : State) : Out :=
  intMember (vr 0x22#6 d a b p k 1#5) fSub false d a [(a, 0), (b, p)] (vecB b p) (fun _ => []) k s
def execVrsub (d : VReg) (a : VReg) (b : VReg) (p : BitVec 3) (k : MReg) (s : State) : Out :=
  intMember (vr 0x22#6 d a b p k 2#5) fRsub false d a [(a, 0), (b, p)] (vecB b p) (fun _ => []) k s
def execVand (d : VReg) (a : VReg) (b : VReg) (p : BitVec 3) (k : MReg) (s : State) : Out :=
  intMember (vr 0x22#6 d a b p k 3#5) fAnd false d a [(a, 0), (b, p)] (vecB b p) (fun _ => []) k s
def execVor (d : VReg) (a : VReg) (b : VReg) (p : BitVec 3) (k : MReg) (s : State) : Out :=
  intMember (vr 0x22#6 d a b p k 4#5) fOr false d a [(a, 0), (b, p)] (vecB b p) (fun _ => []) k s
def execVxor (d : VReg) (a : VReg) (b : VReg) (p : BitVec 3) (k : MReg) (s : State) : Out :=
  intMember (vr 0x22#6 d a b p k 5#5) fXor false d a [(a, 0), (b, p)] (vecB b p) (fun _ => []) k s
def execVsll (d : VReg) (a : VReg) (b : VReg) (p : BitVec 3) (k : MReg) (s : State) : Out :=
  intMember (vr 0x22#6 d a b p k 6#5) fSll false d a [(a, 0), (b, p)] (vecB b p) (fun _ => []) k s
def execVsrl (d : VReg) (a : VReg) (b : VReg) (p : BitVec 3) (k : MReg) (s : State) : Out :=
  intMember (vr 0x22#6 d a b p k 7#5) fSrl false d a [(a, 0), (b, p)] (vecB b p) (fun _ => []) k s
def execVsra (d : VReg) (a : VReg) (b : VReg) (p : BitVec 3) (k : MReg) (s : State) : Out :=
  intMember (vr 0x22#6 d a b p k 8#5) fSra false d a [(a, 0), (b, p)] (vecB b p) (fun _ => []) k s
def execVmin (d : VReg) (a : VReg) (b : VReg) (p : BitVec 3) (k : MReg) (s : State) : Out :=
  intMember (vr 0x22#6 d a b p k 9#5) fMin false d a [(a, 0), (b, p)] (vecB b p) (fun _ => []) k s
def execVmax (d : VReg) (a : VReg) (b : VReg) (p : BitVec 3) (k : MReg) (s : State) : Out :=
  intMember (vr 0x22#6 d a b p k 10#5) fMax false d a [(a, 0), (b, p)] (vecB b p) (fun _ => []) k s
def execVminn (d : VReg) (a : VReg) (b : VReg) (p : BitVec 3) (k : MReg) (s : State) : Out :=
  intMember (vr 0x22#6 d a b p k 11#5) fMinn false d a [(a, 0), (b, p)] (vecB b p) (fun _ => []) k s
def execVmaxn (d : VReg) (a : VReg) (b : VReg) (p : BitVec 3) (k : MReg) (s : State) : Out :=
  intMember (vr 0x22#6 d a b p k 12#5) fMaxn false d a [(a, 0), (b, p)] (vecB b p) (fun _ => []) k s
def execVmul (d : VReg) (a : VReg) (b : VReg) (p : BitVec 3) (k : MReg) (s : State) : Out :=
  intMember (vr 0x22#6 d a b p k 13#5) fMul false d a [(a, 0), (b, p)] (vecB b p) (fun _ => []) k s
def execVmulh (d : VReg) (a : VReg) (b : VReg) (p : BitVec 3) (k : MReg) (s : State) : Out :=
  intMember (vr 0x22#6 d a b p k 14#5) fMulh false d a [(a, 0), (b, p)] (vecB b p) (fun _ => []) k s
def execVmulhn (d : VReg) (a : VReg) (b : VReg) (p : BitVec 3) (k : MReg) (s : State) : Out :=
  intMember (vr 0x22#6 d a b p k 15#5) fMulhn false d a [(a, 0), (b, p)] (vecB b p) (fun _ => []) k s
def execVdiv (d : VReg) (a : VReg) (b : VReg) (p : BitVec 3) (k : MReg) (s : State) : Out :=
  intMember (vr 0x22#6 d a b p k 16#5) fDiv false d a [(a, 0), (b, p)] (vecB b p) (fun _ => []) k s
def execVdivn (d : VReg) (a : VReg) (b : VReg) (p : BitVec 3) (k : MReg) (s : State) : Out :=
  intMember (vr 0x22#6 d a b p k 17#5) fDivn false d a [(a, 0), (b, p)] (vecB b p) (fun _ => []) k s
def execVrem (d : VReg) (a : VReg) (b : VReg) (p : BitVec 3) (k : MReg) (s : State) : Out :=
  intMember (vr 0x22#6 d a b p k 18#5) fRem false d a [(a, 0), (b, p)] (vecB b p) (fun _ => []) k s
def execVremn (d : VReg) (a : VReg) (b : VReg) (p : BitVec 3) (k : MReg) (s : State) : Out :=
  intMember (vr 0x22#6 d a b p k 19#5) fRemn false d a [(a, 0), (b, p)] (vecB b p) (fun _ => []) k s
def execVsadd (d : VReg) (a : VReg) (b : VReg) (p : BitVec 3) (k : MReg) (s : State) : Out :=
  intMember (vr 0x22#6 d a b p k 22#5) fSadd false d a [(a, 0), (b, p)] (vecB b p) (fun _ => []) k s
def execVsaddn (d : VReg) (a : VReg) (b : VReg) (p : BitVec 3) (k : MReg) (s : State) : Out :=
  intMember (vr 0x22#6 d a b p k 23#5) fSaddn false d a [(a, 0), (b, p)] (vecB b p) (fun _ => []) k s
def execVssub (d : VReg) (a : VReg) (b : VReg) (p : BitVec 3) (k : MReg) (s : State) : Out :=
  intMember (vr 0x22#6 d a b p k 24#5) fSsub false d a [(a, 0), (b, p)] (vecB b p) (fun _ => []) k s
def execVssubn (d : VReg) (a : VReg) (b : VReg) (p : BitVec 3) (k : MReg) (s : State) : Out :=
  intMember (vr 0x22#6 d a b p k 25#5) fSsubn false d a [(a, 0), (b, p)] (vecB b p) (fun _ => []) k s
def execVbext (d : VReg) (a : VReg) (b : VReg) (p : BitVec 3) (k : MReg) (s : State) : Out :=
  intMember (vr 0x22#6 d a b p k 30#5) fBext false d a [(a, 0), (b, p)] (vecB b p) (fun _ => []) k s
def execVfshr (d : VReg) (a : VReg) (b : VReg) (p : BitVec 3) (k : MReg) (s : State) : Out :=
  intMember (vr 0x22#6 d a b p k 31#5) fFshr true d a [(a, 0), (b, p)] (vecB b p) (fun _ => []) k s
def execVmv (d : VReg) (b : VReg) (p : BitVec 3) (k : MReg) (s : State) : Out :=
  intMember (vr 0x22#6 d 0#5 b p k 27#5) fMv false d b [(b, p)] (vecB b p) (fun _ => []) k s
def execVpope (d : VReg) (a : VReg) (k : MReg) (s : State) : Out :=
  intMember (vr 0x22#6 d a 0#5 0#3 k 28#5) fPop false d a [(a, 0)] (fun _ _ _ => 0) (fun _ => []) k s
def execVclz (d : VReg) (a : VReg) (k : MReg) (s : State) : Out :=
  intMember (vr 0x22#6 d a 0#5 0#3 k 29#5) fClz false d a [(a, 0)] (fun _ _ _ => 0) (fun _ => []) k s
def execVaddc (d : VReg) (a : VReg) (b : VReg) (p : BitVec 3) (k : MReg) (s : State) : Out :=
  carryMember (vr 0x22#6 d a b p k 20#5) false d a [(a, 0), (b, p)] (vecB b p) (fun _ => []) k s
def execVsubb (d : VReg) (a : VReg) (b : VReg) (p : BitVec 3) (k : MReg) (s : State) : Out :=
  carryMember (vr 0x22#6 d a b p k 21#5) true d a [(a, 0), (b, p)] (vecB b p) (fun _ => []) k s
def execVmerge (d : VReg) (a : VReg) (b : VReg) (p : BitVec 3) (k : MReg) (s : State) : Out :=
  mergeMember (vr 0x22#6 d a b p k 26#5) d a [(a, 0), (b, p)] (vecB b p) (fun _ => []) k s

/-! ### VINTX -/

def execVaddX (d : VReg) (a : VReg) (b : XReg) (k : MReg) (s : State) : Out :=
  intMember (vr 0x23#6 d a b 0#3 k 0#5) fAdd false d a [(a, 0)] scalB (capX b) k s
def execVsubX (d : VReg) (a : VReg) (b : XReg) (k : MReg) (s : State) : Out :=
  intMember (vr 0x23#6 d a b 0#3 k 1#5) fSub false d a [(a, 0)] scalB (capX b) k s
def execVrsubX (d : VReg) (a : VReg) (b : XReg) (k : MReg) (s : State) : Out :=
  intMember (vr 0x23#6 d a b 0#3 k 2#5) fRsub false d a [(a, 0)] scalB (capX b) k s
def execVandX (d : VReg) (a : VReg) (b : XReg) (k : MReg) (s : State) : Out :=
  intMember (vr 0x23#6 d a b 0#3 k 3#5) fAnd false d a [(a, 0)] scalB (capX b) k s
def execVorX (d : VReg) (a : VReg) (b : XReg) (k : MReg) (s : State) : Out :=
  intMember (vr 0x23#6 d a b 0#3 k 4#5) fOr false d a [(a, 0)] scalB (capX b) k s
def execVxorX (d : VReg) (a : VReg) (b : XReg) (k : MReg) (s : State) : Out :=
  intMember (vr 0x23#6 d a b 0#3 k 5#5) fXor false d a [(a, 0)] scalB (capX b) k s
def execVsllX (d : VReg) (a : VReg) (b : XReg) (k : MReg) (s : State) : Out :=
  intMember (vr 0x23#6 d a b 0#3 k 6#5) fSll false d a [(a, 0)] scalB (capX b) k s
def execVsrlX (d : VReg) (a : VReg) (b : XReg) (k : MReg) (s : State) : Out :=
  intMember (vr 0x23#6 d a b 0#3 k 7#5) fSrl false d a [(a, 0)] scalB (capX b) k s
def execVsraX (d : VReg) (a : VReg) (b : XReg) (k : MReg) (s : State) : Out :=
  intMember (vr 0x23#6 d a b 0#3 k 8#5) fSra false d a [(a, 0)] scalB (capX b) k s
def execVminX (d : VReg) (a : VReg) (b : XReg) (k : MReg) (s : State) : Out :=
  intMember (vr 0x23#6 d a b 0#3 k 9#5) fMin false d a [(a, 0)] scalB (capX b) k s
def execVmaxX (d : VReg) (a : VReg) (b : XReg) (k : MReg) (s : State) : Out :=
  intMember (vr 0x23#6 d a b 0#3 k 10#5) fMax false d a [(a, 0)] scalB (capX b) k s
def execVminnX (d : VReg) (a : VReg) (b : XReg) (k : MReg) (s : State) : Out :=
  intMember (vr 0x23#6 d a b 0#3 k 11#5) fMinn false d a [(a, 0)] scalB (capX b) k s
def execVmaxnX (d : VReg) (a : VReg) (b : XReg) (k : MReg) (s : State) : Out :=
  intMember (vr 0x23#6 d a b 0#3 k 12#5) fMaxn false d a [(a, 0)] scalB (capX b) k s
def execVmulX (d : VReg) (a : VReg) (b : XReg) (k : MReg) (s : State) : Out :=
  intMember (vr 0x23#6 d a b 0#3 k 13#5) fMul false d a [(a, 0)] scalB (capX b) k s
def execVmulhX (d : VReg) (a : VReg) (b : XReg) (k : MReg) (s : State) : Out :=
  intMember (vr 0x23#6 d a b 0#3 k 14#5) fMulh false d a [(a, 0)] scalB (capX b) k s
def execVmulhnX (d : VReg) (a : VReg) (b : XReg) (k : MReg) (s : State) : Out :=
  intMember (vr 0x23#6 d a b 0#3 k 15#5) fMulhn false d a [(a, 0)] scalB (capX b) k s
def execVdivX (d : VReg) (a : VReg) (b : XReg) (k : MReg) (s : State) : Out :=
  intMember (vr 0x23#6 d a b 0#3 k 16#5) fDiv false d a [(a, 0)] scalB (capX b) k s
def execVdivnX (d : VReg) (a : VReg) (b : XReg) (k : MReg) (s : State) : Out :=
  intMember (vr 0x23#6 d a b 0#3 k 17#5) fDivn false d a [(a, 0)] scalB (capX b) k s
def execVremX (d : VReg) (a : VReg) (b : XReg) (k : MReg) (s : State) : Out :=
  intMember (vr 0x23#6 d a b 0#3 k 18#5) fRem false d a [(a, 0)] scalB (capX b) k s
def execVremnX (d : VReg) (a : VReg) (b : XReg) (k : MReg) (s : State) : Out :=
  intMember (vr 0x23#6 d a b 0#3 k 19#5) fRemn false d a [(a, 0)] scalB (capX b) k s
def execVsaddX (d : VReg) (a : VReg) (b : XReg) (k : MReg) (s : State) : Out :=
  intMember (vr 0x23#6 d a b 0#3 k 22#5) fSadd false d a [(a, 0)] scalB (capX b) k s
def execVsaddnX (d : VReg) (a : VReg) (b : XReg) (k : MReg) (s : State) : Out :=
  intMember (vr 0x23#6 d a b 0#3 k 23#5) fSaddn false d a [(a, 0)] scalB (capX b) k s
def execVssubX (d : VReg) (a : VReg) (b : XReg) (k : MReg) (s : State) : Out :=
  intMember (vr 0x23#6 d a b 0#3 k 24#5) fSsub false d a [(a, 0)] scalB (capX b) k s
def execVssubnX (d : VReg) (a : VReg) (b : XReg) (k : MReg) (s : State) : Out :=
  intMember (vr 0x23#6 d a b 0#3 k 25#5) fSsubn false d a [(a, 0)] scalB (capX b) k s
def execVbextX (d : VReg) (a : VReg) (b : XReg) (k : MReg) (s : State) : Out :=
  intMember (vr 0x23#6 d a b 0#3 k 30#5) fBext false d a [(a, 0)] scalB (capX b) k s
def execVfshrX (d : VReg) (a : VReg) (b : XReg) (k : MReg) (s : State) : Out :=
  intMember (vr 0x23#6 d a b 0#3 k 31#5) fFshr true d a [(a, 0)] scalB (capX b) k s
def execVmvX (d : VReg) (b : XReg) (k : MReg) (s : State) : Out :=
  intMember (vr 0x23#6 d 0#5 b 0#3 k 27#5) fMv false d d [] scalB (capX b) k s
def execVaddcX (d : VReg) (a : VReg) (b : XReg) (k : MReg) (s : State) : Out :=
  carryMember (vr 0x23#6 d a b 0#3 k 20#5) false d a [(a, 0)] scalB (capX b) k s
def execVsubbX (d : VReg) (a : VReg) (b : XReg) (k : MReg) (s : State) : Out :=
  carryMember (vr 0x23#6 d a b 0#3 k 21#5) true d a [(a, 0)] scalB (capX b) k s
def execVmergeX (d : VReg) (a : VReg) (b : XReg) (k : MReg) (s : State) : Out :=
  mergeMember (vr 0x23#6 d a b 0#3 k 26#5) d a [(a, 0)] scalB (capX b) k s

/-! ### VINTI -/

def execVaddi (d : VReg) (a : VReg) (i : BitVec 8) (k : MReg) (s : State) : Out :=
  intMember (vi 0x24#6 d a i k 0#5) fAdd false d a [(a, 0)] (immB i) (fun _ => []) k s
def execVrsubi (d : VReg) (a : VReg) (i : BitVec 8) (k : MReg) (s : State) : Out :=
  intMember (vi 0x24#6 d a i k 1#5) fRsub false d a [(a, 0)] (immB i) (fun _ => []) k s
def execVandi (d : VReg) (a : VReg) (i : BitVec 8) (k : MReg) (s : State) : Out :=
  intMember (vi 0x24#6 d a i k 2#5) fAnd false d a [(a, 0)] (immB i) (fun _ => []) k s
def execVori (d : VReg) (a : VReg) (i : BitVec 8) (k : MReg) (s : State) : Out :=
  intMember (vi 0x24#6 d a i k 3#5) fOr false d a [(a, 0)] (immB i) (fun _ => []) k s
def execVxori (d : VReg) (a : VReg) (i : BitVec 8) (k : MReg) (s : State) : Out :=
  intMember (vi 0x24#6 d a i k 4#5) fXor false d a [(a, 0)] (immB i) (fun _ => []) k s
def execVmini (d : VReg) (a : VReg) (i : BitVec 8) (k : MReg) (s : State) : Out :=
  intMember (vi 0x24#6 d a i k 9#5) fMin false d a [(a, 0)] (immB i) (fun _ => []) k s
def execVmaxi (d : VReg) (a : VReg) (i : BitVec 8) (k : MReg) (s : State) : Out :=
  intMember (vi 0x24#6 d a i k 10#5) fMax false d a [(a, 0)] (immB i) (fun _ => []) k s
def execVslli (d : VReg) (a : VReg) (i : BitVec 6) (k : MReg) (s : State) : Out :=
  intMember (vi 0x24#6 d a (0#2 ++ i) k 5#5) fSll false d a [(a, 0)] (shiftB i) (fun _ => []) k s
def execVsrli (d : VReg) (a : VReg) (i : BitVec 6) (k : MReg) (s : State) : Out :=
  intMember (vi 0x24#6 d a (0#2 ++ i) k 6#5) fSrl false d a [(a, 0)] (shiftB i) (fun _ => []) k s
def execVsrai (d : VReg) (a : VReg) (i : BitVec 6) (k : MReg) (s : State) : Out :=
  intMember (vi 0x24#6 d a (0#2 ++ i) k 7#5) fSra false d a [(a, 0)] (shiftB i) (fun _ => []) k s
def execVmvi (d : VReg) (i : BitVec 8) (k : MReg) (s : State) : Out :=
  intMember (vi 0x24#6 d 0#5 i k 8#5) fMv false d d [] (immB i) (fun _ => []) k s

end Sys2Proof.Machine
end

