-- ==== Sys2Proof/Machine/VCmp.lean ====
section
/-!
DEFINITION. VCMP: compares into a mask (R104).
-/

namespace Sys2Proof.Machine

/-- The loop of R104; a float member needs EK = 1 and SEW 16 or 32 (R45). -/
def cmpMember (w : Insn) (flt : Bool) (f : Nat → Nat → Nat → Bool × Flags) (d : MReg) (a b : VReg) (p : BitVec 3)
    (k : MReg) (s : State) : Out :=
  vissue w
    (checkType true (fun h => (!flt || ekOf h.vtype) && groupsOk h ([a, b].map (fun r => (r.toNat, sewOf h.vtype)))))
    (fun _ => [])
    (fun cap s =>
      maskBody (fun e => [.elem a.toNat cap.sew e, .elem b.toNat cap.sew (repElem p e)]) d k
        (fun c h e => f c.sew (h.elem a.toNat e c.sew) (h.elem b.toNat (repElem p e) c.sew)) cap s)
    s

def iCmp (c : Int → Int → Bool) (w a b : Nat) : Bool × Flags := (c (sInt w a) (sInt w b), 0)
def nCmp (c : Nat → Nat → Bool) (_ a b : Nat) : Bool × Flags := (c a b, 0)

/-- NV for a signalling NaN only, or for any NaN (R104). -/
def fNan (quietToo : Bool) (x y : Num) : Flags := nvIf (x.isSig || y.isSig || (quietToo && (x.isNaN || y.isNaN)))

def cEq (w a b : Nat) : Bool × Flags :=
  let x := decodeF (fmtOf w) a
  let y := decodeF (fmtOf w) b
  (numEq x y, fNan false x y)
def cNe (w a b : Nat) : Bool × Flags := (!(cEq w a b).1, (cEq w a b).2)
def cLt (w a b : Nat) : Bool × Flags :=
  let x := decodeF (fmtOf w) a
  let y := decodeF (fmtOf w) b
  (numLt x y, fNan true x y)
def cLe (w a b : Nat) : Bool × Flags :=
  let x := decodeF (fmtOf w) a
  let y := decodeF (fmtOf w) b
  (numLt x y || numEq x y, fNan true x y)
def cUn (w a b : Nat) : Bool × Flags :=
  let x := decodeF (fmtOf w) a
  let y := decodeF (fmtOf w) b
  (x.isNaN || y.isNaN, fNan false x y)

def execVseq (d : MReg) (a : VReg) (b : VReg) (p : BitVec 3) (k : MReg) (s : State) : Out :=
  cmpMember (vr 0x25#6 (0#2 ++ d) a b p k 0#5) false (nCmp (fun a b => a == b)) d a b p k s
def execVsne (d : MReg) (a : VReg) (b : VReg) (p : BitVec 3) (k : MReg) (s : State) : Out :=
  cmpMember (vr 0x25#6 (0#2 ++ d) a b p k 1#5) false (nCmp (fun a b => a != b)) d a b p k s
def execVslt (d : MReg) (a : VReg) (b : VReg) (p : BitVec 3) (k : MReg) (s : State) : Out :=
  cmpMember (vr 0x25#6 (0#2 ++ d) a b p k 2#5) false (iCmp (fun a b => a < b)) d a b p k s
def execVsltn (d : MReg) (a : VReg) (b : VReg) (p : BitVec 3) (k : MReg) (s : State) : Out :=
  cmpMember (vr 0x25#6 (0#2 ++ d) a b p k 3#5) false (nCmp (fun a b => a < b)) d a b p k s
def execVsle (d : MReg) (a : VReg) (b : VReg) (p : BitVec 3) (k : MReg) (s : State) : Out :=
  cmpMember (vr 0x25#6 (0#2 ++ d) a b p k 4#5) false (iCmp (fun a b => a ≤ b)) d a b p k s
def execVslen (d : MReg) (a : VReg) (b : VReg) (p : BitVec 3) (k : MReg) (s : State) : Out :=
  cmpMember (vr 0x25#6 (0#2 ++ d) a b p k 5#5) false (nCmp (fun a b => a ≤ b)) d a b p k s
def execVsgt (d : MReg) (a : VReg) (b : VReg) (p : BitVec 3) (k : MReg) (s : State) : Out :=
  cmpMember (vr 0x25#6 (0#2 ++ d) a b p k 6#5) false (iCmp (fun a b => b < a)) d a b p k s
def execVsgtn (d : MReg) (a : VReg) (b : VReg) (p : BitVec 3) (k : MReg) (s : State) : Out :=
  cmpMember (vr 0x25#6 (0#2 ++ d) a b p k 7#5) false (nCmp (fun a b => b < a)) d a b p k s
def execVfeq (d : MReg) (a : VReg) (b : VReg) (p : BitVec 3) (k : MReg) (s : State) : Out :=
  cmpMember (vr 0x25#6 (0#2 ++ d) a b p k 8#5) true cEq d a b p k s
def execVfne (d : MReg) (a : VReg) (b : VReg) (p : BitVec 3) (k : MReg) (s : State) : Out :=
  cmpMember (vr 0x25#6 (0#2 ++ d) a b p k 9#5) true cNe d a b p k s
def execVflt (d : MReg) (a : VReg) (b : VReg) (p : BitVec 3) (k : MReg) (s : State) : Out :=
  cmpMember (vr 0x25#6 (0#2 ++ d) a b p k 10#5) true cLt d a b p k s
def execVfle (d : MReg) (a : VReg) (b : VReg) (p : BitVec 3) (k : MReg) (s : State) : Out :=
  cmpMember (vr 0x25#6 (0#2 ++ d) a b p k 11#5) true cLe d a b p k s
def execVfunord (d : MReg) (a : VReg) (b : VReg) (p : BitVec 3) (k : MReg) (s : State) : Out :=
  cmpMember (vr 0x25#6 (0#2 ++ d) a b p k 12#5) true cUn d a b p k s

end Sys2Proof.Machine
end

