-- ==== Sys2Proof/Machine/VFp.lean ====
section
/-!
DEFINITION. The floating members of VFP and VFPX (R105 to R108).
-/

namespace Sys2Proof.Machine

/-- The element loop of R105: `f` takes FCR.RM, the width and a, b, d, and gives the code and the element's flags. -/
def fpMember (w : Insn) (f : BitVec 3 → Nat → Nat → Nat → Nat → Nat × Flags) (rd : Bool) (d a : VReg)
    (srcs : List Src) (b : Capture → Hart → Nat → Nat) (caps : State → List Word) (k : MReg) (s : State) : Out :=
  vissue w
    (checkType true (fun h => ekOf h.vtype && groupsOk h ((d :: srcs.map (·.1)).map (fun r => (r.toNat, sewOf h.vtype)))))
    caps
    (fun cap s =>
      vecBody (fun _ => srcReads cap (if rd then (d, 0) :: srcs else srcs)) d.toNat cap.sew k
        (fun c h e => f h.rm c.sew (h.elem a.toNat e c.sew) (b c h e) (h.elem d.toNat e c.sew)) cap s)
    s

/-- VFNARROW and VFWIDEN (R107): va at its own width, under the SEW each needs. -/
def convMember (w : Insn) (sew srcW : Nat) (src dst : FFmt) (d a : VReg) (k : MReg) (s : State) : Out :=
  vissue w
    (checkType true (fun h => ekOf h.vtype && sewOf h.vtype == sew && groupsOk h [(d.toNat, sew), (a.toNat, srcW)] &&
      overlapOk h.vtype d.toNat sew a.toNat srcW))
    (fun _ => [])
    (fun cap s =>
      vecBody (fun _ => sameElem [(a.toNat, srcW)]) d.toNat sew k
        (fun _ h e => vfConvert src dst h.rm (h.elem a.toNat e srcW)) cap s)
    s

def noB (_ : Capture) (_ : Hart) (_ : Nat) : Nat := 0

def execVfadd (d : VReg) (a : VReg) (b : VReg) (p : BitVec 3) (k : MReg) (s : State) : Out :=
  fpMember (vr 0x26#6 d a b p k 0#5) vfAdd false d a [(a, 0), (b, p)] (vecB b p) (fun _ => []) k s
def execVfsub (d : VReg) (a : VReg) (b : VReg) (p : BitVec 3) (k : MReg) (s : State) : Out :=
  fpMember (vr 0x26#6 d a b p k 1#5) vfSub false d a [(a, 0), (b, p)] (vecB b p) (fun _ => []) k s
def execVfmul (d : VReg) (a : VReg) (b : VReg) (p : BitVec 3) (k : MReg) (s : State) : Out :=
  fpMember (vr 0x26#6 d a b p k 2#5) vfMul false d a [(a, 0), (b, p)] (vecB b p) (fun _ => []) k s
def execVfdiv (d : VReg) (a : VReg) (b : VReg) (p : BitVec 3) (k : MReg) (s : State) : Out :=
  fpMember (vr 0x26#6 d a b p k 3#5) vfDiv false d a [(a, 0), (b, p)] (vecB b p) (fun _ => []) k s
def execVfmin (d : VReg) (a : VReg) (b : VReg) (p : BitVec 3) (k : MReg) (s : State) : Out :=
  fpMember (vr 0x26#6 d a b p k 5#5) vfMin false d a [(a, 0), (b, p)] (vecB b p) (fun _ => []) k s
def execVfmax (d : VReg) (a : VReg) (b : VReg) (p : BitVec 3) (k : MReg) (s : State) : Out :=
  fpMember (vr 0x26#6 d a b p k 6#5) vfMax false d a [(a, 0), (b, p)] (vecB b p) (fun _ => []) k s
def execVfmadd (d : VReg) (a : VReg) (b : VReg) (p : BitVec 3) (k : MReg) (s : State) : Out :=
  fpMember (vr 0x26#6 d a b p k 7#5) (vfFma false false) true d a [(a, 0), (b, p)] (vecB b p) (fun _ => []) k s
def execVfmsub (d : VReg) (a : VReg) (b : VReg) (p : BitVec 3) (k : MReg) (s : State) : Out :=
  fpMember (vr 0x26#6 d a b p k 8#5) (vfFma false true) true d a [(a, 0), (b, p)] (vecB b p) (fun _ => []) k s
def execVfnmadd (d : VReg) (a : VReg) (b : VReg) (p : BitVec 3) (k : MReg) (s : State) : Out :=
  fpMember (vr 0x26#6 d a b p k 9#5) (vfFma true true) true d a [(a, 0), (b, p)] (vecB b p) (fun _ => []) k s
def execVfnmsub (d : VReg) (a : VReg) (b : VReg) (p : BitVec 3) (k : MReg) (s : State) : Out :=
  fpMember (vr 0x26#6 d a b p k 10#5) (vfFma true false) true d a [(a, 0), (b, p)] (vecB b p) (fun _ => []) k s
def execVfsgnj (d : VReg) (a : VReg) (b : VReg) (p : BitVec 3) (k : MReg) (s : State) : Out :=
  fpMember (vr 0x26#6 d a b p k 11#5) vfSgnj false d a [(a, 0), (b, p)] (vecB b p) (fun _ => []) k s
def execVfsgnjn (d : VReg) (a : VReg) (b : VReg) (p : BitVec 3) (k : MReg) (s : State) : Out :=
  fpMember (vr 0x26#6 d a b p k 12#5) vfSgnjn false d a [(a, 0), (b, p)] (vecB b p) (fun _ => []) k s
def execVfsgnjx (d : VReg) (a : VReg) (b : VReg) (p : BitVec 3) (k : MReg) (s : State) : Out :=
  fpMember (vr 0x26#6 d a b p k 13#5) vfSgnjx false d a [(a, 0), (b, p)] (vecB b p) (fun _ => []) k s
def execVfsqrt (d : VReg) (a : VReg) (k : MReg) (s : State) : Out :=
  fpMember (vr 0x26#6 d a 0#5 0#3 k 4#5) vfSqrt false d a [(a, 0)] noB (fun _ => []) k s
def execVfclass (d : VReg) (a : VReg) (k : MReg) (s : State) : Out :=
  fpMember (vr 0x26#6 d a 0#5 0#3 k 14#5) vfClass false d a [(a, 0)] noB (fun _ => []) k s
def execVfrece (d : VReg) (a : VReg) (k : MReg) (s : State) : Out :=
  fpMember (vr 0x26#6 d a 0#5 0#3 k 15#5) vfRece false d a [(a, 0)] noB (fun _ => []) k s
def execVfrsqe (d : VReg) (a : VReg) (k : MReg) (s : State) : Out :=
  fpMember (vr 0x26#6 d a 0#5 0#3 k 16#5) vfRsqe false d a [(a, 0)] noB (fun _ => []) k s
def execVfexp2 (d : VReg) (a : VReg) (k : MReg) (s : State) : Out :=
  fpMember (vr 0x26#6 d a 0#5 0#3 k 17#5) vfExp2 false d a [(a, 0)] noB (fun _ => []) k s
def execVfcvtif (d : VReg) (a : VReg) (k : MReg) (s : State) : Out :=
  fpMember (vr 0x26#6 d a 0#5 0#3 k 18#5) vfCvtif false d a [(a, 0)] noB (fun _ => []) k s
def execVfcvtfi (d : VReg) (a : VReg) (k : MReg) (s : State) : Out :=
  fpMember (vr 0x26#6 d a 0#5 0#3 k 19#5) vfCvtfi false d a [(a, 0)] noB (fun _ => []) k s
def execVfnarrow (d : VReg) (a : VReg) (k : MReg) (s : State) : Out :=
  convMember (vr 0x26#6 d a 0#5 0#3 k 20#5) 16 32 f32 bf16 d a k s
def execVfwiden (d : VReg) (a : VReg) (k : MReg) (s : State) : Out :=
  convMember (vr 0x26#6 d a 0#5 0#3 k 21#5) 32 16 bf16 f32 d a k s
def execVfaddX (d : VReg) (a : VReg) (b : XReg) (k : MReg) (s : State) : Out :=
  fpMember (vr 0x27#6 d a b 0#3 k 0#5) vfAdd false d a [(a, 0)] scalB (capX b) k s
def execVfsubX (d : VReg) (a : VReg) (b : XReg) (k : MReg) (s : State) : Out :=
  fpMember (vr 0x27#6 d a b 0#3 k 1#5) vfSub false d a [(a, 0)] scalB (capX b) k s
def execVfmulX (d : VReg) (a : VReg) (b : XReg) (k : MReg) (s : State) : Out :=
  fpMember (vr 0x27#6 d a b 0#3 k 2#5) vfMul false d a [(a, 0)] scalB (capX b) k s
def execVfdivX (d : VReg) (a : VReg) (b : XReg) (k : MReg) (s : State) : Out :=
  fpMember (vr 0x27#6 d a b 0#3 k 3#5) vfDiv false d a [(a, 0)] scalB (capX b) k s
def execVfminX (d : VReg) (a : VReg) (b : XReg) (k : MReg) (s : State) : Out :=
  fpMember (vr 0x27#6 d a b 0#3 k 5#5) vfMin false d a [(a, 0)] scalB (capX b) k s
def execVfmaxX (d : VReg) (a : VReg) (b : XReg) (k : MReg) (s : State) : Out :=
  fpMember (vr 0x27#6 d a b 0#3 k 6#5) vfMax false d a [(a, 0)] scalB (capX b) k s
def execVfmaddX (d : VReg) (a : VReg) (b : XReg) (k : MReg) (s : State) : Out :=
  fpMember (vr 0x27#6 d a b 0#3 k 7#5) (vfFma false false) true d a [(a, 0)] scalB (capX b) k s
def execVfmsubX (d : VReg) (a : VReg) (b : XReg) (k : MReg) (s : State) : Out :=
  fpMember (vr 0x27#6 d a b 0#3 k 8#5) (vfFma false true) true d a [(a, 0)] scalB (capX b) k s
def execVfnmaddX (d : VReg) (a : VReg) (b : XReg) (k : MReg) (s : State) : Out :=
  fpMember (vr 0x27#6 d a b 0#3 k 9#5) (vfFma true true) true d a [(a, 0)] scalB (capX b) k s
def execVfnmsubX (d : VReg) (a : VReg) (b : XReg) (k : MReg) (s : State) : Out :=
  fpMember (vr 0x27#6 d a b 0#3 k 10#5) (vfFma true false) true d a [(a, 0)] scalB (capX b) k s
def execVfsgnjX (d : VReg) (a : VReg) (b : XReg) (k : MReg) (s : State) : Out :=
  fpMember (vr 0x27#6 d a b 0#3 k 11#5) vfSgnj false d a [(a, 0)] scalB (capX b) k s
def execVfsgnjnX (d : VReg) (a : VReg) (b : XReg) (k : MReg) (s : State) : Out :=
  fpMember (vr 0x27#6 d a b 0#3 k 12#5) vfSgnjn false d a [(a, 0)] scalB (capX b) k s
def execVfsgnjxX (d : VReg) (a : VReg) (b : XReg) (k : MReg) (s : State) : Out :=
  fpMember (vr 0x27#6 d a b 0#3 k 13#5) vfSgnjx false d a [(a, 0)] scalB (capX b) k s

end Sys2Proof.Machine
end

