-- ==== Sys2Proof/Machine/VRed.lean ====
section
/-!
DEFINITION. VRED: reductions (R109 to R111), counts and mask members (R112, R113), and the queue pushes of the
vector stream (R31).
-/

namespace Sys2Proof.Machine

/-! ### Die segments of a gang (R97) -/

/-- seg(e), local(e) and the element of a segment's local index, for n lanes in s segments at width w. -/
def segOf (n s w e : Nat) : Nat := e * w / 64 % n / (n / s)
def localOf (n s w e : Nat) : Nat :=
  let q := n / s
  let p := 64 / w
  let gr := e * w / 64
  (gr / n * q + gr % n % q) * p + e % p
def elemOf (n s w j l : Nat) : Nat :=
  let q := n / s
  let p := 64 / w
  let g := l / p
  (g / q * n + j * q + g % q) * p + l % p

/-- Elements below vl of segment j, in increasing local index. -/
def segElems (n s w vl j : Nat) : List Nat := (List.range vl).filter (fun e => segOf n s w e == j)

/-! ### Reductions -/

/-- Writes one result per segment at its local element 0; every other element is tail (R48, R111). -/
def writeResults (t : Word) (d w segs : Nat) (rs : List Nat) (h : Hart) : Hart :=
  let h := if taOf t then h.zeroFrom d (emulOf t w) 0 else h
  rs.zipIdx.foldl (fun h r => h.setElem d (elemOf h.lanes segs w r.2 0) w r.1) h

/-- Marks that writeResults replaces (R334). -/
def State.healResults (s : State) (t : Word) (d w segs n : Nat) : State :=
  s.healWrites d (emulOf t w) w (fun e => taOf t || (List.range n).any (fun j => elemOf s.me.lanes segs w j 0 == e))

/-- A marked granule that a reduction reads: for an active element its source, and for local element 0 of a segment that
of vb (R314). -/
def badRed (cap : Capture) (a b : VReg) (k : MReg) (s : State) : Option Trap :=
  let heads := (List.range s.me.segs).map (fun j => elemOf s.me.lanes s.me.segs cap.sew j 0)
  badReads s (List.range cap.vl ++ heads.filter (cap.vl ≤ ·)) (fun e =>
    (if e < cap.vl then activeReads s.me k (sameElem [(a.toNat, cap.sew)]) e else []) ++
    if heads.contains e then [.elem b.toNat cap.sew e] else [])

/-- The integer reductions (R109, R111). With VL = 0 nothing is read or written. -/
def redMember (w : Insn) (f : Nat → Nat → Nat → Nat → Nat) (d a b : VReg) (k : MReg) (s : State) : Out :=
  vissue w
    (checkType false (fun h => groupsOk h ([d, a, b].map (fun r => (r.toNat, sewOf h.vtype)))))
    (fun _ => [])
    (fun cap s =>
      if cap.vl == 0 then .done s
      else
        match badRed cap a b k s with
        | some t => .trap t s
        | none =>
          let h := s.me
          let rs := (List.range h.segs).map (fun j =>
            (segElems h.lanes h.segs cap.sew cap.vl j).foldl
              (fun acc e => if h.isActive k e then f cap.sew acc (h.elem a.toNat e cap.sew) 0 else acc)
              (h.elem b.toNat (elemOf h.lanes h.segs cap.sew j 0) cap.sew))
          .done ((s.setMe { writeResults cap.vtype d.toNat cap.sew h.segs rs h with vstart := 0 }).healResults cap.vtype d.toNat cap.sew h.segs h.segs))
    s

/-- One level of the tree of R110: neighbours combine when both are present. -/
def treeLevel (f : Nat → Nat → Nat × Flags) : List (Option Nat) → List (Option Nat) × Flags
  | x :: y :: l =>
    let r := treeLevel f l
    match x, y with
    | some a, some b => let q := f a b; (some q.1 :: r.1, q.2 ||| r.2)
    | some a, none => (some a :: r.1, r.2)
    | none, z => (z :: r.1, r.2)
  | l => (l, 0)

/-- The tree of R110, `fuel` levels of it. -/
def tree (f : Nat → Nat → Nat × Flags) : Nat → List (Option Nat) → Option Nat × Flags
  | 0, l => (l.headD none, 0)
  | n + 1, l =>
    match l with
    | [] => (none, 0)
    | [x] => (x, 0)
    | l =>
      let r := treeLevel f l
      let q := tree f n r.1
      (q.1, r.2 ||| q.2)

/-- The nodes of level 0 over the elements given. -/
def leaves (h : Hart) (k : MReg) (a w : Nat) (es : List Nat) : List (Option Nat) :=
  es.map (fun e => if h.isActive k e then some (h.elem a e w) else none)

/-- Flags of a float reduction: one with its enable set ends the instruction with nothing written (R110). -/
def finishRed (fl : Flags) (s : State) (t : Word) (d w segs : Nat) (rs : List Nat) : VRes :=
  if s.me.traps fl then .trap ⟨.fp, fpVal fl, 0⟩ s
  else .done ((s.setMe { (writeResults t d w segs rs s.me).accrue fl with vstart := 0 }).healResults t d w segs rs.length)

/-- The float reductions (R110, R111). -/
def fredMember (w : Insn) (f : BitVec 3 → Nat → Nat → Nat → Nat → Nat × Flags) (d a b : VReg) (k : MReg)
    (s : State) : Out :=
  vissue w
    (checkType false (fun h => ekOf h.vtype && groupsOk h ([d, a, b].map (fun r => (r.toNat, sewOf h.vtype)))))
    (fun _ => [])
    (fun cap s =>
      match badRed cap a b k s with
      | some t => .trap t s
      | none =>
        let h := s.me
        let g := fun x y => f h.rm cap.sew x y 0
        let rs := (List.range h.segs).map (fun j =>
          let t := tree g 22 (leaves h k a.toNat cap.sew (segElems h.lanes h.segs cap.sew cap.vl j))
          let b0 := h.elem b.toNat (elemOf h.lanes h.segs cap.sew j 0) cap.sew
          match t.1 with
          | none => (b0, t.2)
          | some r => let q := g r b0; (q.1, t.2 ||| q.2))
        let fl := rs.foldl (fun acc r => acc ||| r.2) 0
        finishRed fl s cap.vtype d.toNat cap.sew h.segs (rs.map (·.1)))
    s

/-! ### Queue pushes (R31, R113) -/

/-- The executing vector instruction pushes into q1 (R31, R113). -/
def pushQ1 (v : Word) (s : State) : VRes :=
  if s.me.q1.length ≥ 16 then .block
  else
    .done (s.modMe (fun h =>
      ({ h with q1 := h.q1 ++ [v] } : Hart).keepInSnaps s.seqNow (fun p => { p with q1 := p.q1 ++ [v] })))

/-- The instruction of issue number q pushes into lq. -/
def Hart.pushLq (h : Hart) (q : Nat) (v : Word) : Hart :=
  ({ h with lq := h.lq ++ [v] } : Hart).keepInSnaps q (fun p => { p with lq := p.lq ++ [v] })

def pushLq (v : Word) (s : State) : VRes :=
  if s.me.lq.length ≥ 8 then .block
  else .done (s.modMe (fun h => h.pushLq s.seqNow v))

/-- Active elements below vl whose bit of `src` is set. -/
def setElems (h : Hart) (src k : MReg) (vl : Nat) : List Nat :=
  (List.range vl).filter (fun e => h.isActive k e && h.maskBit src e)

/-- VPOPC, VPOPQ and VFIRST (R112). -/
def countMember (w : Insn) (f : List Nat → Word) (push : Word → State → VRes) (src k : MReg) (s : State) : Out :=
  vissue w (checkType false (fun _ => true)) (fun _ => [])
    (fun cap s =>
      match badReads s cap.elems (activeReads s.me k (fun e => [.mask src e])) with
      | some t => .trap t s
      | none => push (f (setElems s.me src k cap.vl)) s)
    s

/-- VIOTA, VID and MTOV: a vector of counts or bits (R112). `rd` is what an active element reads besides its mask bit. -/
def iotaMember (w : Insn) (f : Hart → Nat → Nat) (d : VReg) (rd : Nat → List Rd) (k : MReg) (s : State) : Out :=
  vissue w (checkType false (fun h => groupsOk h [(d.toNat, sewOf h.vtype)])) (fun _ => [])
    (fun cap s => vecBody (fun _ => rd) d.toNat cap.sew k (fun c h e => (f h e % 2 ^ c.sew, 0)) cap s)
    s

/-- The mask members (R112), which read their sources as they stood before the instruction. -/
def maskMember (w : Insn) (f : Hart → Nat → Bool) (d : MReg) (rd : Nat → List Rd) (s : State) : Out :=
  vissue w (checkType false (fun _ => true)) (fun _ => [])
    (fun cap s => maskBody rd d 0 (fun _ _ e => (f s.me e, 0)) cap s) s

/-- Bit e of the masks given. -/
def bitReads (ms : List MReg) (e : Nat) : List Rd := ms.map (.mask · e)

def execVredsum (d : VReg) (a : VReg) (b : VReg) (k : MReg) (s : State) : Out :=
  redMember (vr 0x28#6 d a b 0#3 k 0#5) fAdd d a b k s
def execVredmin (d : VReg) (a : VReg) (b : VReg) (k : MReg) (s : State) : Out :=
  redMember (vr 0x28#6 d a b 0#3 k 1#5) fMin d a b k s
def execVredmax (d : VReg) (a : VReg) (b : VReg) (k : MReg) (s : State) : Out :=
  redMember (vr 0x28#6 d a b 0#3 k 2#5) fMax d a b k s
def execVredminn (d : VReg) (a : VReg) (b : VReg) (k : MReg) (s : State) : Out :=
  redMember (vr 0x28#6 d a b 0#3 k 3#5) fMinn d a b k s
def execVredmaxn (d : VReg) (a : VReg) (b : VReg) (k : MReg) (s : State) : Out :=
  redMember (vr 0x28#6 d a b 0#3 k 4#5) fMaxn d a b k s
def execVredand (d : VReg) (a : VReg) (b : VReg) (k : MReg) (s : State) : Out :=
  redMember (vr 0x28#6 d a b 0#3 k 5#5) fAnd d a b k s
def execVredor (d : VReg) (a : VReg) (b : VReg) (k : MReg) (s : State) : Out :=
  redMember (vr 0x28#6 d a b 0#3 k 6#5) fOr d a b k s
def execVredxor (d : VReg) (a : VReg) (b : VReg) (k : MReg) (s : State) : Out :=
  redMember (vr 0x28#6 d a b 0#3 k 7#5) fXor d a b k s
def execVfredsum (d : VReg) (a : VReg) (b : VReg) (k : MReg) (s : State) : Out :=
  fredMember (vr 0x28#6 d a b 0#3 k 8#5) vfAdd d a b k s
def execVfredmin (d : VReg) (a : VReg) (b : VReg) (k : MReg) (s : State) : Out :=
  fredMember (vr 0x28#6 d a b 0#3 k 9#5) vfMin d a b k s
def execVfredmax (d : VReg) (a : VReg) (b : VReg) (k : MReg) (s : State) : Out :=
  fredMember (vr 0x28#6 d a b 0#3 k 10#5) vfMax d a b k s
def execVpopc (src : MReg) (k : MReg) (s : State) : Out :=
  countMember (vr 0x28#6 0#5 (0#2 ++ src) 0#5 0#3 k 11#5) (fun l => wn l.length) pushQ1 src k s
def execVpopq (src : MReg) (k : MReg) (s : State) : Out :=
  countMember (vr 0x28#6 0#5 (0#2 ++ src) 0#5 0#3 k 12#5) (fun l => wn l.length) pushLq src k s
def execVfirst (src : MReg) (k : MReg) (s : State) : Out :=
  countMember (vr 0x28#6 0#5 (0#2 ++ src) 0#5 0#3 k 13#5) (fun l => match l with | [] => BitVec.allOnes 64 | e :: _ => wn e) pushQ1 src k s
def execViota (d : VReg) (src : MReg) (k : MReg) (s : State) : Out :=
  iotaMember (vr 0x28#6 d (0#2 ++ src) 0#5 0#3 k 14#5) (fun h e => (setElems h src k e).length) d
    (fun e => (List.range e).flatMap (fun i => kRead k i ++ [.mask src i])) k s
def execVid (d : VReg) (k : MReg) (s : State) : Out :=
  iotaMember (vr 0x28#6 d 0#5 0#5 0#3 k 15#5) (fun _ e => e) d (fun _ => []) k s
def execMtov (d : VReg) (src : MReg) (k : MReg) (s : State) : Out :=
  iotaMember (vr 0x28#6 d (0#2 ++ src) 0#5 0#3 k 25#5) (fun h e => if h.maskBit src e then 1 else 0) d (bitReads [src]) k s
def execMand (d : MReg) (a : MReg) (b : MReg) (s : State) : Out :=
  maskMember (vr 0x28#6 (0#2 ++ d) (0#2 ++ a) (0#2 ++ b) 0#3 0#3 16#5) (fun h e => h.maskBit a e && h.maskBit b e) d (bitReads [a, b]) s
def execMor (d : MReg) (a : MReg) (b : MReg) (s : State) : Out :=
  maskMember (vr 0x28#6 (0#2 ++ d) (0#2 ++ a) (0#2 ++ b) 0#3 0#3 17#5) (fun h e => h.maskBit a e || h.maskBit b e) d (bitReads [a, b]) s
def execMxor (d : MReg) (a : MReg) (b : MReg) (s : State) : Out :=
  maskMember (vr 0x28#6 (0#2 ++ d) (0#2 ++ a) (0#2 ++ b) 0#3 0#3 18#5) (fun h e => h.maskBit a e != h.maskBit b e) d (bitReads [a, b]) s
def execMandn (d : MReg) (a : MReg) (b : MReg) (s : State) : Out :=
  maskMember (vr 0x28#6 (0#2 ++ d) (0#2 ++ a) (0#2 ++ b) 0#3 0#3 19#5) (fun h e => h.maskBit a e && !h.maskBit b e) d (bitReads [a, b]) s
def execMnot (d : MReg) (a : MReg) (s : State) : Out :=
  maskMember (vr 0x28#6 (0#2 ++ d) (0#2 ++ a) 0#5 0#3 0#3 20#5) (fun h e => !h.maskBit a e) d (bitReads [a]) s
def execMslide1 (d : MReg) (a : MReg) (s : State) : Out :=
  maskMember (vr 0x28#6 (0#2 ++ d) (0#2 ++ a) 0#5 0#3 0#3 21#5) (fun h e => e != 0 && h.maskBit a (e - 1)) d
    (fun e => if e == 0 then [] else [.mask a (e - 1)]) s
def execMsbf (d : MReg) (a : MReg) (s : State) : Out :=
  maskMember (vr 0x28#6 (0#2 ++ d) (0#2 ++ a) 0#5 0#3 0#3 22#5) (fun h e => (List.range (e + 1)).all (fun i => !h.maskBit a i)) d
    (bitReads [a]) s
def execMmv (d : MReg) (a : MReg) (s : State) : Out :=
  maskMember (vr 0x28#6 (0#2 ++ d) (0#2 ++ a) 0#5 0#3 0#3 23#5) (fun h e => h.maskBit a e) d (bitReads [a]) s
def execMfromv (d : MReg) (a : VReg) (k : MReg) (s : State) : Out :=
  vissue (vr 0x28#6 (0#2 ++ d) a 0#5 0#3 k 24#5) (checkType false (fun h => groupsOk h [(a.toNat, sewOf h.vtype)])) (fun _ => [])
    (fun cap s => maskBody (sameElem [(a.toNat, cap.sew)]) d k (fun c h e => (h.elem a.toNat e c.sew != 0, 0)) cap s) s

end Sys2Proof.Machine
end

