-- ==== Sys2Proof/Machine/VPerm.lean ====
section
/-!
DEFINITION. VPERM: slides, permutes, compress and expand, and the moves to and from queues (R114 to R116).
-/

namespace Sys2Proof.Machine

/-- A permute reads its segment only (R115): element e of segment j has local index l, and `f` gives the local
index to read, in a segment of VLs elements below VL and VLMAX/s local indices. -/
inductive Pick where
  | from' (l : Nat)
  | value (x : Nat)
  | keep

/-- The value that a pick names for element e. -/
def pickElem (h : Hart) (a w e : Nat) : Pick → Nat
  | .from' l => h.elem a (elemOf h.lanes h.segs w (segOf h.lanes h.segs w e) l) w
  | .value x => x
  | .keep => 0

/-- The elements of the active loop of a permute, with `keep` leaving the destination unchanged. -/
def permLoop (f : Hart → Nat → Pick) (k : MReg) (a d w : Nat) (ma : Bool) (h0 : Hart) : List Nat → Hart → Hart
  | [], h => h
  | e :: es, h =>
    permLoop f k a d w ma h0 es
      (if h0.isActive k e then
        match f h0 e with
        | .keep => h
        | p => h.setElem d e w (pickElem h0 a w e p)
      else if ma then h.setElem d e w 0 else h)

/-- Destination and vector sources are groups of LMUL that do not overlap (R114), and VSTART is 0. -/
def permCheck (d : VReg) (srcs : List VReg) (s : State) : Option Cause :=
  checkType false (fun h =>
    groupsOk h ((d :: srcs).map (fun r => (r.toNat, sewOf h.vtype))) &&
    srcs.all (fun r => !overlaps d.toNat (lmulOf h.vtype) r.toNat (lmulOf h.vtype))) s

/-- What a permute reads for element e: its mask bit; where it is active, `rd` of it, and the element that it picks. -/
def permReads (rd : Capture → Hart → Nat → List Rd) (a : Nat) (k : MReg) (f : Capture → Hart → Nat → Pick)
    (cap : Capture) (h : Hart) : Nat → List Rd :=
  activeReads h k (fun e => rd cap h e ++
    match f cap h e with
    | .from' l => [.elem a cap.sew (elemOf h.lanes h.segs cap.sew (segOf h.lanes h.segs cap.sew e) l)]
    | _ => [])

def permBody (d a : VReg) (rd : Capture → Hart → Nat → List Rd) (k : MReg) (f : Capture → Hart → Nat → Pick)
    (cap : Capture) (s : State) : VRes :=
  match badReads s (List.range cap.vl) (permReads rd a.toNat k f cap s.me) with
  | some t => .trap t s
  | none =>
    let h := permLoop (f cap) k a.toNat d.toNat cap.sew (maOf cap.vtype) s.me (List.range cap.vl) s.me
    .done ((s.setMe { h.tail cap.vtype d.toNat cap.sew cap.vl with vstart := 0 }).healWrites d.toNat (emulOf cap.vtype cap.sew) cap.sew
      (fun e => cap.writes (s.me.isActive k) e && !(e < cap.vl && s.me.isActive k e && (f cap s.me e matches .keep))))

def noReads (_ : Capture) (_ : Hart) (_ : Nat) : List Rd := []

/-- A permute over groups `srcs`, with what an active element reads besides the element that it picks. -/
def permMember (w : Insn) (d a : VReg) (srcs : List VReg) (rd : Capture → Hart → Nat → List Rd) (caps : State → List Word)
    (k : MReg) (f : Capture → Hart → Nat → Pick) (s : State) : Out :=
  vissue w (permCheck d srcs) caps (permBody d a rd k f) s

/-- Local index and segment length below VL of an element (R97). -/
def lidx (c : Capture) (h : Hart) (e : Nat) : Nat := localOf h.lanes h.segs c.sew e
def segLen (c : Capture) (h : Hart) (e : Nat) : Nat :=
  (segElems h.lanes h.segs c.sew c.vl (segOf h.lanes h.segs c.sew e)).length
/-- VLMAX/s. -/
def segMax (c : Capture) (h : Hart) : Nat := vlmaxOf h.lanes c.vtype / h.segs

def kOf (c : Capture) : Nat := (c.xs.getD 0 0).toNat
def scalarOf (c : Capture) : Nat := (c.xs.getD 0 0).toNat % 2 ^ c.sew

/-- A member whose vb field 00000 names q0 pops one entry when the stream executes it, and waits for one (R116). An entry that
a QPUT placed after a later instruction of the stream has left q0 for good, whatever that instruction's trap discards (R312). -/
def withQ0 (b : XReg) (body : Capture → State → VRes) (cap : Capture) (s : State) : VRes :=
  if b != 0 then body cap s
  else
    match s.me.q0 with
    | [] => .block
    | v :: q =>
      match body { cap with xs := [v] }
          (s.modMe (fun h => ({ h with q0 := q } : Hart).keepInSnaps s.seqNow (fun p => match p.q0 with
            | [] => { p with owed := p.owed + 1 }
            | _ :: q => { p with q0 := q }))) with
      | .trap t _ => .trap t s
      | r => r

/-- VCOMPRESS (R114): the selected elements of each segment, in order; elements c and up are tail. -/
def compressBody (d a : VReg) (m : MReg) (cap : Capture) (s : State) : VRes :=
  match badReads s (List.range cap.vl)
      (fun e => .mask m e :: if s.me.maskBit m e then [.elem a.toNat cap.sew e] else []) with
  | some t => .trap t s
  | none =>
    let h := s.me
    let w := cap.sew
    let h1 := if taOf cap.vtype then h.zeroFrom d.toNat (emulOf cap.vtype w) 0 else h
    let h2 := (List.range h.segs).foldl (fun h' j =>
      let es := (segElems h.lanes h.segs w cap.vl j).filter (fun e => h.maskBit m e)
      es.zipIdx.foldl (fun h' p => h'.setElem d.toNat (elemOf h.lanes h.segs w j p.2) w (h.elem a.toNat p.1 w)) h') h1
    .done ((s.setMe { h2 with vstart := 0 }).healWrites d.toNat (emulOf cap.vtype w) w (fun e => taOf cap.vtype ||
      localOf h.lanes h.segs w e < ((segElems h.lanes h.segs w cap.vl (segOf h.lanes h.segs w e)).filter (fun e => h.maskBit m e)).length))

def execVslideup (d : VReg) (a : VReg) (b : XReg) (k : MReg) (s : State) : Out :=
  permMember (vr 0x29#6 d a b 0#3 k 0#5) d a [a] noReads (capX b) k
    (fun c h e => if lidx c h e < kOf c then .keep else .from' (lidx c h e - kOf c)) s
def execVslidedn (d : VReg) (a : VReg) (b : XReg) (k : MReg) (s : State) : Out :=
  permMember (vr 0x29#6 d a b 0#3 k 1#5) d a [a] noReads (capX b) k
    (fun c h e => if lidx c h e + kOf c < segMax c h then .from' (lidx c h e + kOf c) else .value 0) s
def execVslide1up (d : VReg) (a : VReg) (b : XReg) (k : MReg) (s : State) : Out :=
  vissue (vr 0x29#6 d a b 0#3 k 2#5) (permCheck d [a]) (capX b)
    (withQ0 b (permBody d a noReads k (fun c h e =>
      if lidx c h e == 0 then .value (scalarOf c) else .from' (lidx c h e - 1)))) s
def execVslide1dn (d : VReg) (a : VReg) (b : XReg) (k : MReg) (s : State) : Out :=
  vissue (vr 0x29#6 d a b 0#3 k 3#5) (permCheck d [a]) (capX b)
    (withQ0 b (permBody d a noReads k (fun c h e =>
      if lidx c h e + 1 < segLen c h e then .from' (lidx c h e + 1) else .value (scalarOf c)))) s
def execVpermx (d : VReg) (a : VReg) (b : VReg) (k : MReg) (s : State) : Out :=
  permMember (vr 0x29#6 d a b 0#3 k 4#5) d a [a, b] (fun c _ e => [.elem b.toNat c.sew e]) (fun _ => []) k
    (fun c h e => let i := h.elem b.toNat e c.sew; if i < segMax c h then .from' i else .value 0) s
def execVcompress (d : VReg) (a : VReg) (m : MReg) (s : State) : Out :=
  vissue (vr 0x29#6 d a (0#2 ++ m) 0#3 0#3 5#5) (permCheck d [a]) (fun _ => []) (compressBody d a m) s
def execVexpand (d : VReg) (a : VReg) (m : MReg) (k : MReg) (s : State) : Out :=
  permMember (vr 0x29#6 d a (0#2 ++ m) 0#3 k 6#5) d a [a] (fun c h e => .mask m e ::
      if h.maskBit m e then (segElems h.lanes h.segs c.sew e (segOf h.lanes h.segs c.sew e)).map (.mask m ·) else [])
    (fun _ => []) k
    (fun c h e =>
      if h.maskBit m e then
        .from' ((segElems h.lanes h.segs c.sew e (segOf h.lanes h.segs c.sew e)).filter (fun i => h.maskBit m i)).length
      else if maOf c.vtype then .value 0 else .keep) s
def execVrev (d : VReg) (a : VReg) (k : MReg) (s : State) : Out :=
  permMember (vr 0x29#6 d a 0#5 0#3 k 7#5) d a [a] noReads (fun _ => []) k
    (fun c h e => .from' (segLen c h e - 1 - lidx c h e)) s
def execVbcast (d : VReg) (a : VReg) (b : XReg) (k : MReg) (s : State) : Out :=
  permMember (vr 0x29#6 d a b 0#3 k 8#5) d a [a] noReads (capX b) k
    (fun c h _ => if kOf c < segMax c h then .from' (kOf c) else .value 0) s
/-- VMVXV: element 0 of segment 0 takes the scalar, every other element is tail (R114, R115). -/
def execVmvxv (d : VReg) (b : XReg) (k : MReg) (s : State) : Out :=
  vissue (vr 0x29#6 d 0#5 b 0#3 k 9#5) (permCheck d []) (capX b)
    (withQ0 b (fun cap s =>
      let h := s.me
      let w := cap.sew
      let h1 := if taOf cap.vtype then h.zeroFrom d.toNat (emulOf cap.vtype w) (if cap.vl == 0 then 0 else w) else h
      let h2 :=
        if cap.vl == 0 then h1
        else if h.isActive k 0 then h1.setElem d.toNat 0 w (scalarOf cap)
        else if maOf cap.vtype then h1.setElem d.toNat 0 w 0 else h1
      .done ((s.setMe { h2 with vstart := 0 }).healWrites d.toNat (emulOf cap.vtype w) w (fun e =>
        if e == 0 && cap.vl != 0 then h.isActive k 0 || maOf cap.vtype else taOf cap.vtype)))) s
/-- VMVVX pushes element 0 whatever VL holds, 0 included: the table of R114 is headed by the elements 0 to VL-1, and its
row names no element (DESIGN CHOICE, log 59). -/
def execVmvvx (a : VReg) (s : State) : Out :=
  vissue (vr 0x29#6 0#5 a 0#5 0#3 0#3 10#5) (checkType false (fun h => groupsOk h [(a.toNat, sewOf h.vtype)])) (fun _ => [])
    (fun cap s =>
      match badReads s [0] (sameElem [(a.toNat, cap.sew)]) with
      | some t => .trap t s
      | none => pushQ1 (wn (s.me.elem a.toNat 0 cap.sew)) s) s

end Sys2Proof.Machine
end

