-- ==== Sys2Proof/Machine/Engine.lean ====
section
/-!
DEFINITION. The residency engine's work: deliveries (R136, R140, R152, R169, R173), write-backs (R159, R160, R164,
R334), rows for the elastic queue (R172), completion and its Harness pulse (R257). The events SLAB_LANDED,
WRITEBACK_PERFORMED and STREAM_ROW_ENTER are here.
-/

namespace Sys2Proof.Machine

/-! ### Pulses (R257) -/

/-- The completion of an operation of engine context e by a hart, which wakes it from WFE (R257, R318). -/
def State.pulseOp (s : State) (w : Who) (e : Nat) : State := (s.pulse w.core (6 * w.hart.val + e)).modHart w Hart.wake

/-! ### Where a stored element lies (R119, R134, R156) -/

/-- The code of flat element f of a tensor at `base`: byte address and bit within it, and for a scaled format the
address of its record. -/
structure Place' where
  addr : Int
  bit : Nat
  record : Int
  deriving DecidableEq, Repr

def placeOf (fc : Nat) (base : Word) (f : Int) : Place' :=
  if fmtScaled fc then
    let b : Int := fmtBlock fc
    let r := base.toNat + f / b * fmtRec fc
    let bit := (f % b).toNat * fmtBits fc
    ⟨r + 1 + (bit / 8 : Nat), bit % 8, r⟩
  else if fmtSub fc then
    let bit := f * fmtBits fc
    ⟨base.toNat + bit / 8, (bit % 8).toNat, 0⟩
  else ⟨base.toNat + f * fmtBytes fc, 0, 0⟩

/-- Bytes that hold a code. -/
def codeBytes (fc bit : Nat) : Nat := (bit + fmtBits fc + 7) / 8

/-- The code in the bytes at its place. -/
def codeFrom (fc bit : Nat) (bytes : Nat) : Nat := bytes / 2 ^ bit % 2 ^ fmtBits fc

def addrW (i : Int) : Word := BitVec.ofInt 64 i

/-! ### Reading for a delivery (R121, R140, R169, R173) -/

/-- A place as an engine of hart w meets it: the unit of a transposed range (R330), the translation, and MMIO (R121). -/
def engineAcc (s : State) (w : Who) (acc : Acc) (unit : Nat) (va : Word) : Except MemErr Phys :=
  let es := rangeEs (s.core w.core) va.toNat
  if es != 0 && es != unit then .error ⟨.misalign, va, none, acc.writes⟩
  else
    match translate s w acc va with
    | .error e => .error e
    | .ok p => if p.tgt == .mmio then .error ⟨.perm, va, none, acc.writes⟩ else .ok p

/-- Byte k of the image of a compressed tensor, whose first byte is at physical address `base`: the checks of its place,
and its mark (R140, R334). -/
def imageByte (s : State) (w : Who) (p : Phys) (va : Word) (k : Nat) : Except MemErr Byte :=
  let tgt := match p.tgt with
    | .device => 0
    | .host => 1
    | .remote => 2
    | .mmio => 3
  match s.place (s.hart w) .load va tgt (p.base + k) with
  | .error e => .error e
  | .ok (_, key) => if s.badByte key then .error ⟨.uncorrectable, memBadVal key va, none, false⟩ else .ok (s.byte key)

/-- n bytes read by f from k on, as a value. -/
def natVia (f : Nat → Except MemErr Byte) (k : Nat) : Nat → Except MemErr Nat
  | 0 => .ok 0
  | n + 1 =>
    match f k with
    | .error e => .error e
    | .ok b =>
      match natVia f (k + 1) n with
      | .error e => .error e
      | .ok r => .ok (b.toNat + 256 * r)

/-- Logical byte o of a compressed image whose bytes f reads (R140). -/
def expandByte (f : Nat → Except MemErr Byte) (o : Nat) : Except MemErr Byte :=
  match natVia f (4 * (o / 2048)) 4 with
  | .error e => .error e
  | .ok e =>
    let data := e % 2 ^ 30 * 16
    let i := o % 2048
    match e / 2 ^ 30 with
    | 0 => .ok 0
    | 1 => f (data + i)
    | 2 => f (data + i % 8)
    | _ =>
      match natVia f data 32 with
      | .error e => .error e
      | .ok bits => if bits.testBit (i / 8) then f (data + 32 + 8 * popNat bits (i / 8) + i % 8) else .ok 0

/-- One byte as the engine of hart w reads it for an access unit of `unit` bytes. -/
def engineByte (s : State) (w : Who) (unit : Nat) (va : Word) : Except MemErr Byte :=
  match engineAcc s w .load unit va with
  | .error e => .error e
  | .ok p =>
    if p.compressed then expandByte (imageByte s w p va) p.offset
    else if s.badByte p.key then .error ⟨.uncorrectable, memBadVal p.key va, none, false⟩
    else .ok (s.byte p.key)

def engineBytes (s : State) (w : Who) (unit : Nat) (va : Word) (n : Nat) : Except MemErr Nat :=
  natVia (fun k => engineByte s w unit (va + wn k)) 0 n

/-- TRAPVAL of a failed engine read. -/
def errTrap (e : MemErr) : Trap := ⟨e.cause, e.addr, 0⟩

/-- The near element of a tensor point, or the tag it takes (R152, R169). -/
def deliver (s : State) (w : Who) (win : Window) (pt : List Int) : Slot × Option MemErr :=
  let fc := win.fmt
  let pl := placeOf fc win.base (win.flat pt)
  let unit := fmtBytes fc
  let scale : Except MemErr Nat := if fmtScaled fc then engineBytes s w 1 (addrW pl.record) 1 else .ok 0
  let tag (t : Trap) : Slot := ⟨0, false, some t⟩
  match scale, engineBytes s w unit (addrW pl.addr) (codeBytes fc pl.bit) with
  | .error e, _ => (tag (errTrap e), some e)
  | _, .error e => (tag (errTrap e), some e)
  | .ok sc, .ok raw =>
    match nearOf fc win.nh (codeFrom fc pl.bit raw) sc with
    | some v => (⟨wn v, false, none⟩, none)
    | none =>
      if win.rct then
        (tag ⟨.reservedCode, addrW (if fmtScaled fc && sc == 0xFF then pl.record else pl.addr), 0⟩, none)
      else (⟨wn (nearNaN win.nh), false, none⟩, none)

/-- The read of an element of another device goes over the link (R270). -/
def State.linkVa (s : State) (w : Who) (va : Word) : State :=
  match translate s w .load va with
  | .ok p => s.linkTo p.key 1
  | .error _ => s

/-- One element lands in its slot: zero for a write-only window or a tile position outside the tensor (R157,
R171), else what the delivery gives. -/
def landPoint (w : Who) (i : WinNum) (s : State) (p : List Int) : State :=
  let win := (s.hart w).win i
  let pt := win.tensorPt p
  if win.acc == 2 || !win.inTensor pt then s.modHart w (fun h => h.setWin i ((h.win i).putSlot p ⟨0, false, none⟩))
  else
    let r := deliver s w win pt
    let s' := (s.modHart w (fun h => h.setWin i ((h.win i).putSlot p r.1))).linkVa w (addrW (placeOf win.fmt win.base (win.flat pt)).addr)
    match r.2 with
    | some e => (match e.page with
        | some pg => s'.askPage w pg
        | none => s')
    | none => s'

/-! ### Near-store granules (R153, R334) -/

/-- The near-store granule of a held point: its lane, and its number in the lane's slice. -/
def Window.granuleOf (win : Window) (n : Nat) (p : List Int) : Nat × Nat :=
  let g := win.slotNo p * nearBytes win.fmt win.nh / 8
  (g % n, 64 * win.unit0 + g / n)

/-- The same as a place of an error. -/
def nearSite (s : State) (w : Who) (win : Window) (p : List Int) : ErrorSite :=
  let g := win.granuleOf (s.hart w).lanes p
  let l := s.laneCore w g.1
  .near l.1 l.2 g.2

/-- Whether the near granule of a held point carries the mark of a double error (R334). -/
def nearBad (s : State) (w : Who) (win : Window) (p : List Int) : Bool :=
  !s.bad.isEmpty && s.bad.contains (nearSite s w win p)

/-- UNCORRECTABLE for it (R335). -/
def nearTrap (s : State) (w : Who) (i : WinNum) (win : Window) (p : List Int) : Trap :=
  ⟨.uncorrectable, regLoc 1 i.toNat (win.granuleOf (s.hart w).lanes p).1, 0⟩

/-- The marks of near granules whose every slot is written (R334). -/
def State.healNear (s : State) (w : Who) (win : Window) (pts : List (List Int)) : State :=
  if s.bad.isEmpty then s
  else
    { s with bad := s.bad.filter (fun e => match e with
        | .near _ _ _ =>
          ((pts.filter (fun p => nearSite s w win p == e)).map win.slotNo).eraseDups.length != 8 / nearBytes win.fmt win.nh
        | _ => true) }

/-! ### Operations of a hart -/

/-- Operations of the hart that will take a row of window w: not started, and not left without one by a close (R216). -/
def MatrixUnit.claimers (m : MatrixUnit) (who : Who) (w : WinNum) : List MxOp :=
  m.ops.filter (fun o => o.who == who && o.win == w && o.kind == .rowStream && !o.started && !o.closed)

def MatrixUnit.rowsIn (m : MatrixUnit) (who : Who) (w : WinNum) : Nat :=
  (m.queue.filter (fun q => q.who == who && q.win == w)).length

def Hart.reOp (h : Hart) (n : Nat) : Option ReOp := h.reOps.find? (fun o => o.tag.num == n)
def Hart.setReOp (h : Hart) (o : ReOp) : Hart :=
  { h with reOps := h.reOps.map (fun p => if p.tag.num == o.tag.num then o else p) }

/-- An operation's turn: it is not held and behind no held one (R263), every earlier vector instruction has retired
(R312), a store that a FENCE orders before it is performed (R161), and earlier operations of its window, WNEXT among them,
and MLDS of it are complete (R171, R211). One whose write-back
failed has read its elements out of the window, and stands in no one's way (R159, R169). -/
def State.reTurn (s : State) (w : Who) (o : ReOp) : Bool :=
  let h := s.hart w
  let clear (p : ReOp) : Bool := p.win != o.win || (p.failed.isSome && p.slabs.isEmpty && (p.save.isSome || p.out.isEmpty))
  o.tag.held.isNone && h.settled o.tag.seq && s.stores.all (fun t => t.who != w || !t.fenced || o.tag.seq < t.seq) &&
  h.reOps.all (fun p => p.tag.num ≥ o.tag.num || (p.tag.held.isNone && clear p)) &&
  h.pulls.all (fun p => p.win.isNone || p.stack.isNone || p.num ≥ o.tag.num || (p.held.isNone && p.win != some o.win)) &&
  (s.core w.core).matrix.ops.all (fun m => !(m.who == w && m.kind == .lds && m.win == o.win && m.tag.seq ≤ o.tag.seq) || o.kind == .deliver)

/-- An operation may make progress: no failure holds it (R169). -/
def State.reReady (s : State) (w : Who) (o : ReOp) : Bool := o.failed.isNone && s.reTurn w o

/-- The byte ranges (first address, length) that an operation has still to write back. -/
def outRanges (h : Hart) (o : ReOp) : List (Int × Nat) :=
  let win := o.save.getD (h.win o.win)
  let pts := (o.out.flatMap boxPoints).filter (fun p => (win.slot? p).any (·.dirty))
  if fmtScaled win.fmt then pts.map (fun p => ((win.base.toNat : Int) + win.flat p / (fmtBlock win.fmt : Int) * fmtRec win.fmt, fmtRec win.fmt))
  else pts.map (fun p =>
    let pl := placeOf win.fmt win.base (win.flat p)
    (pl.addr, codeBytes win.fmt pl.bit))

/-- Where those bytes lie. -/
def outKeys (s : State) (w : Who) (o : ReOp) : List Nat :=
  (outRanges (s.hart w) o).flatMap (fun r => (List.range r.2).filterMap (fun (i : Nat) =>
    match translate s w .store (addrW (r.1 + i)) with
    | .ok p => some p.key
    | .error _ => none))

/-- An earlier operation of the hart has still to write a byte that this one writes, under the same address or another
(R160; DEDUCED, log 27). -/
def outBehind (s : State) (w : Who) (o : ReOp) : Bool :=
  let h := s.hart w
  let ps := h.reOps.filter (fun p => p.tag.num < o.tag.num && !p.out.isEmpty)
  if ps.isEmpty then false
  else
    let mine := outRanges h o
    let keys := outKeys s w o
    ps.any (fun p =>
      (outRanges h p).any (fun x => mine.any (fun y => x.1 < y.1 + y.2 && y.1 < x.1 + x.2)) ||
      (outKeys s w p).any keys.contains)

/-! ### Closing a window (R164, R172, R180, R216, R263) -/

/-- Stack i and the stacks it absorbed, at any depth. -/
def Hart.family (h : Hart) (i : StackNum) : List StackNum :=
  let grow (l : List StackNum) : List StackNum := allStacks.filter (fun j =>
    l.contains j || ((h.iter j).st == .absorbed && (match (h.iter j).absorber with | some k => l.contains k | none => false)))
  grow (grow (grow [i]))

/-- A stack ends, and with it the stacks that it absorbed (R180). -/
def Hart.endFamily (h : Hart) (i : StackNum) : Hart :=
  (h.family i).foldl (fun h j => h.setIter j { h.iter j with st := .ended, absorber := none, win := none }) h

/-- A gather window's stack returns to sealed, or to ended when it was exhausted while bound (R180). -/
def Hart.returnStack (h : Hart) (w : WinNum) : Hart :=
  let i := (h.win w).stack
  let st := h.iter i
  if (h.win w).gather && st.st == .bound && st.win == some w then
    if st.exhausted && st.buf.isEmpty then h.endFamily i else h.setIter i { st with st := .sealed, win := none }
  else h

/-- Rows that a stream window has not delivered are cancelled, with a row held back (R164, R172). -/
def Hart.cancelRows (h : Hart) (w : WinNum) : Hart :=
  if (h.win w).strm then
    let h' : Hart := { h with reOps := h.reOps.map (fun o => if o.win == w then { o with slabs := [], rowsIn := 0 } else o) }
    h'.setWin w { h.win w with held := none }
  else h

/-- The window closes: the MROWW of it that have not started take the rows that remain, in number order, and those left
without one an operand of +0 (R216). -/
def State.closeRows (s : State) (w : WinNum) : State :=
  let m := s.myCore.matrix
  let starved := ((m.claimers s.who w).drop (m.rowsIn s.who w)).map (fun o => o.tag.num)
  s.modMyCore (fun k => { k with matrix := { k.matrix with ops := k.matrix.ops.map (fun o =>
    if starved.contains o.tag.num then { o with closed := true } else o) } })

/-- The window returns to unbound, every field clear (R143), and its stack goes back (R180). -/
def Hart.unbind (h : Hart) (w : WinNum) : Hart := (h.returnStack w).setWin w Window.clear

/-- A failed write-back of the window is raised here (R169). -/
def withFailed (w : WinNum) (k : State → VRes) (s : State) : VRes :=
  match s.me.failedOn w with
  | some t => .squash t (s.modMe (fun h => h.clearFailed w))
  | none => k s

/-- Advances still to write back keep the elements they write (R159); nothing more lands. -/
def Hart.dropOps (h : Hart) (w : WinNum) : Hart :=
  let win := h.win w
  let kept (o : ReOp) : Window := { win with slots := win.slots.filter (fun q => o.out.any (fun b => inBox b q.1)) }
  { h with reOps := h.reOps.map (fun o =>
      if o.win != w || o.save.isSome then o
      else if o.out.isEmpty then { o with slabs := [], rowsIn := 0 }
      else { o with slabs := [], rowsIn := 0, save := some (kept o) }) }

/-- WCLOSE or WDROP acts on its window, open until now: what it still has to write back stays with it. -/
def startRelease (o : ReOp) (s : State) : State :=
  let w := o.win
  let win := s.me.win w
  let op (out : List Box) (save : Option Window) (s : State) : State :=
    s.modMe (fun h => h.setReOp { o with todo := false, out := out, save := save })
  if !win.isOpen then op [] none (s.modMe (fun h => h.unbind w))
  else
    let s1 := (s.closeRows w).modMe (fun h => h.cancelRows w)
    if o.kind == .drop then op [] none (s1.modMe (fun h => (h.dropOps w).unbind w))
    else if win.strm then op [] none (s1.modMe (fun h => h.unbind w))
    else op [win.heldBox s.me.ctr] (some win) (s1.modMe (fun h => h.unbind w))

/-- The operation has nothing left to do: it completes and pulses its input (R159, R257). A WNEXT completes once its count
has entered lq as well (R171). -/
def reFinish (w : Who) (n : Nat) (s : State) : State :=
  match (s.hart w).reOp n with
  | none => s
  | some o =>
    if o.out.isEmpty && o.slabs.isEmpty && !o.todo && s.reReady w o then
      let s' := s.modHart w (fun h => { h with reOps := h.reOps.filter (fun p => p.tag.num != n) })
      if (s.hart w).pulls.any (fun p => p.win.isSome && p.num == n) then s' else s'.pulseOp w 0
    else s

/-- SLAB_LANDED (R162): the last element of a slab lands and its scoreboard entry is freed. Nothing lands before
the operation's own write-backs have read their slots; a write-back that failed has read its own (R159, R169). -/
def execSlabLanded (who : Who) (num slab : Nat) (s : State) : Out :=
  match (s.hart who).reOp num with
  | none => .next s
  | some o =>
    if !s.reTurn who o || !(o.out.isEmpty || o.failed.isSome) || ((s.hart who).win o.win).strm && !o.slabs.isEmpty then .next s
    else
      match o.slabs[slab]? with
      | none => .next (reFinish who num s)
      | some b =>
        let pts := if o.kind == .redeliver then o.only else boxPoints b
        let s1 := (pts.foldl (landPoint who o.win) s).healNear who ((s.hart who).win o.win) pts
        .next (reFinish who num (s1.modHart who (fun h => h.setReOp { o with slabs := o.slabs.eraseIdx slab })))

/-! ### Write-backs (R159, R160, R334) -/

/-- A place that an engine of hart w writes, with an access unit of `unit` bytes. A byte of a compressed image is none: only
transfer packets write it, and COMPRESSED does not arise from a window (R140, R173; DESIGN CHOICE, log 68). -/
def engineStore (s : State) (w : Who) (unit : Nat) (va : Word) : Except MemErr (Option Nat) :=
  match engineAcc s w .store unit va with
  | .error e => .error e
  | .ok p => .ok (if p.compressed then none else some p.key)

/-- Cells of a code stored at its place by hart w, or why it fails. -/
def storeCode (s : State) (w : Who) (fc : Nat) (pl : Place') (code : Nat) : Except MemErr (List Host.Cell) :=
  let n := codeBytes fc pl.bit
  (List.range n).foldl (fun acc (i : Nat) =>
    match acc with
    | .error e => .error e
    | .ok cs =>
      match engineStore s w (fmtBytes fc) (addrW (pl.addr + (i : Int))) with
      | .error e => .error e
      | .ok none => .ok cs
      | .ok (some key) =>
        let old := (s.byte key).toNat
        let lo : Nat := if i == 0 then pl.bit else 0
        let hi : Nat := min 8 (pl.bit + fmtBits fc - 8 * i)
        let m : Nat := 2 ^ hi - 2 ^ lo
        let v := code * 2 ^ pl.bit / 256 ^ i % 256
        .ok (cs ++ [(key, BitVec.ofNat 8 ((old &&& (255 - m)) ||| (v &&& m)))])) (.ok [])

/-- Bytes of a record stored at an address by hart w (R139). -/
def storeBytes (s : State) (w : Who) (va : Word) (bs : List Byte) : Except MemErr (List Host.Cell) :=
  bs.zipIdx.foldl (fun acc b =>
    match acc with
    | .error e => .error e
    | .ok cs =>
      match engineStore s w 1 (va + wn b.2) with
      | .error e => .error e
      | .ok key => .ok (cs ++ key.toList.map (·, b.1))) (.ok [])

/-- The record of a held point of a scaled window (R156). -/
def Window.recOf (win : Window) (p : List Int) : Int := win.flat p / (fmtBlock win.fmt : Int)

/-- The held points that a write-back of point p reads: its record's (R160), or p alone. -/
def Window.readWith (win : Window) (p : List Int) : List (List Int) :=
  if fmtScaled win.fmt then (win.slots.map (·.1)).filter (fun q => win.recOf q == win.recOf p) else [p]

/-- The dirty points of a box. -/
def Window.dirtyIn (win : Window) (b : Box) : List (List Int) := (boxPoints b).filter (fun p => (win.slot? p).any (·.dirty))

/-- A write-back of the box reads a marked granule: its point (R334). -/
def lostOf (s : State) (w : Who) (win : Window) (b : Box) : Option (List Int) :=
  if s.bad.isEmpty then none else (win.dirtyIn b).findSome? (fun p => (win.readWith p).find? (nearBad s w win))

/-- The values of record r of a scaled window. An element still tagged, for which the spec gives no code, counts as 0
(DESIGN CHOICE, log 43). -/
def Window.recordVals (win : Window) (r : Int) : List Num :=
  (List.range (fmtBlock win.fmt)).map (fun (j : Nat) =>
    match win.slots.find? (fun q => win.flat q.1 == r * fmtBlock win.fmt + j) with
    | some q => if q.2.tag.isSome then .fin false 0 0 else decodeF (fmtOf (if win.nh then 16 else 32)) q.2.val.toNat
    | none => .fin false 0 0)

/-- The cells that the dirty elements of a box write back: whole records of a scaled window (R139, R160); nothing of what
reads a marked granule (R334). -/
def writeBackCells (s : State) (w : Who) (win : Window) (b : Box) : Except MemErr (List Host.Cell) :=
  let fc := win.fmt
  let dirty := if s.bad.isEmpty then win.dirtyIn b else (win.dirtyIn b).filter (fun p => !(win.readWith p).any (nearBad s w win))
  if fmtScaled fc then
    (dirty.map win.recOf).eraseDups.foldl (fun acc r =>
      match acc with
      | .error e => .error e
      | .ok cs =>
        match storeBytes s w (addrW (win.base.toNat + r * fmtRec fc)) (bytesOf (fmtRec fc) (recordNat fc (win.recordVals r))) with
        | .error e => .error e
        | .ok c => .ok (cs ++ c)) (.ok [])
  else
    dirty.foldl (fun acc p =>
      match acc with
      | .error e => .error e
      | .ok cs =>
        let v := match win.slot? p with
          | some sl => sl.val.toNat
          | none => 0
        match storeCode (s.writeCells cs) w fc (placeOf fc win.base (win.flat p)) (narrowNear fc win.nh win.sat v) with
        | .error e => .error e
        | .ok c => .ok (cs ++ c)) (.ok [])

/-- Bytes that go to another device leave in flits of 240 payload bytes (R270). -/
def State.linkCells (s : State) (cells : List Host.Cell) : State :=
  let n := (cells.filter (fun c => 2 ^ 61 ≤ c.1)).length
  if n == 0 then s else s.sendFlits ((n + 239) / 240)

/-- A write-back fails: the operation keeps the elements that it has read out of the window, and waits (R159, R169). -/
def holdOp (h : Hart) (o : ReOp) (t : Trap) : Hart :=
  let win := h.win o.win
  let h1 := h.setReOp { o with failed := some t, save := some (o.save.getD win) }
  if o.save.isSome then h1 else h1.setWin o.win (o.out.foldl (fun x b => x.afterOut o.kind b) win)

/-- A write of an engine of hart w. -/
def State.writeAs (s : State) (w : Who) (cs : List Host.Cell) : State :=
  s.writeBy w none (cs.map (fun c => s.sliceOf c.1)).eraseDups cs

/-- The bytes that a write-back puts into memory: those of another device go there in flits, and where no path leads they
are lost, which the hart's next release raises (R270, R271). -/
def State.writeBack (s : State) (w : Who) (o : ReOp) (cs : List Host.Cell) : State :=
  let far (key : Nat) : Bool := 2 ^ 61 ≤ key
  if cs.any (fun c => far c.1) && s.noPath then
    let va := (outRanges (s.hart w) o).findSome? (fun r => match translate s w .store (addrW r.1) with
      | .ok p => if far p.key then some (addrW r.1) else none
      | .error _ => none)
    (s.modHart w (fun h => { h with lost := some (h.lost.getD (va.getD 0)) })).writeAs w (cs.filter (fun c => !far c.1))
  else (s.writeAs w cs).linkCells cs

/-- WRITEBACK_PERFORMED (R159, R169, R334): the next box of the operation's write-backs is performed at its home
slices; a failed translation holds the operation. A WCLOSE or WDROP that HARM had held first acts on its window (R263). -/
def execWritebackPerformed (who : Who) (num : Nat) (s : State) : Out :=
  match (s.hart who).reOp num with
  | none => .next s
  | some o =>
    if !s.reReady who o || outBehind s who o then .next s
    else if o.todo then .next (s.asHart who (fun s => reFinish who num (startRelease o s)))
    else
      match o.out with
      | [] => .next (if o.slabs.isEmpty then reFinish who num s else s)
      | b :: rest =>
        let win := o.save.getD ((s.hart who).win o.win)
        match writeBackCells s who win b with
        | .error e =>
          let s1 := s.modHart who (fun h => holdOp h o (errTrap e))
          .next (match e.page with
            | some pg => s1.askPage who pg
            | none => s1)
        | .ok cs =>
          let lost := lostOf s who win b
          let win' := win.afterOut o.kind b
          let o1 : ReOp := { o with
            out := rest, save := o.save.map (fun _ => win') }
          let s2 := (s.writeBack who o cs).modHart who (fun h =>
            let h1 := h.setReOp o1
            let h2 := if o.save.isSome then h1 else h1.setWin o.win win'
            match lost with
            | some p => holdOp h2 o1 (nearTrap s who o.win win p)
            | none => h2)
          .next (reFinish who num s2)

/-! ### Rows of a stream window (R172) -/

/-- The rows of a slab: each its outer coordinates, in slab order; none where no element entered. -/
def rowsOf (win : Window) (b : Box) : List (List Int) :=
  if boxEmpty b then [] else if win.gather then (boxPoints (b.drop 2)) else boxPoints (b.drop 1)

/-- The rows of a slab of an operation: a rebuilt window delivers those not yet consumed, in the order they first entered
(R175). -/
def ReOp.rows (o : ReOp) (win : Window) (b : Box) : List (List Int) := if o.kind == .rebuild then o.only else rowsOf win b

/-- The row with outer coordinates r, or why its delivery fails. -/
def buildRow (s : State) (w : Who) (win : Window) (b : Box) (r : List Int) : Except (Trap × Option MemErr) Row :=
  let lo0 := (win.hull (s.hart w).ctr 0).1
  let pts := if win.gather then (boxPoints (b.take 2)).map (fun q => (q ++ r)) else
    (boxPoints (b.take 1)).map (fun q => q ++ r)
  pts.foldl (fun acc p =>
    match acc with
    | .error e => .error e
    | .ok row =>
      let k : Int := if win.gather then (p.getD 0 0 - win.lo 0) + win.allocExt 0 * (p.getD 1 0 - win.lo 1) else p.getD 0 0 - lo0
      let pt := win.tensorPt p
      if !win.inTensor pt then .ok row
      else
        let d := deliver s w win pt
        match d.1.tag with
        | some t => .error (t, d.2)
        | none => .ok (row ||| (BitVec.ofNat 4096 (near2bf16 win.fmt d.1.val.toNat) <<< (16 * k.toNat)))) (.ok 0)

/-- The reads of a row's elements go over the link where they lie in another device (R270). -/
def rowLinks (w : Who) (win : Window) (b : Box) (r : List Int) (s : State) : State :=
  (boxPoints (b.take (if win.gather then 2 else 1))).foldl (fun s q =>
    let pt := win.tensorPt (q ++ r)
    if win.inTensor pt then s.linkVa w (addrW (placeOf win.fmt win.base (win.flat pt)).addr) else s) s

/-- STREAM_ROW_ENTER (R172): the next row of the operation's first slab enters the elastic queue, of 32 rows; a
row whose delivery fails is held back. -/
def execStreamRowEnter (who : Who) (num : Nat) (s : State) : Out :=
  match (s.hart who).reOp num with
  | none => .next s
  | some o =>
    let win := (s.hart who).win o.win
    if !s.reReady who o || !win.strm || win.held.isSome || (s.core who.core).matrix.queue.length ≥ 32 then .next s
    else
      match o.slabs with
      | [] => .next (reFinish who num s)
      | b :: rest =>
        match (o.rows win b)[o.rowsIn]? with
        | none => .next (reFinish who num (s.modHart who (fun h => h.setReOp { o with slabs := rest, rowsIn := 0 })))
        | some r =>
          match buildRow s who win b r with
          | .error (t, e) =>
            let s1 := s.modHart who (fun h => h.setWin o.win { win with held := some t })
            .next (match e.bind (·.page) with
              | some pg => s1.askPage who pg
              | none => s1)
          | .ok row =>
            let s1 := (rowLinks who win b r s).modCore who.core (fun k =>
              { k with matrix := { k.matrix with queue := k.matrix.queue ++ [⟨who, o.win, row, r⟩] } })
            let last := o.rowsIn + 1 ≥ (o.rows win b).length
            .next (reFinish who num (s1.modHart who (fun h =>
              (h.setReOp (if last then { o with slabs := rest, rowsIn := 0 } else { o with rowsIn := o.rowsIn + 1 })).setWin
                o.win { win with rowsSent := win.rowsSent + 1 })))

end Sys2Proof.Machine
end

