-- ==== Sys2Proof/Machine/Window.lean ====
section
/-!
DEFINITION. The WIN members but for WNEXT (R145 to R149, R154 to R157, R164, R170, R172, R174).
-/

namespace Sys2Proof.Machine

/-! ### Binding (R147 to R149, R170) -/

/-- WINDOW_BIND with its window and reason (R155). -/
def windowBind (w : WinNum) (reason : Nat) (s : State) : VRes := .trap ⟨.windowBind, wn (w.toNat * 256 + reason), 0⟩ s

/-- Steps 5 and 6 of R56 for a member that reads its vectors at SEW 64 (R145). -/
def check64 (regs : List VReg) : State → Option Cause :=
  checkType false (fun h => sewOf h.vtype == 64 && !ekOf h.vtype && groupsOk h (regs.map (fun r => (r.toNat, 64))))

/-- Elements 0 to n-1 of a group at SEW 64. -/
def wordsOf (h : Hart) (r : VReg) (n : Nat) : List Word := (List.range n).map (fun e => wn (h.elem r.toNat e 64))

/-- The counters c0 to c7 as a member captures them at issue, after its scalar operand (R150, R157, R166). -/
def captureCtrs (s : State) : List Word := s.me.ctrs
def Capture.ctr (c : Capture) (k : Nat) : Int := ctrIn (c.xs.drop 1) k

/-- A pull on the stack, or a held IENOUGH, is incomplete: a member that acts on the stack waits for it (R189, R193;
DEDUCED, log 51). -/
def Hart.stackBusy (h : Hart) (i : StackNum) : Bool :=
  h.itOps.any (fun o => o.stack == i && o.enough) || h.pulls.any (fun p => p.stack == some i)

/-- The checks common to WBIND and WBINDI, in their order: the reason that fails (R147). -/
def bindReason (h : Hart) (w : WinNum) (vl : Nat) (two : Bool) (dims : List Word) : Option Nat :=
  if (h.win w).isOpen then some 0x0B
  else if vl == 0 || 16 < vl || (two && vl != 2) then some 0x01
  else if dims.any (fun x => bitsOf x 0 32 == 0) then some 0x02
  else none

/-- The descriptor is recorded; MODE and the formula are kept (R147). -/
def Hart.bindWin (h : Hart) (w : WinNum) (base : Word) (dims : List Word) (stack : Option StackNum) : Hart :=
  h.setWin w { Window.clear with
    st := .bound, gather := stack.isSome, base := base, dims := dims, mode := (h.win w).mode, forms := (h.win w).forms,
    origins := (h.win w).origins, formVl := (h.win w).formVl, stack := stack.getD 0 }

def execWbind (w : WinNum) (a : VReg) (b : XReg) (s : State) : Out :=
  vissue (vr 0x30#6 (0#2 ++ w) a b 0#3 0#3 0#5) (check64 [a]) (fun s => [s.x b])
    (fun cap s =>
      match badSource s cap.elems [(a.toNat, 64)] 0 with
      | some t => .trap t s
      | none =>
        let dims := wordsOf s.me a (min cap.vl 17)
        match bindReason s.me w cap.vl false dims with
        | some r => windowBind w r s
        | none => .done (s.modMe (fun h => (h.returnStack w).bindWin w (cap.xs.getD 0 0) dims none)))
    s

/-- WBINDI (R170): the stack is sealed, or bound to this very window, which first returns it. -/
def execWbindi (i : StackNum) (w : WinNum) (a : VReg) (b : XReg) (s : State) : Out :=
  vissue (vr 0x30#6 (i ++ w) a b 0#3 0#3 7#5) (check64 [a]) (fun s => [s.x b])
    (fun cap s =>
      match badSource s cap.elems [(a.toNat, 64)] 0 with
      | some t => .trap t s
      | none =>
        let dims := wordsOf s.me a (min cap.vl 17)
        match bindReason s.me w cap.vl true dims with
        | some r => windowBind w r s
        | none =>
          if s.me.stackBusy i then .block else
          let h := s.me.returnStack w
          if (h.iter i).st == .absorbed then .trap ⟨.iter, wn (i.toNat * 256 + 1), 0⟩ s
          else if (h.iter i).st != .sealed then windowBind w 0x0A s
          else
            .done (s.setMe ((h.bindWin w (cap.xs.getD 0 0) dims (some i)).setIter i
              { h.iter i with st := .bound, win := some w })))
    s

/-- WMODE needs no type state and leaves VSTART as it stands (R44, R148). -/
def execWmode (w : WinNum) (b : XReg) (s : State) : Out :=
  vissue (vr 0x30#6 (0#2 ++ w) 0#5 b 0#3 0#3 1#5) (fun _ => none) (fun s => [s.x b])
    (fun cap s =>
      if (s.me.win w).isOpen then windowBind w 0x0B s
      else .done (s.modMe (fun h => h.setWin w { h.win w with mode := cap.xs.getD 0 0 })))
    s

def execWform (w : WinNum) (a : VReg) (b : VReg) (s : State) : Out :=
  vissue (vr 0x30#6 (0#2 ++ w) a b 0#3 0#3 2#5) (check64 [a, b]) (fun _ => [])
    (fun cap s =>
      match badSource s cap.elems [(a.toNat, 64), (b.toNat, 64)] 0 with
      | some t => .trap t s
      | none =>
        if (s.me.win w).isOpen then windowBind w 0x0B s
        else
          let n := min cap.vl 16
          .done (s.modMe (fun h => h.setWin w { h.win w with
            forms := wordsOf h a n, origins := wordsOf h b n, formVl := cap.vl })))
    s

/-! ### Opening (R154 to R157, R170, R172) -/

/-- Lowest and highest byte of any element of the whole tensor (R155). -/
def Window.byteRange (w : Window) : Int × Int :=
  let f := w.flatRange
  let fc := w.fmt
  let lo := placeOf fc w.base f.1
  let hi := placeOf fc w.base f.2
  if fmtScaled fc then (lo.record, hi.record + fmtRec fc - 1)
  else (lo.addr, hi.addr + codeBytes fc hi.bit - 1)

/-- The range attribute that BASE lies under: compressed, or the ES of a transposed range (R329, R330). -/
def attrOf (k : Core) (base : Word) : Bool × Nat :=
  match k.ranges.find? (rangeHit base.toNat) with
  | some r =>
    let xf := bitsOf (r.getD 3 0) 0 2
    (xf == 1, if xf == 2 then 1 <<< bitsOf (r.getD 3 0) 2 2 else 0)
  | none => (false, 0)

def dimsOf (w : Window) : List Nat := List.range w.d

/-- Reason 0x02: an extent of zero, a misaligned base, a byte range outside the address space, or a transposed
range that does not fit (R155, R330). -/
def badBase (w : Window) (es : Nat) : Bool :=
  let fc := w.fmt
  let r := w.byteRange
  (dimsOf w).any (fun d => w.extent d == 0) ||
  (fmtWhole fc && 1 < fmtBytes fc && w.base.toNat % fmtBytes fc != 0) ||
  r.1 < 0 || 2 ^ 56 - 1 < r.2 ||
  (es != 0 && !(fmtWhole fc && fmtBytes fc == es && w.base.toNat % es == 0))

def badMode (m : Word) : Bool :=
  bitsOf m 32 32 != 0 || m.getLsbD 15 || m.getLsbD 7 || bitsOf m 5 2 == 0 || 28 < bitsOf m 0 5

def badForm (w : Window) : Bool :=
  (dimsOf w).any (fun d => (8 ≤ w.k d && w.k d ≤ 14) || w.hi d < w.lo d || bitsOf (w.forms.getD d 0) 0 12 != 0)

/-- Reason 0x09 (R156). -/
def badPacked (w : Window) : Bool :=
  let fc := w.fmt
  let b : Int := fmtBlock fc
  (fmtSub fc || fmtScaled fc) &&
  (w.stride 0 != 1 || (dimsOf w).any (fun d => d != 0 && w.stride d < 0) ||
   (fmtScaled fc &&
    ((w.extent 0 : Int) % b != 0 || (dimsOf w).any (fun d => d != 0 && w.stride d % b != 0) ||
     (w.writable && ((w.hi 0 - w.lo 0 + 1) % b != 0 || (w.org 0 + w.lo 0) % b != 0 || (w.k 0 != 15 && w.step 0 % b != 0))))))

/-- Slots that the allocation holds: bytes over near width (R154). -/
def Window.bytesHeld (w : Window) (n : Nat) : Nat := 512 * w.alloc * n
def Window.q (w : Window) : Nat := nearBytes w.fmt w.nh

/-- Tile capacity TC (R170). -/
def Window.tileCap (w : Window) (n : Nat) : Nat :=
  w.bytesHeld n / (w.q * w.allocExt 0 * w.allocExt 1)

/-- Reason 0x0A (R170, R172). -/
def badGatherStream (k : Core) (w : Window) : Bool :=
  (w.gather && (w.acc != 1 || w.k 0 != 15 || w.k 1 != 15)) ||
  (w.strm &&
    (w.acc != 1 || !w.nh || allHarts.any (fun h => allWins.any (fun i => ((k.hart h).win i).isOpen && ((k.hart h).win i).strm)) ||
     (if w.gather then decide (w.allocExt 0 * w.allocExt 1 > 256)
      else w.k 0 != 15 || decide ((w.hull (fun _ => 0) 0).2 - (w.hull (fun _ => 0) 0).1 + 1 > 256))))

def rangesMeet (a b : Int × Int) : Bool := a.1 ≤ b.2 && b.1 ≤ a.2

/-- Reason 0x07: a writable window meets another open window of the hart (R155). -/
def badShare (h : Hart) (w : Window) : Bool :=
  allWins.any (fun i =>
    let o := h.win i
    o.isOpen && (w.writable || o.writable) && rangesMeet w.byteRange o.byteRange)

def badFit (w : Window) (n : Nat) : Bool :=
  !w.strm && (if w.gather then w.tileCap n == 0 else decide (w.q * w.slotsNeeded > w.bytesHeld n))

/-- Units that open windows hold, and with `closing` those of a release that has not had its turn to read them out (R154). -/
def State.unitsUsed (s : State) (w : Who) (closing : Bool) : List (Nat × Nat) :=
  let h := s.hart w
  (allWins.filter (fun i => (h.win i).isOpen)).map (fun i => ((h.win i).unit0, (h.win i).alloc)) ++
  (if closing then (h.reOps.filter (fun o => o.failed.isNone && !s.reTurn w o)).filterMap (fun o => o.save.map (fun x => (x.unit0, x.alloc)))
   else [])

/-- The lowest run of units wholly below the scratch region (R154). -/
def freeRun (used : List (Nat × Nat)) (z alloc : Nat) : Option Nat :=
  (List.range 257).find? (fun u =>
    512 * (u + alloc) ≤ 131072 - z && used.all (fun r => r.2 == 0 || alloc == 0 || u + alloc ≤ r.1 || r.1 + r.2 ≤ u))

/-- The checks of R155 in order; no reason gives the first unit of the allocation. -/
def openReason (s : State) (w : Window) : Except Nat Nat :=
  let h := s.me
  let a := attrOf s.myCore w.base
  if w.st != .bound then .error 0x0B
  else if w.formVl != w.d then .error 0x01
  else if badBase w a.2 then .error 0x02
  else if badMode w.mode then .error 0x03
  else if badForm w then .error 0x04
  else if badPacked w then .error 0x09
  else if badGatherStream s.myCore w then .error 0x0A
  else if w.writable && a.1 then .error 0x08
  else if badShare h w then .error 0x07
  else if badFit w h.lanes then .error 0x05
  else
    match freeRun (s.unitsUsed s.who false) s.myCore.scratchSize w.alloc with
    | none => .error 0x06
    | some u => .ok u

/-- A new RE operation of a WIN member, held where it was armed (R28, R263). -/
def pushWin (cap : Capture) (w : WinNum) (kind : ReKind) (out slabs : List Box) (save : Option Window) (s : State) : State :=
  { s.modMe (fun h => h.pushRe cap.arm s.nextId s.seqNow w kind out slabs [] save) with nextId := s.nextId + 1 }

/-- WOPEN zeroes its allocation, with the marks of its granules (R154, R334). -/
def State.zeroNear (s : State) (w : Who) (u alloc : Nat) : State :=
  if s.bad.isEmpty then s
  else
    let mine := (List.range (s.hart w).lanes).map (s.laneCore w)
    { s with bad := s.bad.filter (fun e => match e with
        | .near c l g => !(mine.contains (c, l) && 64 * u ≤ g && g < 64 * (u + alloc))
        | _ => true) }

/-- The window as WOPEN leaves it. -/
def Hart.openWin (h : Hart) (w : WinNum) (u : Nat) : Hart :=
  h.setWin w { h.win w with
    st := .opened, sat := h.sat, rct := h.rct, unit0 := u, tiles := [], slots := [], rowsTaken := 0, rowsSent := 0,
    held := none }

/-- WOPEN (R155, R157): waits for a release that still reads out of its units, and for a scoreboard entry. -/
def execWopen (w : WinNum) (s : State) : Out :=
  vissue (vr 0x30#6 (0#2 ++ w) 0#5 0#5 0#3 0#3 3#5) (fun _ => none) (fun s => 0 :: captureCtrs s)
    (fun cap s =>
      match openReason s (s.me.win w) with
      | .error r => windowBind w r s
      | .ok _ =>
        match freeRun (s.unitsUsed s.who true) s.myCore.scratchSize (s.me.win w).alloc with
        | none => .block
        | some u =>
          if s.myCore.scoreboard ≥ 64 then .block
          else
            let s1 := (s.modMe (fun h => h.openWin w u)).zeroNear s.who u (s.me.win w).alloc
            .done (pushWin cap w .deliver [] [(s1.me.win w).heldBox cap.ctr] none s1))
    s

/-! ### Closing, flushing, dropping (R164, R169, R172) -/

/-- An earlier operation of the window, or an MLDS that reads it, is incomplete (R164, R211). -/
def winBusy (s : State) (w : WinNum) : Bool :=
  s.me.pulls.any (fun p => p.win == some w && p.stack.isSome) || s.me.reOps.any (fun o => o.win == w) || s.myCore.matrix.ops.any (fun m => m.who == s.who && m.kind == .lds && m.win == w)

/-- WFLUSH (R164): the dirty elements are read at once where no earlier operation of the window is incomplete and HARM does
not hold it (R263). -/
def execWflush (w : WinNum) (s : State) : Out :=
  vissue (vr 0x30#6 (0#2 ++ w) 0#5 0#5 0#3 0#3 5#5) (fun _ => none) (fun s => 0 :: captureCtrs s)
    (fun cap s =>
      let win := s.me.win w
      if !win.isOpen then .done (pushWin cap w .closeBound [] [] none s)
      else if win.strm then .done (pushWin cap w .flush [] [] none s)
      else
        withFailed w (fun s =>
          let box := win.heldBox cap.ctr
          if winBusy s w || cap.arm.isSome then .done (pushWin cap w .flush [box] [] none s)
          else .done (pushWin cap w .flush [box] [] (some win) (s.modMe (fun h => h.setWin w (win.afterOut .flush box))))) s)
    s

/-- A WCLOSE or WDROP of an open window that HARM holds acts on it when it starts (R263). -/
def holdRelease (cap : Capture) (w : WinNum) (kind : ReKind) (s : State) : State :=
  (pushWin cap w kind [] [] none s).modMe (fun h =>
    { h with reOps := h.reOps.map (fun o => if o.tag.num == h.tlre.toNat then { o with todo := true } else o) })

/-- WCLOSE (R164): the closed window's elements stay with the operation until their write-backs are performed. -/
def execWclose (w : WinNum) (s : State) : Out :=
  vissue (vr 0x30#6 (0#2 ++ w) 0#5 0#5 0#3 0#3 4#5) (fun _ => none) (fun s => 0 :: captureCtrs s)
    (fun cap s =>
      let win := s.me.win w
      if !win.isOpen then .done (pushWin cap w .closeBound [] [] none (s.modMe (fun h => h.unbind w)))
      else if cap.arm.isSome then withFailed w (fun s => .done (holdRelease cap w .close s)) s
      else if win.strm then
        .done (pushWin cap w .close [] [] none ((s.closeRows w).modMe (fun h => (h.cancelRows w).unbind w)))
      else
        withFailed w (fun s =>
          if winBusy s w then .block
          else .done (pushWin cap w .close [win.heldBox cap.ctr] [] (some win) (s.modMe (fun h => h.unbind w)))) s)
    s

def execWdrop (w : WinNum) (s : State) : Out :=
  vissue (vr 0x30#6 (0#2 ++ w) 0#5 0#5 0#3 0#3 6#5) (fun _ => none) (fun _ => [])
    (fun cap s =>
      if !(s.me.win w).isOpen then .done (pushWin cap w .closeBound [] [] none (s.modMe (fun h => h.unbind w)))
      else if cap.arm.isSome then .done (holdRelease cap w .drop s)
      else if s.myCore.matrix.ops.any (fun m => m.who == s.who && m.kind == .lds && m.win == w) then .block
      else .done (pushWin cap w .drop [] [] none ((s.closeRows w).modMe (fun h => ((h.cancelRows w).dropOps w).unbind w))))
    s

/-! ### Status (R174) -/

/-- WSTAT's word. More than 65,535 tiles show modulo 2^16, as the spec names no saturation (DESIGN CHOICE, log 47). -/
def Hart.wstat (h : Hart) (w : WinNum) : Word :=
  let win := h.win w
  if win.st == .unbound then 0
  else
    let tag := win.slots.any (fun q => q.2.tag.isSome) || win.held.isSome
    let slabs := ((h.reOps.filter (fun o => o.win == w)).map (fun o => o.slabs.length)).sum
    let dirty := (win.slots.filter (fun q => q.2.dirty)).length
    (boolWord win.isOpen <<< 63) ||| (boolWord win.gather <<< 62) ||| (boolWord win.strm <<< 61) |||
    (boolWord tag <<< 60) ||| wn ((win.d - 1) * 2 ^ 56 + slabs * 2 ^ 48 + win.tiles.length % 2 ^ 16 * 2 ^ 32 + min dirty (2 ^ 32 - 1))

def execWstat (w : WinNum) (s : State) : Out :=
  vissue (vr 0x30#6 (0#2 ++ w) 0#5 0#5 0#3 0#3 9#5) (fun _ => none) (fun _ => []) (fun _ s => pushQ1 (s.me.wstat w) s) s

end Sys2Proof.Machine
end

