-- ==== Sys2Proof/Machine/Wld.lean ====
section
/-!
DEFINITION. WLD and WST (R166 to R169): coordinates from the cursor at issue, the address phase, the stall on
slabs in flight (R162), tags, and the conversions between near and register elements.
-/

namespace Sys2Proof.Machine

/-- The mode of a window access (R146). -/
inductive WMode where
  | unit
  | strided (o : Int)
  | indexed
  | seg (n : Nat)
  | dim1

def WMode.fields : WMode → Nat
  | .seg n => n
  | _ => 1

/-- off_d of the packed offsets (R166). -/
def offAt (x : Word) (d : Nat) : Int := if d < 8 then sbits x (8 * d) 8 else 0

/-- Coordinates of element e, field f, and of an indexed access the part of the index left over (R166, R171). -/
def coordsOf (win : Window) (c : Nat → Int) (m : WMode) (x : Word) (e f : Nat) : List Int × Nat :=
  let dn := if win.gather then 3 else max win.d 1
  let cur (d : Nat) : Int := if win.gather then 0 else win.cursor c d
  let along (dim : Nat) (n : Int) : List Int × Nat :=
    ((List.range dn).map (fun d => cur d + offAt x d + (if d == dim then n else 0)), 0)
  match m with
  | .unit => along 0 e
  | .strided o => along 0 (e * o)
  | .seg n => along 0 ((e * n + f : Nat) : Int)
  | .dim1 => along 1 e
  | .indexed =>
    let r := (List.range (if win.gather then 2 else dn)).foldl (fun (acc : List Int × Nat) d =>
      let n := (win.hi d - win.lo d + 1).toNat
      (acc.1 ++ [cur d + win.lo d + ((acc.2 % n : Nat) : Int)], acc.2 / n)) ([], x.toNat)
    if win.gather then (r.1 ++ [(r.2 : Int)], 0) else r

/-- DIM and COORD of an element outside the current set; none of one inside it (R168). -/
def outsideOf (win : Window) (c : Nat → Int) (m : WMode) (x : Word) (e : Nat) (p : List Int × Nat) : Option (Nat × Int) :=
  if p.2 != 0 then some (15, x.toNat)
  else
    let box := if win.isOpen then win.current c else []
    match (List.range p.1.length).find? (fun d => match box[d]? with
        | some i => p.1.getD d 0 < i.1 || i.2 < p.1.getD d 0
        | none => true) with
    | some d =>
      if win.gather && d == 2 && (win.tiles.length : Int) ≤ p.1.getD 2 0 then some (15, if m matches .indexed then x.toNat else p.1.getD 2 0) else some (d, p.1.getD d 0)
    | none => if (m matches .dim1) && !win.gather && win.d ≤ 1 then some (1, offAt x 1 + e) else none

/-- TRAPVAL of RESIDENCY (R168). -/
def residVal (w : WinNum) (r : Nat × Int) : Word :=
  wn (w.toNat * 2 ^ 60 + r.1 * 2 ^ 56 + (BitVec.ofInt 32 r.2).toNat)

/-- TRAPVAL of PERM names the memory address of p (R167): the lowest byte of its code, and for a scaled format of its record
(DESIGN CHOICE, log 61). -/
def elementAddr (win : Window) (p : List Int) : Word :=
  let pl := placeOf win.fmt win.base (win.flat (win.tensorPt p))
  addrW (if fmtScaled win.fmt then pl.record else pl.addr)

/-- The element kind and width that the window's format needs (R167). A window that is not open may hold a MODE whose FMT is
29 to 31, neither floating nor integer: the check fails, as it does for a mismatch (DESIGN CHOICE, log 61). -/
def modeOk (win : Window) (t : Word) : Bool :=
  let fc := win.fmt
  !win.strm && (if fmtInt fc then !ekOf t && sewOf t ≥ 8 * win.q else fc ≤ 23 && ekOf t)

/-- Groups of a segment access (R118), and of an index vector. -/
def segOk (t : Word) (d n : Nat) : Bool :=
  n * lmulOf t ≤ 8 && d % lmulOf t == 0 && d + n * lmulOf t ≤ 32

/-- One access of the instruction: element, field, held point. -/
structure WAcc where
  e : Nat
  f : Nat
  p : List Int

/-- The offset or index of element e. -/
def xOf (m : WMode) (cap : Capture) (h : Hart) (i : VReg) (e : Nat) : Word :=
  match m with
  | .indexed => wn (h.elem i.toNat e cap.sew)
  | _ => cap.xs.getD 0 0

/-- The accesses of the active elements in order, up to and with the first outside the set (R167). -/
def accsOf (win : Window) (w : WinNum) (m : WMode) (cap : Capture) (h : Hart) (i : VReg) (k : MReg) :
    List Nat → List WAcc × Option Trap
  | [] => ([], none)
  | e :: es =>
    if !h.isActive k e then accsOf win w m cap h i k es
    else
      let x := xOf m cap h i e
      let pts := (List.range m.fields).map (fun f => (f, coordsOf win cap.ctr m x e f))
      match firstSome (pts.map (fun q => outsideOf win cap.ctr m x e q.2)) with
      | some r => ((pts.takeWhile (fun q => (outsideOf win cap.ctr m x e q.2).isNone)).map (fun q => ⟨e, q.1, q.2.1⟩),
          some ⟨.residency, residVal w r, e⟩)
      | none =>
        let r := accsOf win w m cap h i k es
        (pts.map (fun q => (⟨e, q.1, q.2.1⟩ : WAcc)) ++ r.1, r.2)

/-- An access waits for a slab of an earlier operation that covers it (R162). -/
def covered (s : State) (w : WinNum) (p : List Int) : Bool :=
  s.me.reOps.any (fun o => o.win == w && o.tag.seq ≤ s.seqNow && o.slabs.any (fun b => inBox b p))

/-- A raised tag: it is cleared, and the TRET that returns here re-delivers (R169). -/
def raiseTag (w : WinNum) (pc : Word) (p : List Int) (s : State) : State :=
  s.modMe (fun h =>
    let win := h.win w
    let h' := h.setWin w (match win.slot? p with
      | some sl => win.putSlot p { sl with tag := none }
      | none => win)
    { h' with trap := { h'.trap with redeliver := (w, pc, p) :: h'.trap.redeliver } })

/-- What a slot gives element e: its value, and under a tag that the access does not raise, a free one (log 52). -/
def Slot.near (sl : Slot) (e : Nat) : Nat :=
  match sl.tag with
  | none => sl.val.toNat
  | some t => (Config.taggedValue t.val e).toNat

/-- Near element to register element, and the reverse (R167). -/
def loadNear (win : Window) (w : WinNum) (cap : Capture) (d : Nat) (h : Hart) (a : WAcc) : Hart :=
  let v := match (h.win w).slot? a.p with
    | some sl => sl.near a.e
    | none => 0
  h.setElem (d + a.f * cap.lmul) a.e cap.sew (near2reg win.fmt win.nh cap.sew v)

def storeNear (win : Window) (w : WinNum) (cap : Capture) (d : Nat) (h : Hart) (a : WAcc) : Hart :=
  h.setWin w ((h.win w).putSlot a.p
    ⟨wn (reg2near win.fmt win.nh cap.sew (h.elem (d + a.f * cap.lmul) a.e cap.sew)), true, none⟩)

/-- Masked-off elements of a load below `stop` are zeroed under MA (R48). -/
def zeroMasked (cap : Capture) (k : MReg) (d n stop : Nat) (h : Hart) : Hart :=
  if maOf cap.vtype then
    (cap.elems.filter (fun e => e < stop && !h.isActive k e)).foldl (fun h e =>
      (List.range n).foldl (fun h f => h.setElem (d + f * cap.lmul) e cap.sew 0) h) h
  else h

/-- A data-phase cause of one access: a bad near granule, or a tag that no translation set (R169, R334). UNCORRECTABLE has
TRAPELEM 0 (R50). -/
def dataTrap (s : State) (w : WinNum) (a : WAcc) : Option Trap :=
  let win := s.me.win w
  if nearBad s s.who win a.p then some (nearTrap s s.who w win a.p)
  else (win.slot? a.p).bind (fun sl => sl.tag.map (fun t => { t with elem := if t.cause == .uncorrectable then 0 else a.e }))

/-- A tag that squashes the instruction (R169). -/
def squashTag (win : Window) (a : WAcc) : Option Trap :=
  (win.slot? a.p).bind (fun sl => sl.tag.filter (fun t => t.cause.squash))

/-- The data-phase cause of the lowest element of a list, and the load access whose tag it is (R314). -/
def winData (s : State) (w : WinNum) (srcs : List (Nat × Nat)) (k : MReg) (accs : List WAcc) (es : List Nat) :
    Option (Trap × Option WAcc) :=
  es.findSome? (fun e =>
    match badSource s [e] srcs k with
    | some t => some (t, none)
    | none => (accs.filter (fun a => a.e == e)).findSome? (fun a =>
        (dataTrap s w a).map (fun t => (t, if nearBad s s.who (s.me.win w) a.p then none else some a))))

/-- A load commits the active elements below `stop` (R167). -/
def loadTo (win : Window) (w : WinNum) (cap : Capture) (d n : Nat) (k : MReg) (accs : List WAcc) (stop : Nat) (h : Hart) : Hart :=
  (accs.filter (fun a => a.e < stop)).foldl (fun h a => loadNear win w cap d h a) (zeroMasked cap k d n stop h)

/-- A store commits the active elements below `stop` (R167). -/
def storeTo (win : Window) (w : WinNum) (cap : Capture) (d : Nat) (accs : List WAcc) (stop : Nat) (s : State) : State :=
  let l := accs.filter (fun a => a.e < stop)
  (s.setMe (l.foldl (fun h a => storeNear win w cap d h a) s.me)).healNear s.who win (l.map (·.p))

/-- WLD or WST at the head of the stream. A RESIDENCY ranks before a data-phase cause of any element (R314), so the elements
below it commit, one that carries a tag with a value that the spec does not state (DESIGN CHOICE, log 52). -/
def winBody (store : Bool) (word : Insn) (d : VReg) (w : WinNum) (m : WMode) (i : VReg) (k : MReg)
    (cap : Capture) (s : State) : VRes :=
  let win := s.me.win w
  let n := m.fields
  if !modeOk win cap.vtype then .trap ⟨.illegalInsn, word.zeroExtend 64, 0⟩ s
  else
    let srcs := (if store then (List.range n).map (fun f => (d.toNat + f * cap.lmul, cap.sew)) else []) ++
      (if m matches .indexed then [(i.toNat, cap.sew)] else [])
    let r := accsOf win w m cap s.me i k cap.elems
    if r.1.any (fun a => covered s w a.p) then .block
    else if store && s.myCore.matrix.ops.any (fun o => o.who == s.who && o.kind == .lds && o.win == w && o.tag.seq ≤ s.seqNow) then .block
    else
      let ro : Option Trap := if store && win.acc == 1 then
        r.1.head?.map (fun a => ⟨.perm, elementAddr win a.p, a.e⟩) else none
      let sq : Option WAcc := if store then none else r.1.find? (fun a => (squashTag win a).isSome)
      let below (e : Nat) (s : State) : State :=
        if store then storeTo win w cap d.toNat r.1 e s
        else (List.range n).foldl (fun x f => x.healUpTo cap s.me k (d.toNat + f * cap.lmul) cap.sew e)
          (s.modMe (loadTo win w cap d.toNat n k r.1 e))
      match ro, sq, r.2 with
      | some t, _, _ => .trap t s
      | none, some a, _ => .squash { (squashTag win a).getD ⟨.notPresent, 0, 0⟩ with elem := a.e } (raiseTag w cap.pc a.p s)
      | none, none, some t => .trap t ((below t.elem s).modMe (fun h => { h with vstart := t.elem }))
      | none, none, none =>
        match winData s w srcs k (if store then [] else r.1) cap.elems with
        | some (t, a) =>
          let s1 := match a with
            | some a => raiseTag w cap.pc a.p s
            | none => s
          if t.cause == .uncorrectable then .trap t s1
          else .trap t ((below t.elem s1).modMe (fun h => { h with vstart := t.elem }))
        | none =>
          let s1 := below cap.vl s
          if store then .done (s1.modMe (fun h => { h with vstart := 0 }))
          else
            let s2 := s1.modMe (fun h => { (List.range n).foldl (fun h f =>
              h.tail cap.vtype (d.toNat + f * cap.lmul) cap.sew cap.vl) h with vstart := 0 })
            .done ((List.range n).foldl (fun x f => x.healVec cap s.me k (d.toNat + f * cap.lmul) cap.sew) s2)

def winMember (store : Bool) (word : Insn) (d : VReg) (w : WinNum) (m : WMode) (xo : BitVec 5) (k : MReg)
    (s : State) : Out :=
  vissue word
    (checkType true (fun h => segOk h.vtype d.toNat m.fields &&
      (if m matches .indexed then groupOk h.vtype xo.toNat (sewOf h.vtype) else true)))
    (fun s => (if m matches .indexed then 0 else s.x xo) :: captureCtrs s)
    (winBody store word d w m xo k) s

def execWld (d : VReg) (w : WinNum) (x : XReg) (k : MReg) (s : State) : Out :=
  winMember false (wm 0x31#6 d w 0#1 x 0#3 k 0#6) d w .unit x k s
def execWldS (d : VReg) (w : WinNum) (x : XReg) (k : MReg) (o : BitVec 6) (s : State) : Out :=
  winMember false (wm 0x31#6 d w 0#1 x 1#3 k o) d w (.strided o.toInt) x k s
def execWldX (d : VReg) (w : WinNum) (x : VReg) (k : MReg) (s : State) : Out :=
  winMember false (wm 0x31#6 d w 0#1 x 2#3 k 0#6) d w .indexed x k s
def execWldG (d : VReg) (w : WinNum) (x : XReg) (k : MReg) (n : BitVec 3) (s : State) : Out :=
  winMember false (wm 0x31#6 d w 0#1 x 3#3 k (0#3 ++ n)) d w (.seg (n.toNat + 1)) x k s
def execWldD1 (d : VReg) (w : WinNum) (x : XReg) (k : MReg) (s : State) : Out :=
  winMember false (wm 0x31#6 d w 0#1 x 4#3 k 0#6) d w .dim1 x k s
def execWst (d : VReg) (w : WinNum) (x : XReg) (k : MReg) (s : State) : Out :=
  winMember true (wm 0x32#6 d w 0#1 x 0#3 k 0#6) d w .unit x k s
def execWstS (d : VReg) (w : WinNum) (x : XReg) (k : MReg) (o : BitVec 6) (s : State) : Out :=
  winMember true (wm 0x32#6 d w 0#1 x 1#3 k o) d w (.strided o.toInt) x k s
def execWstX (d : VReg) (w : WinNum) (x : VReg) (k : MReg) (s : State) : Out :=
  winMember true (wm 0x32#6 d w 0#1 x 2#3 k 0#6) d w .indexed x k s
def execWstG (d : VReg) (w : WinNum) (x : XReg) (k : MReg) (n : BitVec 3) (s : State) : Out :=
  winMember true (wm 0x32#6 d w 0#1 x 3#3 k (0#3 ++ n)) d w (.seg (n.toNat + 1)) x k s
def execWstD1 (d : VReg) (w : WinNum) (x : XReg) (k : MReg) (s : State) : Out :=
  winMember true (wm 0x32#6 d w 0#1 x 4#3 k 0#6) d w .dim1 x k s

end Sys2Proof.Machine
end

