-- ==== Sys2Proof/Machine/VMem.lean ====
section
/-!
DEFINITION. VLD, VST (R117 to R123, R125, R133 to R139), lane scratch with VSAMO, VSLDL and VSSTU (R126 to R129).
-/

namespace Sys2Proof.Machine

/-! ### Addresses and checks of generic elements (R119 to R121, R314) -/

/-- The mode of a VLD or VST (R117) but for scratch-indexed. -/
inductive VMode where
  | unit
  | strided
  | seg (n : Nat)
  | ff

def VMode.fields : VMode → Nat
  | .seg n => n
  | _ => 1

def VMode.isUnit : VMode → Bool
  | .unit | .ff => true
  | _ => false

/-- Where element e, field f lies: its place, and its bytes in rising address order (R119). A store of a scaled
format touches the whole record (R139). A sum beyond 64 bits, where the spec names no result, wraps (DESIGN CHOICE,
log 41). -/
def vplace (m : VMode) (fc : Nat) (xb xs : Word) (e f : Nat) : Place' :=
  match m with
  | .unit | .ff => placeOf fc xb e
  | .strided => ⟨(xb + wn e * xs).toNat, 0, 0⟩
  | .seg n => ⟨(xb + wn ((e * n + f) * fmtBytes fc)).toNat, 0, 0⟩

def vaddrs (fc : Nat) (store : Bool) (pl : Place') : List Word :=
  if fmtScaled fc then
    if store then (List.range (fmtRec fc)).map (fun (i : Nat) => addrW (pl.record + (i : Int)))
    else addrW pl.record :: (List.range (codeBytes fc pl.bit)).map (fun (i : Nat) => addrW (pl.addr + (i : Int)))
  else (List.range (codeBytes fc pl.bit)).map (fun (i : Nat) => addrW (pl.addr + (i : Int)))

/-- Rank of a cause on one element (R314). -/
def causeRank : Cause → Nat
  | .misalign => 0
  | .perm => 1
  | .notPresent => 2
  | .compressed => 3
  | _ => 4

/-- Of two failing bytes of one element, in rising address order: the cause that ranks first, at the lower address
(R121). -/
def worse (a : Option MemErr) (b : MemErr) : Option MemErr :=
  match a with
  | none => some b
  | some e => if causeRank b.cause < causeRank e.cause then some { b with addr := e.addr } else some e

/-- The keys of an element's bytes, or the error that it reports (R314). -/
def physOf (s : State) (acc : Acc) (fc : Nat) (addrs : List Word) : Except MemErr (List Nat) :=
  if fmtWhole fc then
    match addrs with
    | [] => .ok []
    | va :: _ =>
      match access s s.who acc (fmtBytes fc) false va with
      | .error e => .error e
      | .ok p => .ok ((List.range addrs.length).map (fun i => p.key + i))
  else
    let rs := addrs.map (fun va => access s s.who acc 0 false va)
    match rs.foldl (fun a r => match r with | .error e => worse a e | .ok _ => a) none with
    | some e => .error e
    | none => .ok (rs.filterMap (fun r => match r with | .ok p => some p.key | .error _ => none))

/-- An element of a generic access: its number and field, its place, its bytes' addresses and keys. -/
structure VAcc where
  e : Nat
  f : Nat
  pl : Place'
  addrs : List Word
  keys : List Nat

/-- The address phase over the elements given (R314): the accesses, or the lowest element that fails. -/
def addressPhase (s : State) (acc : Acc) (m : VMode) (fc : Nat) (xb xs : Word) : List Nat → List VAcc × Option (MemErr × Nat)
  | [] => ([], none)
  | e :: es =>
    let fs := (List.range m.fields).map (fun f =>
      let pl := vplace m fc xb xs e f
      let ad := vaddrs fc acc.writes pl
      (f, pl, ad, physOf s acc fc ad))
    match fs.find? (fun q => match q.2.2.2 with | .error _ => true | .ok _ => false) with
    | some (_, _, _, .error err) => ([], some (err, e))
    | _ =>
      let r := addressPhase s acc m fc xb xs es
      (fs.filterMap (fun q => match q.2.2.2 with
        | .ok ks => some ⟨e, q.1, q.2.1, q.2.2.1, ks⟩
        | .error _ => none) ++ r.1, r.2)

/-- The lane group that performs element e of width w (R124). -/
def groupOf (h : Hart) (w e : Nat) : Nat := e * w / 64 % h.lanes / 4

/-- A trap of a failed access in the stream, with its page request (R339). -/
def memTrap (err : MemErr) (e : Nat) (s : State) : VRes := .trap ⟨err.cause, err.addr, e⟩ (s.sendPage s.who err.page)

/-- The reads of another device go over the link (R270). -/
def linkAll (accs : List VAcc) (s : State) : State := accs.foldl (fun s a => s.linkTo (a.keys.headD 0) 1) s

/-- The translations of an instruction's elements are cached. -/
def noteAll (accs : List VAcc) (s : State) : State :=
  accs.foldl (fun s a => match a.addrs with
    | [] => s
    | va :: _ => noteWalk s.who va s) s

/-! ### VLD -/

/-- The value that an access loads, none for a reserved code, with the byte that RESERVED_CODE names (R133, R136): of a
code that straddles two bytes the lower one (DESIGN CHOICE, log 60). -/
def loadCode (s : State) (cap : Capture) (fc : Nat) (a : VAcc) : Option Nat × Word :=
  let q := groupOf s.me cap.sew a.e
  let bs := a.keys.map (fun k => (s.ownByte s.who (.group q) k).toNat)
  let sc := if fmtScaled fc then bs.getD 0 0 else 0
  let raw := (if fmtScaled fc then bs.drop 1 else bs).foldr (fun b n => b + 256 * n) 0
  (widen fc (ekOf cap.vtype) cap.sew (codeFrom fc a.pl.bit raw) sc,
    addrW (if fmtScaled fc && sc == 0xFF then a.pl.record else a.pl.addr))

/-- A data-phase cause of one access (R133, R314, R334); UNCORRECTABLE has TRAPELEM 0 (R50). -/
def loadTrap (s : State) (cap : Capture) (fc : Nat) (a : VAcc) : Option Trap :=
  match (a.keys.zip a.addrs).find? (fun k => s.badByte k.1) with
  | some (k', va) => some ⟨.uncorrectable, memBadVal k' va, 0⟩
  | none =>
    let r := loadCode s cap fc a
    if r.1.isNone && s.me.rct then some ⟨.reservedCode, r.2, a.e⟩ else none

def loadElem (s0 : State) (cap : Capture) (fc d : Nat) (h : Hart) (a : VAcc) : Hart :=
  h.setElem (d + a.f * cap.lmul) a.e cap.sew ((loadCode s0 cap fc a).1.getD (fmtOf cap.sew).canonNaN)

/-- The data-phase cause of the lowest element: a marked granule of the mask, or the access's own (R314). -/
def loadCause (s : State) (cap : Capture) (fc : Nat) (k : MReg) (accs : List VAcc) (es : List Nat) : Option Trap :=
  if s.bad.isEmpty then accs.findSome? (loadTrap s cap fc)
  else es.findSome? (fun e =>
    match badSource s [e] [] k with
    | some t => some t
    | none => (accs.filter (fun a => a.e == e)).findSome? (loadTrap s cap fc))

/-- Loads the accesses under `vl`; the data phase may trap (R133, R314). -/
def loadData (cap : Capture) (fc d n : Nat) (k : MReg) (vl : Nat) (accs : List VAcc) (s : State) : VRes :=
  match loadCause s cap fc k accs (cap.elems.filter (· < vl)) with
  | some t =>
    if t.cause == .uncorrectable then .trap t s
    else
      let h := (accs.filter (fun b => b.e < t.elem)).foldl (loadElem s cap fc d) (zeroMasked cap k d n t.elem s.me)
      .trap t ((List.range n).foldl (fun x f => x.healUpTo cap s.me k (d + f * cap.lmul) cap.sew t.elem)
        (s.setMe { h with vstart := t.elem }))
  | none =>
    let cap' := { cap with vl := vl }
    let h := accs.foldl (loadElem s cap fc d) (zeroMasked cap' k d n vl s.me)
    let h := (List.range n).foldl (fun h f => h.tail cap.vtype (d + f * cap.lmul) cap.sew vl) h
    .done ((List.range n).foldl (fun x f => x.healVec cap' s.me k (d + f * cap.lmul) cap.sew)
      ((linkAll accs (noteAll accs (s.setMe { h with vstart := 0 }))).sawBytes s.who (accs.flatMap VAcc.keys)))

def activeOf (cap : Capture) (h : Hart) (k : MReg) : List Nat := cap.elems.filter (h.isActive k)

def vldBody (d : VReg) (m : VMode) (fc : Nat) (k : MReg) (cap : Capture) (s : State) : VRes :=
  let act := activeOf cap s.me k
  let r := addressPhase s .load m fc (cap.xs.getD 0 0) (cap.xs.getD 1 0) act
  match r.2 with
  | some (err, e) => memTrap err e s
  | none => loadData cap fc d.toNat m.fields k cap.vl r.1 s

/-- A new VL governs the instructions issued under the same length setting (R123). -/
def truncateVl (cap : Capture) (vl : Nat) (s : State) : State :=
  s.modMe (fun h =>
    { h with
      vl := if h.epoch == cap.epoch then vl else h.vl
      stream := h.stream.map (fun e =>
        if e.cap.epoch == cap.epoch then { e with cap := { e.cap with vl := vl }, snap := { e.snap with vl := vl } } else e) })

/-- VLD.FF (R123). A RESERVED_CODE below the truncation point traps with VL as it was, which the spec does not say (DESIGN
CHOICE, log 42). -/
def vldFfBody (d : VReg) (fc : Nat) (k : MReg) (cap : Capture) (s : State) : VRes :=
  let act := activeOf cap s.me k
  let r := addressPhase s .load .ff fc (cap.xs.getD 0 0) 0 act
  match r.2 with
  | none => loadData cap fc d.toNat 1 k cap.vl r.1 s
  | some (err, e) =>
    let t := if fmtScaled fc then e - e % fmtBlock fc else e
    if err.cause == .misalign || err.cause == .compressed || t ≤ act.headD 0 then memTrap err e s
    else
      match loadData cap fc d.toNat 1 k t (r.1.filter (fun a => a.e < t)) s with
      | .done s' => .done (truncateVl cap t s')
      | r' => r'

/-! ### VST -/

/-- The code that an element stores (R137). -/
def storeCodeOf (h : Hart) (cap : Capture) (fc d : Nat) (a : VAcc) : Nat :=
  narrow fc h.sat h.rm (ekOf cap.vtype) cap.sew (h.elem (d + a.f * cap.lmul) a.e cap.sew)

/-- A store with the lane group that performs it and its address. -/
abbrev GStore := Nat × Word × List Host.Cell

/-- Bytes of a whole-byte element. -/
def wholeStore (h : Hart) (cap : Capture) (fc d : Nat) (a : VAcc) : GStore :=
  (groupOf h cap.sew a.e, a.addrs.headD 0, a.keys.zip (bytesOf a.keys.length (storeCodeOf h cap fc d a)))

/-- Bits of a sub-byte element over what its group reads, earlier elements of the instruction included (R119). -/
def subStore (s : State) (cap : Capture) (fc d : Nat) (pend : List GStore) (a : VAcc) : List GStore :=
  let q := groupOf s.me cap.sew a.e
  let code := storeCodeOf s.me cap fc d a
  pend ++ a.keys.zipIdx.map (fun p =>
    let old := match pend.reverse.find? (fun g => g.2.2.any (fun c => c.1 == p.1)) with
      | some g => (lastCell g.2.2 p.1 0).toNat
      | none => (s.ownByte s.who (.group q) p.1).toNat
    let lo : Nat := if p.2 == 0 then a.pl.bit else 0
    let hi : Nat := min 8 (a.pl.bit + fmtBits fc - 8 * p.2)
    let mask : Nat := 2 ^ hi - 2 ^ lo
    let v := code * 2 ^ a.pl.bit / 256 ^ p.2 % 256
    (q, a.addrs.getD p.2 0, [(p.1, BitVec.ofNat 8 ((old &&& (255 - mask)) ||| (v &&& mask)))]))

/-- One element of each record that holds an element from VSTART to VL-1: its lowest active one. A record whose elements
are all masked off is written too (DESIGN CHOICE, log 40). -/
def recordElems (cap : Capture) (h : Hart) (k : MReg) (b : Nat) : List Nat :=
  (List.range' (cap.start / b) ((cap.vl + b - 1) / b - cap.start / b)).filterMap (fun r =>
    let es := cap.elems.filter (fun e => e / b == r)
    match es.find? (h.isActive k) with
    | some e => some e
    | none => es.head?)

/-- Whole records of a scaled format (R139): byte j belongs to the element whose code it holds. -/
def recordStores (h : Hart) (cap : Capture) (fc d : Nat) (k : MReg) (accs : List VAcc) : List GStore :=
  let b := fmtBlock fc
  accs.flatMap (fun a =>
    let r := a.e / b
    let vals := (List.range b).map (fun i =>
      let e := r * b + i
      if cap.start ≤ e && e < cap.vl && h.isActive k e then decodeF (fmtOf cap.sew) (h.elem d e cap.sew) else .fin false 0 0)
    (a.keys.zip (bytesOf (fmtRec fc) (recordNat fc vals))).zipIdx.map (fun c =>
      (groupOf h cap.sew (r * b + (8 * c.2 - 8) / fmtBits fc), a.addrs.getD c.2 0, [c.1])))

/-- The highest element wins a byte that several write (R122). -/
def lastWins : List GStore → List GStore
  | [] => []
  | g :: gs =>
    let later := gs.flatMap (fun x => x.2.2)
    (g.1, g.2.1, g.2.2.filter (fun c => !later.any (fun d => d.1 == c.1))) :: lastWins gs

/-- The keys rise, so no byte is written twice. -/
def keysRise : List Nat → Bool
  | a :: b :: l => a < b && keysRise (b :: l)
  | _ => true

/-- The stores of one instruction, each byte taking its highest element's value (R122). -/
def settleStores (gs : List GStore) : List GStore :=
  if keysRise (gs.flatMap (fun g => g.2.2.map (·.1))) then gs else lastWins gs

/-- What an instruction that has run in part has queued gives way to its later elements, byte by byte (R122). -/
def State.yields (s : State) (gs : List GStore) : State :=
  let cut (t : PStore) : PStore := { t with cells := t.cells.filter (fun c => !gs.any (fun g => g.2.2.any (fun d => d.1 == c.1))) }
  let left := s.stores.map (fun t => if t.who == s.who && t.seq == s.seqNow && t.by' != .scalar then cut t else t)
  { s with stores := left.filter (fun t => !t.cells.isEmpty) }

def queueAll (gs : List GStore) (s : State) : State := gs.foldl (fun s g => s.queueStore (.group g.1) g.2.1 g.2.2) s

def vstBody (d : VReg) (m : VMode) (fc : Nat) (k : MReg) (cap : Capture) (s : State) : VRes :=
  let srcs := (List.range m.fields).map (fun f => (d.toNat + f * cap.lmul, cap.sew))
  if fmtScaled fc && cap.start < cap.vl && cap.start % fmtBlock fc != 0 then
    .trap ⟨.misalign, addrW (vplace m fc (cap.xs.getD 0 0) 0 cap.start 0).record, cap.start⟩ s
  else
    let es := if fmtScaled fc then recordElems cap s.me k (fmtBlock fc) else activeOf cap s.me k
    let r := addressPhase s .store m fc (cap.xs.getD 0 0) (cap.xs.getD 1 0) es
    match r.2, badSource s cap.elems srcs k with
    | some (err, e), _ => memTrap err e s
    | none, some t => .trap t s
    | none, none =>
      let gs := if fmtScaled fc then recordStores s.me cap fc d.toNat k r.1
        else if fmtSub fc then r.1.foldl (subStore s cap fc d.toNat) []
        else r.1.map (wholeStore s.me cap fc d.toNat)
      .done (noteAll r.1 (queueAll (settleStores gs) ((if cap.began then s.yields gs else s).modMe (fun h => { h with vstart := 0 }))))

/-- Kind, width and mode of the format (R118), and the data groups. -/
def vmemCheck (d : VReg) (fc : BitVec 5) (m : VMode) : State → Option Cause :=
  checkType true (fun h => fmtLegal fc.toNat (ekOf h.vtype) (sewOf h.vtype) m.isUnit && segOk h.vtype d.toNat m.fields)

def vldMember (w : Insn) (d : VReg) (m : VMode) (fc : BitVec 5) (k : MReg) (caps : State → List Word) (s : State) : Out :=
  vissue w (vmemCheck d fc m) caps (vldBody d m fc.toNat k) s

def vstMember (w : Insn) (d : VReg) (m : VMode) (fc : BitVec 5) (k : MReg) (caps : State → List Word) (s : State) : Out :=
  vissue w (vmemCheck d fc m) caps (vstBody d m fc.toNat k) s

def execVld (d : VReg) (b : XReg) (k : MReg) (f : BitVec 5) (s : State) : Out :=
  vldMember (vm 0x2A#6 d b 0#5 0#3 k f) d .unit f k (fun s => [s.x b]) s
def execVldS (d : VReg) (b : XReg) (i : XReg) (k : MReg) (f : BitVec 5) (s : State) : Out :=
  vldMember (vm 0x2A#6 d b i 1#3 k f) d .strided f k (fun s => [s.x b, s.x i]) s
def execVldG (d : VReg) (b : XReg) (n : BitVec 3) (k : MReg) (f : BitVec 5) (s : State) : Out :=
  vldMember (vm 0x2A#6 d b (0#2 ++ n) 2#3 k f) d (.seg (n.toNat + 1)) f k (fun s => [s.x b]) s
def execVldFf (d : VReg) (b : XReg) (k : MReg) (f : BitVec 5) (s : State) : Out :=
  vissue (vm 0x2A#6 d b 0#5 4#3 k f) (vmemCheck d f .ff) (fun s => [s.x b]) (vldFfBody d f.toNat k) s
def execVst (d : VReg) (b : XReg) (k : MReg) (f : BitVec 5) (s : State) : Out :=
  vstMember (vm 0x2B#6 d b 0#5 0#3 k f) d .unit f k (fun s => [s.x b]) s
def execVstS (d : VReg) (b : XReg) (i : XReg) (k : MReg) (f : BitVec 5) (s : State) : Out :=
  vstMember (vm 0x2B#6 d b i 1#3 k f) d .strided f k (fun s => [s.x b, s.x i]) s
def execVstG (d : VReg) (b : XReg) (n : BitVec 3) (k : MReg) (f : BitVec 5) (s : State) : Out :=
  vstMember (vm 0x2B#6 d b (0#2 ++ n) 2#3 k f) d (.seg (n.toNat + 1)) f k (fun s => [s.x b]) s

/-! ### Lane scratch (R119, R126 to R129) -/

def laneOf (h : Hart) (w e : Nat) : Nat := e * w / 64 % h.lanes

/-- Scratch offset of element e, the exact sum (R11, R126). -/
def scratchOff (cap : Capture) (i : VReg) (h : Hart) (e : Nat) : Nat := (cap.xs.getD 0 0).toNat + h.elem i.toNat e cap.sew

/-- The address phase (R126, R314). -/
def scratchAddr (cap : Capture) (i : VReg) (size : Nat) (es : List Nat) (s : State) : Option Trap :=
  es.findSome? (fun e =>
    (scratchCheck s.myCore.scratchSize size (scratchOff cap i s.me e)).map (fun c => ⟨c, wn (scratchOff cap i s.me e), e⟩))

/-- The scratch granule of element e carries the mark of a double error (R334). -/
def scratchMark (cap : Capture) (i : VReg) (s : State) (e : Nat) : Option Trap :=
  let l := laneOf s.me cap.sew e
  let p := s.laneCore s.who l
  if s.bad.contains (.scratch p.1 p.2 (scratchOff cap i s.me e / 8 * 8)) then some ⟨.uncorrectable, regLoc 6 0 l, 0⟩ else none

/-- The data-phase cause of the lowest element: a marked granule of its mask bit, index or sources, or of scratch (R314). -/
def scratchBad (cap : Capture) (i : VReg) (srcs : List (Nat × Nat)) (k : MReg) (s : State) : Option Trap :=
  if s.bad.isEmpty then none
  else cap.elems.findSome? (fun e =>
    match badSource s [e] ((i.toNat, cap.sew) :: srcs) k with
    | some t => some t
    | none => if s.me.isActive k e then scratchMark cap i s e else none)

/-- One step per active element, in increasing order (R127); every lane sees its elements in that order. -/
def scratchLoop (size : Nat) (srcs : List (Nat × Nat)) (d : Option VReg) (i : VReg) (k : MReg)
    (f : Capture → Nat → Nat → State → State) (cap : Capture) (s : State) : VRes :=
  let es := activeOf cap s.me k
  match scratchAddr cap i size es s, scratchBad cap i srcs k s with
  | some t, _ => .trap t s
  | none, some t => .trap t s
  | none, none =>
    let s0 := match d with
      | some r => s.modMe (zeroMasked cap k r.toNat 1 cap.vl)
      | none => s
    let s1 := es.foldl (fun s e => f cap e (scratchOff cap i s.me e) s) s0
    let s2 := s1.modMe (fun h =>
      { (match d with | some r => h.tail cap.vtype r.toNat cap.sew cap.vl | none => h) with vstart := 0 })
    .done (match d with
      | some r => s2.healVec cap s.me k r.toNat cap.sew
      | none => s2)

def scratchGroups (h : Hart) (d i : VReg) : Bool :=
  groupsOk h [(d.toNat, sewOf h.vtype), (i.toNat, sewOf h.vtype)]

/-- Scratch-indexed VLD; a reserved code under RCT is precise (R133). -/
def vldScratch (d i : VReg) (fc : Nat) (k : MReg) (cap : Capture) (s : State) : VRes :=
  let size := fmtBytes fc
  let code (s : State) (e : Nat) : Option Nat :=
    widen fc (ekOf cap.vtype) cap.sew (s.scratchN s.who (laneOf s.me cap.sew e) (scratchOff cap i s.me e) size) 0
  let load (c : Capture) : VRes := scratchLoop size [] (some d) i k
    (fun _ e _ s => s.modMe (fun h => h.setElem d.toNat e cap.sew ((code s e).getD (fmtOf cap.sew).canonNaN))) c s
  match (activeOf cap s.me k).find? (fun e => (code s e).isNone && s.me.rct) with
  | none => load cap
  | some e =>
    match scratchAddr cap i size (activeOf cap s.me k) s, scratchBad { cap with vl := e + 1 } i [] k s with
    | some t, _ => .trap t s
    | none, some t => .trap t s
    | none, none =>
      match load { cap with vl := e, vtype := cap.vtype &&& ~~~(0x40 : Word) } with
      | .done s' => .trap ⟨.reservedCode, wn (scratchOff cap i s.me e), e⟩
        ((s'.healUpTo cap s.me k d.toNat cap.sew e).modMe (fun h => { h with vstart := e }))
      | r => r

def execVldI (d : VReg) (b : XReg) (i : VReg) (k : MReg) (f : BitVec 5) (s : State) : Out :=
  vissue (vm 0x2A#6 d b i 3#3 k f)
    (checkType true (fun h => fmtLegal f.toNat (ekOf h.vtype) (sewOf h.vtype) false && scratchGroups h d i &&
      !overlaps d.toNat (lmulOf h.vtype) i.toNat (lmulOf h.vtype)))
    (fun s => [s.x b]) (vldScratch d i f.toNat k) s

def execVstI (d : VReg) (b : XReg) (i : VReg) (k : MReg) (f : BitVec 5) (s : State) : Out :=
  vissue (vm 0x2B#6 d b i 3#3 k f)
    (checkType true (fun h => fmtLegal f.toNat (ekOf h.vtype) (sewOf h.vtype) false && scratchGroups h d i))
    (fun s => [s.x b])
    (fun cap s => scratchLoop (fmtBytes f.toNat) [(d.toNat, cap.sew)] none i k
      (fun c e a s => s.setScratchN s.who (laneOf s.me c.sew e) a (fmtBytes f.toNat)
        (narrow f.toNat s.me.sat s.me.rm (ekOf c.vtype) c.sew (s.me.elem d.toNat e c.sew))) cap s) s

/-- Check of VSAMO (R128): SEW 32 or 64, EK 0. -/
def samoCheck (d i : VReg) : State → Option Cause :=
  checkType true (fun h => 32 ≤ sewOf h.vtype && !ekOf h.vtype && scratchGroups h d i)

/-- New(u, d) of R128 is `f sew u d`. -/
def samoMember (w : Insn) (f : Nat → Nat → Nat → Nat → Nat) (d : VReg) (b : XReg) (i : VReg) (k : MReg) (s : State) : Out :=
  vissue w (samoCheck d i) (fun s => [s.x b])
    (fun cap s => scratchLoop (cap.sew / 8) [(d.toNat, cap.sew)] (some d) i k
      (fun c e a s =>
        let l := laneOf s.me c.sew e
        let u := s.scratchN s.who l a (c.sew / 8)
        let x := s.me.elem d.toNat e c.sew
        (s.setScratchN s.who l a (c.sew / 8) (f c.sew u x 0)).modMe (fun h => h.setElem d.toNat e c.sew u)) cap s) s

def execVsamoAdd (d : VReg) (b : XReg) (i : VReg) (k : MReg) (s : State) : Out :=
  samoMember (vm 0x2C#6 d b i 0#3 k 0#5) fAdd d b i k s
def execVsamoMin (d : VReg) (b : XReg) (i : VReg) (k : MReg) (s : State) : Out :=
  samoMember (vm 0x2C#6 d b i 0#3 k 1#5) fMin d b i k s
def execVsamoMax (d : VReg) (b : XReg) (i : VReg) (k : MReg) (s : State) : Out :=
  samoMember (vm 0x2C#6 d b i 0#3 k 2#5) fMax d b i k s
def execVsamoMinn (d : VReg) (b : XReg) (i : VReg) (k : MReg) (s : State) : Out :=
  samoMember (vm 0x2C#6 d b i 0#3 k 3#5) fMinn d b i k s
def execVsamoMaxn (d : VReg) (b : XReg) (i : VReg) (k : MReg) (s : State) : Out :=
  samoMember (vm 0x2C#6 d b i 0#3 k 4#5) fMaxn d b i k s
def execVsamoAnd (d : VReg) (b : XReg) (i : VReg) (k : MReg) (s : State) : Out :=
  samoMember (vm 0x2C#6 d b i 0#3 k 5#5) fAnd d b i k s
def execVsamoOr (d : VReg) (b : XReg) (i : VReg) (k : MReg) (s : State) : Out :=
  samoMember (vm 0x2C#6 d b i 0#3 k 6#5) fOr d b i k s
def execVsamoXor (d : VReg) (b : XReg) (i : VReg) (k : MReg) (s : State) : Out :=
  samoMember (vm 0x2C#6 d b i 0#3 k 7#5) fXor d b i k s
def execVsamoSwap (d : VReg) (b : XReg) (i : VReg) (k : MReg) (s : State) : Out :=
  samoMember (vm 0x2C#6 d b i 0#3 k 8#5) fMv d b i k s

/-- h(a) of R129. -/
def lockBit (a : Nat) : Nat := (a / 8 ^^^ a / 512) % 64

def State.lockOf (s : State) (l a : Nat) : Bool :=
  let p := s.laneCore s.who l
  ((s.core p.1).locks.toList.getD p.2 0).getLsbD (lockBit a)

def State.setLock (s : State) (l a : Nat) (v : Bool) : State :=
  let p := s.laneCore s.who l
  s.modCore p.1 (fun k =>
    let old := k.locks.toList.getD p.2 0
    let bit : BitVec 64 := BitVec.ofNat 64 (2 ^ lockBit a)
    { k with locks := k.locks.setIfInBounds p.2 (if v then old ||| bit else old &&& ~~~bit) })

/-- VSLDL (R129). -/
def execVsldl (d : VReg) (b : XReg) (i : VReg) (k : MReg) (s : State) : Out :=
  vissue (vm 0x2C#6 d b i 0#3 k 9#5) (samoCheck d i) (fun s => [s.x b])
    (fun cap s => scratchLoop (cap.sew / 8) [] (some d) i k
      (fun c e a s =>
        let l := laneOf s.me c.sew e
        if s.lockOf l a then s.modMe (fun h => h.setMaskBit k e false)
        else (s.setLock l a true).modMe (fun h => h.setElem d.toNat e c.sew (s.scratchN s.who l a (c.sew / 8)))) cap s) s

/-- VSSTU (R129). -/
def execVsstu (d : VReg) (b : XReg) (i : VReg) (k : MReg) (s : State) : Out :=
  vissue (vm 0x2C#6 d b i 0#3 k 10#5) (samoCheck d i) (fun s => [s.x b])
    (fun cap s => scratchLoop (cap.sew / 8) [(d.toNat, cap.sew)] none i k
      (fun c e a s =>
        let l := laneOf s.me c.sew e
        (s.setScratchN s.who l a (c.sew / 8) (s.me.elem d.toNat e c.sew)).setLock l a false) cap s) s

end Sys2Proof.Machine
end

