-- ==== Sys2Proof/Machine/Amo.lean ====
section
/-!
DEFINITION. Generic atomics: AMO and VAMO (R130 to R132).
-/

namespace Sys2Proof.Machine

/-- The stores of one agent to one slice are performed, so that an atomic takes its place after them (R64, R125). -/
def performSlice (w : Who) (by' : Unit') (slice : Nat) (s : State) : State :=
  (s.stores.filter (fun t => t.who == w && t.by' == by' && t.slice == slice)).foldl (fun s t => s.performStore t) s

/-- The checks of an atomic of w/8 bytes: those of a store and load, and on host memory a member that PCI Express carries,
whether or not the page is present (R130, R132, R314). -/
def amoAccess (s : State) (w : Nat) (onHost : Bool) (va : Word) : Except MemErr Phys :=
  match accessRaw s s.who .amo (w / 8) false va with
  | .error e => if e.page.isSome && !onHost then .error ⟨.perm, va, none, true⟩ else .error e
  | .ok p =>
    if p.tgt == .host && !onHost then .error ⟨.perm, va, none, true⟩
    else if p.compressed then .error ⟨.compressed, va, none, true⟩
    else .ok p

/-- One atomic step at the home slice: the old value and the state after it. -/
def atomicStep (by' : Unit') (w key : Nat) (f : Nat → Nat) (s : State) : Nat × State :=
  let s := performSlice s.who by' (s.sliceOf key) s
  let old := s.readN key (w / 8)
  (old, (s.linkTo key 1).writeN key (w / 8) (f old))

/-- AMO (R130): it waits until every earlier vector instruction has retired (R312). `f w old b d` is the new value. -/
def amoMember (onHost : Bool) (f : Nat → Nat → Nat → Nat → Nat) (d a b : XReg) (wd : BitVec 1) (s : State) : Out :=
  let w := if wd == 0 then 32 else 64
  let va := s.x a
  match amoAccess s w onHost va with
  | .error e => raiseMem e 0 s
  | .ok p =>
    if !s.me.settled s.me.nextSeq then stall .stream s
    else if s.badByte p.key then raise ⟨.uncorrectable, memBadVal p.key va, 0⟩ s
    else
      let r := atomicStep .scalar w p.key (fun old => f w old ((s.x b).toNat % 2 ^ w) ((s.x d).toNat % 2 ^ w)) (noteWalk s.who va s)
      writeX d (signExt w r.1) r.2

/-- CAS: the data where the old value equals xd, else the old value. -/
def fCas (_ old b d : Nat) : Nat := if old == d then b else old

def execAmoadd (d : XReg) (a : XReg) (b : XReg) (sz : BitVec 1) (s : State) : Out :=
  amoMember true fAdd d a b sz s
def execAmomin (d : XReg) (a : XReg) (b : XReg) (sz : BitVec 1) (s : State) : Out :=
  amoMember false fMin d a b sz s
def execAmomax (d : XReg) (a : XReg) (b : XReg) (sz : BitVec 1) (s : State) : Out :=
  amoMember false fMax d a b sz s
def execAmominn (d : XReg) (a : XReg) (b : XReg) (sz : BitVec 1) (s : State) : Out :=
  amoMember false fMinn d a b sz s
def execAmomaxn (d : XReg) (a : XReg) (b : XReg) (sz : BitVec 1) (s : State) : Out :=
  amoMember false fMaxn d a b sz s
def execAmoand (d : XReg) (a : XReg) (b : XReg) (sz : BitVec 1) (s : State) : Out :=
  amoMember false fAnd d a b sz s
def execAmoor (d : XReg) (a : XReg) (b : XReg) (sz : BitVec 1) (s : State) : Out :=
  amoMember false fOr d a b sz s
def execAmoxor (d : XReg) (a : XReg) (b : XReg) (sz : BitVec 1) (s : State) : Out :=
  amoMember false fXor d a b sz s
def execAmoswap (d : XReg) (a : XReg) (b : XReg) (sz : BitVec 1) (s : State) : Out :=
  amoMember true fMv d a b sz s
def execAmocas (d : XReg) (a : XReg) (b : XReg) (sz : BitVec 1) (s : State) : Out :=
  amoMember true fCas d a b sz s

/-- The accesses of a VAMO: element, address, key; or the lowest element that fails (R131). -/
def vamoPhase (s : State) (cap : Capture) (onHost : Bool) (a : VReg) : List Nat → Except (MemErr × Nat) (List (Nat × Word × Nat))
  | [] => .ok []
  | e :: es =>
    let va := wn (s.me.elem a.toNat e 64)
    match amoAccess s cap.sew onHost va with
    | .error err => .error (err, e)
    | .ok p =>
      match vamoPhase s cap onHost a es with
      | .error r => .error r
      | .ok l => .ok ((e, va, p.key) :: l)

def vamoBody (onHost : Bool) (f : Nat → Nat → Nat → Nat → Nat) (d a b : VReg) (k : MReg) (cap : Capture) (s : State) : VRes :=
  match vamoPhase s cap onHost a (activeOf cap s.me k),
      badSource s cap.elems [(a.toNat, 64), (b.toNat, cap.sew)] k with
  | .error (err, e), _ => memTrap err e s
  | .ok _, some t => .trap t s
  | .ok l, none =>
    match l.find? (fun q => s.badByte q.2.2) with
    | some q => .trap ⟨.uncorrectable, memBadVal q.2.2 q.2.1, 0⟩ s
    | none =>
      let data := l.map (fun q => s.me.elem b.toNat q.1 cap.sew)
      let s0 := l.foldl (fun s q => noteWalk s.who q.2.1 s) (s.modMe (zeroMasked cap k d.toNat 1 cap.vl))
      let s1 := (l.zip data).foldl (fun s q =>
        let r := atomicStep (.group (groupOf s.me cap.sew q.1.1)) cap.sew q.1.2.2 (fun old => f cap.sew old q.2 0) s
        r.2.modMe (fun h => h.setElem d.toNat q.1.1 cap.sew r.1)) s0
      .done ((s1.modMe (fun h => { h.tail cap.vtype d.toNat cap.sew cap.vl with vstart := 0 })).healVec cap s.me k d.toNat cap.sew)

/-- SEW 32 or 64, EK 0, groups with addresses of 64 bits (R46, R131). -/
def vamoCheck (d a b : VReg) : State → Option Cause :=
  checkType true (fun h =>
    let sew := sewOf h.vtype
    32 ≤ sew && !ekOf h.vtype && groupsOk h [(d.toNat, sew), (a.toNat, 64), (b.toNat, sew)] &&
    overlapOk h.vtype d.toNat sew a.toNat 64)

def vamoMember (w : Insn) (onHost : Bool) (f : Nat → Nat → Nat → Nat → Nat) (d a b : VReg) (k : MReg) (s : State) : Out :=
  vissue w (vamoCheck d a b) (fun _ => []) (vamoBody onHost f d a b k) s

def execVamoadd (d : VReg) (a : VReg) (b : VReg) (k : MReg) (s : State) : Out :=
  vamoMember (vr 0x2E#6 d a b 0#3 k 0#5) true fAdd d a b k s
def execVamomin (d : VReg) (a : VReg) (b : VReg) (k : MReg) (s : State) : Out :=
  vamoMember (vr 0x2E#6 d a b 0#3 k 1#5) false fMin d a b k s
def execVamomax (d : VReg) (a : VReg) (b : VReg) (k : MReg) (s : State) : Out :=
  vamoMember (vr 0x2E#6 d a b 0#3 k 2#5) false fMax d a b k s
def execVamominn (d : VReg) (a : VReg) (b : VReg) (k : MReg) (s : State) : Out :=
  vamoMember (vr 0x2E#6 d a b 0#3 k 3#5) false fMinn d a b k s
def execVamomaxn (d : VReg) (a : VReg) (b : VReg) (k : MReg) (s : State) : Out :=
  vamoMember (vr 0x2E#6 d a b 0#3 k 4#5) false fMaxn d a b k s
def execVamoand (d : VReg) (a : VReg) (b : VReg) (k : MReg) (s : State) : Out :=
  vamoMember (vr 0x2E#6 d a b 0#3 k 5#5) false fAnd d a b k s
def execVamoor (d : VReg) (a : VReg) (b : VReg) (k : MReg) (s : State) : Out :=
  vamoMember (vr 0x2E#6 d a b 0#3 k 6#5) false fOr d a b k s
def execVamoxor (d : VReg) (a : VReg) (b : VReg) (k : MReg) (s : State) : Out :=
  vamoMember (vr 0x2E#6 d a b 0#3 k 7#5) false fXor d a b k s
def execVamoswap (d : VReg) (a : VReg) (b : VReg) (k : MReg) (s : State) : Out :=
  vamoMember (vr 0x2E#6 d a b 0#3 k 8#5) true fMv d a b k s

end Sys2Proof.Machine
end

