-- ==== Sys2Proof/Machine/Iter.lean ====
section
/-!
DEFINITION. ITR: building stacks (R179 to R188), forming and pulling elements (R189 to R192, R198), ending (R193),
status (R197), WNEXT (R171) and the event ITERATOR_TABLE_READ.
-/

namespace Sys2Proof.Machine

/-! ### Forming elements (R182 to R186) -/

/-- The iterator engine's copy of the slots of the four stacks, and how many runs the stack itself has opened (R186). -/
structure IWork where
  slots : List (List ISlot)
  run : Nat

/-- What forming one element came to: the element; the end of the stack; an ICTR that waits for its counter; a deferred
fault; a table read of n bytes, with the value found; or unfinished work. -/
inductive Formed where
  | elem (f0 f1 : Word) (run : Option Nat) (closes : Bool) (w : IWork)
  | ended (w : IWork)
  | drained (w : IWork)
  | fault (t : Trap)
  | need (va : Word) (n x : Nat)
  | more (w : IWork)

/-- What forming reads: memory as the hart's engine reads it, the counters with how often each changed, the stack that
the pull names, and the table reads made already. The engine ahead of a pull makes one more read at a time; a pull makes
all that it needs (R195). -/
structure IEnv where
  s : State
  who : Who
  ctr : Nat → Word × Nat
  top : Nat
  seen : List (Word × Nat × Nat)
  eager : Bool

def IWork.slot (w : IWork) (i d : Nat) : ISlot := (w.slots.getD i []).getD d ⟨.irange, false, 0, 0, 0, 0⟩
def IWork.setSlot (w : IWork) (i d : Nat) (v : ISlot) : IWork :=
  { w with slots := w.slots.set i ((w.slots.getD i []).set d v) }

/-- Two fields reach slot d when an IZIP or IFLAT stands before it. -/
def IWork.two (w : IWork) (i d : Nat) : Bool :=
  ((w.slots.getD i []).take d).any (fun x => x.kind == .izip || x.kind == .iflat)

/-- ITER with its value, stack and reason (R188). -/
def iterTrap (i reason : Nat) (v : Word) : Trap :=
  ⟨.iter, wn (v.toNat % 2 ^ 32 * 2 ^ 32 + i * 256 + reason), 0⟩

/-- A table read of n bytes (R191, R330), and what follows it. -/
def IEnv.read (v : IEnv) (n : Nat) (va : Word) (k : Nat → Formed) : Formed :=
  match v.seen.find? (fun r => r.1 == va && r.2.1 == n) with
  | some r => k r.2.2
  | none =>
    match access v.s v.who .load n false va with
    | .error e => .fault ⟨e.cause, e.addr, 0⟩
    | .ok p =>
      if v.s.badByte p.key then .fault ⟨.uncorrectable, memBadVal p.key va, 0⟩
      else if v.eager then k (v.s.readN p.key n)
      else .need va n (v.s.readN p.key n)

def sx32 (n : Nat) : Word := signExt 32 n

/-- Where a join waits for its partner, the stream's own stacks stay as they stood and the partner's progress is
kept. -/
def keepPartner (w0 w1 w2 : IWork) : IWork :=
  { w2 with slots := (List.range 4).map (fun i =>
      if w1.slots.getD i [] == w2.slots.getD i [] then w0.slots.getD i [] else w2.slots.getD i []) }

/-- Stack j yields nothing to i: it had ended when i absorbed it, or is no longer i's (R184, R193). -/
def IEnv.dry (v : IEnv) (i j : Nat) : Bool :=
  let st := (v.s.hart v.who).iter (BitVec.ofNat 2 j)
  st.st != .absorbed || st.absorber != some (BitVec.ofNat 2 i) || st.exhausted

/-- The next element of slots 0 to d-1 of stack i. -/
def form (v : IEnv) : Nat → IWork → Nat → Nat → Formed
  | 0, w, _, _ => .more w
  | _ + 1, w, _, 0 => .ended w
  | _ + 1, w, i, 1 =>
    let s := w.slot i 0
    match s.kind with
    | .ilist =>
      if s.b ≤ s.c then .ended w
      else
        v.read 4 (s.a + 4 * s.c) (fun x => .elem (sx32 x) 0 none false (w.setSlot i 0 { s with c := s.c + 1 }))
    | .ictr =>
      let x := v.ctr s.other
      if s.flag && s.a == x.1 && s.c == wn x.2 then .drained w
      else .elem x.1 0 none false (w.setSlot i 0 { s with flag := true, a := x.1, c := wn x.2 })
    | _ => if s.b == 0 then .ended w else .elem s.a 0 none false (w.setSlot i 0 { s with a := s.a + 1, b := s.b - 1 })
  | fuel + 1, w, i, d + 1 =>
    let s := w.slot i d
    let two := w.two i d
    let put (f0 f1 : Word) (x : Word) : Word × Word := if two then (f0, x) else (x, f1)
    match s.kind with
    | .izip =>
      match form v fuel w i d with
      | .elem f0 f1 run cl w1 =>
        (match (if v.dry i s.other then .ended w1 else form v fuel w1 s.other (w1.slots.getD s.other []).length) with
        | .elem g0 g1 _ _ w2 =>
          .elem (if two then f1 else f0) (if w2.two s.other (w2.slots.getD s.other []).length then g1 else g0) run cl w2
        | .ended w2 => .ended w2
        | .drained w2 => .drained (keepPartner w w1 w2)
        | .fault t => .fault t
        | .need va n x => .need va n x
        | .more w2 => .more (keepPartner w w1 w2))
      | r => r
    | .ichain =>
      if s.flag then
        match (if v.dry i s.other then .ended w else form v fuel w s.other (w.slots.getD s.other []).length) with
        | .elem g0 g1 _ _ w1 => .elem g0 g1 none false w1
        | r => r
      else
        match form v fuel w i d with
        | .ended w1 => form v fuel (w1.setSlot i d { s with flag := true }) i (d + 1)
        | r => r
    | .iflat =>
      let j := (s.c.extractLsb' 32 32 : BitVec 32)
      let top := (s.c.extractLsb' 0 32 : BitVec 32)
      if s.flag then
        let last := !(j + 1).slt top
        .elem s.b (j.signExtend 64) (some w.run) last
          (w.setSlot i d { s with flag := !last, c := if last then 0 else (j + 1) ++ top, b := if last then 0 else s.b })
      else
        match form v fuel w i d with
        | .elem f0 _ _ _ w1 =>
          if f0.toNat > 2 ^ 32 - 2 then .fault (iterTrap v.top 8 f0)
          else
            v.read 4 (s.a + 4 * f0) (fun lo => v.read 4 (s.a + 4 * f0 + 4) (fun hi =>
              let l := BitVec.ofNat 32 lo
              let h := BitVec.ofNat 32 hi
              let w2 : IWork := if i == v.top then { w1 with run := w1.run + 1 } else w1
              if l.slt h then form v fuel (w2.setSlot i d { s with flag := true, b := f0, c := l ++ h }) i (d + 1)
              else form v fuel w1 i (d + 1)))
        | r => r
    | _ =>
      match form v fuel w i d with
      | .elem f0 f1 run cl w1 =>
        let x := if two then f1 else f0
        let pass (y : Word) : Formed := let q := put f0 f1 y; .elem q.1 q.2 run cl w1
        (match s.kind with
        | .imap => pass (s.a * x + s.b)
        | .imapt =>
          if x.msb || s.b ≤ x then .fault (iterTrap v.top 7 x) else v.read 4 (s.a + 4 * x) (fun y => pass (sx32 y))
        | .ifiltb =>
          if s.b ≤ x then form v fuel w1 i (d + 1)
          else v.read 1 (s.a + x / 8) (fun y => if y.testBit (x.toNat % 8) then pass x else form v fuel w1 i (d + 1))
        | .ifiltc => if s.a.sle x && x.slt s.b then pass x else form v fuel w1 i (d + 1)
        | _ => pass x)
      | r => r

/-! ### Prefetch (R187, R191, R198) -/

/-- A counter and how often it changed. -/
def LoopCtr.seen (l : LoopCtr) : Word × Nat := (l.cnt, l.changes)

/-- The counters as the vector stream sees them (R182). -/
def streamCtr (h : Hart) (k : Nat) : Word × Nat :=
  match h.stream with
  | e :: _ => (e.snap.loops.toList.getD k LoopCtr.zero).seen
  | [] => (h.loops.toList.getD k LoopCtr.zero).seen

/-- The counters as INEXT and WNEXT capture them at issue: c0 to c7, then how often each changed. -/
def pullCaps (s : State) : List Word := s.me.ctrs ++ s.me.loops.toList.map (fun l => wn l.changes)
def Capture.pullCtr (c : Capture) (k : Nat) : Word × Nat := (c.xs.getD k 0, (c.xs.getD (8 + k) 0).toNat)

def workOf (h : Hart) (i : StackNum) : IWork :=
  let st := h.iter i
  ⟨if st.work.isEmpty then allStacks.map (fun j => (h.iter j).slots) else st.work, st.runNo⟩

/-- Elements formed into the buffer until it holds `limit`, or the stack ends, drains or meets a fault, or a table read
has been made ahead of a pull. -/
def fill (v : IEnv) (i : StackNum) (limit : Nat) : Nat → Hart → Hart
  | 0, h => h
  | n + 1, h =>
    let st := h.iter i
    if st.fault.isSome || st.exhausted || limit ≤ st.buf.length then h
    else
      let w := workOf h i
      match form { v with seen := st.seen } 256 w i.toNat (w.slots.getD i.toNat []).length with
      | .elem f0 f1 run cl w1 =>
        fill v i limit n (h.setIter i { st with
          buf := st.buf ++ [⟨f0, f1, run, cl, w1.slots⟩], work := w1.slots, runNo := w1.run, seen := [] })
      | .ended w1 => h.setIter i { st with exhausted := true, work := w1.slots, runNo := w1.run, seen := [] }
      | .drained w1 => h.setIter i { st with work := w1.slots, runNo := w1.run }
      | .fault t => h.setIter i { st with fault := some t }
      | .need va k x => h.setIter i { st with seen := st.seen ++ [(va, k, x)] }
      | .more w1 => fill v i limit n (h.setIter i { st with work := w1.slots, runNo := w1.run, seen := [] })

/-- Whether the stack's next element waits for a counter (R190, R197). -/
def drainedNow (v : IEnv) (h : Hart) (i : StackNum) : Bool :=
  let w := workOf h i
  match form { v with seen := (h.iter i).seen } 256 w i.toNat (w.slots.getD i.toNat []).length with
  | .drained _ => true
  | _ => false

/-! ### Pulls (R189 to R192, R198) -/

inductive Taken where
  | group (es : List IElem)
  | fault (t : Trap) (pos : Nat)
  | wait

def runsDiffer (a b : IElem) : Bool := a.run != b.run

/-- Cuts the group from the buffer (R190); `tail` decides where the buffer runs out. -/
def cut (limit : Nat) (align : Bool) (tail : Nat → Option Taken) : List IElem → List IElem → Taken
  | acc, [] => if limit ≤ acc.length then .group acc else (tail acc.length).getD (.group acc)
  | acc, e :: buf =>
    if limit ≤ acc.length then .group acc
    else
      match acc.getLast? with
      | some p => if align && runsDiffer p e then .group acc else cut limit align tail (acc ++ [e]) buf
      | none => cut limit align tail (acc ++ [e]) buf

/-- The group of at most `limit` elements, and the hart with what the engine formed on the way; the group's elements are
taken out of the buffer. Behind an IENOUGH still to complete a pull delivers nothing (R193). -/
def pullGroup (s : State) (w : Who) (ctr : Nat → Word × Nat) (i : StackNum) (limit : Nat) : Taken × Hart :=
  let h0 := s.hart w
  let st0 := { h0.iter i with retry := false }
  if limit == 0 || st0.st == .ended || h0.itOps.any (fun o => o.stack == i && o.enough) then (.group [], h0)
  else
    let v : IEnv := ⟨s, w, ctr, i.toNat, [], true⟩
    let h := fill v i (limit + 1) (limit + 65) (h0.setIter i st0)
    let st := h.iter i
    let tail (n : Nat) : Option Taken :=
      match st.fault with
      | some t => some (.fault t n)
      | none => if st.exhausted || drainedNow v h i then none else some .wait
    match cut limit st.align tail [] st.buf with
    | .group es => (.group es, h.setIter i { st with buf := st.buf.drop es.length })
    | r => (r, h)

/-- The pull commits the slots just after its last element was formed (R198). -/
def Hart.commitPull (h : Hart) (i : StackNum) (es : List IElem) : Hart :=
  let st := h.iter i
  let h1 := match es.getLast? with
    | none => h
    | some l => (h.family i).foldl (fun h j => h.setIter j { h.iter j with slots := l.slots.getD j.toNat [] }) h
  let st1 := h1.iter i
  h1.setIter i { st1 with
    delivered := st.delivered + es.length
    runMark := match es.getLast? with | some l => l.closes | none => st.runMark }

/-- A sealed stack that is exhausted with nothing formed left is ended, with the stacks it absorbed (R180, R189). -/
def Hart.endIfDone (h : Hart) (i : StackNum) : Hart :=
  let st := h.iter i
  if st.st == .sealed && st.exhausted && st.buf.isEmpty && h.pulls.all (fun p => p.stack != some i) then h.endFamily i else h

/-- The deferred record is cleared when its trap is taken; the engine forms the group again (R192). -/
def Hart.clearDeferred (h : Hart) (i : StackNum) : Hart :=
  h.setIter i { h.iter i with fault := none, buf := [], seen := [], work := [], exhausted := false, retry := true }

/-- A deferred fault raised at the pull (R192), with the page request of a page that ATS refused. -/
def deferredTrap (i : StackNum) (t : Trap) (pos : Nat) (s : State) : VRes :=
  let s1 := s.modMe (fun h => h.clearDeferred i)
  let s2 := if t.cause == .notPresent then
      (match access s s.who .load 0 false t.val with
        | .error e => s1.sendPage s1.who e.page
        | .ok _ => s1)
    else s1
  .trap { t with elem := if t.cause.squash then pos else 0 } s2

/-- m0 of a pull: bits 0 to g-1 set, every other bit clear (R189). -/
def firstBits (g : Nat) : VBits := BitVec.ofNat 2097152 (2 ^ g - 1)

/-- One destination group of a pull (R189). -/
def putGroup (cap : Capture) (r : Nat) (vals : List Word) (h : Hart) : Hart :=
  let h1 := vals.zipIdx.foldl (fun h p => h.setElem r p.2 cap.sew p.1.toNat) h
  let h2 := if maOf cap.vtype then
      (List.range' vals.length (cap.vl - vals.length)).foldl (fun h e => h.setElem r e cap.sew 0) h1
    else h1
  h2.tail cap.vtype r cap.sew cap.vl

def dropPull (p : Pull) (h : Hart) : Hart :=
  { h with pulls := h.pulls.filter (fun q => !(q.num == p.num && q.win.isSome == p.win.isSome)) }

/-- INEXT of stack i completes: everything it writes, together (R189). -/
def finishInext (i : StackNum) (p : Pull) (s : State) : State :=
  let cap := p.entry.cap
  let d := p.dest.1
  let h := putGroup cap d (p.group.map (·.f0)) s.me
  let h := if p.two then putGroup cap (d + cap.lmul) (p.group.map (·.f1)) h else h
  let h := ((dropPull p (h.setMreg 0 (firstBits p.group.length))).commitPull i p.group).endIfDone i
  let s1 := (s.setMe (h.pushLq p.entry.seq (wn p.group.length))).healMask 0 (fun _ => true)
  let wr := cap.writes (fun e => e < p.group.length)
  let s2 := s1.healWrites d (emulOf cap.vtype cap.sew) cap.sew wr
  (if p.two then s2.healWrites (d + cap.lmul) (emulOf cap.vtype cap.sew) cap.sew wr else s2).pulseOp s.who 1

/-- The tiles of a group (R171). -/
def tilesOf (win : Window) (p : Pull) : List (Int × Int) :=
  let e0 : Int := win.extent 0
  p.group.map (fun e => if p.two then (e.f0.toInt, e.f1.toInt) else (e.f0.toInt % e0, e.f0.toInt / e0))

/-- WNEXT of window w replaces the tiles: its group is pulled for good, and the delivery begins (R171). -/
def installWnext (w : WinNum) (i : StackNum) (p : Pull) (h : Hart) : Hart :=
  let nw := { h.win w with tiles := tilesOf (h.win w) p, slots := [] }
  let h1 := (h.commitPull i p.group).setWin w nw
  { h1 with
    pulls := h1.pulls.map (fun q => if q.num == p.num && q.win.isSome then { q with stack := none } else q)
    reOps := h1.reOps ++ [⟨⟨p.num, p.entry.seq, none, p.entry.stamp⟩, w, .deliver, [], [nw.gatherBox], [], none, none, 0, false⟩] }

/-- WNEXT's count enters lq; with its delivery over it completes (R171). -/
def countWnext (p : Pull) (s : State) : State :=
  let s1 := s.modMe (fun h => (dropPull p h).pushLq p.entry.seq (wn p.group.length))
  if s.me.reOps.any (fun o => o.tag.num == p.num) then s1 else s1.pulseOp s.who 0

/-- A WNEXT's turn among the hart's RE operations: behind no held one, and its window's earlier ones complete; and no
earlier pull of its stack is left. -/
def Hart.wnextTurn (h : Hart) (w : WinNum) (i : StackNum) (p : Pull) : Bool :=
  p.held.isNone && p.formed && h.reOps.all (fun o => p.num ≤ o.tag.num || (o.tag.held.isNone && o.win != w)) &&
  h.pulls.all (fun q => q.win.isNone || q.stack.isNone || p.num ≤ q.num || (q.held.isNone && q.win != some w && q.stack != some i)) &&
  h.pulls.all (fun q => q.win.isSome || q.stack != some i || p.entry.stamp ≤ q.entry.stamp)

/-- Ends stack i as IENOUGH does: it and the stacks it absorbed are ended, what was formed is discarded (R193). -/
def Hart.endStack (h : Hart) (i : StackNum) : Hart :=
  let st := h.iter i
  if st.st == .sealed || st.st == .bound then
    (h.family i).foldl (fun h j => h.setIter j { h.iter j with
      st := .ended, absorber := none, buf := [], seen := [], work := [], fault := none, exhausted := true, win := none, retry := false }) h
  else h

/-- The effect of an ISEAL or IENOUGH when it starts, and its completion. -/
def itRun (w : Who) (o : ItOp) (s : State) : State :=
  (if o.enough then s.modHart w (fun h => h.endStack o.stack) else s).pulseOp w 1

/-- The first ISEAL or IENOUGH of the hart starts: it is not held, every INEXT of a lower number has completed, and for
an IENOUGH every earlier pull of its stacks (R193, R263). -/
def itStart (h : Hart) : Option ItOp :=
  h.itOps.head?.filter (fun o =>
    o.tag.held.isNone && h.pulls.all (fun p =>
      (p.win.isSome || o.tag.num < p.num) &&
      !(o.enough && p.entry.seq ≤ o.tag.seq && (match p.stack with | some j => (h.family o.stack).contains j | none => false))))

/-- What an incomplete pull can do next: INEXT completes in number order and both kinds push their counts in program order
(R31, R189); a WNEXT whose turn has come replaces its tiles. -/
def pullStep (s : State) : Option State :=
  let h := s.me
  match h.pulls.findSome? (fun p => match p.win, p.stack with
      | some w, some i => if h.wnextTurn w i p then some (installWnext w i p h) else none
      | _, _ => none) with
  | some h' => some (s.setMe h')
  | none =>
    match h.pulls with
    | [] => none
    | p :: _ =>
      if h.lq.length ≥ 8 then none
      else
        match p.win, p.stack with
        | none, some i =>
          if p.held.isNone && p.formed && h.itOps.all (fun o => p.num < o.tag.num) then some (finishInext i p s) else none
        | some _, none => some (countWnext p s)
        | _, _ => none

/-- The operations of hart w on the IT timeline, and its WNEXTs, go on as far as they can. -/
def itDrain (w : Who) : Nat → State → State
  | 0, s => s
  | n + 1, s =>
    match itStart (s.hart w) with
    | some o => itDrain w n (itRun w o (s.modHart w (fun h => { h with itOps := h.itOps.drop 1 })))
    | none =>
      match pullStep { s with agent := ⟨w, none⟩ } with
      | some s' => itDrain w n { s' with agent := s.agent }
      | none => s

/-- A pull leaves the stream, and completes as soon as it can; with no group it is formed later. -/
def leaveAsPull (word : Insn) (cap : Capture) (i : StackNum) (win : Option WinNum) (es : Option (List IElem)) (s : State) : State :=
  let e : Issued := match s.replay with
    | some e => { e with cap := cap }
    | none => ⟨word, cap, s.me.nextSeq, none, s.nextId, s.snap, none⟩
  let p : Pull := ⟨e, cap.num.getD 0, cap.arm, some i, win, es.getD [], (s.me.iter i).two, es.isSome, ⟨[], [], none⟩⟩
  itDrain s.who 64 { s.modMe (fun h =>
    { h with pulls := h.pulls ++ [p], nextSeq := if s.replay.isNone then h.nextSeq + 1 else h.nextSeq }) with nextId := s.nextId + 1 }

/-- Pulls of a stack with a limit, or of the stack bound to a gather window; an unbound one delivers nothing (R171). -/
def pullFor (s : State) (cap : Capture) (i : StackNum) (win : Option WinNum) : Taken × Hart :=
  match win with
  | none => pullGroup s s.who cap.pullCtr i cap.vl
  | some w =>
    if (s.me.iter i).st == .bound && (s.me.iter i).win == some w then
      pullGroup s s.who cap.pullCtr i (min cap.vl ((s.me.win w).tileCap s.me.lanes))
    else (.group [], s.me)

/-- The deferred fault of a pull (R192); a gather window's tiles are left released (R171). -/
def pullFault (i : StackNum) (win : Option WinNum) (t : Trap) (pos : Nat) (s : State) : VRes :=
  deferredTrap i t pos (match win with
    | none => s
    | some w => s.modMe (fun h => h.setWin w { h.win w with tiles := [], slots := [] }))

/-- Another operation acts on what a pull acts on, so a fault of it waits. -/
def pullBusy (s : State) (i : StackNum) (win : Option WinNum) : Bool :=
  s.me.stackBusy i || (match win with
    | none => false
    | some w => winBusy s w)

/-- A numbered pull at the head of the stream: it forms its group there, since a deferred fault is precise, and what it
writes follows. Where the Harness holds it, or it must wait to form the group, it leaves the stream without one (R189, R263;
log 51). -/
def startPull (word : Insn) (i : StackNum) (win : Option WinNum) (cap : Capture) (s : State) : VRes :=
  if cap.arm.isSome || (win.isNone && !s.me.itOps.isEmpty) then .done (leaveAsPull word cap i win none s)
  else
    let r := pullFor s cap i win
    let s2 := s.setMe r.2
    match r.1 with
    | .wait => .done (leaveAsPull word cap i win none s2)
    | .fault t pos => if pullBusy s2 i win then .done (leaveAsPull word cap i win none s2) else pullFault i win t pos s2
    | .group es => .done (leaveAsPull word cap i win (some es) s2)

def inextBody (word : Insn) (i : StackNum) (d : VReg) (cap : Capture) (s : State) : VRes :=
  let st := s.me.iter i
  if cap.num.isNone && st.st != .sealed && st.st != .ended then .trap (iterTrap i.toNat 6 0) s
  else if cap.num.isNone && st.two && d.toNat + 2 * cap.lmul > 32 then .trap (iterTrap i.toNat 9 0) s
  else
    let s1 := if cap.num.isNone then s.modMe (fun h => { h with tlit := h.tlit + 1 }) else s
    match startPull word i none { cap with num := some (cap.num.getD s1.me.tlit.toNat) } s1 with
    | .done s' => .done (s'.modMe (fun h => { h with vstart := 0 }))
    | r => r

/-- INEXT (R189): EK 0, SEW 32 or 64, VSTART 0. -/
def execInext (i : StackNum) (d : VReg) (s : State) : Out :=
  let w := vr 0x34#6 (0#3 ++ i) d 0#5 0#3 0#3 12#5
  vissue w (checkType false (fun h => !ekOf h.vtype && 32 ≤ sewOf h.vtype && groupOk h.vtype d.toNat (sewOf h.vtype)))
    pullCaps (inextBody w i d) s

/-! ### Building (R180 to R187) -/

/-- A member that builds: no type state, VSTART as it stands. -/
def buildMember (w : Insn) (caps : State → List Word) (i : StackNum) (reason : Capture → Hart → Option Nat)
    (f : Capture → Hart → Hart) (s : State) : Out :=
  vissue w (fun _ => none) caps
    (fun cap s =>
      if s.me.stackBusy i then .block
      else
        match reason cap s.me with
        | some r => .trap (iterTrap i.toNat r 0) s
        | none => .done (s.modMe (f cap)))
    s

def Hart.addSlot (h : Hart) (i : StackNum) (v : ISlot) (two : Bool) : Hart :=
  h.setIter i { h.iter i with slots := (h.iter i).slots ++ [v], two := two }

/-- IBEGIN: a sealed stack is first ended, an ended one that still names absorbed stacks ends them (R180). -/
def execIbegin (i : StackNum) (s : State) : Out :=
  buildMember (vr 0x34#6 (0#3 ++ i) 0#5 0#5 0#3 0#3 0#5) (fun _ => []) i
    (fun _ h => if (h.iter i).st == .absorbed || (h.iter i).st == .bound then some 1 else none)
    (fun _ h =>
      let h1 := ((h.family i).filter (· != i)).foldl (fun h j => h.setIter j { h.iter j with st := .ended, absorber := none }) (h.endStack i)
      h1.setIter i { IStack.clear with st := .building }) s

/-- Reasons of a source or an adaptor (R188). -/
def sourceReason (h : Hart) (i : StackNum) : Option Nat :=
  if (h.iter i).st != .building then some 1 else if !(h.iter i).slots.isEmpty then some 2 else none

def adaptorReason (h : Hart) (i : StackNum) : Option Nat :=
  if (h.iter i).st != .building then some 1
  else if (h.iter i).slots.isEmpty then some 2
  else if (h.iter i).slots.length ≥ 8 then some 3
  else none

def orElseReason (a : Option Nat) (c : Bool) (r : Nat) : Option Nat := if a.isSome then a else if c then some r else none

def xa (c : Capture) : Word := c.xs.getD 0 0
def xb (c : Capture) : Word := c.xs.getD 1 0

def execIrange (i : StackNum) (a : XReg) (b : XReg) (s : State) : Out :=
  buildMember (vr 0x34#6 (0#3 ++ i) a b 0#3 0#3 1#5) (fun s => [s.x a, s.x b]) i (fun _ h => sourceReason h i)
    (fun c h => h.addSlot i ⟨.irange, false, 0, xa c, xb c, 0⟩ false) s
def execIlist (i : StackNum) (a : XReg) (b : XReg) (s : State) : Out :=
  buildMember (vr 0x34#6 (0#3 ++ i) a b 0#3 0#3 2#5) (fun s => [s.x a, s.x b]) i (fun c h => orElseReason (sourceReason h i) (xa c &&& 3 != 0) 10)
    (fun c h => h.addSlot i ⟨.ilist, false, 0, xa c, xb c, 0⟩ false) s
def execIctr (i : StackNum) (c : CtrNum) (s : State) : Out :=
  buildMember (vr 0x34#6 (0#3 ++ i) (0#2 ++ c) 0#5 0#3 0#3 3#5) (fun _ => []) i (fun _ h => sourceReason h i)
    (fun _ h => h.addSlot i ⟨.ictr, false, c.toNat, 0, 0, 0⟩ false) s
def execImap (i : StackNum) (a : XReg) (b : XReg) (s : State) : Out :=
  buildMember (vr 0x34#6 (0#3 ++ i) a b 0#3 0#3 4#5) (fun s => [s.x a, s.x b]) i (fun _ h => adaptorReason h i)
    (fun c h => h.addSlot i ⟨.imap, false, 0, xa c, xb c, 0⟩ (h.iter i).two) s
def execImapt (i : StackNum) (a : XReg) (b : XReg) (s : State) : Out :=
  buildMember (vr 0x34#6 (0#3 ++ i) a b 0#3 0#3 5#5) (fun s => [s.x a, s.x b]) i (fun c h => orElseReason (adaptorReason h i) (xa c &&& 3 != 0) 10)
    (fun c h => h.addSlot i ⟨.imapt, false, 0, xa c, xb c, 0⟩ (h.iter i).two) s
def execIfiltb (i : StackNum) (a : XReg) (b : XReg) (s : State) : Out :=
  buildMember (vr 0x34#6 (0#3 ++ i) a b 0#3 0#3 6#5) (fun s => [s.x a, s.x b]) i (fun _ h => adaptorReason h i)
    (fun c h => h.addSlot i ⟨.ifiltb, false, 0, xa c, xb c, 0⟩ (h.iter i).two) s
def execIfiltc (i : StackNum) (a : XReg) (b : XReg) (s : State) : Out :=
  buildMember (vr 0x34#6 (0#3 ++ i) a b 0#3 0#3 7#5) (fun s => [s.x a, s.x b]) i (fun _ h => adaptorReason h i)
    (fun c h => h.addSlot i ⟨.ifiltc, false, 0, xa c, xb c, 0⟩ (h.iter i).two) s

/-- Reasons of a join (R184, R188). Where several rules are broken, the spec gives no order: the table's is taken (DESIGN
CHOICE, log 48). -/
def joinReason (h : Hart) (i j : StackNum) (sameFields : Bool) : Option Nat :=
  if (h.iter j).st == .absorbed then some 1
  else
    let r := orElseReason (adaptorReason h i) (sameFields && (h.iter i).two != (h.iter j).two) 4
    orElseReason r (i == j || !((h.iter j).st == .sealed || (h.iter j).st == .ended)) 5

/-- A slot of a stack that has ended, as its absorber finds it: a source has nothing left, and no run is open. ICTR, which has
no such state, is dry by the stack's own mark (R193, R199). -/
def ISlot.dry (x : ISlot) : ISlot :=
  match x.kind with
  | .irange => { x with b := 0 }
  | .ilist => { x with c := x.b }
  | .iflat => { x with flag := false, b := 0, c := 0 }
  | _ => x

/-- Stack j becomes absorbed by i: from then on its slots alone say what it yields, and one that had ended yields nothing
(R179, R193, R198; DEDUCED, log 51). -/
def Hart.absorb (h : Hart) (i j : StackNum) : Hart :=
  let ended := (h.iter j).st == .ended
  h.setIter j { h.iter j with
    st := .absorbed, absorber := some i, buf := [], seen := [], work := [], fault := none, exhausted := ended
    slots := if ended then (h.iter j).slots.map ISlot.dry else (h.iter j).slots }

/-- A join waits for what acts on either stack. -/
def joinMember (w : Insn) (i j : StackNum) (reason : Hart → Option Nat) (f : Hart → Hart) (s : State) : Out :=
  vissue w (fun _ => none) (fun _ => [])
    (fun _ s =>
      if s.me.stackBusy i || s.me.stackBusy j then .block
      else
        match reason s.me with
        | some r => .trap (iterTrap i.toNat r 0) s
        | none => .done (s.modMe f))
    s

def execIzip (i : StackNum) (j : StackNum) (s : State) : Out :=
  joinMember (vr 0x34#6 (0#3 ++ i) (0#3 ++ j) 0#5 0#3 0#3 8#5) i j (fun h => joinReason h i j false)
    (fun h => (h.absorb i j).addSlot i ⟨.izip, false, j.toNat, 0, 0, 0⟩ true) s
def execIchain (i : StackNum) (j : StackNum) (s : State) : Out :=
  joinMember (vr 0x34#6 (0#3 ++ i) (0#3 ++ j) 0#5 0#3 0#3 9#5) i j (fun h => joinReason h i j true)
    (fun h => (h.absorb i j).addSlot i ⟨.ichain, false, j.toNat, 0, 0, 0⟩ (h.iter i).two) s
def execIflat (i : StackNum) (a : XReg) (s : State) : Out :=
  buildMember (vr 0x34#6 (0#3 ++ i) a 0#5 0#3 0#3 10#5) (fun s => [s.x a]) i
    (fun c h => orElseReason (orElseReason (adaptorReason h i) (h.iter i).two 4) (xa c &&& 3 != 0) 10)
    (fun c h => h.addSlot i ⟨.iflat, false, 0, xa c, 0, 0⟩ true) s
def execIfill (i : StackNum) (f : BitVec 1) (s : State) : Out :=
  buildMember (vr 0x34#6 (0#3 ++ i) 0#5 (0#4 ++ f) 0#3 0#3 11#5) (fun _ => []) i (fun _ h => if (h.iter i).st != .building then some 1 else none)
    (fun _ h => h.setIter i { h.iter i with align := f == 1 }) s

/-! ### ISEAL, IENOUGH, ISTAT (R187, R193, R196, R197) -/

/-- A numbered ITR member other than INEXT. -/
def itIssue (cap : Capture) (i : StackNum) (enough : Bool) (s : State) : State :=
  let s1 := { s.modMe (fun h => { h with
      tlit := h.tlit + 1
      itOps := h.itOps ++ [⟨⟨(h.tlit + 1).toNat, s.seqNow, cap.arm, s.nextId⟩, i, enough⟩] }) with nextId := s.nextId + 1 }
  itDrain s.who 64 s1

def execIseal (i : StackNum) (s : State) : Out :=
  vissue (vr 0x34#6 (0#3 ++ i) 0#5 0#5 0#3 0#3 15#5) (fun _ => none) (fun _ => [])
    (fun cap s =>
      let st := s.me.iter i
      if s.me.stackBusy i then .block
      else if st.st != .building then .trap (iterTrap i.toNat 1 0) s
      else if st.slots.isEmpty then .trap (iterTrap i.toNat 2 0) s
      else .done (itIssue cap i false (s.modMe (fun h => h.setIter i { st with
        st := .sealed, delivered := 0, runMark := false, buf := [], seen := [], work := [], runNo := 0, fault := none, exhausted := false, retry := false })))) s

def execIenough (i : StackNum) (s : State) : Out :=
  vissue (vr 0x34#6 (0#3 ++ i) 0#5 0#5 0#3 0#3 13#5) (fun _ => none) (fun _ => [])
    (fun cap s =>
      if (s.me.iter i).st == .absorbed then .trap (iterTrap i.toNat 1 0) s
      else .done (itIssue cap i true s)) s

def StackState.code : StackState → Nat
  | .free => 0 | .building => 1 | .sealed => 2 | .ended => 3 | .absorbed => 4 | .bound => 5

/-- ISTAT's word; `ctr` reads the counters as the instruction found them. WAIT looks at the stack's own slots: whether it
counts an ICTR of a stack that it absorbed the spec does not say (DESIGN CHOICE, log 62). -/
def Hart.istat (h : Hart) (ctr : Nat → Word × Nat) (i : StackNum) : Word :=
  let st := h.iter i
  let dry := st.st != .ended && st.slots.any (fun x => x.kind == .ictr && x.flag && x.a == (ctr x.other).1 && x.c == wn (ctr x.other).2)
  wn (st.st.code * 2 ^ 61 + (if st.two then 2 ^ 60 else 0) + (if st.align then 2 ^ 59 else 0)
    + (if st.fault.isSome then 2 ^ 58 else 0) + (if dry then 2 ^ 57 else 0) + st.slots.length * 2 ^ 53
    + min st.buf.length 65535 * 2 ^ 32 + min st.delivered (2 ^ 32 - 1))

/-- ISTAT (R197): every earlier ITR instruction has executed. -/
def execIstat (i : StackNum) (s : State) : Out :=
  vissue (vr 0x34#6 (0#3 ++ i) 0#5 0#5 0#3 0#3 14#5) (fun _ => none) pullCaps
    (fun cap s =>
      if !s.me.itOps.isEmpty || s.me.pulls.any (fun p => p.win.isNone || p.stack == some i) then .block
      else pushQ1 (s.me.istat cap.pullCtr i) s) s

/-! ### WNEXT (R171) -/

/-- WNEXT at the head of the stream. A window without tile capacity gets no tile, as the spec names no other bound (DESIGN
CHOICE, log 46). -/
def wnextBody (word : Insn) (w : WinNum) (cap : Capture) (s : State) : VRes :=
  let win := s.me.win w
  if cap.num.isNone && !(win.isOpen && win.gather) then windowBind w 0x0B s
  else if s.myCore.scoreboard ≥ 64 then .block
  else
    let s1 := if cap.num.isNone then s.modMe (fun h => { h with tlre := h.tlre + 1 }) else s
    startPull word win.stack (some w) { cap with num := some (cap.num.getD s1.me.tlre.toNat) } s1

def execWnext (w : WinNum) (s : State) : Out :=
  let word := vr 0x30#6 (0#2 ++ w) 0#5 0#5 0#3 0#3 8#5
  vissue word (fun _ => none) pullCaps (wnextBody word w) s

/-! ### ITERATOR_TABLE_READ (R191, R200) -/

/-- How far the engine forms ahead: 512 fields (R200). -/
def prefetchLimit (h : Hart) (i : StackNum) : Nat := if (h.iter i).two then 256 else 512

/-- The turn of a pull that has still to form its group: released, and behind no operation of a lower number that must start
first (R263). -/
def Hart.formTurn (h : Hart) (i : StackNum) (p : Pull) : Bool :=
  match p.win with
  | none => p.held.isNone && h.itOps.all (fun o => p.num < o.tag.num)
  | some w => h.wnextTurn w i { p with formed := true }

/-- A pull of the hart forms its group after it has left the stream. Its deferred fault discards what came after it (R192,
R312). -/
def formPull (p : Pull) (i : StackNum) (s : State) : State :=
  let r := pullFor s p.entry.cap i p.win
  let s1 := s.setMe r.2
  match r.1 with
  | .wait => s1
  | .group es => s1.modMe (fun h => { h with pulls := h.pulls.map (fun q =>
      if q.entry.stamp == p.entry.stamp then { q with group := es, formed := true } else q) })
  | .fault t pos =>
    let s2 := { s1.modMe (fun h => p.undo.apply (dropPull p h)) with replay := some p.entry }
    if pullBusy s2 i p.win then s1 else endReplay p.entry s2 (pullFault i p.win t pos s2)

/-- Pending operations go on; a pull that has left the stream without its group forms it; else the engine forms elements of a
sealed or bound stack, making one table read at most. -/
def execIteratorTableRead (who : Who) (stack : StackNum) (s : State) : Out :=
  let s1 := itDrain who 64 s
  let h := s1.hart who
  let st := h.iter stack
  match h.pulls.find? (fun p => !p.formed && p.stack == some stack) with
  | some p => .next (if h.formTurn stack p then itDrain who 64 (s1.asHart who (formPull p stack)) else s1)
  | none =>
    if (st.st == .sealed || st.st == .bound) && !st.retry && h.itOps.all (fun o => o.stack != stack) then
      .next (s1.setHart who (fill ⟨s1, who, streamCtr h, stack.toNat, [], false⟩ stack (prefetchLimit h stack) 64 h))
    else .next s1

end Sys2Proof.Machine
end

