-- ==== Sys2Proof/Machine/Sync.lean ====
section
/-!
DEFINITION. SYNC (R246 to R256, R262 to R264): fences, barrier words, timeline waits, the Harness with its event
HARNESS_CYCLE (R257 to R261), and the events BWAIT_RETURN and ACCESS_PERFORMED.
-/

namespace Sys2Proof.Machine

/-! ### Stores performed (R64, R125) and the event ACCESS_PERFORMED -/

/-- Every accepted store of a hart is performed, each agent's in its order. -/
def drainHart (w : Who) (s : State) : State := (s.storesOf w).foldl (fun s t => s.performStore t) s

/-- ACCESS_PERFORMED: a queued store that may be performed is performed at its home slice (R64, R125). -/
def execAccessPerformed (who : Who) (access : Nat) (s : State) : Out :=
  match s.stores.find? (fun t => t.id == access && t.who == who) with
  | some t => .next (if s.storeReady t then s.performStore t else s)
  | none => .next s

/-- A remote store that was lost is raised at the hart's release (R271); then k. -/
def released (k : State → Out) (s : State) : Out :=
  match s.me.lost with
  | some va => if !s.me.settled s.me.nextSeq then stall .stream s else raise ⟨.uncorrectable, memBadVal (2 ^ 61) va, 0⟩ (s.modMe (fun h => { h with lost := none }))
  | none => k s

/-! ### Fences (R248, R249) -/

/-- FENCE: at hart scope every later access of the hart comes after the scalar unit's stores; at a wider scope the scalar unit's stores are
performed, once the vector instructions before them have retired. -/
def execFence (s : State) : Out :=
  let h := s.me
  if scopeOf h.vtype == 0 then
    done (({ s with stores := s.stores.map (fun t => if t.who == s.who && t.by' == .scalar then { t with fenced := true } else t) } : State).fencedDone.fenceAt 0)
  else
    let mine := s.scalarStores s.who
    if mine.all (fun t => h.settled t.seq) then released (fun s => done (s.fenceAt (scopeOf s.me.vtype))) (mine.foldl (fun s t => s.performStore t) s) else stall .stream s

/-- A full fence: every earlier vector instruction has completed, an XRECV among them, and every store of the hart is
performed (R249, R278). -/
def vecFence (k : State → Out) (s : State) : Out :=
  if s.me.vecDone then released k (drainHart s.who s) else stall .stream s

/-- The fence part of another member, after which every observer sees every write (log 26). -/
def fullFence (k : State → Out) (s : State) : Out := vecFence (fun s => k s.allSee) s

def execVfence (s : State) : Out := vecFence (fun s => done (s.fenceAt (scopeOf s.me.vtype))) s
def execLsync (s : State) : Out := vecFence (fun s => done (s.fenceAt 0)) s

/-! ### Barrier words (R250 to R253) -/

/-- The checks of R250 on a barrier word, in their order. -/
def barrierAccess (s : State) (write : Bool) (va : Word) : Except MemErr Phys :=
  match accessRaw s s.who .load 8 false va with
  | .error e => .error { e with wr := write }
  | .ok p =>
    match (if write then accessRaw s s.who .store 8 false va else .ok p) with
    | .error e => .error e
    | .ok p =>
      if p.tgt == .host then .error ⟨.perm, va, none, write⟩
      else if p.compressed then .error ⟨.compressed, va, none, write⟩
      else .ok p

/-- The new word after an arrival (R251). -/
def arriveWord (w : Word) : Word :=
  let ph := bitsOf w 32 32
  let ar := bitsOf w 16 16 + 1
  let ex := bitsOf w 0 16
  if ex ≤ ar then wn ((ph + 1) % 2 ^ 32 * 2 ^ 32 + ex) else wn (ph * 2 ^ 32 + ar * 2 ^ 16 + ex)

/-- The phase is past the target over a half range (R253). -/
def pastTarget (w : Word) (t : BitVec 32) : Bool := (w.extractLsb' 32 32 - t).toNat < 2 ^ 31

def execBarrive (a : XReg) (s : State) : Out :=
  match barrierAccess s true (s.x a) with
  | .error e => raiseMem e 0 s
  | .ok p =>
    fullFence (fun s =>
      if s.badByte p.key then raise ⟨.uncorrectable, memBadVal p.key (s.x a), 0⟩ s
      else
        let s1 := noteWalk s.who (s.x a) s
        done ((s1.linkTo p.key 1).writeN p.key 8 (arriveWord (wn (s1.readN p.key 8))).toNat)) s

/-- The wait read of a BWAIT at address va: it returns and acquires where the phase is past the target. -/
def bwaitRead (va : Word) (t : BitVec 32) (p : Phys) (s : State) : Option State :=
  if pastTarget (wn (s.ownN s.who .scalar p.key 8)) t then some (finish (drainHart s.who (noteWalk s.who va s)).allSee) else none

def execBwait (a : XReg) (b : XReg) (s : State) : Out :=
  let va := s.x a
  let t := (s.x b).extractLsb' 0 32
  match barrierAccess s false va with
  | .error e => raiseMem e 0 s
  | .ok p =>
    if !s.me.vecDone then stall .stream s
    else if s.badByte p.key then raise ⟨.uncorrectable, memBadVal p.key va, 0⟩ s
    else
      match bwaitRead va t p s with
      | some s' => .next s'
      | none => stall (.barrier va t) s

/-- BINIT: one relaxed store of the scalar unit (R251). -/
def execBinit (a : XReg) (b : XReg) (s : State) : Out :=
  match barrierAccess s true (s.x a) with
  | .error e => raiseMem e 0 s
  | .ok p =>
    let v := bitsOf (s.x b) 32 32 * 2 ^ 32 + bitsOf (s.x b) 0 16
    done ((noteWalk s.who (s.x a) s).queueStore .scalar (s.x a) (cellsAt p.key (bytesOf 8 v)))

/-- BWAIT_RETURN (R253): the wait read of a hart in BWAIT that finds the phase past the target. -/
def execBwaitReturn (who : Who) (s : State) : Out :=
  match (s.hart who).run with
  | .waiting (.barrier va t) =>
    .next (s.asHart who (fun s =>
      match barrierAccess s false va with
      | .ok p => (bwaitRead va t p s).getD s
      | .error _ => s))
  | _ => .next s

/-! ### Timelines (R28, R254, R255) -/

/-- The engine context of a numbered member that issues in the vector stream. -/
def engineOf (w : Insn) : Nat :=
  match majorOf w with
  | 0x30 => 0
  | 0x34 => 1
  | 0x36 => 2
  | 0x37 => 3
  | _ => 4

def Hart.counter (h : Hart) (e : Nat) : Word :=
  match e with
  | 0 => h.tlre | 1 => h.tlit | 3 => h.tlkv | 4 => h.tlxc | _ => h.tlln

/-- Numbers of the incomplete operations of a context. -/
def State.pending (s : State) (w : Who) (e : Nat) : List Nat :=
  let h := s.hart w
  (match e with
    | 0 => h.reOps.map (·.tag.num) ++ (h.pulls.filter (fun p => p.win.isSome)).map (·.num)
    | 1 => h.itOps.map (·.tag.num) ++ (h.pulls.filter (fun p => p.win.isNone)).map (·.num)
    | 2 => (s.core w.core).matrix.ops.map (·.tag.num)
    | 4 => h.xops.map (·.tag.num)
    | 5 => (s.pool.filter (fun c => c.isOf w)).map (·.tag.num)
    | _ => []) ++
  (h.stream.filter (fun x => isEngine x.word && engineOf x.word == e)).filterMap (·.cap.num)

/-- The row operations of a hart that wait for a row of a window to enter the queue (R172, R216). -/
def State.rowWaiters (s : State) (w : Who) (i : WinNum) : List MxOp :=
  let m := (s.core w.core).matrix
  ((m.claimers w i).filter (fun o => !o.away)).drop (m.rowsIn w i)

/-- The RE operation that delivers a window's held row: its first with a slab to land. -/
def Hart.delivers (h : Hart) (o : ReOp) : Bool :=
  (h.reOps.find? (fun p => p.win == o.win && !p.slabs.isEmpty)).map (·.tag.num) == some o.tag.num

/-- A failure that an incomplete operation numbered at or below n holds or waits for, with its window (R169, R172). -/
def State.failure (s : State) (w : Who) (e n : Nat) : Option (WinNum × Trap) :=
  let h := s.hart w
  match e with
  | 0 => (h.reOps.filter (fun o => o.tag.num ≤ n)).findSome? (fun o =>
      (match o.failed with
        | some t => some t
        | none => if h.delivers o then (h.win o.win).held else none).map (fun t => (o.win, t)))
  | 2 => allWins.findSome? (fun i =>
      if (s.rowWaiters w i).any (fun o => o.tag.num ≤ n) then (h.win i).held.map (fun t => (i, t)) else none)
  | _ => none

/-- The executing hart's launch owns the core's matrix unit (R28). -/
def State.ownsMatrix (s : State) : Bool := s.myCore.matrix.owner.isSome && s.myCore.matrix.owner == s.me.launch

/-- Whether TLWAIT may complete: every operation numbered at or below n has completed (R255); on MX it returns at once
where the launch does not own the unit (R28). -/
def State.tlDone (s : State) (w : Who) (e n : Nat) : Bool :=
  let h := s.hart w
  let ctr := if e == 2 then s.tlmx else h.counter e
  (e == 2 && !s.ownsMatrix) ||
  ((s.pending w e).all (fun k => n < k) &&
    (n ≤ ctr.toNat || (e != 2 && h.stream.all (fun x =>
      !(isEngine x.word && engineOf x.word == e && x.cap.num.isNone) && !(e == 0 && x.adv.isSome)))))

def execTlwait (eng : BitVec 5) (a : XReg) (s : State) : Out :=
  let n := (s.x a).toNat
  match s.failure s.who eng.toNat n with
  | some (w, t) => raiseFailed w t s
  | none => if s.tlDone s.who eng.toNat n then done s.allSee else stall (.timeline eng n) s

/-! ### The Harness (R256 to R264) -/

def hWord (a : XReg) (fn : BitVec 5) : Insn := sr 0x38#6 0#5 a 0#5 0#6 fn

def bindHarness (s : State) : State := s.modMe (fun h => { h with hbound := true })

/-- HEVT (R262): its pulse is held until every earlier vector instruction has retired (R312). -/
def execHevt (a : XReg) (s : State) : Out :=
  if !s.ownsHarness then config (hWord a 7) s
  else done (s.later (.pulse (48 + bitsOf (s.x a) 0 3)))

/-- HWAIT (R264): the hart waits for a firing, which HARNESS_CYCLE brings; an earlier vector instruction that could still
trap would undo the wait, so that begins once all have retired (R312). -/
def execHwait (a : XReg) (s : State) : Out :=
  if !s.ownsHarness then config (hWord a 8) s
  else if !s.me.settled s.me.nextSeq then stall .stream s
  else stall (.output ((s.x a).extractLsb' 0 4)) (bindHarness s)

/-- HARM (R263). -/
def execHarm (a : XReg) (s : State) : Out :=
  if !s.ownsHarness then config (hWord a 9) s
  else done ((bindHarness s).modMe (fun h => { h with arming := some ((s.x a).extractLsb' 0 4) }))

/-- HARNESS_CYCLE (R261), with the oldest pulses that have yet to be counted (R257). -/
def execHarnessCycle (tick : HarnessTick) (s : State) : Out := .next (harnessCycle tick.core tick.pulses s).allSee

end Sys2Proof.Machine
end

