-- ==== Sys2Proof/Machine/VConfig.lean ====
section
/-!
DEFINITION. VSETVL, VSETVLI, VSETVLQ and Relay (R42, R43, R90 to R93, R176), LPART (R94), GANG, UNGANG and
GANG_FORMED (R95, R96), and the closing of a hart's windows and stacks that EXIT, LPART, GANG and UNGANG share (R74).
-/

namespace Sys2Proof.Machine

/-! ### The lane grant (R91) -/

/-- The largest power of two that is not above x, for x from 1 to 32. -/
def powerBelow (x : Nat) : Nat := 2 ^ Nat.log2 x

/-- The grant: outside a gang it respects min(CTRL, SUP) of GRANTCEIL (R91, R310). -/
def Hart.grant (h : Hart) : Nat :=
  if h.gang.isSome then h.avail
  else powerBelow (min h.avail (max 1 (min h.sup.ceilSup.toNat h.sup.ceilCtrl.toNat)))

/-! ### Relay (R93, R176) -/

/-- Steps 2 and 5 of R93: granules and mask bits beyond the smaller lane count are zeroed; the new count is in force. -/
def Hart.relaid (h : Hart) (g : Nat) : Hart :=
  let keep := min h.lanes g * 1024
  { h with v := h.v.map (fun r => cutBits r keep), m := h.m.map (fun r => cutBits r keep), lanes := g }

/-- The scratch of some lanes of a core is zeroed. -/
def clearScratch (c : CoreId) (lanes : List Nat) (s : State) : State :=
  let s1 := s.modCore c (fun k => { k with scratch := k.scratch.filter (fun x => !lanes.contains (x.1 / 2 ^ 17)) })
  { s1 with bad := s1.bad.filter (fun b => match b with
      | .scratch c' l _ => !(c' == c && lanes.contains l)
      | _ => true) }

/-- The lock tables of some lanes are cleared (R129). -/
def clearLocks (c : CoreId) (lanes : List Nat) (s : State) : State :=
  s.modCore c (fun k => { k with locks := Vector.ofFn (fun i => if lanes.contains i.val then 0 else k.locks.get i) })

/-- The rebuild of one open window on the new lanes, or its closing where it no longer fits (R176); operations before that
keep the elements that they have still to write back. -/
def relayWindow (w : WinNum) (s : State) : State :=
  let h := s.me
  let win := h.win w
  let cap := s.capture []
  if !win.isOpen then s
  else if win.strm then pushWin cap w .rebuild [] [] none s
  else
    let used := (allWins.filter (fun i => i.toNat < w.toNat && (h.win i).isOpen)).map (fun i => ((h.win i).unit0, (h.win i).alloc))
    let fits := !badFit win h.lanes && (!win.gather || win.tiles.length ≤ win.tileCap h.lanes)
    match (if fits then freeRun used s.myCore.scratchSize win.alloc else none) with
    | some u =>
      let box := win.heldBox h.ctr
      pushWin cap w .rebuild [box] [box] none (s.modMe (fun h => h.setWin w { win with unit0 := u }))
    | none =>
      pushWin cap w .close [win.heldBox h.ctr] [] (some win) (s.modMe (fun h =>
        (h.dropOps w).setWin w { win with st := .bound, slots := [], tiles := [], rowsTaken := 0, rowsSent := 0 }))

/-- Relay(g) once every earlier vector instruction has completed (R93). -/
def relay (g : Nat) (s : State) : State :=
  let h := s.me
  let base := (s.laneCore s.who 0).2
  let lo := min h.lanes g
  let moved := (List.range (max h.lanes g)).map (base + ·)
  let s1 := clearLocks s.who.core moved (clearScratch s.who.core (moved.drop lo) s)
  let s2 := { s1.modMe (fun h => h.relaid g) with bad := s1.bad.filter (fun b => match b with
    | .vreg w _ i | .mreg w _ i => !(w == s.who && 16 * lo ≤ i)
    | _ => true) }
  allWins.foldl (fun s w => relayWindow w s) s2

/-! ### Setting the length (R43, R92) -/

/-- A legal requested type (R43). -/
def typeLegal (t : Word) : Bool :=
  bitsOf t 0 3 < 4 && !(ekOf t && (bitsOf t 0 3 == 0 || bitsOf t 0 3 == 3)) && scopeOf t < 5 &&
  bitsOf t 11 5 == 0 && bitsOf t 24 40 == 0

/-- VTYPE and VL from a request under the grant in force; a new length setting begins (R92). -/
def Hart.setType (h : Hart) (avl req : Word) : Hart :=
  if typeLegal req then
    { h with vtype := req, vl := min avl.toNat (vlmaxOf h.lanes req), vstart := 0, epoch := h.epoch + 1 }
  else { h with vtype := villType, vl := 0, vstart := 0, epoch := h.epoch + 1 }

/-- SOFT is satisfied by a length setting under the new ceiling (R323). -/
def Hart.clearSoft (h : Hart) : Hart := { h with sup := { h.sup with soft := false, left := 0 } }

/-- The common part of the three members: the grant, Relay where it changed, the type, and VL into xd (R92). A Relay
waits until every earlier vector instruction has completed, an MLDS has read its slots (R211), and for a scoreboard entry per
window. -/
def setLength (d : XReg) (avl req : Word) (s : State) : Out :=
  let g := s.me.grant
  if g != s.me.lanes && !(s.me.vecDone && s.myCore.matrix.ops.all (fun o => o.who != s.who || o.kind != .lds)) then stall .stream s
  else if g != s.me.lanes && s.myCore.scoreboard + (allWins.filter (fun w => (s.me.win w).isOpen)).length > 64 then stall .room s
  else
    let s1 := if g != s.me.lanes then relay g s else s
    let s2 := s1.modMe (fun h => (h.setType avl req).clearSoft)
    writeX d (wn s2.me.vl) s2

def execVsetvl (d : XReg) (a : XReg) (b : XReg) (s : State) : Out :=
  setLength d (s.x a) (s.x b) s
def execVsetvli (d : XReg) (a : XReg) (i : BitVec 16) (s : State) : Out :=
  setLength d (s.x a) ((s.me.vtype &&& 0xFF0000) ||| i.zeroExtend 64) s

/-- VSETVLQ waits for an entry of lq, which it pops (R31, R92). -/
def execVsetvlq (d : XReg) (s : State) : Out :=
  match s.me.lq with
  | [] => stall .queue s
  | n :: q =>
    match setLength d n (if s.me.vill then villType else s.me.vtype) (s.modMe (fun h => { h with lq := q })) with
    | .next s' => if s'.me.epoch == s.me.epoch then .next (s.waits .stream) else .next s'
    | o => o

/-! ### Closing windows and stacks (R74) -/

/-- Closes a bound or open window as WCLOSE does; each close takes an RE number (R74, R164). -/
def closeWin (s : State) (w : WinNum) : State :=
  let win := s.me.win w
  let cap := s.capture []
  let unbound (s : State) : State := s.modMe (fun h => h.unbind w)
  if win.st == .unbound then s
  else if !win.isOpen then pushWin cap w .closeBound [] [] none (unbound s)
  else if win.strm then pushWin cap w .close [] [] none (unbound ((s.closeRows w).modMe (fun h => h.cancelRows w)))
  else pushWin cap w .close [win.heldBox s.me.ctr] [] (some win) (unbound s)

/-- Ends a sealed or bound stack as IENOUGH does, once; each such end takes an IT number (R74). -/
def endOne (s : State) (i : StackNum) : State :=
  let st := (s.me.iter i).st
  if (st == .sealed || st == .bound) && !s.me.itOps.any (fun o => o.stack == i && o.enough) then
    itIssue (s.capture []) i true s
  else s

/-- Every operation the hart issued on its timelines has completed. -/
def State.quiet (s : State) (w : Who) : Bool :=
  let h := s.hart w
  h.reOps.isEmpty && h.itOps.isEmpty && h.pulls.isEmpty && h.xops.isEmpty &&
  (s.core w.core).matrix.ops.all (fun o => o.who != w || o.away) && s.pool.all (fun c => !c.isOf w)

inductive Quiesce where
  | wait (w : Wait) (s : State)
  | fail (w : WinNum) (t : Trap)
  | done (s : State)

/-- Waits for the stream, closes windows, ends stacks and waits on the timelines, as `fin` (R74). A write-back that failed
is raised (R169). -/
def quiesce (fin : Wait) (s : State) : Quiesce :=
  if !s.me.stream.isEmpty then .wait .stream s
  else
    match s.me.reOps.find? (fun o => o.failed.isSome) with
    | some o => .fail o.win (o.failed.getD ⟨.perm, 0, 0⟩)
    | none =>
      if !s.me.pulls.isEmpty || allWins.any (fun w => (s.me.win w).isOpen && !(s.me.win w).strm && winBusy s w) then .wait fin s
      else
        let s1 := allStacks.foldl endOne (allWins.foldl closeWin s)
        if s1.quiet s1.who then .done s1 else .wait fin s1

/-- Continues once the hart is quiet and all its accesses are performed. -/
def whenQuiet (fin : Wait) (k : State → Out) (s : State) : Out :=
  match quiesce fin s with
  | .wait w s' => stall w s'
  | .fail w t => raiseFailed w t s
  | .done s' => fullFence k s'

/-- An ended hart retires with its registers as they stand, its queues empty (R32, R74); its windows are unbound and its stacks
ended. Revolutions that it still had pending are dead at it (R280). -/
def Hart.ended (h : Hart) : Hart :=
  { h with
    run := .exited, q0 := [], owed := 0, q1 := [], lq := [], active := [], stream := [], pulls := [], late := []
    wins := Vector.replicate 8 Window.clear, reOps := [], ahead := [], itOps := [], xops := [], xpend := []
    iters := h.iters.map (fun x => if x.st == .sealed || x.st == .bound then { IStack.clear with st := .ended } else x)
    arming := none, threads := none, lost := none, pageReq := none, victim := false, ending := false, drawn := none
    sup := { h.sup with hard := false, hardReq := false, soft := false, left := 0 }
    trap := { h.trap with redeliver := [], atEnd := false }
    revDead := h.revDead ++ (h.xops.filter (fun o => o.kind == .ring)).map (·.rev) }

/-! ### LPART (R94) -/

def Run.parkedOrDone : Run → Bool
  | .parked | .exited => true
  | _ => false

/-- Every other hart of the layout is parked in RDV or has exited; one that never started has done neither (R75). -/
def Core.othersParked (k : Core) : Bool := k.layoutHarts.all (fun h => h == 0 || (k.hart h).run.parkedOrDone)

/-- Step 4 of R94 on hart k of the new layout of h harts. -/
def Hart.repart (h : Hart) (harts : Nat) : Hart :=
  let h1 := { h with avail := 32 / harts }
  { h1.relaid h1.grant with vtype := villType, vl := 0, vstart := 0, epoch := h.epoch + 1 }

/-- The other harts of the old layout close, end and become quiet; none where one must still wait. -/
def quietOthers (s : State) : State × Bool :=
  s.myCore.layoutHarts.foldl (fun r k =>
    if k == 0 then r
    else
      let q := r.1.asHart ⟨s.who.core, k⟩ (fun s => match quiesce .finish s with
        | .wait _ s' => s'
        | .fail i t => trapAt t true s.me.pc (s.modMe (fun h => h.clearFailed i))
        | .done s' => drainHart s'.who s')
      (q, r.2 && q.quiet ⟨s.who.core, k⟩)) (s, true)

def execLpart (a : XReg) (s : State) : Out :=
  let n := (s.x a).toNat
  let w := (sr 0x20#6 0#5 a 0#5 0#6 2#5)
  if s.who.hart != 0 || s.me.gang.isSome || !(n == 1 || n == 2 || n == 4 || n == 8) then config w s
  else
    fullFence (fun s =>
      if !s.myCore.othersParked then stall .harts s
      else
        whenQuiet .harts (fun s =>
          let q := quietOthers s
          if !q.2 then stall .harts q.1
          else
            let c := s.who.core
            let s1 := clearLocks c (List.range 32) (clearScratch c (List.range 32) q.1)
            let s2 := s1.modCore c (fun k => { k with
              layout := n
              harts := Vector.ofFn (fun i =>
                let h := k.harts.get i
                if n ≤ i.val then (if h.run == .idle then h else h.ended) else h.repart n) })
            done s2) s) s

/-! ### GANG and UNGANG (R95, R96) -/

/-- Dies on which a partition owns cores. -/
def Partition.dies (p : Partition) : Nat := ((List.range 4).filter (fun d => bitsOf p.cores (16 * d) 16 != 0)).length

/-- The member cores of a gang of m based at b. -/
def gangCores (b m : Nat) : List CoreId := (List.range m).map (fun i => Fin.ofNat 64 (b + i))

def gangBad (s : State) (m : Nat) : Bool :=
  let b := s.who.core.val / m * m
  let own : List CoreId := match s.launchOf s.me with
    | some l => l.places.flatMap (fun p => p.cores)
    | none => []
  !(m == 2 || m == 4 || m == 8 || m == 16 || m == 32 || m == 64) ||
  (gangCores b m).any (fun c => !own.contains c || (s.core c).layout != 1) || s.me.gang.isSome ||
  (16 < m && (s.part (s.partOf s.me)).dies < 2)

/-- GANG arrives and waits for the rest; GANG_FORMED ends the wait. -/
def execGang (a : XReg) (s : State) : Out :=
  let x := (s.x a).toNat
  if gangBad s (x % 256) then config (sr 0x20#6 0#5 a 0#5 0#6 3#5) s
  else whenQuiet .harts (fun s => stall (.gang x) s) s

/-- GANG_FORMED (R95): every member of the gang based at a core has arrived with the same xa. -/
def execGangFormed (base : CoreId) (s : State) : Out :=
  match (s.hart ⟨base, 0⟩).run with
  | .waiting (.gang x) =>
    let m := x % 256
    let members := gangCores base.val m
    if base.val % m != 0 || !members.all (fun c => (s.hart ⟨c, 0⟩).run == .waiting (.gang x)) then .next s
    else
      let s1 := (members.drop 1).foldl (fun s c => s.modHart ⟨c, 0⟩ (fun h => { h with run := .gangParked })) s
      let s2 := s1.modHart ⟨base, 0⟩ (fun h =>
        { h.relaid (32 * m) with avail := 32 * m, segs := max 1 (m / 16), gang := some (m, base) })
      .next (s2.asHart ⟨base, 0⟩ finish)
  | _ => .next s

/-- A parked member resumes after its GANG with empty vector state (R96). -/
def resumeMember (s : State) (c : CoreId) : State :=
  let w : Who := ⟨c, 0⟩
  if (s.hart w).run == .gangParked then
    (s.modHart w (fun h => { h with
      v := Vector.replicate 32 0, m := Vector.replicate 8 0, vtype := villType, vl := 0, vstart := 0, epoch := h.epoch + 1 })).asHart w finish
  else s

def execUngang (s : State) : Out :=
  match s.me.gang with
  | none => config (sr 0x20#6 0#5 0#5 0#5 0#6 4#5) s
  | some (m, b) =>
    whenQuiet .harts (fun s =>
      let s1 := s.modMe (fun h => { h.relaid 32 with avail := 32, segs := 1, gang := none })
      done ((gangCores b.val m).foldl resumeMember s1)) s

end Sys2Proof.Machine
end

