-- ==== Sys2Proof/Machine/Matrix.lean ====
section
/-!
DEFINITION. The matrix unit (R201 to R218): ownership, issue and numbering of the MTX members, and the events
MATRIX_OP_START and MATRIX_OP_COMPLETE. An operation reads its accumulator and its operand row when it starts, and
writes its destination when it completes (R207, R208).
-/

namespace Sys2Proof.Machine

/-! ### Ownership, checks, numbering (R202, R203, R205, R206) -/

/-- The unit belongs to another launch than the hart's (R202). -/
def State.matrixForeign (s : State) : Bool :=
  s.myCore.matrix.owner.isSome && s.myCore.matrix.owner != s.me.launch

/-- Step 7 of R56 for every MTX member (R202, R203). -/
def State.matrixConfig (s : State) : Bool := s.matrixForeign || s.me.lanes < 4 || s.me.gang.isSome

def mtxCheck (c : State → Option Cause) (s : State) : Option Cause :=
  match c s with
  | some x => some x
  | none => if s.matrixConfig then some .config else none

/-- The first matrix member of a launch makes it the owner of a free unit: planes zeroed, queue emptied, counter 0. A unit
that was swapped out for the launch is its own still, and comes back (R202, R302). -/
def claimMatrix (s : State) : State :=
  let s1 := s.modMe (fun h => { h with mbound := true })
  if s.myCore.matrix.owner.isSome then s1
  else
    match s.myCore.images.findSome? (fun i => if some i.launch == s.me.launch then i.matrix else none) with
    | some (a, b, n, ops) =>
      s1.modMyCore (fun k => { k with
        matrix := { MatrixUnit.reset with owner := s.me.launch, active := a, shadow := b, counter := n, ops := ops }
        images := k.images.map (fun i => if some i.launch == s.me.launch then { i with matrix := none } else i) })
    | none =>
    let s2 := s1.modMyCore (fun k => { k with matrix := { MatrixUnit.reset with owner := s.me.launch } })
    { s2 with bad := s2.bad.filter (fun b => match b with
        | .plane c _ _ => c != s.who.core
        | _ => true) }

/-- An operation with no captured operands. -/
def MxOp.plain (k : MxKind) (word : Insn) (who : Who) : MxOp :=
  { tag := ⟨0, 0, none, 0⟩, who := who, word := word, kind := k, accumulate := false, row := 0, mask := 0, k := 0,
    vd := 0, lmul := 1, ta := false, win := 0, closed := false, corner := [], lo := 0, hi := 0, started := false, res := 0, away := false }

/-- The next MX number goes to the operation (R28, R206). -/
def mxIssue (cap : Capture) (op : MxOp) (s : State) : State :=
  let s1 := claimMatrix s
  let n := s1.myCore.matrix.counter + 1
  { s1.modMyCore (fun k => { k with matrix := { k.matrix with
      counter := n, ops := k.matrix.ops ++ [{ op with tag := ⟨n.toNat, s.seqNow, cap.arm, s.nextId⟩ }] } }) with
    nextId := s.nextId + 1 }

/-- The hart's incomplete operations, and whether 16 of them have not started (R206). -/
def State.mxMine (s : State) : List MxOp := s.myCore.matrix.ops.filter (fun o => o.who == s.who && !o.away)
def State.mxFull (s : State) : Bool := 16 ≤ (s.mxMine.filter (fun o => !o.started)).length

def MxKind.isRow : MxKind → Bool
  | .row | .rowStream => true
  | _ => false

def MxKind.isLoad : MxKind → Bool
  | .zero | .ldsv | .lds => true
  | _ => false

def MxKind.joins : MxKind → Bool
  | .swap | .wait => true
  | _ => false

/-- Registers that a row operation writes. -/
def MxOp.writesReg (o : MxOp) (r n : Nat) : Bool := o.kind.isRow && overlaps o.vd.toNat (2 * o.lmul) r n

/-- A member's common gate in the vector stream: step 7 of R56 as it stands now, and a full set of operations. -/
def mtxBody (word : Insn) (k : State → VRes) (s : State) : VRes :=
  if s.matrixConfig then .trap ⟨.config, word.zeroExtend 64, 0⟩ s
  else if s.mxFull then .block
  else k s

/-! ### MZERO, MLDSV, MSWAP (R209, R212) -/

def execMzero (s : State) : Out :=
  vissue (vr 0x36#6 0#5 0#5 0#5 0#3 0#3 3#5) (mtxCheck (fun _ => none)) (fun _ => [])
    (fun cap s => mtxBody (vr 0x36#6 0#5 0#5 0#5 0#3 0#3 3#5) (fun s => .done (mxIssue cap (.plain .zero (vr 0x36#6 0#5 0#5 0#5 0#3 0#3 3#5) s.who) s)) s) s

/-- Elements 0 to 255 of a register at width 16, +0 from VL on (R209, R213). -/
def rowOf (h : Hart) (r : VReg) (vl : Nat) : Row :=
  BitVec.ofNat 4096 ((List.range (min vl 256)).foldl (fun n k => n + h.elem r.toNat k 16 * 2 ^ (16 * k)) 0)

/-- The captured sources: a producer still running, or a bad granule (R101, R206, R334). -/
def rowSource (r : VReg) (m : Option MReg) (cap : Capture) (k : State → VRes) (s : State) : VRes :=
  if s.mxMine.any (fun o => o.writesReg r.toNat cap.lmul) then .block
  else
    match badReads s (List.range 256) (fun e =>
        (if e < cap.vl then [.elem r.toNat 16 e] else []) ++ (m.toList.map (.mask · e))) with
    | some t => .trap t s
    | none => k s

def execMldsv (a : VReg) (b : XReg) (s : State) : Out :=
  vissue (vr 0x36#6 0#5 a b 0#3 0#3 1#5) (mtxCheck (checkType false (fun h => sewOf h.vtype == 16 && groupOk h.vtype a.toNat 16)))
    (fun s => [s.x b])
    (fun cap s => mtxBody (vr 0x36#6 0#5 a b 0#3 0#3 1#5) (rowSource a none cap (fun s =>
      .done ((mxIssue cap { MxOp.plain .ldsv (vr 0x36#6 0#5 a b 0#3 0#3 1#5) s.who with
        row := rowOf s.me a cap.vl, k := (cap.xs.getD 0 0).extractLsb' 0 8 } s).modMe (fun h => { h with vstart := 0 })))) s) s

def execMswap (s : State) : Out :=
  vissue (vr 0x36#6 0#5 0#5 0#5 0#3 0#3 2#5) (mtxCheck (fun _ => none)) (fun _ => [])
    (fun cap s => mtxBody (vr 0x36#6 0#5 0#5 0#5 0#3 0#3 2#5) (fun s => .done (mxIssue cap (.plain .swap (vr 0x36#6 0#5 0#5 0#5 0#3 0#3 2#5) s.who) s)) s) s

/-! ### MLDS (R210, R211) -/

/-- The window check of R205. -/
def mldsWindowOk (w : Window) : Bool :=
  w.isOpen && !w.gather && !w.strm && 2 ≤ w.d && w.fmt ≤ 23 && (fmtInt w.fmt || w.nh)

/-- The corner of the plane, Cursor_d + off_d. -/
def mldsCorner (win : Window) (cap : Capture) : List Int :=
  (List.range win.d).map (fun d => win.cursor cap.ctr d + offAt (cap.xs.getD 0 0) d)

/-- The point of plane element e = 256·k + j. -/
def mldsPoint (corner : List Int) (e : Nat) : List Int :=
  corner.zipIdx.map (fun q => q.1 + (if q.2 == 0 then ((e % 256 : Nat) : Int) else if q.2 == 1 then ((e / 256 : Nat) : Int) else 0))

/-- The dimension and coordinate of the first way out of the current set. -/
def leavesAt (box : Box) (p : List Int) : Nat × Int :=
  match (List.range p.length).find? (fun d => match box[d]? with
      | some i => p.getD d 0 < i.1 || i.2 < p.getD d 0
      | none => true) with
  | some d => (d, p.getD d 0)
  | none => (0, p.getD 0 0)

def mldsIssue (cap : Capture) (word : Insn) (w : WinNum) (corner : List Int) (hi : Nat) (s : State) : State :=
  if cap.start < hi || hi == 65536 then
    mxIssue cap { MxOp.plain .lds word s.who with win := w, corner := corner, lo := cap.start, hi := hi } s
  else s

/-- Step 6 of R56 for a member that names a window, which stands in the vector stream, before step 7 (R205). -/
def windowFirst (word : Insn) (ok : State → Bool) (k : State → VRes) (s : State) : VRes :=
  if ok s then mtxBody word k s else .trap ⟨.illegalInsn, word.zeroExtend 64, 0⟩ s

/-- MLDS at the head of the stream. A RESIDENCY ranks before the tags of elements that it does not squash for (R314), as in
winBody. -/
def mldsBody (word : Insn) (w : WinNum) (cap : Capture) (s : State) : VRes :=
    let win := s.me.win w
    let corner := mldsCorner win cap
    let box := win.current cap.ctr
    let pts := ((List.range' cap.start (65536 - cap.start)).map (fun e => (e, mldsPoint corner e))).filter (fun q => win.inTensor q.2)
    let out : Option (Nat × List Int) := pts.find? (fun q => !inBox box q.2)
    let read : List (Nat × List Int) := match out with
      | some q => pts.filter (fun (r : Nat × List Int) => r.1 < q.1)
      | none => pts
    if read.any (fun q => covered s w q.2) then .block
    else
      let tagOf (q : Nat × List Int) : Option Trap := ((win.slot? q.2).bind (·.tag)).map (fun t => { t with elem := q.1 })
      match read.find? (fun q => (tagOf q).any (fun (t : Trap) => t.cause.squash)) with
      | some q => .squash ((tagOf q).getD ⟨.notPresent, 0, 0⟩) (raiseTag w cap.pc q.2 s)
      | none =>
        match out, read.find? (fun q => (tagOf q).isSome || nearBad s s.who win q.2) with
        | some q, _ =>
          .trap ⟨.residency, residVal w (leavesAt box q.2), q.1⟩
            ((mldsIssue cap word w corner q.1 s).modMe (fun h => { h with vstart := q.1 }))
        | none, some q =>
          if nearBad s s.who win q.2 then .trap (nearTrap s s.who w win q.2) s
          else
            let t := (tagOf q).getD ⟨.reservedCode, 0, 0⟩
            let s1 := raiseTag w cap.pc q.2 s
            if t.cause == .uncorrectable then .trap { t with elem := 0 } s1
            else .trap t ((mldsIssue cap word w corner q.1 s1).modMe (fun h => { h with vstart := q.1 }))
        | none, none => .done ((mldsIssue cap word w corner 65536 s).modMe (fun h => { h with vstart := 0 }))

/-- MLDS reads VSTART and needs no type (R205). -/
def execMlds (w : WinNum) (b : XReg) (s : State) : Out :=
  let word := vr 0x36#6 (0#2 ++ w) 0#5 b 0#3 0#3 0#5
  vissue word (fun _ => none) (fun s => s.x b :: captureCtrs s)
    (fun cap s => windowFirst word (fun s => mldsWindowOk (s.me.win w)) (mldsBody word w cap) s) s

/-! ### Rows (R205 to R208, R213, R216) -/

def rowType (d : VReg) (h : Hart) : Bool := sewOf h.vtype == 16 && ekOf h.vtype && groupOk h.vtype d.toNat 32

def allMask : BitVec 256 := BitVec.allOnes 256

/-- A marked plane granule (shadow plane or not, row) as a pending operation leaves it: a swap exchanges the planes, a load
that writes the whole row clears the mark (R334). -/
def MxOp.marks (o : MxOp) (l : List (Bool × Nat)) : List (Bool × Nat) :=
  match o.kind with
  | .swap => l.map (fun q => (!q.1, q.2))
  | .zero => l.filter (fun q => !q.1)
  | .ldsv => l.filter (fun q => !q.1 || q.2 != o.k.toNat)
  | .lds => l.filter (fun q => !q.1 || !(o.lo ≤ 256 * q.2 && 256 * q.2 + 256 ≤ o.hi))
  | _ => l

/-- A row of the active plane that the operation reads carries a mark once every pending operation has acted (R212, R334). -/
def badPlane (mask : BitVec 256) (s : State) : Option Trap :=
  if s.bad.isEmpty then none
  else
    let ops := s.myCore.matrix.ops
    let now := s.bad.filterMap (fun b => match b with
      | .plane c f r => if c == s.who.core then some (f, r.val) else none
      | _ => none)
    if (ops.foldl (fun l o => o.marks l) now).any (fun q => !q.1 && mask.getLsbD q.2)
    then some ⟨.uncorrectable, regLoc 4 ((ops.filter (fun o => o.kind == .swap)).length % 2) 0, 0⟩ else none

def rowIssue (cap : Capture) (word : Insn) (kind : MxKind) (acc : Bool) (d : VReg) (w : WinNum) (row : Row)
    (mask : BitVec 256) (s : State) : VRes :=
  match badPlane mask s with
  | some t => .trap t s
  | none =>
    .done (mxIssue cap { MxOp.plain kind word s.who with
      accumulate := acc, row := row, mask := mask, vd := d, lmul := cap.lmul, ta := taOf cap.vtype, win := w } s)

/-- MROW, MROWA, MROWS and MROWSA. -/
def rowMember (word : Insn) (acc : Bool) (d a : VReg) (m : Option MReg) (s : State) : Out :=
  vissue word (mtxCheck (checkType false (fun h => rowType d h && groupOk h.vtype a.toNat 16 && overlapOk h.vtype d.toNat 32 a.toNat 16))) (fun _ => [])
    (fun cap s => mtxBody word (rowSource a m cap (fun s =>
      let mask := match m with
        | some k => (s.me.mreg k).extractLsb' 0 256
        | none => allMask
      rowIssue cap word .row acc d 0 (rowOf s.me a cap.vl) mask (s.modMe (fun h => { h with vstart := 0 })))) s) s

/-- Rows of window w of the hart in the queue that no operation has claimed. -/
def State.unclaimed (s : State) (who : Who) (w : WinNum) : Nat :=
  let m := (s.core who.core).matrix
  m.rowsIn who w - ((m.claimers who w).filter (fun o => !o.away)).length

/-- MROWW and MROWWA: the window is the hart's open stream window, or rows of it are unclaimed (R205). -/
def streamMember (word : Insn) (acc : Bool) (d : VReg) (w : WinNum) (s : State) : Out :=
  vissue word (checkType false (rowType d)) (fun _ => [])
    (fun cap s => windowFirst word (fun s => ((s.me.win w).isOpen && (s.me.win w).strm) || s.unclaimed s.who w != 0)
      (fun s => rowIssue cap word .rowStream acc d w 0 allMask (s.modMe (fun h => { h with vstart := 0 }))) s) s

def execMrow (d : VReg) (a : VReg) (s : State) : Out :=
  rowMember (vr 0x36#6 d a 0#5 0#3 0#3 4#5) false d a none s
def execMrowa (d : VReg) (a : VReg) (s : State) : Out :=
  rowMember (vr 0x36#6 d a 0#5 0#3 0#3 5#5) true d a none s
def execMrows (d : VReg) (a : VReg) (m : MReg) (s : State) : Out :=
  rowMember (vr 0x36#6 d a (0#2 ++ m) 0#3 0#3 6#5) false d a (some m) s
def execMrowsa (d : VReg) (a : VReg) (m : MReg) (s : State) : Out :=
  rowMember (vr 0x36#6 d a (0#2 ++ m) 0#3 0#3 7#5) true d a (some m) s
def execMroww (d : VReg) (w : WinNum) (s : State) : Out :=
  streamMember (vr 0x36#6 d (0#2 ++ w) 0#5 0#3 0#3 8#5) false d w s
def execMrowwa (d : VReg) (w : WinNum) (s : State) : Out :=
  streamMember (vr 0x36#6 d (0#2 ++ w) 0#5 0#3 0#3 9#5) true d w s

/-! ### MWAIT (R218) -/

/-- The operation that an MWAIT at the head of the stream waits for; a held stream row is raised here (R172). -/
def mwaitHead (n : Nat) (s : State) : VRes :=
  if !s.myCore.matrix.ops.any (fun o => o.tag.num == n && o.who == s.who) then .done s
  else
    match s.failure s.who 2 n with
    | some (w, t) =>
      let s1 := s.modMyCore (fun k => { k with matrix := { k.matrix with
        ops := k.matrix.ops.filter (fun o => !(o.tag.num == n && o.who == s.who)) } })
      .squash t (s1.modMe (fun h => h.clearFailed w))
    | none => .block

/-- MWAIT takes its number and stays at the head of the vector stream until its operation completes. -/
def execMwait (s : State) : Out :=
  vissue (vr 0x36#6 0#5 0#5 0#5 0#3 0#3 10#5) (mtxCheck (fun _ => none)) (fun _ => [])
    (fun cap s =>
      match cap.num with
      | some n => mwaitHead n s
      | none => mtxBody (vr 0x36#6 0#5 0#5 0#5 0#3 0#3 10#5) (fun s =>
          let s1 := mxIssue cap (.plain .wait (vr 0x36#6 0#5 0#5 0#5 0#3 0#3 10#5) s.who) s
          .wait { cap with num := some s1.myCore.matrix.counter.toNat } none s1) s) s

/-! ### The result row (R213) -/

/-- The BF16 element k of a row. -/
def Row.bf (r : Row) (k : Nat) : Num := decodeF bf16 (r.extractLsb' (16 * k) 16).toNat

/-- The fixed tree over four, and over eight, group sums. -/
def tree4 (g : List Nat) (b : Nat) : Nat :=
  addF32 (addF32 (g.getD b 0) (g.getD (b + 1) 0)) (addF32 (g.getD (b + 2) 0) (g.getD (b + 3) 0))
def tree8 (g : List Nat) : Nat := addF32 (tree4 g 0) (tree4 g 4)

/-- The group sums of column j combined in the fixed tree. -/
def columnSum (row : Row) (mask : BitVec 256) (plane : Vector Row 256) (j : Nat) : Nat :=
  tree8 ((List.range 8).map (fun g =>
    groupSum (((List.range' (32 * g) 32).filter (fun k => mask.getLsbD k)).map (fun k =>
      mulNum (Row.bf row k) (Row.bf (plane.toList.getD k 0) j)))))

/-- The 256 results, the accumulating forms adding to what vd holds now (R207). -/
def rowResult (acc : Bool) (h : Hart) (vd : VReg) (row : Row) (mask : BitVec 256) (plane : Vector Row 256) : BitVec 8192 :=
  BitVec.ofNat 8192 ((List.range 256).foldl (fun n j =>
    let t := columnSum row mask plane j
    n + (if acc then addF32 (h.elem vd.toNat j 32) t else t) * 2 ^ (32 * j)) 0)

/-- Step C of a row operation (R208). -/
def Hart.writeRow (h : Hart) (o : MxOp) : Hart :=
  let h1 := (List.range 256).foldl (fun h j => h.setElem o.vd.toNat j 32 (o.res.extractLsb' (32 * j) 32).toNat) h
  if o.ta then h1.zeroFrom o.vd.toNat (2 * o.lmul) 8192 else h1

/-! ### MATRIX_OP_START (R207, R212, R216, R217) -/

/-- The first of the queue's rows of a hart's window, taken out. -/
def takeRow (who : Who) (w : WinNum) : List QueueRow → Option (Row × List QueueRow)
  | [] => none
  | q :: qs =>
    if q.who == who && q.win == w then some (q.row, qs)
    else (takeRow who w qs).map (fun r => (r.1, q :: r.2))

/-- The lowest operation that has not started may start now. One that a save has withdrawn is incomplete: MSWAP and MWAIT
wait for it, and it holds back no other operation unless it is one of them (R212, R217, R218, R220). -/
def MatrixUnit.mayStart (m : MatrixUnit) (o : MxOp) : Bool :=
  let live := m.ops.filter (fun p => p.started)
  if o.kind.joins then m.ops.all (fun p => o.tag.num ≤ p.tag.num)
  else
    m.ops.all (fun p => !(p.away && p.kind.joins && p.tag.num < o.tag.num)) &&
    live.all (fun p => !p.kind.joins) &&
    (if o.kind.isLoad then live.all (fun p => !p.kind.isLoad)
     else live.all (fun p => p.who != o.who || !p.writesReg o.vd.toNat (2 * o.lmul)))

def startRow (o : MxOp) (row : Row) (s : State) : State :=
  let o' : MxOp := { o with
    started := true, row := row
    res := rowResult o.accumulate (s.hart o.who) o.vd row o.mask (s.core o.who.core).matrix.active }
  s.modCore o.who.core (fun k => { k with matrix := { k.matrix with
    ops := k.matrix.ops.map (fun p => if p.tag.num == o.tag.num then o' else p) } })

/-- The operation starts: a stream row claims its row, or takes zeros where a close left it without one, or its window is
closed and no row remains (R216). Rows of an earlier opening come first in the queue, and are not counted against the
present one (R175). -/
def startOp (o : MxOp) (s : State) : State :=
  let c := o.who.core
  let mark (s : State) : State := s.modCore c (fun k => { k with matrix := { k.matrix with
    ops := k.matrix.ops.map (fun p => if p.tag.num == o.tag.num then { p with started := true } else p) } })
  match o.kind with
  | .row => startRow o o.row s
  | .rowStream =>
    let win := (s.hart o.who).win o.win
    if o.closed then startRow o 0 s
    else
      match takeRow o.who o.win (s.core c).matrix.queue with
      | some (r, q) =>
        let old := win.rowsSent - win.rowsTaken < (s.core c).matrix.rowsIn o.who o.win
        let s1 := s.modCore c (fun k => { k with matrix := { k.matrix with queue := q } })
        startRow o r (if old then s1 else s1.modHart o.who (fun h => h.setWin o.win { win with rowsTaken := win.rowsTaken + 1 }))
      | none => if win.isOpen then s else startRow o 0 s
  | _ => mark s

def execMatrixOpStart (core : CoreId) (s : State) : Out :=
  let m := (s.core core).matrix
  match m.ops.find? (fun o => !o.started && !o.away) with
  | none => .next s
  | some o =>
    if o.tag.held.isNone && (s.hart o.who).settled o.tag.seq && m.mayStart o then .next (startOp o s) else .next s

/-! ### MATRIX_OP_COMPLETE (R208 to R212, R217) -/

/-- Marks of the planes of a core, kept or changed by f. -/
def planeMarks (c : CoreId) (f : Bool → Fin 256 → Option Bool) (bad : List ErrorSite) : List ErrorSite :=
  bad.filterMap (fun b => match b with
    | .plane c' sh r => if c' == c then (f sh r).map (fun sh' => .plane c sh' r) else some b
    | _ => some b)

/-- The slots that MLDS reads, into the rows of the shadow plane (R210). -/
def mldsRows (win : Window) (o : MxOp) (shadow : Vector Row 256) : Vector Row 256 :=
  Vector.ofFn (fun k => (List.range 256).foldl (fun (r : Row) j =>
    let e := 256 * k.val + j
    if o.lo ≤ e && e < o.hi then
      let p := mldsPoint o.corner e
      let v := if win.inTensor p then near2bf16 win.fmt (((win.slot? p).map (fun sl => sl.near e)).getD 0) else 0
      (r &&& ~~~((0xFFFF : Row) <<< (16 * j))) ||| (BitVec.ofNat 4096 v <<< (16 * j))
    else r) (shadow.get k))

def withShadow (c : CoreId) (f : Vector Row 256 → Vector Row 256) (gone : Fin 256 → Bool) (s : State) : State :=
  let s1 := s.modCore c (fun k => { k with matrix := { k.matrix with shadow := f k.matrix.shadow } })
  { s1 with bad := planeMarks c (fun sh r => if sh && gone r then none else some sh) s1.bad }

/-- The effect of an operation as it completes. -/
def completeOp (o : MxOp) (s : State) : State :=
  let c := o.who.core
  match o.kind with
  | .zero => withShadow c (fun _ => Vector.replicate 256 0) (fun _ => true) s
  | .ldsv => withShadow c (fun p => p.setIfInBounds o.k.toNat o.row) (fun r => r.val == o.k.toNat) s
  | .lds => withShadow c (mldsRows ((s.hart o.who).win o.win) o) (fun r => o.lo ≤ 256 * r.val && 256 * r.val + 256 ≤ o.hi) s
  | .swap =>
    let s1 := s.modCore c (fun k => { k with matrix := { k.matrix with active := k.matrix.shadow, shadow := k.matrix.active } })
    { s1 with bad := planeMarks c (fun sh _ => some (!sh)) s1.bad }
  | .row | .rowStream =>
    s.asHart o.who (fun s => (s.modMe (fun h => h.writeRow o)).healWrites o.vd.toNat (2 * o.lmul) 32 (fun e => e < 256 || o.ta))
  | .wait => s

def execMatrixOpComplete (core : CoreId) (num : Nat) (s : State) : Out :=
  match (s.core core).matrix.ops.find? (fun o => o.tag.num == num && !o.away) with
  | none => .next s
  | some o =>
    if !o.started then .next s
    else
      let s1 := completeOp o s
      .next ((s1.modCore core (fun k => { k with matrix := { k.matrix with
        ops := k.matrix.ops.filter (fun p => p.tag.num != num) } })).pulseOp o.who 2)

end Sys2Proof.Machine
end

