-- ==== Sys2Proof/Machine/Kv.lean ====
section
/-!
DEFINITION. The KV members (R221 to R242): the tables and their walk, the translation cache, attention over blocks
and appending. ATTN_BLOCK and KV_WALKER_READ_RETURN carry a numbered member on that stands at the head of the
vector stream.
-/

namespace Sys2Proof.Machine

/-! ### The walk (R222 to R226, R230) -/

/-- A walk that failed: its trap, the page it asks for, and the INDEX of a KV_FAULT (R226, R232). -/
structure KvErr where
  trap : Trap
  page : Option Ask
  index : Option (BitVec 32)

/-- KV_FAULT of context c (R226). -/
def kvFault (c : KvNum) (reason : Nat) (index : BitVec 32) : KvErr :=
  ⟨⟨.kvFault, wn (reason * 2 ^ 56 + c.toNat * 2 ^ 52 + index.toNat), 0⟩, none, some index⟩

/-- What a walk comes to, with the state whose cache it changed. -/
abbrev Walk (α : Type) := State × Except KvErr α

/-- A doubleword of a table, read as LDS reads (R222). -/
def tableWord (s : State) (va : Word) : Except KvErr Word :=
  match access s s.who .load 8 false va with
  | .error e => .error ⟨⟨e.cause, e.addr, 0⟩, e.page, none⟩
  | .ok p =>
    if s.badByte p.key then .error ⟨⟨.uncorrectable, memBadVal p.key va, 0⟩, none, none⟩ else .ok (wn (s.readN p.key 8))

def tableWords (s : State) (va : Word) : Nat → Except KvErr (List Word)
  | 0 => .ok []
  | n + 1 =>
    match tableWord s va with
    | .error e => .error e
    | .ok w =>
      match tableWords s (va + 8) n with
      | .error e => .error e
      | .ok l => .ok (w :: l)

/-- The same walk entry: address space, root, level and index. -/
def KvEntry.names (e : KvEntry) (asp : BitVec 10) (root : Word) (level : Nat) (idx : List Nat) : Bool :=
  e.aspace == asp && e.root == root && e.level == level && e.idx == idx

/-- The entry becomes the most recently used of 64 (R230). -/
def Core.kvKeep (k : Core) (e : KvEntry) : Core :=
  { k with kvCache := (e :: k.kvCache.filter (fun x => !x.names e.aspace e.root e.level e.idx)).take 64 }

/-- The entry of that name which a walk of this sequence cached (R230). One that another sequence's walk cached is read
anew: the walk may use the old value or the new one. -/
def State.kvFind (s : State) (root : Word) (level : Nat) (idx : List Nat) (seq : Nat) : Option KvEntry :=
  s.myCore.kvCache.find? (fun e => e.names s.me.sup.aspace root level idx && e.seq == seq)

/-- Caches what a walk read or used. -/
def State.kvKeep (s : State) (root : Word) (level : Nat) (idx : List Nat) (seq gen : Nat) (d : List Word) : State :=
  s.modMyCore (fun k => k.kvKeep ⟨s.me.sup.aspace, root, level, idx, seq, gen, d⟩)

/-- The entries on the way to the descriptor's doublewords 1 to 3, that a walk of the sequence cached. -/
def State.kvPath (s : State) (root : Word) (seq : Nat) (e : KvEntry) : Bool :=
  e.aspace == s.me.sup.aspace && e.root == root && e.level < 4 && e.seq == seq

/-- A sequence descriptor (R223) with the selector that led to it. -/
structure KvDesc where
  va : Word
  root : Word
  seq : Nat
  layer : Nat
  hg : Nat
  dw0 : Word
  dw1 : Word
  map : Word
  dw3 : Word

def KvDesc.len (d : KvDesc) : Nat := bitsOf d.dw0 32 32
def KvDesc.gen (d : KvDesc) : Nat := bitsOf d.dw0 0 32
def KvDesc.maxblk (d : KvDesc) : Nat := bitsOf d.dw1 32 32
def KvDesc.dim (d : KvDesc) : Nat := 16 * (bitsOf d.dw1 28 4 + 1)
def KvDesc.fmt (d : KvDesc) : Nat := bitsOf d.dw1 18 5
def KvDesc.bs (d : KvDesc) : Nat := 16 <<< bitsOf d.dw1 16 2
def KvDesc.hgn (d : KvDesc) : Nat := bitsOf d.dw1 8 6
def KvDesc.layn (d : KvDesc) : Nat := bitsOf d.dw1 0 8
def KvDesc.scale (d : KvDesc) : Nat := bitsOf d.dw3 0 32

/-- RS of R225. -/
def KvDesc.rs (d : KvDesc) : Nat :=
  if fmtScaled d.fmt then d.dim / fmtBlock d.fmt * fmtRec d.fmt else d.dim * fmtBits d.fmt / 8

/-- The descriptor breaks reason 0x03 (R226). -/
def KvDesc.bad (d : KvDesc) : Bool :=
  bitsOf d.dw1 23 5 != 0 || bitsOf d.dw1 14 2 != 0 || bitsOf d.dw3 32 32 != 0 || 23 < d.fmt ||
  d.maxblk == 0 || 2 ^ 28 < d.maxblk || d.maxblk * d.bs < d.len || bitsOf d.map 0 3 != 0 || d.layn < d.layer || d.hgn < d.hg

/-- NEXT·64 of a radix entry, and its reserved bits (R222). -/
def radixNext (e : Word) : Word := wn (bitsOf e 6 50 * 64)
def radixBad (e : Word) : Bool := !e.getLsbD 0 || bitsOf e 56 8 != 0 || bitsOf e 1 5 != 0

/-- The part of a walk that ends at the descriptor's first doubleword, which is never cached (R230). -/
structure KvHead where
  root : Word
  seq : Nat
  r1 : Word
  r2 : Word
  dw0 : Word

def KvHead.va (h : KvHead) : Word := radixNext h.r2
def KvHead.gen (h : KvHead) : Nat := bitsOf h.dw0 0 32

/-- A radix entry: from the cache where `use` says so, else from memory. -/
def radixRead (s : State) (use : Bool) (root : Word) (level : Nat) (idx seq : Nat) (va : Word) : Except KvErr Word :=
  match if use then s.kvFind root level [idx] seq else none with
  | some e => .ok (e.data.getD 0 0)
  | none => tableWord s va

/-- The two radix levels and the first doubleword: reasons 0x01 and 0x02. -/
def readHead (c : KvNum) (root : Word) (seq : Nat) (early : BitVec 32) (use : Bool) (s : State) : Except KvErr KvHead :=
  match radixRead s use root 1 (seq / 1024) seq (root + wn (8 * (seq / 1024))) with
  | .error e => .error e
  | .ok r1 =>
    if radixBad r1 || bitsOf r1 6 7 != 0 then .error (kvFault c 0x01 early)
    else
      match radixRead s use root 2 seq seq (radixNext r1 + wn (8 * (seq % 1024))) with
      | .error e => .error e
      | .ok r2 =>
        if radixBad r2 then .error (kvFault c 0x02 early)
        else
          match tableWord s (radixNext r2) with
          | .error e => .error e
          | .ok dw0 => .ok ⟨root, seq, r1, r2, dw0⟩

/-- The walk as far as the first doubleword. Where the cached entries failed, or were cached under another GEN than the one
just read, they are dropped and the tables read: software has changed them (R230). -/
def walkHead (c : KvNum) (sel : Word) (early : BitVec 32) (s : State) : Walk KvHead :=
  let root := (s.me.kv.get ⟨c.toNat, c.isLt⟩).root
  let seq := bitsOf sel 0 20
  let keep (s : State) (h : KvHead) : State :=
    (s.kvKeep root 1 [seq / 1024] seq h.gen [h.r1]).kvKeep root 2 [seq] seq h.gen [h.r2]
  let fresh : Walk KvHead :=
    let s1 := s.modMyCore (fun k => { k with kvCache := k.kvCache.filter (fun e => !s.kvPath root seq e) })
    match readHead c root seq early false s1 with
    | .error e => (s1, .error e)
    | .ok h => (keep s1 h, .ok h)
  if root == 0 then (s, .error (kvFault c 0x0A early))
  else if bitsOf sel 34 30 != 0 then (s, .error (kvFault c 0x03 early))
  else
    match readHead c root seq early true s with
    | .error e => if s.myCore.kvCache.any (s.kvPath root seq) then fresh else (s, .error e)
    | .ok h =>
      if s.myCore.kvCache.any (fun e => s.kvPath root seq e && e.gen != h.gen) then fresh else (keep s h, .ok h)

/-- The rest of the walk to the descriptor: reasons 0x03 and 0x04. `tdim` is the tile dimension, 0 for a member without
one; `index` gives INDEX once the descriptor is read. -/
def walkRest (c : KvNum) (sel : Word) (tdim : Nat) (index : KvDesc → BitVec 32) (h : KvHead) (s : State) : Walk KvDesc :=
  let read : Except KvErr (List Word) := match s.kvFind h.root 3 [h.seq] h.seq with
    | some e => .ok e.data
    | none => tableWords s (h.va + 8) 3
  match read with
  | .error e => (s, .error e)
  | .ok l =>
    let s1 := s.kvKeep h.root 3 [h.seq] h.seq h.gen l
    let d : KvDesc := {
      va := h.va, root := h.root, seq := h.seq, layer := bitsOf sel 20 8, hg := bitsOf sel 28 6
      dw0 := h.dw0, dw1 := l.getD 0 0, map := l.getD 1 0, dw3 := l.getD 2 0 }
    if d.bad then (s1, .error (kvFault c 0x03 (index d)))
    else if (tdim != 0 && d.dim != tdim) || (fmtScaled d.fmt && d.dim % fmtBlock d.fmt != 0) then
      (s1, .error (kvFault c 0x04 (index d)))
    else (s1, .ok d)

/-- The walk down to the descriptor: reasons 0x0A to 0x04. `early` is INDEX while the descriptor is not read, `late` after
that. -/
def walkDesc (c : KvNum) (sel : Word) (tdim : Nat) (early : BitVec 32) (late : KvDesc → BitVec 32) (s : State) : Walk KvDesc :=
  match walkHead c sel early s with
  | (s1, .error e) => (s1, .error e)
  | (s1, .ok h) => walkRest c sel tdim late h s1

/-- Device memory that Prozen assigns to the hart's partition and address space (R224, R348). -/
def ownsBlock (s : State) (addr : Nat) : Bool :=
  let p := s.partOf s.me
  (s.part p).owns addr && s.owners.contains (devKey p.toNat addr / 4096, s.me.sup.aspace)

/-- A block: the key of its first byte and its address as the map gives it. -/
structure KvBlock where
  key : Nat
  addr : Nat

/-- The walk of block b: reasons 0x08 to 0x07. A cached map entry counts where it holds the GEN just read and was cached under
it: software that raises GEN may have changed the others (R230, R395). -/
def walkBlock (c : KvNum) (d : KvDesc) (b : Nat) (index : BitVec 32) (s : State) : Walk KvBlock :=
  if d.maxblk ≤ b then (s, .error (kvFault c 0x08 index))
  else
    let lh := d.layer * (d.hgn + 1) + d.hg
    let same (l : List Word) : Bool := bitsOf (l.getD 0 0) 52 12 == d.gen % 4096
    let idx := [d.seq, lh, b]
    let read : Except KvErr (List Word) := match s.myCore.kvCache.find? (fun e => e.names s.me.sup.aspace d.root 4 idx && e.gen == d.gen && same e.data) with
      | some e => .ok e.data
      | none => tableWords s (d.map + wn (8 * (lh * d.maxblk + b))) 1
    match read with
    | .error e => (s, .error e)
    | .ok l =>
      let s1 := s.kvKeep d.root 4 idx d.seq d.gen l
      let e := l.getD 0 0
      let loc := bitsOf e 1 2
      let addr := bitsOf e 12 40 * 4096
      if !e.getLsbD 0 || loc == 0 || loc == 3 || bitsOf e 3 9 != 0 then (s1, .error (kvFault c 0x05 index))
      else if !same l then (s1, .error (kvFault c 0x06 index))
      else if loc == 1 then
        if ownsBlock s1 addr then (s1, .ok ⟨devKey (s1.partOf s1.me).toNat addr, addr⟩)
        else (s1, .error (kvFault c 0x07 index))
      else if s1.atsGrants s1.me (addr / 4096) false then (s1, .ok ⟨hostKey addr, addr⟩)
      else (s1, .error { kvFault c 0x07 index with page := some ⟨addr / 4096, false⟩ })

/-- A failed walk traps: its page request is sent, and LASTBLK holds its INDEX (R232, R339). -/
def kvTrap (c : KvNum) (e : KvErr) (s : State) : VRes :=
  let s1 := match e.index with
    | some i => s.modMe (fun h => { h with kv := h.kv.set c.toNat { h.kv.get ⟨c.toNat, c.isLt⟩ with lastBlk := i } c.isLt })
    | none => s
  .trap e.trap (s1.sendPage s1.who e.page)

/-! ### Numbers, and members that events carry on (R241, R313) -/

/-- The next KV number. -/
def kvNumber (cap : Capture) (s : State) : Capture × State :=
  ({ cap with num := some (s.me.tlkv + 1).toNat }, s.modMe (fun h => { h with tlkv := h.tlkv + 1 }))

/-- A member that completes at once, when no output holds it. -/
def kvOnce (f : State → VRes) (cap : Capture) (s : State) : VRes :=
  match cap.num with
  | some _ => f s
  | none =>
    let r := kvNumber cap s
    if cap.arm.isSome then .wait r.1 cap.arm r.2 else f r.2

/-- A member that stands at the head of the stream until an event completes it. -/
def kvLong (grp : List VBits) (cap : Capture) (s : State) : VRes :=
  match cap.num with
  | some _ => .block
  | none =>
    let r := kvNumber cap s
    .wait { r.1 with grp := grp } cap.arm r.2

def kvDone (s : State) : VRes := .done (s.pulseOp s.who 3)

/-- Carries the member at the head of a hart's stream one step on. -/
def headEvent (who : Who) (body : Insn → Option (Capture → State → VRes)) (s : State) : State :=
  match (s.hart who).stream with
  | [] => s
  | e :: rest =>
    if e.held.isSome || e.cap.num.isNone then s
    else
      match body e.word with
      | none => s
      | some f =>
        let s0 : State := { s.modHart who (fun h => { h with stream := rest }) with agent := ⟨who, none⟩, replay := some e }
        match f e.cap s0 with
        | .block => s
        | r => { endReplay e s0 r with agent := s.agent, replay := s.replay }

/-- Step 7 of R56 for every KV member (R228). -/
def kvCheck (c : State → Option Cause) (s : State) : Option Cause :=
  match c s with
  | some x => some x
  | none => if s.me.gang.isSome then some .config else none

def rowsField (t : Word) : Nat := trowsOf t

/-- V of R228. -/
def tileRoom (h : Hart) : Nat := 64 * h.lanes * lmulOf h.vtype

/-! ### KVSET, KVINV, KVSTAT (R229, R231, R232) -/

/-- Another context of the core names the root. -/
def rootShared (s : State) (c : KvNum) (root : Word) : Bool :=
  allHarts.any (fun k => [0, 1].any (fun (i : Nat) =>
    !(k == s.who.hart && i == c.toNat) && ((s.myCore.hart k).kv.toList.getD i ⟨0, 0, 0⟩).root == root))

def kvsetBody (c : KvNum) (x : Word) (s : State) : VRes :=
  if bitsOf x 0 13 != 0 then .trap ⟨.misalign, x, 0⟩ s
  else
    let ctx := s.me.kv.get ⟨c.toNat, c.isLt⟩
    let asp := s.me.sup.aspace
    let s1 := if rootShared s c ctx.root then s
      else s.modMyCore (fun k => { k with kvCache := k.kvCache.filter (fun e => !(e.aspace == asp && e.root == ctx.root)) })
    kvDone (s1.modMe (fun h => { h with kv := h.kv.set c.toNat { ctx with root := x } c.isLt }))

def execKvset (x : XReg) (c : KvNum) (s : State) : Out :=
  vissue (vr 0x37#6 0#5 0#5 x (0#2 ++ c) 0#3 0#5) (kvCheck (fun _ => none)) (fun s => [s.x x])
    (fun cap => kvOnce (kvsetBody c (cap.xs.getD 0 0)) cap) s

/-- An entry of one sequence (R231). -/
def KvEntry.ofSeq (e : KvEntry) (seq : Nat) : Bool :=
  if e.level == 1 then e.idx.getD 0 0 == seq / 1024 else e.idx.getD 0 0 == seq

def execKvinv (x : XReg) (c : KvNum) (s : State) : Out :=
  vissue (vr 0x37#6 0#5 0#5 x (0#2 ++ c) 0#3 6#5) (kvCheck (fun _ => none)) (fun s => [s.x x])
    (fun cap => kvOnce (fun s =>
      let v := cap.xs.getD 0 0
      let root := (s.me.kv.get ⟨c.toNat, c.isLt⟩).root
      let asp := s.me.sup.aspace
      kvDone (s.modMyCore (fun k => { k with kvCache := k.kvCache.filter (fun e =>
        !(e.aspace == asp && e.root == root && (v.getLsbD 63 || e.ofSeq (bitsOf v 0 20)))) }))) cap) s

/-- KVSTAT's word. -/
def State.kvstat (s : State) (c : KvNum) : Word :=
  let ctx := s.me.kv.get ⟨c.toNat, c.isLt⟩
  let n := (s.myCore.kvCache.filter (fun e => e.root == ctx.root)).length
  (boolWord (ctx.root != 0) <<< 63) ||| wn ((if ctx.root == 0 then 0 else n) * 2 ^ 48 + ctx.restarts * 2 ^ 32 + ctx.lastBlk.toNat)

def execKvstat (c : KvNum) (s : State) : Out :=
  vissue (vr 0x37#6 0#5 0#5 0#5 (0#2 ++ c) 0#3 7#5) (kvCheck (fun _ => none)) (fun _ => []) (fun _ s => pushQ1 (s.kvstat c) s) s

/-! ### KVXLAT and KVXLATF (R233) -/

/-- What an element comes to: an address, an unusable entry with its fault, a failed table read, or a marked granule of its
position (R334). -/
inductive Xlat where
  | addr (a : Word)
  | unusable (e : KvErr)
  | failed (e : KvErr)
  | marked (t : Trap)

/-- The elements in order. INDEX of a fault is the element (R226). -/
def xlatAll (c : KvNum) (d : KvDesc) (a : VReg) : List Nat → State → State × List Xlat
  | [], s => (s, [])
  | e :: es, s =>
    let t := s.me.elem a.toNat e 64
    let r : State × Xlat := match badSource s [e] [(a.toNat, 64)] 0 with
      | some t => (s, .marked t)
      | none =>
        match walkBlock c d (t / d.bs) (BitVec.ofNat 32 e) s with
        | (s1, .ok b) => (s1, .addr (wn (b.addr + t % d.bs * d.rs)))
        | (s1, .error err) => (s1, if err.index.isSome then .unusable err else .failed err)
    let q := xlatAll c d a es r.1
    (q.1, r.2 :: q.2)

/-- The element's read failed; `addr'` in the address phase only (R314). -/
def Xlat.isFailed (addr' : Bool) : Xlat → Bool
  | .failed e => !addr' || e.trap.cause.squash
  | .marked _ => !addr'
  | _ => false
def Xlat.isAddr : Xlat → Bool
  | .addr _ => true
  | _ => false
def Xlat.word : Xlat → Word
  | .addr a => a
  | _ => 0
def Xlat.page : Xlat → Option Ask
  | .unusable e => e.page
  | _ => none

/-- Elements 0 to vl-1 of vd and F, and their tails. KVXLAT raises no KV_FAULT for a host block that ATS refuses, and the spec
does not say whether it sends the page request of R226: it does, for each such element; a KVXLATF cut short at f sends none for
element f (DESIGN CHOICE, log 64). -/
def xlatWrite (d : VReg) (k : MReg) (cap : Capture) (vl : Nat) (xs : List Xlat) (s : State) : State :=
  let h := (xs.take vl).zipIdx.foldl (fun h q =>
    (h.setElem d.toNat q.2 64 q.1.word.toNat).setMaskBit k q.2 (!q.1.isAddr)) s.me
  let pages := (xs.take vl).filterMap Xlat.page
  let s1 := pages.foldl (fun s p => s.askPage s.who p)
    (s.setMe ((h.tail cap.vtype d.toNat 64 vl).maskTail cap.vtype k vl))
  let wr (e : Nat) : Bool := e < vl || taOf cap.vtype
  (s1.healWrites d.toNat (emulOf cap.vtype 64) 64 wr).healMask k wr

/-- The failed read that KVXLAT raises: the lowest element's (R233), but a failed translation of another before a marked
position (R314). -/
def xlatFailed (xs : List Xlat) : Option Nat :=
  match xs.findIdx? (Xlat.isFailed false) with
  | none => none
  | some f => if xs[f]? matches some (.marked _) then some ((xs.findIdx? (Xlat.isFailed true)).getD f) else some f

/-- Both forms: `ff` is the fault-only-first one. The positions are read after the walk to the descriptor. -/
def xlatBody (ff : Bool) (d a : VReg) (c : KvNum) (k : MReg) (cap : Capture) (s : State) : VRes :=
  match walkDesc c (cap.xs.getD 0 0) 0 0 (fun _ => 0) s with
  | (s1, .error e) => kvTrap c e s1
  | (s1, .ok desc) =>
    let r := xlatAll c desc a (List.range cap.vl) s1
    let xs := r.2
    if ff then
      match xs.findIdx? (fun x => !x.isAddr), xs with
      | none, _ => kvDone (xlatWrite d k cap cap.vl xs r.1)
      | some 0, .unusable e :: _ => kvTrap c { e with index := some 0 } r.1
      | some 0, .failed e :: _ => kvTrap c e r.1
      | some f, _ =>
        match xs[f]? with
        | some (.marked t) => .trap t r.1
        | _ => kvDone (truncateVl cap f (xlatWrite d k cap f xs r.1))
    else
      match xlatFailed xs with
      | some f =>
        (match xs[f]? with
          | some (.failed e) =>
            .trap { e.trap with elem := if e.trap.cause == .uncorrectable then 0 else f } (r.1.sendPage r.1.who e.page)
          | some (.marked t) => .trap t r.1
          | _ => kvDone r.1)
      | none => kvDone (xlatWrite d k cap cap.vl xs r.1)

def xlatCheck (d a : VReg) : State → Option Cause :=
  kvCheck (checkType false (fun h => sewOf h.vtype == 64 && !ekOf h.vtype && groupsOk h [(d.toNat, 64), (a.toNat, 64)] && d != a))

/-- KVXLAT issues; KV_WALKER_READ_RETURN lets it finish. -/
def execKvxlat (d : VReg) (a : VReg) (x : XReg) (c : KvNum) (k : MReg) (s : State) : Out :=
  vissue (vr 0x37#6 d a x (0#2 ++ c) k 1#5) (xlatCheck d a) (fun s => [s.x x]) (kvLong []) s
def execKvxlatf (d : VReg) (a : VReg) (x : XReg) (c : KvNum) (k : MReg) (s : State) : Out :=
  vissue (vr 0x37#6 d a x (0#2 ++ c) k 2#5) (xlatCheck d a) (fun s => [s.x x]) (kvLong []) s

/-! ### Attention (R234 to R239) -/

/-- The running state (R234). -/
structure AttnSt where
  o : List (List Nat)
  m : List Nat
  l : List Nat
  ns : Nat
  gs : Nat

def negInf : Nat := 0xFF800000

/-- Init with the length and generation just read. -/
def attnInit (rows dim : Nat) (d : KvDesc) : AttnSt :=
  { o := List.replicate rows (List.replicate dim 0), m := List.replicate rows negInf, l := List.replicate rows 0,
    ns := d.len, gs := d.gen }

def attnLoad (h : Hart) (vd : VReg) (rows dim : Nat) : AttnSt :=
  let x (i : Nat) : Nat := h.elem vd.toNat i 32
  let n := rows * dim
  { o := (List.range rows).map (fun r => (List.range dim).map (fun i => x (r * dim + i)))
    m := (List.range rows).map (fun r => x (n + r)), l := (List.range rows).map (fun r => x (n + rows + r))
    ns := x (n + 2 * rows), gs := x (n + 2 * rows + 1) }

def AttnSt.elems (st : AttnSt) : List Nat := st.o.flatten ++ st.m ++ st.l ++ [st.ns, st.gs]

def attnStore (h : Hart) (vd : VReg) (st : AttnSt) : Hart :=
  st.elems.zipIdx.foldl (fun h q => h.setElem vd.toNat q.2 32 q.1) h

/-- Dot (R235). -/
def dotOf (q k : List Num) : Nat :=
  let z : Num := .fin false 0 0
  tree8 ((List.range 8).map (fun g => groupSum ((List.range' (32 * g) 32).map (fun i => mulNum (q.getD i z) (k.getD i z)))))

/-- A row of a block as BF16 values: none at a reserved code under RCT, with its byte (R136, R236). -/
def blockRow (d : KvDesc) (rct : Bool) (addr : Nat) (raw : Nat) : Except Word (List Num) :=
  let fc := d.fmt
  (List.range d.dim).foldl (fun acc i =>
    match acc with
    | .error w => .error w
    | .ok l =>
      let rec' := if fmtScaled fc then i / fmtBlock fc * fmtRec fc else 0
      let bit := if fmtScaled fc then 8 * rec' + 8 + i % fmtBlock fc * fmtBits fc else i * fmtBits fc
      let sc := if fmtScaled fc then raw / 256 ^ rec' % 256 else 0
      match widen fc true 16 (raw / 2 ^ bit % 2 ^ fmtBits fc) sc with
      | some v => .ok (l ++ [decodeF bf16 v])
      | none =>
        if rct then .error (wn (addr + (if fmtScaled fc && sc == 0xFF then rec' else bit / 8)))
        else .ok (l ++ [.nan false])) (.ok [])

def blockRows (s : State) (d : KvDesc) (b : KvBlock) (half : Nat) : Except Word (List (List Num)) :=
  (List.range d.bs).foldl (fun acc j =>
    match acc with
    | .error w => .error w
    | .ok l =>
      let off := (half * d.bs + j) * d.rs
      match blockRow d s.me.rct (b.addr + off) (s.readN (b.key + off) d.rs) with
      | .error w => .error w
      | .ok r => .ok (l ++ [r])) (.ok [])

/-- GroupSum over FP32 or product terms. -/
def plainSum (l : List Num) : Nat := groupSum (l.map (fun x => (x, false)))

/-- Update of one row over the positions P of the block (R235): o, m and l. -/
def attnUpdate (q : List Num) (ks vs : List (List Num)) (scale dim : Nat) (ps : List Nat) (o : List Nat) (m l : Nat) :
    List Nat × Nat × Nat :=
  if ps.isEmpty then (o, m, l)
  else
    let sc := ps.map (fun t => mulF32 (dotOf q (ks.getD t [])) scale)
    let mn := sc.foldl ieeeMax m
    if mn == negInf then (o, m, l)
    else
      let alpha := expTwoF32 (subF32 m mn)
      let p := (ps.zip sc).map (fun x => (x.1, decodeF f32 (expTwoF32 (subF32 x.2 mn))))
      let group (g : Nat) := p.filter (fun x => x.1 / 32 == g)
      let sum := tree4 ((List.range 4).map (fun g => plainSum ((group g).map (·.2)))) 0
      let o' := (List.range dim).map (fun i =>
        let pv := tree4 ((List.range 4).map (fun g =>
          groupSum ((group g).map (fun x => mulNum x.2 ((vs.getD x.1 []).getD i (.fin false 0 0)))))) 0
        addF32 (mulF32 alpha (o.getD i 0)) pv)
      (o', mn, addF32 (mulF32 alpha l) sum)

/-- Update of every row for block b. `last` bounds the positions of row r: Allowed (R235, R237). -/
def attnBlock (q : List (List Num)) (ks vs : List (List Num)) (d : KvDesc) (b : Nat) (allowed : Nat → Nat → Bool) (st : AttnSt) : AttnSt :=
  let rs := (List.range st.o.length).map (fun r =>
    let ps := (List.range d.bs).filter (fun j => b * d.bs + j < st.ns && allowed r (b * d.bs + j))
    attnUpdate (q.getD r []) ks vs d.scale d.dim ps (st.o.getD r []) (st.m.getD r 0) (st.l.getD r 0))
  { st with o := rs.map (·.1), m := rs.map (·.2.1), l := rs.map (·.2.2) }

/-- The normalisation at the end. -/
def attnNormal (st : AttnSt) : AttnSt :=
  { st with o := (st.o.zip st.l).map (fun x => if x.2 % 2 ^ 31 == 0 then x.1 else x.1.map (fun v => divF32 v x.2)) }

def ceilDiv (a b : Nat) : Nat := (a + b - 1) / b

/-- Puts the group back as it stood when the instruction issued: a trap at block 0 commits nothing (R238). -/
def restoreGroup (vd : VReg) (grp : List VBits) (h : Hart) : Hart :=
  grp.zipIdx.foldl (fun h q => h.setVreg (vd.toNat + q.2) q.1) h

/-- A trap of ATTN at block b (R238). -/
def attnTrap (vd : VReg) (cap : Capture) (b : Nat) (r : VRes) : VRes :=
  match r with
  | .trap t s => .trap t (s.modMe (fun h =>
      { (if b == 0 then restoreGroup vd cap.grp h else h) with kvstart := wn b }))
  | r => r

/-- The end of ATTN and ATTNC: normalisation, KVSTART, the tail. -/
def attnEnd (vd : VReg) (cap : Capture) (st : AttnSt) (s : State) : VRes :=
  let h := attnStore s.me vd (attnNormal st)
  let h1 := if taOf cap.vtype then h.zeroFrom vd.toNat (2 * cap.lmul) (32 * st.elems.length) else h
  let n := st.elems.length
  kvDone ((s.setMe { h1 with kvstart := 0, vstart := 0 }).healWrites vd.toNat (2 * cap.lmul) 32
    (fun e => e < n || taOf cap.vtype))

/-- The first bad byte of a block. Its LOC is an address below 2^52 in the block's own space: the spec gives block data no
virtual address (DESIGN CHOICE, log 50). -/
def badBlock (s : State) (d : KvDesc) (b : KvBlock) : Option Trap :=
  if s.bad.isEmpty then none
  else
    match (List.range (2 * d.bs * d.rs)).find? (fun i => s.badByte (b.key + i)) with
    | some i => some ⟨.uncorrectable, memBadVal b.key (wn (b.addr + i)), 0⟩
    | none => none

/-- A marked granule of the state (R234) among its elements from `lo` on, `n` of them. -/
def badState (s : State) (vd : VReg) (lo n : Nat) : Option Trap := badSource s (List.range' lo n) [(vd.toNat, 32)] 0

/-- A marked granule that the update of a block reads: q of a row that has a position there, and, from block 1 on, o, m and l. -/
def badUpdate (s : State) (vd va : VReg) (rows dim b : Nat) (live : Nat → Bool) : Option Trap :=
  if s.bad.isEmpty then none
  else (List.range rows).findSome? (fun r =>
    if !live r then none
    else firstSome [badSource s (List.range' (r * dim) dim) [(va.toNat, 16)] 0,
      if b == 0 then none else firstSome [badState s vd (r * dim) dim, badState s vd (rows * dim + r) 1, badState s vd (rows * dim + rows + r) 1]])

/-- The end of ATTN and ATTNC where no block is left: o and l are read. -/
def attnClose (vd : VReg) (cap : Capture) (rows dim b : Nat) (st : AttnSt) (s : State) : VRes :=
  match (if b == 0 then none else badState s vd 0 (rows * dim + 2 * rows)) with
  | some t => attnTrap vd cap b (.trap t s)
  | none => attnEnd vd cap st s

/-- The data of block b, and its update. Of several defects of one block the spec orders none: a bad byte comes first, then a
reserved code of a K row, then of a V row, then a marked register; RESERVED_CODE at block b leaves TRAPELEM 0 and VSTART as it
stands (R236; DESIGN CHOICE, log 63). -/
def attnData (causal : Bool) (vd va : VReg) (cap : Capture) (rows dim p b nb : Nat) (d : KvDesc) (blk : KvBlock) (st : AttnSt)
    (s : State) : VRes :=
  let allowed (r t : Nat) : Bool := !causal || t ≤ p + r
  let live (r : Nat) : Bool := (List.range d.bs).any (fun j => b * d.bs + j < st.ns && allowed r (b * d.bs + j))
  match badBlock s d blk with
  | some t => attnTrap vd cap b (.trap t s)
  | none =>
    match blockRows s d blk 0, blockRows s d blk 1, badUpdate s vd va rows dim b live with
    | .error w, _, _ => attnTrap vd cap b (.trap ⟨.reservedCode, w, 0⟩ s)
    | .ok _, .error w, _ => attnTrap vd cap b (.trap ⟨.reservedCode, w, 0⟩ s)
    | .ok _, .ok _, some t => attnTrap vd cap b (.trap t s)
    | .ok ks, .ok vs, none =>
      let q := (List.range rows).map (fun r =>
        (List.range dim).map (fun i => decodeF bf16 (s.me.elem va.toNat (r * dim + i) 16)))
      let st1 := attnBlock q ks vs d b allowed st
      if nb ≤ b + 1 then attnEnd vd cap st1 s
      else .wait cap none ((s.setMe { attnStore s.me vd st1 with kvstart := wn (b + 1) }).healWrites vd.toNat
        (2 * cap.lmul) 32 (fun e => e < st1.elems.length))

/-- A restart: block 0, and one more in RESTARTS (R232, R239). -/
def attnRestart (c : KvNum) (h : Hart) : Hart :=
  let x := h.kv.get ⟨c.toNat, c.isLt⟩
  { h with kvstart := 0, kv := h.kv.set c.toNat { x with restarts := min (x.restarts + 1) 65535 } c.isLt }

/-- One block of ATTN, or its end (R235): GEN is read anew, and compared with GS, before anything else of the block is read
(R239, R395). -/
def attnBody (causal : Bool) (vd va : VReg) (c : KvNum) (cap : Capture) (s : State) : VRes :=
  let rows := rowsField cap.vtype
  let dim := tdimOf cap.vtype
  let p := bitsOf (cap.xs.getD 1 0) 0 32
  let b0 := s.me.kvstart.toNat
  match walkHead c (cap.xs.getD 0 0) (BitVec.ofNat 32 b0) s with
  | (s1, .error e) => attnTrap vd cap b0 (kvTrap c e s1)
  | (s1, .ok hd) =>
    match (if b0 == 0 then none else badState s1 vd (rows * dim + 2 * rows) 2) with
    | some t => attnTrap vd cap b0 (.trap t s1)
    | none =>
      let old := attnLoad s1.me vd rows dim
      let restart := b0 != 0 && hd.gen != old.gs
      let b := if restart then 0 else b0
      let s2 := if restart then s1.modMe (attnRestart c) else s1
      match walkRest c (cap.xs.getD 0 0) dim (fun _ => BitVec.ofNat 32 b) hd s2 with
      | (s2, .error e) => attnTrap vd cap b (kvTrap c e s2)
      | (s2, .ok d) =>
        let st := if b == 0 then attnInit rows dim d else old
        let nb := let n := ceilDiv st.ns d.bs
          if causal then min n (ceilDiv (p + rows) d.bs) else n
        if nb ≤ b then attnClose vd cap rows dim b st s2
        else
          match walkBlock c d b (BitVec.ofNat 32 b) s2 with
          | (s3, .error e) => attnTrap vd cap b (kvTrap c e s3)
          | (s3, .ok blk) => attnData causal vd va cap rows dim p b nb d blk st s3

def attnCheck (d a : VReg) : State → Option Cause :=
  kvCheck (checkType false (fun h =>
    let rows := rowsField h.vtype
    let dim := tdimOf h.vtype
    sewOf h.vtype == 16 && ekOf h.vtype && groupsOk h [(d.toNat, 32), (a.toNat, 16)] &&
    rows * dim + 2 * rows + 2 ≤ tileRoom h && !overlaps d.toNat (emulOf h.vtype 32) a.toNat (emulOf h.vtype 16)))

def groupBits (h : Hart) (r : VReg) (n : Nat) : List VBits := (List.range n).map (fun i => h.vreg (r.toNat + i))

/-- ATTN takes its number; ATTN_BLOCK carries it on block by block. -/
def execAttn (d : VReg) (a : VReg) (x : XReg) (c : KvNum) (s : State) : Out :=
  vissue (vr 0x37#6 d a x (0#2 ++ c) 0#3 3#5) (attnCheck d a) (fun s => [s.x x])
    (fun cap s => kvLong (groupBits s.me d (2 * cap.lmul)) cap s) s
def execAttnc (d : VReg) (a : VReg) (x : XReg) (c : KvNum) (s : State) : Out :=
  vissue (vr 0x37#6 d a x (0#2 ++ c) 0#3 4#5) (attnCheck d a) (fun s => [s.x x, s.x (x + 1)])
    (fun cap s => kvLong (groupBits s.me d (2 * cap.lmul)) cap s) s

/-- Fields of a KV word (R227). -/
def kvFn (w : Insn) : Nat := if majorOf w == 0x37 then fnOf w else 32
def kvD (w : Insn) : VReg := w.extractLsb' 21 5
def kvA (w : Insn) : VReg := w.extractLsb' 16 5
def kvC (w : Insn) : KvNum := w.extractLsb' 8 1
def kvK (w : Insn) : MReg := w.extractLsb' 5 3

/-- ATTN_BLOCK: a block of the ATTN or ATTNC at the head of the hart's stream is committed. -/
def execAttnBlock (who : Who) (s : State) : Out :=
  .next (headEvent who (fun w =>
    if kvFn w == 3 || kvFn w == 4 then some (attnBody (kvFn w == 4) (kvD w) (kvA w) (kvC w)) else none) s)

/-! ### KVAPP (R240) -/

/-- The codes of one row as bytes (R137 to R139). -/
def packRow (d : KvDesc) (h : Hart) (r : VReg) (base : Nat) : Nat :=
  let xs := (List.range d.dim).map (fun i => h.elem r.toNat (base + i) 16)
  if fmtScaled d.fmt then
    let b := fmtBlock d.fmt
    ((List.range (d.dim / b)).map (fun c =>
      recordNat d.fmt (((xs.drop (c * b)).take b).map (decodeF bf16)) * 256 ^ (c * fmtRec d.fmt))).sum
  else packCodes (fmtBits d.fmt) (xs.map (narrow d.fmt h.sat h.rm true 16))

/-- A host block is written where ATS grants a write (R224, R339). -/
def unwritable (s : State) (b : KvBlock) : Bool :=
  2 ^ 60 ≤ b.key && b.key < 2 ^ 61 && !s.atsGrants s.me (b.addr / 4096) true

/-- Where row r of a block lies: its K row, and its V row behind the block's K rows (R225). -/
def KvDesc.rowKeys (d : KvDesc) (b : KvBlock) (t : Nat) : List Nat :=
  let k := b.key + t % d.bs * d.rs
  [k, k + d.bs * d.rs]

/-- Walks every block that the rows touch, in row order; the first failing row gives INDEX (R240). A row that lies in code is
refused as a block that is not owned (R35; DESIGN CHOICE, log 72). -/
def appWalk (c : KvNum) (d : KvDesc) (p : Nat) : List Nat → State → Walk (List KvBlock)
  | [], s => (s, .ok [])
  | r :: rs, s =>
    let index := BitVec.ofNat 32 ((p + r) / d.bs)
    match walkBlock c d ((p + r) / d.bs) index s with
    | (s1, .error e) => (s1, .error { e with page := if e.index.isSome then e.page.map (fun a => { a with wr := true }) else e.page })
    | (s1, .ok b) =>
      if unwritable s1 b then (s1, .error { kvFault c 0x07 index with page := some ⟨b.addr / 4096, true⟩ })
      else if (d.rowKeys b (p + r)).any (fun k => s1.codeIn k d.rs) then (s1, .error (kvFault c 0x07 index))
      else
        match appWalk c d p rs s1 with
        | (s2, .error e) => (s2, .error e)
        | (s2, .ok l) => (s2, .ok (b :: l))

/-- The rows are written, with the blocks already walked. -/
def appWrite (d : KvDesc) (vd va : VReg) (p : Nat) (bs : List KvBlock) (s : State) : State :=
  bs.zipIdx.foldl (fun s q =>
    ((d.rowKeys q.1 (p + q.2)).zip [va, vd]).foldl (fun s x => s.writeN x.1 d.rs (packRow d s.me x.2 (q.2 * d.dim))) s) s

/-- The LEN word, translated as an AMO would (R130). -/
def lenAccess (s : State) (va : Word) : Except MemErr Phys := amoAccess s 32 true va

/-- The 32-bit unsigned maximum (R240). -/
def lenMax (old n : Nat) : Nat := if n < 2 ^ 32 then max old n else (Config.lenOver old n).toNat

/-- First the walk, the checks and the rows; at the next return, once they are performed, the maximum. -/
def appBody (vd va : VReg) (c : KvNum) (cap : Capture) (s : State) : VRes :=
  let rows := rowsField cap.vtype
  let dim := tdimOf cap.vtype
  let p := bitsOf (cap.xs.getD 1 0) 0 32
  match cap.xs[2]? with
  | some va' =>
    (match lenAccess s va' with
    | .error e => memTrap e 0 s
    | .ok ph =>
      if s.badByte ph.key then .trap ⟨.uncorrectable, memBadVal ph.key va', 0⟩ s
      else kvDone ((s.linkTo ph.key 1).writeN ph.key 4 (lenMax (s.readN ph.key 4) (p + rows))))
  | none =>
    match walkDesc c (cap.xs.getD 0 0) dim (Config.kvIndex p) (fun d => BitVec.ofNat 32 (p / d.bs)) s with
    | (s1, .error e) => kvTrap c e s1
    | (s1, .ok d) =>
      match appWalk c d p (List.range rows) s1 with
      | (s2, .error e) => kvTrap c e s2
      | (s2, .ok bs) =>
        match lenAccess s2 (d.va + 4), badSource s2 (List.range (rows * dim)) [(va.toNat, 16), (vd.toNat, 16)] 0 with
        | .error e, _ => memTrap e 0 s2
        | .ok _, some t => .trap t s2
        | .ok _, none =>
            .wait { cap with xs := [cap.xs.getD 0 0, cap.xs.getD 1 0, d.va + 4] } none
              ((appWrite d vd va p bs s2).modMe (fun h => { h with vstart := 0 }))

def execKvapp (d : VReg) (a : VReg) (x : XReg) (c : KvNum) (s : State) : Out :=
  vissue (vr 0x37#6 d a x (0#2 ++ c) 0#3 5#5)
    (kvCheck (checkType false (fun h => sewOf h.vtype == 16 && ekOf h.vtype && groupsOk h [(d.toNat, 16), (a.toNat, 16)] &&
      rowsField h.vtype * tdimOf h.vtype ≤ tileRoom h)))
    (fun s => [s.x x, s.x (x + 1)]) (kvLong []) s

/-- KV_WALKER_READ_RETURN: the KVXLAT, KVXLATF or KVAPP at the head of the hart's stream goes on. -/
def execKvWalkerReadReturn (who : Who) (s : State) : Out :=
  .next (headEvent who (fun w =>
    if kvFn w == 1 || kvFn w == 2 then some (xlatBody (kvFn w == 2) (kvD w) (kvA w) (kvC w) (kvK w))
    else if kvFn w == 5 then some (appBody (kvD w) (kvA w) (kvC w)) else none) s)

end Sys2Proof.Machine
end

