-- ==== Sys2Proof/Machine/Exchange.lean ====
section
/-!
DEFINITION. XCH (R272 to R285): the members that span a gang's segments, messages between harts, ring steps, and the
events of the exchange network and the Lamef ports (R267 to R271). Another device is outside the model: a message
to or from one is seen here only through the events.
-/

namespace Sys2Proof.Machine

/-! ### Members that span the segments (R273 to R275) -/

/-- An active element takes element `f` of va, or 0 where there is none. -/
def spanMember (word : Insn) (d a : VReg) (k : MReg) (caps : State → List Word) (f : Capture → Hart → Nat → Option Nat) (s : State) : Out :=
  permMember word d a [a] (fun c h e => ((f c h e).map (fun i => Rd.elem a.toNat c.sew i)).toList) caps k
    (fun c h e => .value (((f c h e).map (fun i => h.elem a.toNat i c.sew)).getD 0)) s

/-- The element that XSTEP reads for element e, by k segments back (R273). -/
def stepFrom (c : Capture) (h : Hart) (e : Nat) : Nat :=
  let n := h.segs
  let k := (c.xs.getD 0 0).toNat % n
  elemOf h.lanes n c.sew ((segOf h.lanes n c.sew e + n - k) % n) (localOf h.lanes n c.sew e)

def execXstep (d : VReg) (a : VReg) (b : XReg) (k : MReg) (s : State) : Out :=
  spanMember (vr 0x39#6 d a b 0#3 k 2#5) d a k (fun s => [s.x b])
    (fun c h e => let e' := stepFrom c h e
      if e' < c.vl then some e' else none) s

def execXbcast (d : VReg) (a : VReg) (b : XReg) (k : MReg) (s : State) : Out :=
  spanMember (vr 0x39#6 d a b 0#3 k 5#5) d a k (fun s => [s.x b])
    (fun c h _ => let i := (c.xs.getD 0 0).toNat
      if i < vlmaxOf h.lanes c.vtype then some i else none) s

/-- XREDSUM and XREDMAX: the integer fold from z, or the tree of R110 with zf where no element is active (R275). The tree
of one active element is that element, so a NaN that stands alone passes with its bits and without NV; R99 keeps a NaN's
bits only for sign injection and R275 says nothing of the case (DESIGN CHOICE, log 66). -/
def spanReduce (word : Insn) (fi : Nat → Nat → Nat → Nat → Nat) (z : Nat → Nat)
    (ff : BitVec 3 → Nat → Nat → Nat → Nat → Nat × Flags) (zf : Nat → Nat) (d a : VReg) (k : MReg) (s : State) : Out :=
  vissue word
    (checkType false (fun h => groupsOk h ([d, a].map (fun r => (r.toNat, sewOf h.vtype)))))
    (fun _ => [])
    (fun cap s =>
      match badSource s cap.elems [(a.toNat, cap.sew)] k with
      | some t => .trap t s
      | none =>
        let h := s.me
        let es := List.range cap.vl
        if ekOf cap.vtype then
          let t := tree (fun x y => ff h.rm cap.sew x y 0) 22 (leaves h k a.toNat cap.sew es)
          finishRed t.2 s cap.vtype d.toNat cap.sew 1 [t.1.getD (zf cap.sew)]
        else
          let r := es.foldl (fun acc e => if h.isActive k e then fi cap.sew acc (h.elem a.toNat e cap.sew) 0 else acc) (z cap.sew)
          .done ((s.setMe { writeResults cap.vtype d.toNat cap.sew 1 [r] h with vstart := 0 }).healResults
            cap.vtype d.toNat cap.sew 1 1))
    s

def execXredsum (d : VReg) (a : VReg) (k : MReg) (s : State) : Out :=
  spanReduce (vr 0x39#6 d a 0#5 0#3 k 3#5) fAdd (fun _ => 0) vfAdd (fun _ => 0) d a k s
def execXredmax (d : VReg) (a : VReg) (k : MReg) (s : State) : Out :=
  spanReduce (vr 0x39#6 d a 0#5 0#3 k 4#5) fMax (fun w => 2 ^ (w - 1)) vfMax (fun w => signed (fmtOf w) true (fmtOf w).infCode) d a k s

/-! ### Channel words, numbers, completion (R276, R282, R283) -/

def chanWho (w : Word) : Who := ⟨Fin.ofNat 64 (bitsOf w 30 6), Fin.ofNat 8 (bitsOf w 27 3)⟩
def chanDev (w : Word) : Nat := bitsOf w 36 12
def chanTag (w : Word) : Nat := bitsOf w 0 16
def chanWdog (w : Word) : Nat := bitsOf w 48 16
def chanBad (w : Word) : Bool := bitsOf w 16 11 != 0

/-- EXCHANGE with its reason and the low 32 bits of the XC number (R283). -/
def exchangeTrap (reason n : Nat) : Trap := ⟨.exchange, wn (reason * 2 ^ 56 + n % 2 ^ 32), 0⟩

def XOp.plain (k : XKind) (word : Insn) (chan : Word) (cap : Capture) : XOp :=
  { tag := ⟨0, 0, none, 0⟩, kind := k, word := word, chan := chan, bytes := [], vd := 0, vtype := cap.vtype, vl := cap.vl,
    sent := false, rev := 0, step := 0, arrived := none, key := 0, succ := 0, pred := 0, mem := 0, wdog := chanWdog chan }

/-- The next XC number. -/
def xcNumber (s : State) : State := s.modMe (fun h => { h with tlxc := h.tlxc + 1, xbound := true })

/-- The operation takes the next XC number (R282). -/
def xcIssue (cap : Capture) (o : XOp) (s : State) : State :=
  let s1 := xcNumber s
  { s1.modMe (fun h => { h with xops := h.xops ++ [{ o with tag := ⟨h.tlxc.toNat, s.seqNow, cap.arm, s.nextId⟩ }] }) with
    nextId := s.nextId + 1 }

/-- LAST is the status of the highest-numbered completed operation. -/
def Hart.setLast (h : Hart) (n : Nat) (st : BitVec 4) : Hart :=
  if h.xst.top ≤ n then { h with xst := { h.xst with last := st, top := n } } else h

/-- An operation of hart w completes with a status (R257, R282). -/
def xcDone (w : Who) (n : Nat) (st : BitVec 4) (s : State) : State :=
  (s.modHart w (fun h => { h.setLast n st with xops := h.xops.filter (fun o => o.tag.num != n) })).pulseOp w 4

/-- The bytes of elements 0 to vl-1 (R277). -/
def elemBytes (h : Hart) (r : VReg) (vl sew : Nat) : List Byte :=
  (List.range vl).flatMap (fun e => bytesOf (sew / 8) (h.elem r.toNat e sew))

/-- A message into elements 0 to vl-1, the tail following TA (R277). -/
def Hart.putBytes (h : Hart) (r : VReg) (t : Word) (vl : Nat) (bs : List Byte) : Hart :=
  let n := sewOf t / 8
  ((List.range vl).foldl (fun h e => h.setElem r.toNat e (sewOf t) (natOf ((bs.drop (e * n)).take n))) h).tail t r.toNat (sewOf t) vl

def xchCheck (regs : List VReg) (s : State) : Option Cause :=
  match checkType false (fun h => groupsOk h (regs.map (fun r => (r.toNat, sewOf h.vtype)))) s with
  | some c => some c
  | none => if s.me.gang.isSome then some .config else none

def Hart.xcount (h : Hart) (k : XKind) : Nat := (h.xops.filter (fun o => o.kind == k)).length

/-! ### XSEND, XRECV, XSTAT -/

def execXsend (a : VReg) (b : XReg) (s : State) : Out :=
  vissue (vr 0x39#6 0#5 a b 0#3 0#3 0#5) (xchCheck [a]) (fun s => [s.x b])
    (fun cap s =>
      let ch := cap.xs.getD 0 0
      if chanBad ch then .trap (exchangeTrap 0x03 0) s
      else if 4 ≤ s.me.xcount .send then .block
      else
        match badSource s cap.elems [(a.toNat, cap.sew)] 0 with
        | some t => .trap t s
        | none =>
          .done ((xcIssue cap { XOp.plain .send (vr 0x39#6 0#5 a b 0#3 0#3 0#5) ch cap with bytes := elemBytes s.me a cap.vl cap.sew } s).modMe
            (fun h => { h with vstart := 0 })))
    s

def execXrecv (d : VReg) (b : XReg) (s : State) : Out :=
  vissue (vr 0x39#6 d 0#5 b 0#3 0#3 1#5) (xchCheck [d]) (fun s => [s.x b])
    (fun cap s =>
      let ch := cap.xs.getD 0 0
      if chanBad ch then .trap (exchangeTrap 0x03 0) s
      else if 4 ≤ s.me.xcount .recv then .block
      else .done ((xcIssue cap { XOp.plain .recv (vr 0x39#6 d 0#5 b 0#3 0#3 1#5) ch cap with vd := d } s).modMe (fun h => { h with vstart := 0 })))
    s

/-- XSTAT's word (R282). -/
def Hart.xstat (h : Hart) : Word :=
  wn (h.xcount .send * 2 ^ 56 + h.xcount .recv * 2 ^ 52 + h.xst.last.toNat * 2 ^ 48 + h.xst.aborts * 2 ^ 32 + h.xst.revn.toNat)

/-- Some earlier exchange member of the hart is incomplete. -/
def Hart.xchBusy (h : Hart) : Bool := !h.xops.isEmpty || h.stream.any (fun e => isEngine e.word && majorOf e.word == 0x39)

def execXstat (d : XReg) (s : State) : Out :=
  if s.me.xchBusy then stall .stream s else writeX d s.me.xstat s

/-! ### EXCHANGE_PAIR_TRANSFER (R276, R277) -/

/-- The oldest operation of a kind of hart w that names a partner on a device, and the tag. -/
def State.oldest (s : State) (w : Who) (k : XKind) (dev : BitVec 12) (partner : Who) (tag : Nat) : Option XOp :=
  (s.hart w).xops.find? (fun o =>
    o.kind == k && chanDev o.chan == dev.toNat && chanWho o.chan == partner && chanTag o.chan == tag)

/-- The operation is neither held nor withdrawn, and every earlier vector instruction has retired (R263, R285, R312). -/
def State.xFree (s : State) (w : Who) (o : XOp) : Bool :=
  (s.hart w).drawn.isNone && (s.hart w).settled o.tag.seq && (s.hart w).xops.all (fun p => o.tag.num < p.tag.num || p.tag.held.isNone)

def State.groupOf (s : State) (h : Hart) : Option (BitVec 16) := (s.launchOf h).map (fun (l : Launch) => l.xgroup)
def State.groupOfHart (s : State) (w : Who) : Option (BitVec 16) := s.groupOf (s.hart w)

/-- The hart of an exchange group at slot w: the one that stands there, or one whose context was saved there (R285). -/
def State.endOf (s : State) (w : Who) (g : BitVec 16) : Option Hart :=
  match s.saved.find? (fun x => x.home == w && s.groupOf x.frame == some g) with
  | some x => some x.frame
  | none => if s.groupOfHart w == some g then some (s.hart w) else none

/-- Hart w has no end of hart v's exchange group at its slot, where a launch of another group stands (R276, R284). -/
def State.foreign (s : State) (v w : Who) : Bool :=
  match s.groupOfHart v with
  | none => true
  | some g => (s.endOf w g).isNone

/-- Harts of launches with one exchange group (R276). -/
def State.sameGroup (s : State) (a b : Who) : Bool := (s.groupOfHart a).isSome && s.groupOfHart a == s.groupOfHart b

def pendExchange (w : Who) (t : Trap) (s : State) : State := s.modHart w (fun h => { h with xpend := h.xpend ++ [t] })

/-- The operation ends with a status, and its hart raises EXCHANGE at its next boundary (R284). -/
def xFail (w : Who) (num reason : Nat) (st : BitVec 4) (s : State) : State :=
  pendExchange w (exchangeTrap reason num) (xcDone w num st s)

/-- The bytes of an XRECV. -/
def XOp.room (o : XOp) : Nat := o.vl * (sewOf o.vtype / 8)

/-- A message in the register group of hart w: the granules that it fills are whole again (R277, R334). -/
def putMessage (w : Who) (r : VReg) (t : Word) (vl : Nat) (bytes : List Byte) (s : State) : State :=
  s.asHart w (fun s => (s.modMe (fun h => h.putBytes r t vl bytes)).healWrites r.toNat (emulOf t (sewOf t)) (sewOf t)
    (fun e => e < vl || taOf t))

/-- The message reaches the register group of an XRECV. -/
def xReceive (w : Who) (r : XOp) (bytes : List Byte) (s : State) : State :=
  xcDone w r.tag.num 0 (putMessage w r.vd r.vtype r.vl bytes s)

/-- Flits of a message of n bytes (R270). -/
def msgFlits (n : Nat) : Nat := max 1 ((n + 239) / 240)

/-- One end of a message whose other end, on another device, has issued its member. -/
def pairAway (snd rcv : Who) (tag : BitVec 16) (f : FarEnd) (s : State) : State :=
  if f.dev == s.dev || s.noPath then s
  else if f.sends then
    match s.oldest rcv .recv f.dev snd tag.toNat with
    | none => s
    | some r =>
      if !s.xFree rcv r then s
      else if f.bytes.length == r.room then xReceive rcv r f.bytes s
      else xFail rcv r.tag.num 0x02 3 s
  else
    match s.oldest snd .send f.dev rcv tag.toNat with
    | none => s
    | some x =>
      if !s.xFree snd x then s
      else
        let s1 := s.sendFlits (msgFlits x.bytes.length)
        if x.bytes.length == f.bytes.length then xcDone snd x.tag.num 0 s1 else xFail snd x.tag.num 0x02 3 s1

/-- EXCHANGE_PAIR_TRANSFER: the k-th XSEND and the k-th XRECV of a pair and a tag transfer. Whose exchange group an end on
another device is, that device says (EXCHANGE_REFUSED). -/
def execExchangePairTransfer (snd rcv : Who) (tag : PairTag) (s : State) : Out :=
  match tag.far with
  | some f => .next (pairAway snd rcv tag.tag f s)
  | none =>
    match s.oldest snd .send s.dev rcv tag.tag.toNat, s.oldest rcv .recv s.dev snd tag.tag.toNat with
    | some x, some r =>
      if !(s.xFree snd x && s.xFree rcv r && s.sameGroup snd rcv) then .next s
      else if x.bytes.length == r.room then .next (xcDone snd x.tag.num 0 (xReceive rcv r x.bytes s))
      else .next (xFail snd x.tag.num 0x02 3 (xFail rcv r.tag.num 0x02 3 s))
    | _, _ => .next s

/-! ### Ring steps (R279, R280) -/

/-- A revolution that the hart has not seen commit is aborted there: counted once (R280, R282). -/
def Hart.abortRev (h : Hart) (rev : BitVec 32) : Hart :=
  if h.revDead.contains rev || h.revDone.contains rev then h
  else { h with revDead := rev :: h.revDead, xst := { h.xst with aborts := min (h.xst.aborts + 1) 65535 } }

/-- Doubleword 2 after the step (R279). -/
def ringNext (o : XOp) : Word :=
  if o.step.toNat + 2 < o.mem then wn (o.rev.toNat * 2 ^ 32 + o.step.toNat + 1) else (o.rev + 1).zeroExtend 64 <<< 32

/-- The XRING at the head of the hart's stream ends, with a status and perhaps a message. -/
def ringEnd (o : XOp) (aborted : Bool) (s : State) : VRes :=
  let s1 := match o.arrived with
    | some bs => if aborted then s else putMessage s.who o.vd o.vtype o.vl bs s
    | none => s
  let s2 := s1.modMe (fun h => { h with xst := { h.xst with revn := o.rev }, vstart := 0 })
  .done (xcDone s.who o.tag.num (if aborted then 1 else 0) (s2.writeN o.key 8 (ringNext o).toNat))

/-- EXCHANGE raised at an XRING aborts its revolution (R280, R284). -/
def ringTrap (reason : Nat) (o : XOp) (s : State) : VRes :=
  .trap (exchangeTrap reason o.tag.num)
    (s.modMe (fun h => { h.abortRev o.rev with xops := h.xops.filter (fun p => p.tag.num != o.tag.num) }))

/-- Where the doublewords of a ring descriptor lie, each translated for itself (R330); doubleword 2 is written too. R279 puts
the descriptor in device memory and names a trap for host memory alone: one in another device's memory is taken
(DESIGN CHOICE, log 65). -/
def ringKeys (s : State) (va : Word) : List Nat → Except MemErr (List Nat)
  | [] => .ok []
  | i :: is =>
    let a := va + wn (8 * i)
    match access s s.who .load 8 false a, (if i == 2 then access s s.who .store 8 false a else access s s.who .load 8 false a) with
    | .error e, _ => .error e
    | .ok _, .error e => .error e
    | .ok p, .ok _ =>
      if p.tgt == .host then .error ⟨.perm, a, none, false⟩
      else
        match ringKeys s va is with
        | .error e => .error e
        | .ok l => .ok (p.key :: l)

/-- The four doublewords of the ring descriptor and the place of doubleword 2. -/
def ringDesc (s : State) (va : Word) : Except MemErr (Nat × List Word) :=
  if va.toNat % 64 != 0 then .error ⟨.misalign, va, none, false⟩
  else
    match ringKeys s va [0, 1, 2, 3] with
    | .error e => .error e
    | .ok ks =>
      match ks.zipIdx.find? (fun k => s.badByte k.1) with
      | some k => .error ⟨.uncorrectable, memBadVal k.1 (va + wn (8 * k.2)), none, false⟩
      | none => .ok (ks.getD 2 0, ks.map (fun k => wn (s.readN k 8)))

/-- EXCHANGE 0x04. MEM has its range of 2 to 4,096: the check of a larger one is read from the field (DEDUCED, log 56). -/
def ringBad (l : List Word) : Bool :=
  chanBad (l.getD 0 0) || chanBad (l.getD 1 0) || bitsOf (l.getD 2 0) 16 16 != 0 || bitsOf (l.getD 3 0) 16 32 != 0 ||
  bitsOf (l.getD 3 0) 0 16 < 2 || 4096 < bitsOf (l.getD 3 0) 0 16 || bitsOf (l.getD 3 0) 0 16 ≤ bitsOf (l.getD 2 0) 0 16 + 1

/-- A ring word names another device and no port is up (R271). -/
def State.ringCut (s : State) (w : Word) : Bool := chanDev w != s.dev.toNat && s.noPath

/-- The step's message leaves for the successor; or the reason why not: no path leads there, or a launch of another group
on this device refuses it (R271, R276, R279). A message waits for a hart whose context is saved (R285). -/
def ringSend (o : XOp) (s : State) : Except Nat State :=
  let next := chanWho o.succ
  if s.ringCut o.succ then .error 0x05
  else if chanDev o.succ != s.dev.toNat then .ok (s.sendFlits (msgFlits o.bytes.length))
  else if (s.groupOfHart next).isSome && s.foreign s.who next then .error 0x03
  else
    match s.groupOfHart s.who with
    | none => .error 0x03
    | some g => .ok { s with ringMail := s.ringMail ++ [(next, g, ⟨s.dev, s.who, o.rev, o.step, o.bytes⟩)] }

/-- XRING with its number n reads the descriptor and sends; it then stands at the head of the stream. -/
def ringStart (word : Insn) (d a : VReg) (cap : Capture) (n : Nat) (s : State) : VRes :=
  let va := cap.xs.getD 0 0
  match ringDesc s va with
  | .error e => .trap ⟨e.cause, e.addr, 0⟩ (s.sendPage s.who e.page)
  | .ok (key, l) =>
    let o : XOp := { XOp.plain .ring word va cap with
      tag := ⟨n, s.seqNow, none, s.nextId⟩, bytes := elemBytes s.me a cap.vl cap.sew, vd := d
      rev := (l.getD 2 0).extractLsb' 32 32, step := (l.getD 2 0).extractLsb' 0 16, key := key, succ := l.getD 0 0
      pred := l.getD 1 0, mem := bitsOf (l.getD 3 0) 0 16, wdog := chanWdog (l.getD 3 0), sent := true }
    if ringBad l then ringTrap 0x04 o s
    else if s.me.revDead.contains o.rev then ringEnd o true s
    else
      match badSource s cap.elems [(a.toNat, cap.sew)] 0 with
      | some t => .trap t s
      | none =>
        match (if (cap.xs.getD 1 0) == 1 then .ok s else ringSend o s) with
        | .error reason => ringTrap reason o s
        | .ok s1 =>
          .wait cap none { s1.modMe (fun h => { h with xops := h.xops ++ [o] }) with nextId := s.nextId + 1 }

def execXring (d : VReg) (a : VReg) (b : XReg) (s : State) : Out :=
  vissue (vr 0x39#6 d a b 0#3 0#3 6#5) (xchCheck [d, a]) (fun s => [s.x b])
    (fun cap s =>
      match cap.num with
      | some n => if s.me.xops.any (fun o => o.tag.num == n) then .block else ringStart (vr 0x39#6 d a b 0#3 0#3 6#5) d a cap n s
      | none =>
        let s1 := xcNumber s
        let cap1 := { cap with num := some s1.me.tlxc.toNat }
        if cap.arm.isSome then .wait cap1 cap.arm s1 else ringStart (vr 0x39#6 d a b 0#3 0#3 6#5) d a cap1 s1.me.tlxc.toNat s1)
    s

/-- Carries on the XRING that stands at the head of a hart's stream. -/
def ringEvent (who : Who) (f : XOp → State → VRes) (s : State) : State :=
  headEvent who (fun w =>
    if majorOf w == 0x39 && fnOf w == 6 then
      some (fun cap s =>
        match s.me.xops.find? (fun o => o.kind == .ring && some o.tag.num == cap.num) with
        | some o => f o s
        | none => .block)
    else none) s

/-- a is an older revolution than b, over a half range. -/
def olderRev (a b : BitVec 32) : Bool := a != b && (b - a).toNat < 2 ^ 31

/-- A message reaches the waiting XRING, still at the head and marked as arrived (R279). -/
def ringArrive (o : XOp) (bs : List Byte) (s : State) : VRes :=
  let o1 := { o with arrived := some bs }
  if bs.length != o.vl * (sewOf o.vtype / 8) then ringTrap 0x02 o s
  else if o.step.toNat + 2 < o.mem then ringEnd o1 false s
  else
    let e := s.replay
    .wait ((e.map (fun x => x.cap)).getD (s.capture [])) none
      (s.modMe (fun h => { h with xops := h.xops.map (fun p => if p.tag.num == o.tag.num then o1 else p) }))

/-- The ring messages on their way to hart w: those of its exchange group. -/
def State.mailOf (s : State) (w : Who) : List RingMsg :=
  (s.ringMail.filter (fun x => x.1 == w && s.groupOfHart w == some x.2.1)).map (fun x => x.2.2)

/-- RING_STEP_MESSAGE: a message on its way to the hart arrives, or one that another device sends. The XRING takes that of
its predecessor, its revolution and its step; an older revolution's is dropped, and any other stays on its way. -/
def execRingStepMessage (who : Who) (src : RingSender) (step : RingStep) (bytes : List Byte) (s : State) : Out :=
  let m : RingMsg := ⟨src.dev, src.hart, step.rev, step.step, bytes⟩
  .next (ringEvent who (fun o s =>
    if !((s.mailOf who).contains m || (m.dev != s.dev && !s.noPath)) then .block
    else
      let s1 : State := { s with ringMail := s.ringMail.erase (who, (s.groupOfHart who).getD 0, m) }
      if olderRev m.rev o.rev then
        let cap := (s.replay.map (fun x => x.cap)).getD (s.capture [])
        .wait cap none (s1.modMe (fun h => { h with ringDrops := h.ringDrops + 1 }))
      else if chanDev o.pred == m.dev.toNat && chanWho o.pred == m.src && m.rev == o.rev && m.step == o.step && o.arrived.isNone then
        ringArrive o bytes s1
      else .block) s)

/-- The harts of the ring from hart w on, as far as pending XRINGs of one revolution on this device lead by `side`, their
successor or their predecessor, within the exchange group g; and whether another device follows. -/
def ringChain (s : State) (g : BitVec 16) (side : XOp → Word) (start : Who) (rev : BitVec 32) : Nat → Who → List Who × Bool
  | 0, _ => ([], false)
  | n + 1, w =>
    match (if s.groupOfHart w == some g then (s.hart w).xops.find? (fun o => o.kind == .ring && o.rev == rev) else none) with
    | none => ([w], false)
    | some o =>
      if chanDev (side o) != s.dev.toNat then ([w], true)
      else if chanWho (side o) == start then ([w], false)
      else
        let r := ringChain s g side start rev n (chanWho (side o))
        (w :: r.1, r.2)

/-- The members that notices and the commit marker come from, both ways round (R280); and whether the ring leaves the
device. -/
def ringRound (s : State) (w : Who) (rev : BitVec 32) : List Who × Bool :=
  let g := (s.groupOfHart w).getD 0
  let f := ringChain s g XOp.succ w rev 4096 w
  let b := ringChain s g XOp.pred w rev 4096 w
  (f.1 ++ b.1, f.2 || b.2)

/-- What stands at slot k of the exchange group of hart w. -/
def State.memberOf (s : State) (w k : Who) : Option Hart := (s.groupOfHart w).bind (s.endOf k)

/-- A member of the ring has seen the revolution commit. -/
def ringCommitted (s : State) (w : Who) (rev : BitVec 32) : Bool :=
  (ringRound s w rev).1.any (fun k => (s.memberOf w k).any (fun h => h.revDone.contains rev))

/-- A member that holds its last message, or has seen the commit (R280). -/
def Hart.ringReady (h : Hart) (rev : BitVec 32) : Bool :=
  !h.revDead.contains rev &&
  (h.revDone.contains rev ||
    h.xops.any (fun o => o.kind == .ring && o.rev == rev && o.step.toNat + 2 == o.mem && o.arrived.isSome))

/-- Every member on this device is ready; where the ring leaves it, the marker comes from a member elsewhere, or from one
here that has seen it (R280). -/
def ringMarked (s : State) (w : Who) (o : XOp) : Bool :=
  let r := ringRound s w o.rev
  let p := chanWho o.pred
  r.1.all (fun k => (s.memberOf w k).any (fun h => h.drawn.isNone && h.ringReady o.rev)) &&
  (!r.2 || (if chanDev o.pred != s.dev.toNat then !s.noPath else (s.memberOf w p).any (fun h => h.revDone.contains o.rev)))

/-- The revolution has committed for every member on this device (R280). -/
def markCommit (w : Who) (rev : BitVec 32) (s : State) : State :=
  (w :: (ringRound s w rev).1).foldl (fun x k =>
    if s.groupOfHart k == s.groupOfHart w && !(x.hart k).revDone.contains rev then
      x.modHart k (fun h => { h with revDone := rev :: h.revDone }) else x) s

/-- RING_COMMIT: the commit marker reaches a member whose XRING of step MEM-2 has its message. -/
def execRingCommit (who : Who) (s : State) : Out :=
  .next (ringEvent who (fun o s =>
    if o.step.toNat + 2 == o.mem && o.arrived.isSome && (s.me.revDone.contains o.rev || ringMarked s who o) then
      ringEnd o false (markCommit who o.rev s)
    else .block) s)

/-- A member that has been lost to the ring: an aborted revolution there, or no hart of the group any more (R280). A context
that is saved is not lost. -/
def ringLost (s : State) (w : Who) (rev : BitVec 32) (k : Who) : Bool :=
  match s.memberOf w k with
  | some h => h.revDead.contains rev
  | none => true

/-- Something has aborted the revolution at another member: the member is lost, another device says so, or no path leads to
a member there (R280). -/
def ringCause (s : State) (w : Who) (rev : BitVec 32) : Bool :=
  let r := ringRound s w rev
  r.2 || r.1.any (ringLost s w rev)

/-- RING_ABORT_NOTICE: a member marks a revolution that has not committed aborted; its waiting XRING of that revolution
completes ABORTED. -/
def execRingAbortNotice (who : Who) (rev : BitVec 32) (s : State) : Out :=
  if ringCommitted s who rev || !ringCause s who rev then .next s
  else
    .next (ringEvent who (fun o s => if o.rev == rev then ringEnd o true s else .block)
      (s.modHart who (fun h => h.abortRev rev)))

/-- The XRING of that number traps, unless its revolution has committed. -/
def ringFail (who : Who) (num reason : Nat) (s : State) : State :=
  ringEvent who (fun o s =>
    if o.tag.num == num && !ringCommitted s who o.rev then ringTrap reason o s else .block) s

/-- The far end refuses: on this device, a partner whose launch has another exchange group, but not one whose context is
saved, which is waited for (R285); another device decides itself. Every path is lost where the partner is on another device and no port is up (R271, R284). -/
def execExchangeRefused (who : Who) (num : Nat) (noPath : Bool) (s : State) : Out :=
  match (s.hart who).xops.find? (fun o => o.tag.num == num) with
  | none => .next s
  | some o =>
    if o.kind == .ring then
      if noPath then .next (if s.ringCut o.succ || s.ringCut o.pred then ringFail who num 0x05 s else s)
      else .next (if chanDev o.succ != s.dev.toNat then ringFail who num 0x03 s else s)
    else
      let here := chanDev o.chan == s.dev.toNat
      let ok := if noPath then !here && s.noPath else !here || s.foreign who (chanWho o.chan)
      if !(ok && s.xFree who o) then .next s
      else if noPath then .next (xFail who num 0x05 2 s)
      else .next (xFail who num 0x03 3 s)

/-- EXCHANGE_WATCHDOG_EXPIRY (R284). -/
def execExchangeWatchdogExpiry (who : Who) (num : Nat) (s : State) : Out :=
  match (s.hart who).xops.find? (fun o => o.tag.num == num) with
  | none => .next s
  | some o =>
    if o.wdog == 0 || o.tag.held.isSome || (s.hart who).drawn.isSome then .next s
    else if o.kind == .ring then .next (ringFail who num 0x01 s)
    else .next (xFail who num 0x01 2 s)

/-! ### The mesh and the Lamef ports (R267, R268, R270) -/

/-- PACKET_AGE_ESCALATION: from now on the packet is served before younger ones; nothing else changes (R9, R267). -/
def execPacketAgeEscalation (packet : Nat) (s : State) : Out :=
  .next (if s.aged.contains packet then s else { s with aged := packet :: s.aged })

/-- The hart's kernel has started and it has not left (R268). -/
def State.kernelRuns (s : State) (w : Who) : Bool :=
  let h := s.hart w
  h.launch.isSome && h.run != .exited && h.run != .saved &&
  (match s.launchOf h with
    | some l => (l.places.getD h.place ⟨[], true⟩).started
    | none => true)

/-- MESH_RESTITCH: a region on which no kernel runs takes another shape, and so do the regions that it cuts into (R268). -/
def execMeshRestitch (cores : BitVec 64) (shape : MeshShape) (s : State) : Out :=
  let cut := s.mesh.filter (fun m => m.1 &&& cores != 0)
  let all := cut.foldl (fun a m => a ||| m.1) cores
  if allWho.any (fun w => all.getLsbD w.core.val && s.kernelRuns w) then .next s
  else .next { s with mesh := (cores, shape) :: s.mesh.filter (fun m => m.1 &&& cores == 0) }

/-- LAMEF_FLIT_RECEIVE: a good flit in sequence is acknowledged; a bad or missing one is rejected by its number. The
acknowledgement that it carries frees the sender's copies. -/
def execLamefFlitReceive (port : Fin 24) (flit : Flit) (s : State) : Out :=
  let p := s.ports.get port
  if !p.up then .next s
  else if flit.crcGood && flit.seq == p.rxNext then
    .next (s.modPort port.val (fun p =>
      let left := p.unacked.filter (fun q => (flit.acks - q).toNat ≥ 2048)
      let done := match p.resent with
        | some q => !left.contains q
        | none => false
      { p with
        rxNext := p.rxNext + 1, rejected := none, unacked := left
        resent := if done then none else p.resent, replays := if done then 0 else p.replays }))
  else .next (s.modPort port.val (fun p => { p with rejected := some p.rxNext }))

/-- LAMEF_FLIT_REPLAY: the sender sends again from a rejected flit whose copy it keeps, at most 8 times. -/
def execLamefFlitReplay (port : Fin 24) (seq : BitVec 12) (s : State) : Out :=
  let p := s.ports.get port
  if !p.up || !p.unacked.contains seq then .next s
  else if p.resent == some seq then .next (s.modPort port.val (fun p => { p with replays := min 8 (p.replays + 1) }))
  else .next (s.modPort port.val (fun p => { p with resent := some seq, replays := 1 }))

/-- LAMEF_PORT_DOWN: 8 replays of one flit have failed. The flits that were never acknowledged are sent again on another
port; with no port left up, accesses to another device fail (R271). -/
def execLamefPortDown (port : Fin 24) (s : State) : Out :=
  let p := s.ports.get port
  if p.replays < 8 then .next s
  else .next ((s.modPort port.val (fun p => { p with up := false, unacked := [], resent := none, replays := 0 })).sendFlits p.unacked.length)

end Sys2Proof.Machine
end

