-- ==== Sys2Proof/Machine/Launch.lean ====
section
/-!
DEFINITION. Virtual queues, packets, kernel images, placing and starting, retirement and completion (R287 to R307,
R343), and the members EXIT, RDV, FORK, LAUNCH, LAUNCHT and LWAIT (R74 to R76, R304 to R306).
-/

namespace Sys2Proof.Machine

/-! ### What Prozen records, and reads of the launch controller in a tenant's address space -/

def State.tenant (s : State) (a : BitVec 10) : Tenant := (s.tenants.lookup a).getD ⟨false, 0, 0, 0, 0, 0⟩

/-- The range table at RANGEBASE (R328, R329). -/
def rangeTable (s : State) (part : Nat) (base : Word) : List (List Word) :=
  (List.range 64).map (fun i => (List.range 4).map (fun j =>
    wn (s.readN (devKey part (bitsOf base 11 41 * 2048 + 32 * i + 8 * j)) 8)))

/-- A launch record with nothing but what translation looks at. -/
def Launch.blank (id : Nat) (part : BitVec 4) (aspace : BitVec 10) (pasid : BitVec 20) (fn : BitVec 6) : Launch :=
  { id := id, queue := none, seqNo := 0, depth := 0, part := part, aspace := aspace, pasid := pasid, fn := fn, prio := 0,
    pmax := 0, layout := 1, notify := false, xgroup := 0, utag := 0, args := 0, entry := 0, code := [], codeKeys := [], zsize := 0,
    places := [], areas := [], status := 0, cause := 0, errHart := 0, errCore := 0, stamp := 0 }

/-- The state as the launch controller, a record write or a transfer translates in it: hart 0 of core 0 stands for
them, at the supervisor's privilege (log 17). -/
def probe (s : State) (l : Launch) : State :=
  let t := s.tenant l.aspace
  let h : Hart := { Hart.reset with
    launch := some l.id, pasid := l.pasid, fn := l.fn, trap := { TrapRegs.reset with priv := true }
    capBase := t.capBase, sup := { SupRegs.reset with aspace := l.aspace, ptRoot := t.ptRoot, rangeBase := t.rangeBase } }
  { s.setCore 0 { Core.reset with harts := Core.reset.harts.set 0 h, ranges := rangeTable s l.part.toNat t.rangeBase } with
    launches := l :: s.launches, agent := ⟨⟨0, 0⟩, none⟩, replay := none }

/-- The hart that the probe acts for. -/
def proxy : Who := ⟨0, 0⟩

def ctlByte (p : State) (va : Word) : Except MemErr Byte :=
  match access p proxy .load 0 false va with
  | .error e => .error e
  | .ok x => if p.badByte x.key then .error ⟨.uncorrectable, va, none, false⟩ else .ok (p.byte x.key)

def ctlBytes (p : State) (va : Word) : Nat → Except MemErr (List Byte)
  | 0 => .ok []
  | n + 1 =>
    match ctlByte p va with
    | .error e => .error e
    | .ok b =>
      match ctlBytes p (va + 1) n with
      | .error e => .error e
      | .ok l => .ok (b :: l)

/-- n bytes at an offset of a block, little-endian. -/
def leAt (bs : List Byte) (off n : Nat) : Nat := natOf ((bs.drop off).take n)

def wordsIn (bs : List Byte) (n : Nat) : List Word := (List.range n).map (fun i => wn (leAt bs (8 * i) 8))

/-- Where a failed read names a host page, its page request is made first and awaited (R292, R344): with the pages asked for since.
None where the page has been asked for, and no request for it stands any more: it was refused. -/
def pageFirst (s : State) (h : Hart) (asked : List Nat) (e : MemErr) : Option (State × List Nat) :=
  match e.page with
  | none => none
  | some a =>
    if (s.asking h a.page).isSome then some (s, asked)
    else if asked.contains a.page || s.pageFail.contains h.fn then none
    else some ((s.requestPage h a).1, a.page :: asked)

/-! ### Queues (R287) and packets (R290) -/

def State.queue? (s : State) (n : BitVec 14) : Option VQueue := s.queues.find? (fun q => q.num == n)
def State.setQueue (s : State) (q : VQueue) : State :=
  { s with queues := s.queues.map (fun r => if r.num == q.num then q else r) }

def VQueue.dw (q : VQueue) (i : Nat) : Word := q.desc.getD i 0
def VQueue.plog (q : VQueue) : Nat := bitsOf (q.dw 2) 0 5
def VQueue.clog (q : VQueue) : Nat := bitsOf (q.dw 2) 8 5
def VQueue.part (q : VQueue) : BitVec 4 := (q.dw 2).extractLsb' 16 4
def VQueue.aspace (q : VQueue) : BitVec 10 := (q.dw 2).extractLsb' 20 10
def VQueue.pmax (q : VQueue) : Nat := bitsOf (q.dw 2) 30 2
def VQueue.pasid (q : VQueue) : BitVec 20 := (q.dw 2).extractLsb' 32 20
def VQueue.vec (q : VQueue) : Nat := bitsOf (q.dw 3) 0 16

/-- Packets submitted and not read. -/
def VQueue.submitted (q : VQueue) : Nat := (q.tail + 2 ^ q.plog - q.head) % 2 ^ q.plog

def State.queueProbe (s : State) (q : VQueue) : State := probe s (Launch.blank s.nextId q.part q.aspace q.pasid q.fn)

abbrev Packet := List Word

def Packet.bits (p : Packet) (i lo len : Nat) : Nat := bitsOf (p.getD i 0) lo len
def Packet.op (p : Packet) : Nat := Packet.bits p 0 0 8
def Packet.prio (p : Packet) : Nat := Packet.bits p 0 8 2
def Packet.serial (p : Packet) : Bool := Packet.bits p 0 10 1 == 1
def Packet.notify (p : Packet) : Bool := Packet.bits p 0 11 1 == 1
def Packet.layout (p : Packet) : Nat := Packet.bits p 0 12 3
def Packet.glog (p : Packet) : Nat := Packet.bits p 0 16 3
def Packet.dies (p : Packet) : Nat := Packet.bits p 0 24 4
def Packet.cpd (p : Packet) : Nat := Packet.bits p 0 28 5
def Packet.utag (p : Packet) : Word := p.getD 6 0

/-- The waits present: queue and sequence number. -/
def Packet.waits (p : Packet) : List (Nat × Nat) :=
  (if Packet.bits p 5 14 1 == 1 then [(Packet.bits p 5 0 14, (p.getD 3 0).toNat)] else []) ++
  (if Packet.bits p 5 30 1 == 1 then [(Packet.bits p 5 16 14, (p.getD 4 0).toNat)] else [])

/-- The controller reads the packet at the head of a resident queue, once; the head then names the next (R288). -/
def fetchHead (n : BitVec 14) (s : State) : State :=
  match s.queue? n with
  | none => s
  | some q =>
    if !q.slot || q.head == q.tail || q.pkt.isSome then s
    else
      let p := s.queueProbe q
      let read (l : List Word) : State := s.setQueue { q with pkt := some l, head := (q.head + 1) % 2 ^ q.plog }
      match ctlBytes p (q.dw 0 + wn (64 * q.head)) 64 with
      | .ok bs => read (wordsIn bs 8)
      | .error e =>
        match pageFirst s (p.hart proxy) q.asked e with
        | some (s', l) => s'.setQueue { q with asked := l }
        | none => read []

/-! ### Waits (R291, R305) -/

/-- Every packet of the queue numbered n or below counts as retired. -/
def VQueue.retiredTo (q : VQueue) (n : Nat) : Bool := n < q.nextNo.toNat && q.open'.all (fun m => n < m.toNat)

def waitBad (s : State) (q : VQueue) (w : Nat × Nat) : Bool :=
  match s.queue? (BitVec.ofNat 14 w.1) with
  | none => true
  | some r => r.part != q.part

def waitMet (s : State) (w : Nat × Nat) : Bool :=
  match s.queue? (BitVec.ofNat 14 w.1) with
  | none => false
  | some r => r.retiredTo w.2

/-- The packet at the head may go on: it could not be read, it has a bad wait, or its waits and SERIAL are met. -/
def headReady (s : State) (q : VQueue) : Bool :=
  match q.pkt with
  | none => false
  | some p =>
    s.power == .d0 && (p.isEmpty || (Packet.waits p).any (waitBad s q) ||
    ((!Packet.serial p || !q.open'.contains (q.nextNo - 1)) && (Packet.waits p).all (waitMet s)))

/-- The parent's hart, from where it runs or from its saved context. -/
def State.parentHart (s : State) (c : Child) : Hart :=
  match c.away with
  | none => s.hart c.parent
  | some id => match s.saved.find? (fun x => x.id == id) with
    | some x => x.frame
    | none => Hart.reset

/-- Children of the same parent hart. -/
def Child.sibling (c d : Child) : Bool := d.parent == c.parent && d.away == c.away && d.parentLaunch == c.parentLaunch

/-- A child's wait must name an own child of its parent, on queue 0 (R305). -/
def childWaitBad (s : State) (c : Child) : Bool :=
  (Packet.waits c.packet).any (fun w => w.1 != 0 || w.2 == 0 || (s.parentHart c).tlln.toNat < w.2)

/-- A child may be dispatched: the Harness does not hold it, its elder siblings have been, its waits are met, and with SERIAL
the previous one has retired. -/
def childReady (s : State) (c : Child) : Bool :=
  let sibs := s.pool.filter c.sibling
  c.launch.isNone && c.tag.held.isNone && sibs.all (fun d => c.num.toNat ≤ d.num.toNat || d.launch.isSome) &&
  (childWaitBad s c ||
   ((!Packet.serial c.packet || sibs.all (fun d => d.num + 1 != c.num)) &&
    (Packet.waits c.packet).all (fun w => sibs.all (fun d => w.2 < d.num.toNat))))

/-- The wait that a parent was swapped out of can end (R307). -/
def waitEnds (s : State) (x : Saved) : Bool :=
  let own := s.pool.filter (fun c => c.away == some x.id)
  match x.frame.run with
  | .waiting (.quota _) => (s.pool.filter (fun c => c.depth == x.frame.depth + 1)).length < 512
  | .waiting (.child n) => own.all (fun c => c.num != n)
  | .waiting (.timeline _ n) => own.all (fun c => n < c.num.toNat)
  | _ => own.isEmpty

/-- Packets, children and swapped-out parents that have just become ready take their place in the order of readiness
(R301, R307). -/
def noteReady (s : State) : State :=
  let s1 := s.queues.foldl (fun s q =>
    if !headReady s q then (if q.ready.isSome then s.setQueue { q with ready := none } else s)
    else if q.ready.isSome then s
    else { s.setQueue { q with ready := some s.nextId } with nextId := s.nextId + 1 }) s
  let s2 := s1.pool.foldl (fun s c =>
    if c.ready.isNone && childReady s c then
      { s with nextId := s.nextId + 1, pool := s.pool.map (fun d => if d.id == c.id then { d with ready := some s.nextId } else d) }
    else s) s1
  s2.saved.foldl (fun s x =>
    if x.stalled && x.ready.isNone && waitEnds s x then
      { s with nextId := s.nextId + 1, saved := s.saved.map (fun y => if y.id == x.id then { y with ready := some s.nextId } else y) }
    else s) s2

/-! ### Retiring (R291, R292, R299, R306) -/

/-- The packet read takes the queue's next number (R289). -/
def VQueue.take (q : VQueue) : VQueue :=
  { q with nextNo := q.nextNo + 1, open' := q.open' ++ [q.nextNo], pkt := none, ready := none, promoted := false, asked := [] }

/-- No submitted packet is left undispatched (R288). -/
def VQueue.drained (q : VQueue) : Bool := q.head == q.tail && q.pkt.isNone

def pushRecord (r : Record) (s : State) : State :=
  match s.queue? r.queue with
  | none => s
  | some q => s.setQueue { q with records := q.records ++ [r] }

/-- The packet at the head retires at once with a status; no hart starts. -/
def retireHead (q : VQueue) (st : Byte) (s : State) : State :=
  let p := q.pkt.getD []
  let tag := if p.isEmpty then Config.unreadTag s.fresh else Packet.utag p
  let s1 : State := if p.isEmpty then { s with fresh := s.fresh + 1 } else s
  noteReady (fetchHead q.num (pushRecord ⟨q.nextNo, q.num, st, 0, 0, 0, tag, Packet.notify p⟩ (s1.setQueue q.take)))

/-- STATUS of child n enters slot n mod 64, which keeps the most recent numbers (R306). -/
def Hart.landChild (h : Hart) (n : Word) (st : Byte) : Hart :=
  let i := n.toNat % 64
  if (h.slotsLn.toList.getD i (0, 0)).1.toNat ≤ n.toNat then { h with slotsLn := h.slotsLn.setIfInBounds i (n, st) } else h

/-- The LN completion of a saved hart pulses its core's Harness, or the image of it that is swapped out (R257, R302). None
where the launch has neither there: the pulse then comes when the hart is restored. -/
def pulseAway (w : Who) (id : Nat) (s : State) : Option State :=
  let k := s.core w.core
  let i := 6 * w.hart.val + 5
  if k.harness.owner == some id then some (s.pulse w.core i)
  else if k.images.any (fun x => x.launch == id && x.harness.isSome) then
    some (s.modCore w.core (fun k => { k with images := k.images.map (fun x =>
      if x.launch == id then { x with harness := x.harness.map (fun h => { h with pulses := h.pulses ++ [BitVec.ofNat 6 i] }) } else x) }))
  else none

/-- A child retires: its entry is freed, its STATUS goes to its parent, its LN operation completes (R306). A saved
parent takes the STATUS when it is restored, and WHY = 2 makes it ready (R323), unless it was swapped out of a stall that
goes on (R307). -/
def retireChild (c : Child) (st : Byte) (s : State) : State :=
  let s1 : State := { s with pool := s.pool.filter (fun d => d.id != c.id) }
  match c.away with
  | none => noteReady ((s1.modHart c.parent (fun h => h.landChild c.num st)).pulseOp c.parent 5)
  | some id =>
    let p := pulseAway c.parent c.parentLaunch s1
    let s2 := p.getD s1
    noteReady { s2 with
      nextId := s2.nextId + 1
      saved := s2.saved.map (fun x =>
        if x.id == id then
          { x with
            landed := x.landed ++ [(c.num, st)], lnPulses := x.lnPulses + (if p.isSome then 0 else 1)
            ready := if x.ready.isNone && x.why == 2 && !x.stalled then some s2.nextId else x.ready }
        else x) }

/-! ### Checks of a kernel packet (R292) and of its image (R293 to R295) -/

/-- The first check; a child's PRIO is held to its root queue's PMAX. -/
def packetOk (p : Packet) (pmax : Nat) : Bool :=
  Packet.op p == 1 && Packet.layout p ≤ 4 &&
  (if Packet.layout p == 4 then 1 ≤ Packet.glog p && Packet.glog p ≤ 6 else Packet.glog p == 0) &&
  Packet.bits p 0 15 1 == 0 && Packet.bits p 0 19 5 == 0 && Packet.bits p 0 33 15 == 0 &&
  Packet.bits p 5 15 1 == 0 && Packet.bits p 5 31 33 == 0 && p.getD 7 0 == 0 &&
  Packet.prio p ≤ pmax && Packet.dies p != 0 && 1 ≤ Packet.cpd p && Packet.cpd p ≤ 16 &&
  Packet.bits p 1 0 6 == 0 && Packet.bits p 2 0 3 == 0

/-- Harts per core of a packet's layout; a gang place has one. -/
def Packet.harts (p : Packet) : Nat := if Packet.layout p < 4 then 1 <<< Packet.layout p else 1
/-- Cores of a place. -/
def Packet.coresPer (p : Packet) : Nat := if Packet.layout p == 4 then 1 <<< Packet.glog p else 1

/-- A preloaded window: its number, its harts, its descriptor's elements, its mode, its formula, its origins, its
base. -/
structure Preload where
  win : WinNum
  harts : List HartNum
  dims : List Word
  mode : Word
  forms : List Word
  origins : List Word
  base : Word
  deriving DecidableEq, Repr

/-- What the header and its tables say: entry point, argument block, code and .lib, Z, the loop table's levels
(counter, extent, kind), the preload list. -/
structure Image where
  entry : Word
  args : Word
  code : List (Word × Nat)
  zsize : Nat
  levels : List (Nat × Nat × Nat)
  preload : List Preload
  deriving DecidableEq, Repr

/-- Why an image is not taken: it breaks a rule, or a read failed. -/
inductive ImageErr where
  | bad
  | mem (e : MemErr)

def need (c : Bool) : Except ImageErr Unit := if c then .ok () else .error .bad
def ctlRead (p : State) (va : Word) (n : Nat) : Except ImageErr (List Byte) :=
  match ctlBytes p va n with
  | .error e => .error (.mem e)
  | .ok bs => .ok bs

def headerOk (img : Word) (h : List Byte) : Bool :=
  leAt h 0 4 == 0x4B525831 && leAt h 4 2 == 1 && leAt h 6 2 == 0 && leAt h 8 4 % 4 == 0 && leAt h 12 4 % 4 == 0 &&
  leAt h 16 4 < leAt h 12 4 && leAt h 16 4 % 4 == 0 && leAt h 24 4 % 4 == 0 && leAt h 24 4 ≤ 4096 &&
  leAt h 32 1 ≤ 8 && leAt h 33 1 ≤ 64 && leAt h 34 1 ≤ 64 && leAt h 35 1 == 0 && leAt h 48 16 == 0 &&
  img.toNat + leAt h 8 4 + leAt h 12 4 ≤ 2 ^ 48 && img.toNat + leAt h 20 4 + leAt h 24 4 ≤ 2 ^ 48

/-- The loop table's levels (R294). -/
def levelsOf (bs : List Byte) (n : Nat) : List (Nat × Nat × Nat) :=
  (wordsIn bs n).map (fun w => (bitsOf w 0 3, bitsOf w 32 32, bitsOf w 4 2))

def levelsOk (bs : List Byte) (n : Nat) : Bool :=
  let l := levelsOf bs n
  (wordsIn bs n).all (fun w => bitsOf w 3 1 == 0 && bitsOf w 6 26 == 0) && l.all (fun x => x.2.2 < 3) &&
  (l.map (·.1)).Nodup && (l.filter (fun x => x.2.2 == 1)).length ≤ 1 && (l.filter (fun x => x.2.2 == 2)).length ≤ 1

/-- One preload entry and its static descriptor (R295). -/
def readPreload (p : State) (img args : Word) (harts : Nat) (e : List Byte) : Except ImageErr Preload := do
  let k := leAt e 1 1
  need (leAt e 0 1 < 8 && (k == 255 || k < harts) && leAt e 2 2 == 0 && leAt e 8 8 == 0)
  let at' := img + wn (leAt e 4 4)
  let d0 ← ctlRead p at' 8
  let n := leAt d0 0 1
  need (1 ≤ n && n ≤ 16 && leAt d0 2 6 == 0)
  let rest ← ctlRead p (at' + 8) (8 + 24 * n)
  let base ← ctlRead p (args + wn (8 * leAt d0 1 1)) 8
  let ws := wordsIn rest (1 + 3 * n)
  let col (j : Nat) : List Word := (List.range n).map (fun d => ws.getD (1 + 3 * d + j) 0)
  .ok { win := BitVec.ofNat 3 (leAt e 0 1), harts := if k == 255 then allHarts.filter (fun h => h.val < harts) else [Fin.ofNat 8 k]
        dims := col 0, mode := ws.getD 0 0, forms := col 1, origins := col 2, base := wn (leAt base 0 8) }

/-- The preload entries, in order. -/
def readPreloads (p : State) (img args : Word) (harts : Nat) (bs : List Byte) : Nat → Except ImageErr (List Preload)
  | 0 => .ok []
  | n + 1 => do
    let r ← readPreload p img args harts (bs.take 16)
    let l ← readPreloads p img args harts (bs.drop 16) n
    .ok (r :: l)

/-- Reads and checks the image of a packet: the header, then the loop table and the preload list. -/
def readImage (p : State) (pk : Packet) : Except ImageErr Image := do
  let img := pk.getD 1 0
  let h ← ctlRead p img 64
  need (headerOk img h)
  let lt ← ctlRead p (img + wn (leAt h 28 4)) (8 * leAt h 32 1)
  need (levelsOk lt (leAt h 32 1))
  let args := if pk.getD 2 0 == 0 then img + wn (leAt h 40 4) else pk.getD 2 0
  let pl ← ctlRead p (img + wn (leAt h 36 4)) (16 * leAt h 33 1)
  let pre ← readPreloads p img args (Packet.harts pk) pl (leAt h 33 1)
  let code := img + wn (leAt h 8 4)
  .ok { entry := code + wn (leAt h 16 4), args := args, zsize := leAt h 34 1 * 512, levels := levelsOf lt (leAt h 32 1)
        code := [(code, leAt h 12 4), (img + wn (leAt h 20 4), leAt h 24 4)], preload := pre }

/-! ### Shapes and places (R292, R296) -/

/-- The dies of a packet as groups that hold whole places: first core and number of cores. A gang of 32 takes a
pair of dies, one of 64 all dies; none where DIEMASK does not hold them whole. -/
def dieGroups (mask m : Nat) : Option (List (Nat × Nat)) :=
  let n := max 1 (m / 16)
  let gs := (List.range (4 / n)).map (fun g => (List.range n).map (fun i => n * g + i))
  if gs.all (fun g => g.all (fun d => mask.testBit d) || g.all (fun d => !mask.testBit d)) then
    some ((gs.filter (fun g => g.any (fun d => mask.testBit d))).map (fun g => (16 * g.headD 0, 16 * n)))
  else none

/-- Aligned places of m cores in a group of dies whose cores all satisfy `ok`. -/
def basesIn (ok : CoreId → Bool) (m : Nat) (g : Nat × Nat) : List Nat :=
  ((List.range (g.2 / m)).map (fun i => g.1 + i * m)).filter (fun b => (gangCores b m).all ok)

/-- The `cpd` lowest-numbered places of each group, or none where a group has fewer. -/
def choosePlaces (ok : CoreId → Bool) (m cpd : Nat) (gs : List (Nat × Nat)) : Option (List (List Nat)) :=
  let l := gs.map (fun g => (basesIn ok m g).take cpd)
  if l.all (fun x => x.length == cpd) then some l else none

def Partition.hasCore (p : Partition) (c : CoreId) : Bool := p.cores.getLsbD c.val

/-- A hart that belongs to a launch and has neither exited nor been saved. -/
def Hart.alive (h : Hart) : Bool := h.launch.isSome && h.run != .exited && h.run != .saved

/-- No hart of the core is alive, so that the core is a free place. -/
def Core.isFree (k : Core) : Bool := allHarts.all (fun h => !(k.hart h).alive)

/-- Iterations of place j of P of a spatial level (R23): the first and how many. -/
def sliceOf (extent j p : Nat) : Word × Word :=
  (wn (j * extent / p), wn ((j + 1) * extent / p - j * extent / p))

/-- Slices of place i of group g: `cpd` places in each of `groups` groups (R296). -/
def slicesFor (levels : List (Nat × Nat × Nat)) (g i groups cpd : Nat) : Vector (Option (Word × Word)) 8 :=
  let both := levels.any (fun x => x.2.2 == 2)
  Vector.ofFn (fun k =>
    match levels.find? (fun x => x.1 == k.val) with
    | some (_, e, 1) => some (if both then sliceOf e i cpd else sliceOf e (g * cpd + i) (groups * cpd))
    | some (_, e, 2) => some (sliceOf e g groups)
    | _ => none)

/-! ### A hart at its start (R24, R91, R310) -/

def Launch.hart (l : Launch) (t : Tenant) (avail segs : Nat) : Hart :=
  { Hart.reset with
    pc := l.entry, xu := (Vector.replicate 32 0).set 2 l.args, lanes := avail, avail := avail, segs := segs
    capBase := t.capBase, launch := some l.id, depth := l.depth, pasid := l.pasid, fn := l.fn
    sup := { SupRegs.reset with
      trapVec := t.trapVec &&& ~~~(3 : Word), aspace := l.aspace, ptRoot := t.ptRoot, rangeBase := t.rangeBase } }

/-- CTXPTR of hart k of place p. -/
def Launch.area (l : Launch) (p k : Nat) : Word := l.areas.getD (8 * p + k) 0 &&& 0x00FFFFFFFFFFF000

/-- A hart that FORK starts on the core of hart w: R24, at pc, in w's place (R76). -/
def forkHart (s : State) (w : Who) (k : HartNum) (pc : Word) : Hart :=
  let h := s.hart w
  match s.launchOf h with
  | none => { Hart.reset with run := .running, pc := pc }
  | some l =>
    let n := 32 / (s.core w.core).layout
    let f := l.hart (s.tenant l.aspace) n 1
    { f with
      run := .running, pc := pc, place := h.place, slices := h.slices
      lib := (s.hart ⟨w.core, k⟩).lib, sup := { f.sup with ctxPtr := l.area h.place k.val } }

/-! ### Preload windows (R292, R295, R297) -/

/-- Binds and opens a preload window for hart k of core 0 of the probe; none where a check of R155 fails. -/
def preloadOne (s : State) (r : Preload) (k : HartNum) : Option State :=
  let s0 : State := { s with agent := ⟨⟨0, k⟩, none⟩ }
  if (s0.me.win r.win).isOpen then none
  else
    let s1 := s0.modMe (fun h => h.setWin r.win { Window.clear with
      st := .bound, base := r.base, dims := r.dims, mode := r.mode, forms := r.forms, origins := r.origins, formVl := r.dims.length })
    match openReason s1 (s1.me.win r.win) with
    | .error _ => none
    | .ok u =>
      let s2 := s1.modMe (fun h => h.openWin r.win u)
      some (pushWin (s2.capture []) r.win .deliver [] [(s2.me.win r.win).heldBox s2.me.ctr] none s2)

def preloadAll (ps : List Preload) (s : State) : Option State :=
  ps.foldlM (fun s r => r.harts.foldlM (fun s k => preloadOne s r k) s) s

/-- Core 0 of the probe as a place of the launch, before its harts start: they hold their preload windows. -/
def protoCore (s : State) (l : Launch) (m harts : Nat) (pre : List Preload) : Option Core :=
  let t := s.tenant l.aspace
  let h := if 1 < m then { l.hart t (32 * m) (max 1 (m / 16)) with gang := some (m, 0) } else l.hart t (32 / harts) 1
  let p := probe s l
  let k : Core := { Core.reset with
    harts := Vector.ofFn (fun i => if i.val < harts then h else Hart.reset), layout := harts, scratchSize := l.zsize
    ranges := rangeTable s l.part.toNat t.rangeBase, user := some l.id }
  (preloadAll pre (p.setCore 0 k)).map (fun p => p.core 0)

/-! ### Units of a core that changes hands (R202, R256, R302) -/

/-- A launch has on the core an alive hart, or a saved context that `bound` ties to the core. -/
def hasOn (s : State) (c : CoreId) (id : Nat) (bound : Hart → Bool) : Bool :=
  allHarts.any (fun k => ((s.core c).hart k).alive && ((s.core c).hart k).launch == some id) ||
  s.saved.any (fun x => x.home.core == c && x.frame.launch == some id && bound x.frame)

/-- Ownership ends when the owner has no such hart on the core. What the unit holds stands until the next owner zeroes it
(R202, R256). -/
def releaseUnits (c : CoreId) (s : State) : State :=
  s.modCore c (fun k =>
    let mx := match k.matrix.owner with
      | some id => if hasOn s c id (·.mbound) then k.matrix else { k.matrix with owner := none, ops := [], queue := [] }
      | none => k.matrix
    let hs := match k.harness.owner with
      | some id => if hasOn s c id (·.hbound) then k.harness else { k.harness with owner := none }
      | none => k.harness
    { k with matrix := mx, harness := hs })

/-- What an image holds of the units of its launch. -/
def UnitImage.merge (i x : UnitImage) : UnitImage :=
  { i with matrix := if i.matrix.isSome then i.matrix else x.matrix, harness := if i.harness.isSome then i.harness else x.harness }

def setImage (l : List UnitImage) (i : UnitImage) : List UnitImage :=
  match l.find? (fun x => x.launch == i.launch) with
  | some x => l.map (fun y => if y.launch == i.launch then i.merge x else y)
  | none => i :: l

/-- Swaps out the units that a launch other than `id` owns, all of whose harts on the core are saved (R302). Pulses that the
Harness has not counted, and the numbers of withdrawn operations, stay with their unit (log 55). -/
def swapOut (c : CoreId) (id : Nat) (s : State) : State :=
  s.modCore c (fun k =>
    let k1 := match k.matrix.owner with
      | some o => if o == id then k else
          { k with images := setImage k.images ⟨o, some (k.matrix.active, k.matrix.shadow, k.matrix.counter, k.matrix.ops), none⟩
                   matrix := MatrixUnit.reset }
      | none => k
    match k1.harness.owner with
    | some o => if o == id then k1 else
        { k1 with images := setImage k1.images ⟨o, none, some k1.harness⟩, harness := Harness.reset }
    | none => k1)

/-- Swaps a launch's unit images in (R302). -/
def swapIn (c : CoreId) (id : Nat) (s : State) : State :=
  s.modCore c (fun k =>
    match k.images.find? (fun x => x.launch == id) with
    | none => k
    | some i =>
      let mx := match i.matrix with
        | some (a, b, n, l) => { MatrixUnit.reset with owner := some id, active := a, shadow := b, counter := n, ops := l }
        | none => k.matrix
      { k with matrix := mx, harness := i.harness.getD k.harness, images := k.images.filter (fun x => x.launch != id) })

/-- The launch owns the core's Harness from the start of its first hart there (R256). -/
def claimHarness (c : CoreId) (id : Nat) (s : State) : State :=
  s.modCore c (fun k => if k.harness.owner.isNone then { k with harness := { Harness.reset with owner := some id } } else k)

/-- Marks of double errors in storage that a kernel start zeroes (R334, R348). -/
def cleanMarks (c : CoreId) (s : State) : State :=
  { s with bad := s.bad.filter (fun b => match b with
      | .vreg w _ _ => w.core != c
      | .mreg w _ _ => w.core != c
      | .near c' _ _ => c' != c
      | .laneBuf c' _ _ => c' != c
      | .scratch c' _ _ => c' != c
      | _ => true) }

/-! ### Placing a launch (R296, R297, R301) -/

/-- Where the bytes of a code region lie, as the tenant's tables map it when its launch is dispatched: pages, and in a
transposed range single words (R35). -/
def codeKeysOf (p : State) (r : Word × Nat) : List (Nat × Nat) :=
  let lo := r.1.toNat
  let hi := lo + r.2
  let piece (a n : Nat) : List (Nat × Nat) :=
    match translate p proxy .load (wn a) with
    | .ok x => if x.es == 0 || n ≤ 4 then [(x.key, n)] else []
    | .error _ => []
  let words (a n : Nat) : List (Nat × Nat) := (List.range ((n + 3) / 4)).flatMap (fun i => piece (a + 4 * i) 4)
  (List.range ((hi + 4095) / 4096 - lo / 4096)).flatMap (fun i =>
    let a := max lo ((lo / 4096 + i) * 4096)
    let n := min hi ((lo / 4096 + i + 1) * 4096) - a
    if (piece a n).isEmpty then words a n else piece a n)

/-- What the checks of R292 give: the launch but for its places, its prototype, its shape and its levels. -/
structure Plan where
  launch : Launch
  proto : Core
  groups : List (Nat × Nat)
  m : Nat
  cpd : Nat
  levels : List (Nat × Nat × Nat)

/-- A status, or a failed read, that ends the checks. -/
inductive PlanErr where
  | status (b : Byte)
  | mem (e : MemErr)

/-- The checks of R292 in order, for a packet of the launch `l`, whose queue and tenant it names. -/
def planLaunch (s : State) (l : Launch) (pk : Packet) : Except PlanErr Plan :=
  if !packetOk pk l.pmax then .error (.status 1)
  else
    match readImage (probe s l) pk with
    | .error .bad => .error (.status 2)
    | .error (.mem e) => .error (.mem e)
    | .ok im =>
      let m := Packet.coresPer pk
      match dieGroups (Packet.dies pk) m with
      | none => .error (.status 3)
      | some gs =>
        match choosePlaces (s.part l.part).hasCore m (Packet.cpd pk) gs with
        | none => .error (.status 3)
        | some _ =>
          let l1 : Launch := { l with
            layout := Packet.harts pk, notify := Packet.notify pk, xgroup := (pk.getD 0 0).extractLsb' 48 16, utag := Packet.utag pk
            args := im.args, entry := im.entry, code := im.code, codeKeys := im.code.flatMap (codeKeysOf (probe s l)), zsize := im.zsize, stamp := s.nextId }
          match protoCore s l1 m (Packet.harts pk) im.preload with
          | none => .error (.status 5)
          | some k => .ok ⟨l1, k, gs, m, Packet.cpd pk, im.levels⟩

/-- A member core of a gang place, whose hart is parked as if inside a GANG just before the entry point (R296). -/
def memberCore (s : State) (l : Launch) (p : Nat) (sl : Vector (Option (Word × Word)) 8) (old k : Core) : Core :=
  let h := l.hart (s.tenant l.aspace) 32 1
  { old with
    harts := Vector.ofFn (fun i => if i.val == 0 then { h with run := .gangParked, pc := l.entry - 4, place := p, slices := sl } else Hart.reset)
    layout := 1, scratchSize := k.scratchSize, scratch := [], locks := Vector.replicate 32 0, qbufs := Vector.replicate 8 []
    ranges := k.ranges, user := some l.id }

/-- Place number p of the launch takes its cores; its harts start once their windows have landed. -/
def takePlace (plan : Plan) (l : Launch) (p : Nat) (cores : List CoreId) (sl : Vector (Option (Word × Word)) 8) (s : State) : State :=
  let c := cores.headD 0
  let s0 := cores.foldl (fun s c => cleanMarks c (swapOut c l.id s)) s
  let s1 := s0.modCore c (fun old =>
    { old with
      harts := Vector.ofFn (fun i =>
        let h := plan.proto.harts.get i
        if h.launch.isNone then Hart.reset
        else { h with
          place := p, slices := sl, gang := if 1 < plan.m then some (plan.m, c) else none
          sup := { h.sup with ctxPtr := l.area p i.val } })
      layout := plan.proto.layout, scratchSize := plan.proto.scratchSize, scratch := [], locks := Vector.replicate 32 0
      qbufs := Vector.replicate 8 [], ranges := plan.proto.ranges, user := some l.id })
  (cores.drop 1).foldl (fun s c => s.modCore c (fun old => memberCore s l p sl old plan.proto)) s1

/-- Every place of the plan is taken. -/
def placeAll (plan : Plan) (areas : List Word) (bases : List (List Nat)) (s : State) : State :=
  let flat := bases.zipIdx.flatMap (fun g => g.1.zipIdx.map (fun b => (gangCores b.1 plan.m, g.2, b.2)))
  let l : Launch := { plan.launch with areas := areas, places := flat.map (fun x => ⟨x.1, false⟩) }
  let s1 : State := { s with launches := s.launches ++ [l], nextId := s.nextId + 1 }
  flat.zipIdx.foldl (fun s x =>
    takePlace plan l x.2 x.1.1 (slicesFor plan.levels x.1.2.1 x.1.2.2 bases.length plan.cpd) s) s1

/-! ### Victims (R301, R323) -/

/-- Soft pre-emption of a victim. CTRL falls to a free value below the old one. That of a gang is hard at once, and a hart whose
grant is already at or below the ceiling has SOFT cleared at once (R323). A victim that has satisfied SOFT still holds its
place, and is pre-empted hard when its 65,536 cycles have passed (R301; DEDUCED, log 57). -/
def softPreempt (w : Who) (s : State) : State :=
  let h := s.hart w
  if !h.alive || h.run == .gangParked || h.sup.hard || h.victim then s
  else if h.gang.isSome then s.modHart w (fun h => { h with sup := { h.sup with hard := true, why := 0 } })
  else
    let c := min (Config.softCeil s.fresh).toNat (h.sup.ceilCtrl.toNat - 1)
    let met := h.lanes ≤ max 1 c
    { s.modHart w (fun h => { h with
        victim := true
        sup := { h.sup with ceilCtrl := BitVec.ofNat 16 c, soft := !met, left := if met then 0 else 65536 } }) with
      fresh := s.fresh + 1 }

/-- A launch enters a list ordered by priority, lowest first, newest first among equals. -/
def Launch.insert (l : Launch) : List Launch → List Launch
  | [] => [l]
  | a :: as => if l.prio < a.prio || (l.prio == a.prio && a.stamp ≤ l.stamp) then l :: a :: as else a :: l.insert as

/-- The running launches of a partition below a priority, in the order in which they become victims. -/
def victimOrder (s : State) (part : BitVec 4) (prio : Nat) : List Launch :=
  (s.launches.filter (fun l => l.part == part && l.prio < prio && l.status == 0)).foldr Launch.insert []

/-- The cores that a launch holds: those where it has a hart that runs. -/
def coresOf (s : State) (l : Launch) : List CoreId :=
  allCores.filter (fun c => allHarts.any (fun k => ((s.core c).hart k).alive && ((s.core c).hart k).launch == some l.id))

/-- The fewest victims in order whose places would give enough; none where all of them would not. -/
def chooseVictims (s : State) (fits : List CoreId → Bool) : List CoreId → List Launch → Option (List Launch)
  | cs, [] => if fits cs then some [] else none
  | cs, l :: ls => if fits cs then some [] else (chooseVictims s fits (cs ++ coresOf s l) ls).map (fun r => l :: r)

/-- Every hart of the victims, on their places, is softly pre-empted. -/
def preemptVictims (vs : List Launch) (s : State) : State :=
  allWho.foldl (fun s w => if vs.any (fun l => (s.hart w).launch == some l.id) then softPreempt w s else s) s

/-- Takes free places, or else pre-empts victims; `none` leaves the launch ready. -/
def placeOrPreempt (plan : Plan) (prio : Nat) (areas : List Word) (s : State) : State × Bool :=
  let part := s.part plan.launch.part
  let ok (freed : List CoreId) (c : CoreId) : Bool := part.hasCore c && ((s.core c).isFree || freed.contains c)
  match choosePlaces (ok []) plan.m plan.cpd plan.groups with
  | some b => (placeAll plan areas b s, true)
  | none =>
    match chooseVictims s (fun cs => (choosePlaces (ok cs) plan.m plan.cpd plan.groups).isSome) [] (victimOrder s plan.launch.part prio) with
    | some vs => (preemptVictims vs s, false)
    | none => (s, false)

/-! ### Where a saved context may be restored (R302, R323) -/

/-- The cores that it takes. -/
def Saved.size (x : Saved) : Nat :=
  match x.frame.gang with
  | some (m, _) => m
  | none => 1

/-- It is tied to its core (R220, R265, R285). -/
def Saved.bound (x : Saved) : Bool := x.frame.mbound || x.frame.hbound || x.frame.xbound || x.frame.arming.isSome

/-- It may take core c, or the gang that starts there: cores of its partition, its own where it is bound, that of the
other harts of its place where they run. -/
def spotOk (s : State) (x : Saved) (l : Launch) (c : CoreId) : Bool :=
  c.val % x.size == 0 && (gangCores c.val x.size).all (s.part l.part).hasCore && (!x.bound || c == x.home.core) &&
  (x.size != 1 || allWho.all (fun w => w.core == c || !(s.hart w).alive || (s.hart w).launch != some l.id ||
    (s.hart w).place != x.frame.place))

/-- The harts there that stand in its way. -/
def spotHolders (s : State) (x : Saved) (l : Launch) (c : CoreId) : List Who :=
  allWho.filter (fun w =>
    let h := s.hart w
    (gangCores c.val x.size).contains w.core && h.alive &&
    (x.size != 1 || w.hart == x.home.hart || h.launch != some l.id || h.place != x.frame.place))

/-- It can be restored there now. -/
def spotFree (s : State) (x : Saved) (l : Launch) (c : CoreId) : Bool := spotOk s x l c && (spotHolders s x l c).isEmpty

/-- The place there is free. -/
def spotIsPlace (s : State) (x : Saved) (c : CoreId) : Bool := (gangCores c.val x.size).all (fun c => (s.core c).isFree)

/-! ### Which launch is next (R301) -/

inductive Cand where
  | queue (n : BitVec 14)
  | child (id : Nat)
  | context (id : Nat)
  deriving DecidableEq, Repr

/-- A free place can take the context. -/
def spotExists (s : State) (x : Saved) (l : Launch) : Bool := allCores.any (fun c => spotFree s x l c && spotIsPlace s x c)

/-- The victims whose places the context needs, where no free place can take it (R301, R302). -/
def contextVictims (s : State) (x : Saved) (l : Launch) : Option (List Launch) :=
  if spotExists s x l then none
  else
    chooseVictims s (fun cs => allCores.any (fun c => spotOk s x l c && (spotHolders s x l c).all (fun w => cs.contains w.core))) []
      (victimOrder s l.part l.prio)

/-- The ready launches, children and saved contexts of a partition: priority, order of readiness. A context counts where
a free place can take it, or victims would give it one. -/
def candidates (s : State) (part : BitVec 4) : List (Nat × Nat × Cand) :=
  (s.queues.filterMap (fun q =>
    match q.ready, q.pkt with
    | some t, some p => if q.part == part && q.slot && Packet.op p != 2 then
        some (if q.promoted then 4 else min (Packet.prio p) q.pmax, t, .queue q.num) else none
    | _, _ => none)) ++
  (s.pool.filterMap (fun c =>
    match c.ready, s.launches.find? (fun l => l.id == c.parentLaunch) with
    | some t, some l => if l.part == part && c.launch.isNone then some (if c.promoted then 4 else l.prio, t, .child c.id) else none
    | _, _ => none)) ++
  (s.saved.filterMap (fun x =>
    match x.ready, s.launches.find? (fun l => x.frame.launch == some l.id) with
    | some t, some l => if l.part == part && (spotExists s x l || (contextVictims s x l).isSome) then
        some (l.prio, t, .context x.id) else none
    | _, _ => none))

/-- c is the ready launch of highest priority, and among equals the first. -/
def isNext (s : State) (part : BitVec 4) (c : Cand) : Bool :=
  let l := candidates s part
  match l.find? (fun x => x.2.2 == c) with
  | none => false
  | some x => l.all (fun y => y.1 < x.1 || (y.1 == x.1 && x.2.1 ≤ y.2.1))

/-! ### Dispatch -/

/-- PACKET_DISPATCH (R289 to R301): a kernel's packet whose waits and SERIAL are met is checked, whatever else is ready, and
dispatched where it is next. -/
def execPacketDispatch (queue : BitVec 14) (areas : List Word) (s0 : State) : Out :=
  let s := noteReady (fetchHead queue s0)
  match s.queue? queue with
  | none => .next s
  | some q =>
    match q.pkt with
    | none => .next s
    | some pk =>
      if Packet.op pk == 2 || !headReady s q then .next s
      else if pk.isEmpty then .next (retireHead q 2 s)
      else if (Packet.waits pk).any (waitBad s q) then .next (retireHead q 4 s)
      else
        let l : Launch := { Launch.blank s.nextId q.part q.aspace q.pasid q.fn with
          queue := some q.num, seqNo := q.nextNo, prio := Packet.prio pk, pmax := q.pmax }
        match planLaunch s l pk with
        | .error (.status b) => .next (retireHead q b s)
        | .error (.mem e) =>
          .next (match pageFirst s ((s.queueProbe q).hart proxy) q.asked e with
            | some (s', l) => s'.setQueue { q with asked := l }
            | none => retireHead q 2 s)
        | .ok plan =>
          if !q.slot || !isNext s q.part (.queue queue) then .next s
          else
            let r := placeOrPreempt plan (if q.promoted then 4 else Packet.prio pk) areas s
            .next (if r.2 then noteReady (fetchHead queue (r.1.setQueue q.take)) else r.1)

/-- A ready child goes on (R305): it takes its parent's partition, address space and priority. `mine` says that a place was
freed for it (R307). -/
def dispatchChild (c : Child) (pl : Launch) (mine : Bool) (areas : List Word) (s : State) : State :=
  if childWaitBad s c then retireChild c 4 s
  else
    let l : Launch := { Launch.blank s.nextId pl.part pl.aspace pl.pasid pl.fn with
      depth := c.depth, prio := pl.prio, pmax := pl.pmax }
    match planLaunch s l c.packet with
    | .error (.status b) => retireChild c b s
    | .error (.mem e) =>
      match pageFirst s ((probe s l).hart proxy) c.asked e with
      | some (s', a) => { s' with pool := s'.pool.map (fun d => if d.id == c.id then { d with asked := a } else d) }
      | none => retireChild c 2 s
    | .ok plan =>
      if !mine && !isNext s pl.part (.child c.id) then s
      else
        let r := placeOrPreempt plan (if mine then 0 else if c.promoted then 4 else pl.prio) areas s
        if r.2 then
          noteReady { r.1 with pool := r.1.pool.map (fun d =>
            if d.id == c.id then { d with launch := some l.id, ready := none, promoted := false } else d) }
        else r.1

/-- CHILD_DISPATCH (R305). -/
def execChildDispatch (child : Nat) (areas : List Word) (s0 : State) : Out :=
  let s := noteReady s0
  match s.pool.find? (fun c => c.id == child) with
  | none => .next s
  | some c =>
    match s.launches.find? (fun l => l.id == c.parentLaunch) with
    | none => .next s
    | some pl => if c.launch.isSome || !childReady s c then .next s else .next (dispatchChild c pl false areas s)

/-- A preload window has landed its initial held set; a stream window has filled the queue or holds a row back. -/
def landedHart (k : Core) (h : Hart) : Bool :=
  h.reOps.all (fun o => (h.win o.win).strm && (32 ≤ k.matrix.queue.length || (h.win o.win).held.isSome || o.slabs.isEmpty))

/-- PLACE_START (R297). Launches of one queue are dispatched in queue order; the harts of a later one may start while an
earlier one's preload has not landed (R300 says 'start in queue order'; DESIGN CHOICE, log 67). -/
def execPlaceStart (launch : Nat) (place : Nat) (s : State) : Out :=
  match s.launches.find? (fun l => l.id == launch) with
  | none => .next s
  | some l =>
    match l.places[place]? with
    | none => .next s
    | some p =>
      let c := p.cores.headD 0
      let mine := allHarts.filter (fun k => ((s.core c).hart k).launch == some launch && ((s.core c).hart k).run == .idle)
      if p.started || l.status != 0 || !mine.all (fun k => landedHart (s.core c) ((s.core c).hart k)) then .next s
      else
        let s1 := mine.foldl (fun s k => s.modHart ⟨c, k⟩ (fun h => { h with run := .running })) s
        let s2 := p.cores.foldl (fun s c => claimHarness c launch s) s1
        .next { s2 with launches := s2.launches.map (fun x =>
          if x.id == launch then { x with places := x.places.set place { p with started := true } } else x) }

/-! ### Ending harts and launches (R74, R320, R341) -/

/-- The hart goes back to its last instruction boundary that all its effects have: that of its oldest vector instruction which
has not retired, as a trap there would (R312, R320). -/
def stopShort (w : Who) (s : State) : State :=
  let h := s.hart w
  let waiting := (h.pulls.filter (fun p => !p.formed)).map (fun p => (p.entry, p.undo)) ++
    (h.stream.filter (fun e => !h.retired e)).map (fun e => (e, ⟨[], [], none⟩))
  match waiting with
  | [] => s
  | (e, u) :: _ => (s.modHart w u.apply).asHart w (fun s => ((s.discardAfter w e.seq).restoreSnap e).modMe (fun h => { h with pc := e.cap.pc }))

/-- The hart ends: what it has accepted is performed, the rest of its work is cancelled. -/
def endHart (w : Who) (s : State) : State :=
  let s1 := drainHart w (stopShort w s)
  let s2 := s1.modCore w.core (fun k => { k with matrix := { k.matrix with
    ops := k.matrix.ops.filter (fun o => o.who != w || (o.away && !((s1.hart w).drawn.getD []).contains o.tag.num))
    queue := k.matrix.queue.filter (fun r => r.who != w) } })
  let s3 := s2.modHart w Hart.ended
  releaseUnits w.core { s3 with replay := if s3.agent.who == w then none else s3.replay }

/-- The launches of a set and of the children below them. -/
def descendants (s : State) : Nat → List Nat → List Nat
  | 0, l => l
  | n + 1, l =>
    descendants s n (l ++ (s.pool.filterMap (fun c => if l.contains c.parentLaunch then c.launch else none)).filter (fun i => !l.contains i))

/-- No hart of the launch stands on the cores any more. What its registers, lanes and units hold stays until the next launch
there takes them zeroed (R24, R202, R256, R348). -/
def dropLaunch (id : Nat) (s : State) : State :=
  let l := s.launches.find? (fun l => l.id == id)
  let gone (c : CoreId) (g : BitVec 16) : Bool := l.any (fun l => l.xgroup == g && l.places.any (fun p => p.cores.contains c))
  let s1 := allCores.foldl (fun s c => s.modCore c (fun k =>
    { k with
      harts := k.harts.map (fun h => if h.launch == some id then { h with launch := none, run := .idle } else h)
      matrix := if k.matrix.owner == some id then { k.matrix with owner := none, ops := [], queue := [] } else k.matrix
      harness := if k.harness.owner == some id then { k.harness with owner := none } else k.harness
      images := k.images.filter (fun x => x.launch != id) })) s
  { s1 with
    saved := s1.saved.filter (fun x => x.frame.launch != some id), launches := s1.launches.filter (fun l => l.id != id)
    ringMail := s1.ringMail.filter (fun x => !gone x.1.core x.2.1) }

/-- Ends a launch on every place with a status; its children retire with it. LAUNCH_RETIRE then retires it. -/
def endLaunch (id : Nat) (st cause : Byte) (w : Who) (s : State) : State :=
  let ids := descendants s 8 [id]
  let s1 := allWho.foldl (fun s w =>
    match (s.hart w).launch with
    | some i => if ids.contains i && (s.hart w).alive then endHart w s else s
    | none => s) s
  let s2 : State := { s1 with
    saved := s1.saved.filter (fun x => !(ids.any (fun i => x.frame.launch == some i)))
    pool := s1.pool.filter (fun c => !ids.contains c.parentLaunch) }
  let s3 := (ids.filter (· != id)).foldl (fun s i => dropLaunch i s) s2
  noteReady { s3 with launches := s3.launches.map (fun l =>
    if l.id == id && l.status == 0 then
      { l with status := st, cause := cause, errHart := w.hart, errCore := w.core, places := l.places.map (fun p => { p with started := true }) }
    else l) }

/-- Every hart of every place has exited. -/
def launchOver (s : State) (l : Launch) : Bool :=
  l.places.all (·.started) && allWho.all (fun w => !((s.hart w).alive && (s.hart w).launch == some l.id)) &&
  s.saved.all (fun x => x.frame.launch != some l.id) && s.pool.all (fun c => c.parentLaunch != l.id)

/-- A retired launch hands over its record, or as a child its status (R298, R306). -/
def retireLaunch (l : Launch) (s : State) : State :=
  let s1 := dropLaunch l.id s
  match l.queue with
  | some q => noteReady (pushRecord ⟨l.seqNo, q, l.status, l.cause, l.errCore, l.errHart, l.utag, l.notify⟩ s1)
  | none =>
    match s1.pool.find? (fun c => c.launch == some l.id) with
    | some c => retireChild c l.status s1
    | none => s1

/-- LAUNCH_RETIRE (R298). -/
def execLaunchRetire (launch : Nat) (s : State) : Out :=
  match s.launches.find? (fun l => l.id == launch) with
  | none => .next s
  | some l =>
    if !launchOver s l then .next s
    else .next (retireLaunch l (allWho.foldl (fun s w => if (s.hart w).launch == some launch then drainHart w s else s) s))

/-! ### Completion (R299, R300, R343) -/

/-- The record's four doublewords. -/
def Record.words (r : Record) : List Word :=
  [r.seqNo, wn (r.hart.val * 2 ^ 46 + r.core.val * 2 ^ 40 + r.cause.toNat * 2 ^ 32 + r.status.toNat * 2 ^ 16 + r.queue.toNat), r.utag, 0]

/-- The queue's MSI-X message (R343). -/
def sendMsix (fn : BitVec 6) (vec : Nat) (m : Msix) : Msix :=
  if 2048 ≤ vec then m
  else if m.masked.contains (fn, vec) then { m with pending := if m.pending.contains (fn, vec) then m.pending else m.pending ++ [(fn, vec)] }
  else { m with sent := m.sent ++ [(fn, vec)] }

/-- COMPLETION_RECORD_WRITE: the oldest record, when the ring has room. One whose ring does not translate waits. -/
def execCompletionRecordWrite (queue : BitVec 14) (s : State) : Out :=
  match s.queue? queue with
  | none => .next s
  | some q =>
    match q.records with
    | [] => .next s
    | r :: rest =>
      let n := 2 ^ q.clog
      if (q.cWrite + n - q.cHead) % n ≥ n - 1 then .next s
      else
        let p := s.queueProbe q
        match storeBytes p proxy (q.dw 1 + wn (32 * q.cWrite)) (r.words.flatMap (fun w => bytesOf 8 w.toNat)) with
        | .error e => .next (((pageFirst s (p.hart proxy) [] e).map (·.1)).getD s)
        | .ok cs =>
          let q1 := { q with records := rest, cWrite := (q.cWrite + 1) % n, open' := q.open'.filter (· != r.seqNo) }
          let s1 := (s.writeCells cs).setQueue q1
          .next (noteReady (if r.notify then { s1 with msix := sendMsix q.fn q.vec s1.msix } else s1))

/-! ### The driver's side of a queue (R287, R288, R301) -/

/-- A descriptor that R287 allows, for a tenant that lives in its partition. -/
def descOk (s : State) (d : List Word) : Bool :=
  let w (i : Nat) : Word := d.getD i 0
  let t := s.tenant ((w 2).extractLsb' 20 10)
  bitsOf (w 0) 0 12 == 0 && bitsOf (w 1) 0 12 == 0 && bitsOf (w 2) 52 12 == 0 && bitsOf (w 2) 13 3 == 0 && bitsOf (w 2) 5 3 == 0 &&
  4 ≤ bitsOf (w 2) 8 5 && bitsOf (w 2) 8 5 ≤ 16 && 4 ≤ bitsOf (w 2) 0 5 && bitsOf (w 2) 0 5 ≤ 16 && bitsOf (w 3) 16 48 == 0 &&
  w 5 == 0 && w 6 == 0 && w 7 == 0 && t.live && t.part == (w 2).extractLsb' 16 4

/-- QUEUE_CREATE (R287). A descriptor that is not legal, a queue that exists or a failed device changes nothing. -/
def execQueueCreate (queue : BitVec 14) (fn : BitVec 6) (desc : List Word) (s : State) : Out :=
  if (s.queue? queue).isSome || !descOk s desc || s.sage.failed.isSome then .next s
  else
    .next { s with queues := s.queues ++ [{
      num := queue, fn := fn, desc := desc, head := 0, tail := 0, cHead := 0, cWrite := 0
      nextNo := if desc.getD 4 0 == 0 then 1 else desc.getD 4 0, slot := false, bell := 0, wants := none, pkt := none
      ready := none, promoted := false, asked := [], open' := [], records := [] }] }

/-- DOORBELL (R288, R338). -/
def execDoorbell (fn : BitVec 6) (queue : BitVec 14) (value : BitVec 32) (s : State) : Out :=
  match s.queue? queue with
  | none => .next s
  | some q =>
    if q.fn != fn then .next s
    else
      let q1 := { q with
        tail := value.toNat % 2 ^ q.plog, bell := s.nextId
        wants := if q.slot then none else some (q.wants.getD s.nextId) }
      .next (noteReady (fetchHead queue { s.setQueue q1 with nextId := s.nextId + 1 }))

/-- COMPLETION_HEAD (R288). -/
def execCompletionHead (fn : BitVec 6) (queue : BitVec 14) (value : BitVec 32) (s : State) : Out :=
  match s.queue? queue with
  | none => .next s
  | some q =>
    let n := 2 ^ q.clog
    let h := value.toNat % n
    if q.fn != fn || (q.cWrite + n - q.cHead) % n < (h + n - q.cHead) % n then .next s
    else .next (s.setQueue { q with cHead := h })

/-- Hardware queue slots per package (R287). -/
def queueSlots : Nat := 64

/-- QUEUE_SWAP_IN (R288): into a free slot, or into that of the resident queue without undispatched packets that has
gone longest without a doorbell. Queues that wait go in doorbell order. -/
def execQueueSwapIn (queue : BitVec 14) (s : State) : Out :=
  match s.queue? queue with
  | none => .next s
  | some q =>
    match q.wants with
    | none => .next s
    | some t =>
      let swap (s : State) : State := noteReady (fetchHead queue (s.setQueue { q with slot := true, wants := none }))
      let resident := s.queues.filter (·.slot)
      if s.queues.any (fun r => r.wants.any (· < t)) then .next s
      else if resident.length < queueSlots then .next (swap s)
      else
        match (resident.filter VQueue.drained).foldl (fun (b : Option VQueue) r =>
            match b with
            | none => some r
            | some x => if r.bell < x.bell then some r else some x) none with
        | none => .next s
        | some v => .next (swap (s.setQueue { v with slot := false }))

/-- PRIORITY_PROMOTION (R301): of the ready packet of a queue, or of a ready child. -/
def execPriorityPromotion (which : Waiting) (s : State) : Out :=
  match which with
  | .child id => .next { s with pool := s.pool.map (fun c => if c.id == id && c.ready.isSome then { c with promoted := true } else c) }
  | .queue n =>
    match s.queue? n with
    | none => .next s
    | some q => if q.ready.isSome then .next (s.setQueue { q with promoted := true }) else .next s

/-- The packet that the controller holds or reads next is cancelled, with its number (R291, R299). -/
def cancelOne (p : State) (q : VQueue) (i : Nat) : VQueue :=
  let pk := match q.pkt with
    | some pk => pk
    | none => (match ctlBytes p (q.dw 0 + wn (64 * q.head)) 64 with
        | .ok bs => wordsIn bs 8
        | .error _ => [])
  let tag := if pk.isEmpty then Config.unreadTag (p.fresh + i) else Packet.utag pk
  { q.take with
    head := if q.pkt.isSome then q.head else (q.head + 1) % 2 ^ q.plog
    records := q.records ++ [⟨q.nextNo, q.num, 7, 0, 0, 0, tag, Packet.notify pk⟩] }

/-- The next n of them. -/
def cancelSubmitted (p : State) : Nat → VQueue → VQueue
  | 0, q => q
  | n + 1, q => cancelSubmitted p n (cancelOne p q n)

/-- Packets submitted or read, and not dispatched. -/
def VQueue.left (q : VQueue) : Nat := q.submitted + (if q.pkt.isSome then 1 else 0)

/-- A queue's unretired launches and transfers are cancelled, with what is submitted (R291, R299). -/
def resetQueue (s : State) (n : BitVec 14) : State :=
  let s1 := (s.launches.filter (fun l => l.queue == some n)).foldl (fun s l => endLaunch l.id 7 0 proxy s) s
  let s2 := (s1.transfers.filter (fun t => t.queue == n)).foldl
    (fun s t => pushRecord ⟨t.seqNo, n, 7, 0, 0, 0, t.utag, t.notify⟩ s) s1
  let s3 : State := { s2 with transfers := s2.transfers.filter (fun t => t.queue != n) }
  match s3.queue? n with
  | none => s3
  | some q =>
    noteReady { s3.setQueue { cancelSubmitted (s3.queueProbe q) q.left q with wants := none } with fresh := s3.fresh + q.left }

/-- QUEUE_RESET (R291, R299). -/
def execQueueReset (queue : BitVec 14) (s : State) : Out :=
  match s.queue? queue with
  | none => .next s
  | some _ => .next (resetQueue s queue)

/-! ### Transfers (R344) -/

def transferOk (p : Packet) : Bool :=
  let src := (p.getD 1 0).toNat
  let dst := (p.getD 2 0).toNat
  let len := Packet.bits p 7 0 40
  let mode := Packet.bits p 7 40 2
  Packet.bits p 0 12 52 == 0 && Packet.bits p 5 15 1 == 0 && Packet.bits p 5 31 33 == 0 && Packet.bits p 7 42 22 == 0 &&
  len != 0 && mode ≤ 1 && (mode == 1 || src + len ≤ dst || dst + len ≤ src)

/-- A side of a transfer meets a transposed range in whole units only (R330). -/
def unitOk (t : Transfer) (es other : Nat) : Bool :=
  es == 0 || (t.dst.toNat % es == 0 && t.len % es == 0 && (t.zero || t.src.toNat % es == 0) && (other == 0 || other == es))

/-- The key of one byte of a side; memory of a device behind MMIO is no target. -/
def sideByte (p : State) (acc : Acc) (va : Word) : Except MemErr Phys :=
  match translate p proxy acc va with
  | .error e => .error e
  | .ok x => if x.tgt == .mmio then .error ⟨.perm, va, none, acc.writes⟩ else .ok x

/-- Why one byte of a transfer does not move. -/
def transferByte (p : State) (t : Transfer) : Except MemErr State :=
  let off := wn t.pos
  match sideByte p .store (t.dst + off), (if t.zero then .ok none else (sideByte p .load (t.src + off)).map some) with
  | _, .error e => .error e
  | .error e, _ => .error e
  | .ok d, .ok src =>
    let es := match src with
      | some x => x.es
      | none => 0
    if !unitOk t d.es es || !unitOk t es d.es then .error ⟨.misalign, t.dst, none, true⟩
    else if (2 ^ 61 ≤ d.key && p.noPath) || (match src with
      | some x => p.badByte x.key
      | none => false) then .error ⟨.uncorrectable, t.dst, none, true⟩
    else
      let b := match src with
        | some x => p.byte x.key
        | none => 0
      let link (key : Nat) (p : State) : State := if t.pos % 240 == 0 then p.linkTo key 1 else p
      .ok ((link d.key (link ((src.map Phys.key).getD 0) p)).writeCells [(d.key, b)])

/-- Moves bytes until the end or a failure, in the probe's memory. -/
def moveBytes : Nat → State → Transfer → State × Transfer × Option MemErr
  | 0, p, t => (p, t, none)
  | n + 1, p, t =>
    match transferByte p t with
    | .error e => (p, t, some e)
    | .ok p1 => moveBytes n p1 { t with pos := t.pos + 1 }

/-- Carries a transfer on: a host page that ATS refuses is asked for, any other failure ends it FAULTED. -/
def runTransfer (q : VQueue) (t : Transfer) (s : State) : State :=
  let p := s.queueProbe q
  let r := moveBytes (t.len - t.pos) p t
  let s1 : State := { s with mem := r.1.mem, bad := r.1.bad, ports := r.1.ports }
  let put (t : Transfer) (s : State) : State := { s with transfers := s.transfers.map (fun x => if x.id == t.id then t else x) }
  match r.2.2 with
  | none => put r.2.1 s1
  | some e =>
    match pageFirst s1 (p.hart proxy) t.asked e with
    | some (s2, l) => put { r.2.1 with asked := l } s2
    | none => put { r.2.1 with status := 6, cause := e.cause.code } s1

/-- TRANSFER_DISPATCH (R344). -/
def execTransferDispatch (queue : BitVec 14) (s0 : State) : Out :=
  let s := noteReady (fetchHead queue s0)
  match s.queue? queue with
  | none => .next s
  | some q =>
    match q.pkt with
    | none => .next s
    | some pk =>
      if Packet.op pk != 2 || !headReady s q then .next s
      else if (Packet.waits pk).any (waitBad s q) then .next (retireHead q 4 s)
      else if !transferOk pk then .next (retireHead q 1 s)
      else
        let t : Transfer := {
          id := s.nextId, queue := queue, seqNo := q.nextNo, utag := Packet.utag pk, notify := Packet.notify pk
          src := pk.getD 1 0, dst := pk.getD 2 0, len := Packet.bits pk 7 0 40, pos := 0, asked := [], zero := Packet.bits pk 7 40 2 == 1
          status := 0, cause := 0 }
        let s1 : State := { s.setQueue q.take with nextId := s.nextId + 1, transfers := s.transfers ++ [t] }
        .next (noteReady (fetchHead queue (runTransfer q t s1)))

/-- TRANSFER_RETIRE (R344): once every byte is performed, or a fault has ended the transfer. -/
def execTransferRetire (transfer : Nat) (s : State) : Out :=
  match s.transfers.find? (fun t => t.id == transfer) with
  | none => .next s
  | some t =>
    match s.queue? t.queue with
    | none => .next s
    | some q =>
      let s1 := if t.status == 0 then runTransfer q t s else s
      match s1.transfers.find? (fun t => t.id == transfer) with
      | none => .next s1
      | some t =>
        if t.status == 0 && t.pos < t.len then .next s1
        else
          .next (noteReady (pushRecord ⟨t.seqNo, t.queue, t.status, t.cause, 0, 0, t.utag, t.notify⟩
            { s1 with transfers := s1.transfers.filter (fun x => x.id != transfer) }))

/-! ### EXIT, RDV, FORK (R74 to R76) -/

/-- The harts parked in RDV end with hart 0, as if each executed EXIT at its RDV (R74). -/
def endParked (s : State) : State :=
  if s.who.hart != 0 then s
  else s.modMyCore (fun k => { k with harts := k.harts.map (fun h => if h.run == .parked then { h with run := .running, ending := true } else h) })

/-- The members parked in the gang of the exiting hart (R96). -/
def gangMembers (s : State) : List CoreId :=
  match s.me.gang with
  | some (m, b) => (gangCores b.val m).filter (fun c => (s.hart ⟨c, 0⟩).run == .gangParked)
  | none => []

/-- The hart ends (R74), and with it the parked members of its gang. -/
def leave (s : State) : Out :=
  whenQuiet .finish (fun s => .next (endHart s.who ((gangMembers s).foldl (fun s c => endHart ⟨c, 0⟩ s) (endParked s)))) s

def execExit (s : State) : Out := leave s

/-- RDV (R75): a parked hart stays at its RDV, which completes, and counts (R80), when FORK lets the hart go on. -/
def execRdv (s : State) : Out :=
  if s.me.ending then leave s
  else
    fullFence (fun s =>
      if s.me.gang.isSome || s.myCore.layout ≤ 1 then done s
      else if s.who.hart != 0 then .next (s.modMe (fun h => { h with run := .parked }))
      else if s.myCore.othersParked then done s
      else stall .harts s) s

/-- The effect of FORK on hart k (R76). A hart whose context is saved is none of the three that R76 names: it is left as it is,
so one that was parked parks again after its restore (DESIGN CHOICE, log 58). -/
def forkOne (pc : Word) (s : State) (k : HartNum) : State :=
  let w : Who := ⟨s.who.core, k⟩
  match (s.hart w).run with
  | .parked => s.modHart w (fun h => { h with run := .running, pc := pc, instret := h.instret + 1 })
  | .exited | .idle => s.setHart w (forkHart s s.who k pc)
  | _ => s

def execFork (a : XReg) (s : State) : Out :=
  let pc := s.x a
  if s.who.hart != 0 then config (ctlWord 0 a 0 5) s
  else if pc &&& 3 != 0 then raise ⟨.misalign, pc, 0⟩ s
  else fullFence (fun s => done ((s.myCore.layoutHarts.filter (· != 0)).foldl (forkOne pc) s)) s

/-! ### LAUNCH, LAUNCHT, LWAIT (R304 to R306) -/

def lchWord (d a : XReg) (fn : BitVec 5) : Insn := sr 0x3A#6 d a 0#5 0#6 fn

/-- Entries of a depth in use. -/
def State.quota (s : State) (d : Nat) : Nat := (s.pool.filter (fun c => c.depth == d)).length

/-- Takes a pool entry and the next LN number, held where HARM armed it (R263, R305). -/
def submit (word : Insn) (pk : Packet) (s : State) : State :=
  let h := s.me
  let n := h.tlln + 1
  let c : Child := {
    id := s.nextId, parent := s.who, parentLaunch := h.launch.getD 0, word := word, num := n, tag := ⟨n.toNat, s.seqNow, h.arming, s.nextId⟩
    depth := h.depth + 1, packet := pk, launch := none, ready := none, promoted := false, asked := [], away := none }
  noteReady { s.modMe (fun h => { h with tlln := n, arming := none }) with nextId := s.nextId + 1, pool := s.pool ++ [c] }

/-- What the two members share: the packet is read when the member issues and kept while it waits (R305); then `full` at depth
8, `wait` without room, `taken` with an entry. -/
def launchMember (w : Insn) (a : XReg) (full : State → Out) (wait : Packet → State → Out) (taken : State → Out) (s : State) : Out :=
  let go (pk : Packet) (s : State) : Out :=
    if s.me.depth == 8 then full s
    else if s.quota (s.me.depth + 1) ≥ 512 then wait pk s
    else if !s.me.vecDone then stall (.quota pk) s
    else fullFence (fun s => taken (submit w pk s)) s
  if s.me.gang.isSome then config w s
  else
    match s.me.run with
    | .waiting (.quota pk) => go pk s
    | _ =>
      let va := s.x a
      match access s s.who .load 64 false va with
      | .error e => raiseMem e 0 s
      | .ok p =>
        match (List.range 64).find? (fun i => s.badByte (p.key + i)) with
        | some i => raise ⟨.uncorrectable, memBadVal p.key (va + wn i), 0⟩ s
        | none => go ((List.range 8).map (fun i => wn (s.ownN s.who .scalar (p.key + 8 * i) 8))) (noteWalk s.who va s)

def execLaunch (a : XReg) (s : State) : Out :=
  launchMember (lchWord 0 a 0) a (config (lchWord 0 a 0)) (fun pk => stall (.quota pk)) done s

def execLauncht (d : XReg) (a : XReg) (s : State) : Out :=
  launchMember (lchWord d a 1) a (writeX d (BitVec.allOnes 64)) (fun _ => writeX d 0) (fun s => writeX d s.me.tlln s) s

def execLwait (d : XReg) (a : XReg) (s : State) : Out :=
  let n := s.x a
  let e := s.me.slotsLn.toList.getD (n.toNat % 64) (0, 0)
  if s.me.gang.isSome then config (lchWord d a 2) s
  else if n == 0 || s.me.tlln.ult n then writeX d 0xFE s
  else if e.1 == n then writeX d (e.2.zeroExtend 64) s.allSee
  else if n.ult e.1 then writeX d 0xFF s.allSee
  else stall (.child n) s

end Sys2Proof.Machine
end

