-- ==== Sys2Proof/Machine/Context.lean ====
section
/-!
DEFINITION. Context images (R175, R199, R220, R265, R285, R325 to R327), CTXSAVE and CTXLOAD, pre-emption and
restore (R301, R302, R307, R321 to R324).
-/

namespace Sys2Proof.Machine

/-! ### Before a save: write-backs (R169, R175, R334) -/

/-- The boxes that are left of a list of write-backs, the window, and the trap that one met: it failed, or it lost a granule
marked bad, which is left out from then on (R169, R334). -/
def flushBoxes (w : Who) (i : WinNum) (kind : ReKind) : List Box → Window → State → List Box × Window × Option Trap × State
  | [], win, s => ([], win, none, s)
  | b :: bs, win, s =>
    match writeBackCells s w win b with
    | .error e => (b :: bs, win, some (errTrap e), match e.page with
        | some a => s.askPage w a
        | none => s)
    | .ok cs =>
      let s1 := (s.writeCells cs).linkCells cs
      match lostOf s w win b with
      | some p => (bs, win.afterOut kind b, some (nearTrap s w i win p), s1)
      | none => flushBoxes w i kind bs (win.afterOut kind b) s1

/-- What a save has come to. -/
inductive Flushed where
  | ok (s : State)
  | fail (w : WinNum) (t : Trap) (s : State)

/-- The write-backs that operations still owe. -/
def flushOps (w : Who) : List ReOp → State → Flushed
  | [], s => .ok s
  | o :: os, s =>
    let r := flushBoxes w o.win o.kind o.out (o.save.getD ((s.hart w).win o.win)) s
    let s1 := r.2.2.2.modHart w (fun h =>
      let h1 := h.setReOp { o with out := r.1, failed := none, save := o.save.map (fun _ => r.2.1) }
      if o.save.isSome then h1 else h1.setWin o.win r.2.1)
    match r.2.2.1 with
    | some t => .fail o.win t s1
    | none => flushOps w os s1

/-- The dirty elements of open windows (R175). -/
def flushWins (w : Who) : List WinNum → State → Flushed
  | [], s => .ok s
  | i :: is, s =>
    let win := (s.hart w).win i
    if !win.isOpen || win.strm then flushWins w is s
    else
      let r := flushBoxes w i .flush [boundBox (win.slots.map (·.1))] win s
      let s1 := r.2.2.2.modHart w (fun h => h.setWin i r.2.1)
      match r.2.2.1 with
      | some t => .fail i t s1
      | none => flushWins w is s1

/-- Every write-back of the hart; operations with nothing left to do complete. -/
def flushAll (w : Who) (s : State) : Flushed :=
  match flushOps w (s.hart w).reOps s with
  | .fail i t s' => .fail i t s'
  | .ok s1 =>
    match flushWins w allWins s1 with
    | .fail i t s' => .fail i t s'
    | .ok s2 => .ok ((s2.hart w).reOps.foldl (fun s o => reFinish w o.tag.num s) s2)

/-- UNCORRECTABLE of a save that reads a register granule marked bad (R334). -/
def savedBad (s : State) (w : Who) : Option Trap :=
  let n := (s.hart w).lanes
  s.bad.findSome? (fun b => match b with
    | .vreg w' r g => if w' == w then some ⟨.uncorrectable, regLoc 2 r.toNat (g % n), 0⟩ else none
    | .mreg w' m g => if w' == w then some ⟨.uncorrectable, regLoc 3 m.toNat (g % n), 0⟩ else none
    | _ => none)

/-! ### Withdrawn operations (R220, R285) -/

/-- An operation of the hart has started in the matrix unit (R220). -/
def mxStarted (s : State) (w : Who) : Bool := (s.core w.core).matrix.ops.any (fun o => o.who == w && o.started)

/-- Matrix operations of hart w leave the unit, and stand there as incomplete only. -/
def awayOps (w : Who) (s : State) : State :=
  s.modCore w.core (fun k => { k with matrix := { k.matrix with
    ops := k.matrix.ops.map (fun o => if o.who == w then { o with away := true } else o) } })

/-- The hart's own operations in the unit. -/
def mxOwn (s : State) (w : Who) : List MxOp := (s.core w.core).matrix.ops.filter (fun o => o.who == w && !o.away)

/-- CTXSAVE withdraws what TRET resubmits. -/
def withdraw (w : Who) (s : State) : State :=
  (awayOps w s).modHart w (fun h => { h with drawn := some ((h.drawn.getD []) ++ (mxOwn s w).map (·.tag.num)) })

/-- What CTXSAVE withdrew is submitted again. -/
def resubmit (w : Who) (s : State) : State :=
  match (s.hart w).drawn with
  | none => s
  | some l =>
    (s.modCore w.core (fun k => { k with matrix := { k.matrix with
      ops := k.matrix.ops.map (fun o => if o.who == w && l.contains o.tag.num then { o with away := false } else o) } })).modHart w
        (fun h => { h with drawn := none })

/-! ### Recorded instructions (R324, R326) -/

/-- INEXT and WNEXT, which form their group in the stream and complete as pulls. -/
def isPull (w : Insn) : Bool := (majorOf w == 0x34 && fnOf w == 12) || (majorOf w == 0x30 && fnOf w == 8)

/-- Members that capture c0 to c7 with how often each has changed, and those that capture c0 to c7 behind their operand. -/
def capsChanges (w : Insn) : Bool := isPull w || (majorOf w == 0x34 && fnOf w == 14)
def capsCtrs (w : Insn) : Bool :=
  majorOf w == 0x31 || majorOf w == 0x32 || (majorOf w == 0x30 && [3, 4, 5].contains (fnOf w)) || (majorOf w == 0x36 && fnOf w == 0)

def isAttn (w : Insn) : Bool := majorOf w == 0x37 && (fnOf w == 3 || fnOf w == 4)

/-- An ATTN or ATTNC that has taken its number and that no output holds: KVSTART is its progress record (R243). -/
def Hart.attnAt (h : Hart) : Option Issued :=
  h.stream.head?.filter (fun e => e.adv.isNone && isAttn e.word && e.cap.num.isSome && e.held.isNone)

/-- The vector instructions that have issued and not completed, in program order; a pull that has not committed starts
again. -/
def Hart.recorded (h : Hart) : List Issued :=
  (h.pulls.filter (·.stack.isSome)).map (fun p => { p.entry with cap := { p.entry.cap with num := some p.num, arm := p.held } }) ++
  (if h.attnAt.isSome then h.stream.drop 1 else h.stream).filter (·.adv.isNone)

/-- The output that holds or will hold a recorded instruction's command. -/
def Issued.holds (e : Issued) : Option (BitVec 4) := if e.cap.num.isNone || isPull e.word then e.cap.arm else e.held

/-! ### Tail records (R326) -/

/-- A tail record: its kind, the output that holds its command, and its words. Where the record keeps that output is
the model's (log 18). -/
structure TailRec where
  kind : Nat
  held : Option (BitVec 4)
  body : List Word
  bytes : Nat
  deriving DecidableEq, Repr

def TailRec.words (r : TailRec) : List Word :=
  wn (r.kind * 2 ^ 56 + (match r.held with
    | some o => 2 ^ 36 + o.toNat * 2 ^ 32
    | none => 0) + r.bytes) :: r.body

def mkRec (kind : Nat) (held : Option (BitVec 4)) (body : List Word) : TailRec := ⟨kind, held, body, 8 + 8 * body.length⟩

def TailRec.insn (r : TailRec) : Insn := (r.body.getD 0 0).extractLsb' 32 32
def TailRec.num (r : TailRec) : Nat := (r.body.getD 1 0).toNat

/-- Bytes as doublewords, the last one filled with zeros. -/
def packWords (bs : List Byte) : List Word := wordsIn bs ((bs.length + 7) / 8)

def bitsWords (n v : Nat) : List Word := (List.range n).map (fun i => wn (v / 2 ^ (64 * i)))
def natOfWords (ws : List Word) : Nat := ws.foldr (fun w n => w.toNat + 2 ^ 64 * n) 0

def insnWord (w : Insn) : Word := w.zeroExtend 64 <<< 32
def padTo (n : Nat) (l : List Word) : List Word := l ++ List.replicate (n - l.length) 0

/-- A matrix replay record of 576 bytes: word, number, what the captured type says, operand, mask (R220). The operand of MLDS
is its plane's corner, and the elements that it covers. -/
def mxRec (o : MxOp) : TailRec :=
  let spare := wn (o.k.toNat + o.lmul * 2 ^ 8 + (if o.ta then 2 ^ 12 else 0) + (if o.closed then 2 ^ 13 else 0))
  let operand := if o.kind == .lds then padTo 64 (padTo 16 (o.corner.map (BitVec.ofInt 64)) ++ [wn o.lo, wn o.hi]) else bitsWords 64 o.row.toNat
  mkRec 1 o.tag.held ([insnWord o.word, wn o.tag.num, spare] ++ operand ++ bitsWords 4 o.mask.toNat)

/-- An exchange replay record of XSEND or XRECV (R285). -/
def xRec (o : XOp) : Option TailRec :=
  match o.kind with
  | .send => some { mkRec 2 o.tag.held ([insnWord o.word, wn o.tag.num, o.chan] ++ packWords o.bytes) with bytes := 32 + o.bytes.length }
  | .recv => some (mkRec 3 o.tag.held [insnWord o.word, wn o.tag.num, o.chan, o.vtype, wn o.vl])
  | .ring => none

/-- The word of a held RE operation. -/
def reWord (o : ReOp) : Insn :=
  let fn : BitVec 5 := match o.kind with
    | .deliver => 3 | .close | .closeBound => 4 | .flush => 5 | .drop => 6 | _ => 8
  vr 0x30#6 (0#2 ++ o.win) 0#5 0#5 0#3 0#3 fn

def itWord (o : ItOp) : Insn := vr 0x34#6 (0#3 ++ o.stack) 0#5 0#5 0#3 0#3 (if o.enough then 13#5 else 15#5)

/-- What a recorded instruction captured, with the changes of the counters counted back from now. -/
def capWords (h : Hart) (e : Issued) : List Word :=
  if capsChanges e.word then
    e.cap.xs.zipIdx.map (fun x => if x.2 < 8 then x.1 else x.1 - wn (h.loops.toList.getD (x.2 - 8) LoopCtr.zero).changes)
  else e.cap.xs

/-- The record beside a progress record: the XRING at the head (R285); a held or numbered command (R265), and captured
registers that the progress record has no room for (log 52). -/
def issuedRec (h : Hart) (e : Issued) : Option TailRec :=
  if majorOf e.word == 0x39 && fnOf e.word == 6 && e.cap.num.isSome then
    let n := e.cap.num.getD 0
    some (mkRec 4 e.holds [insnWord e.word, wn n, e.cap.xs.getD 0 0,
      boolWord (e.cap.xs.getD 1 0 == 1 || h.xops.any (fun o => o.tag.num == n && o.sent))])
  else if e.holds.isSome || e.cap.num.isSome || 1 < e.cap.xs.length then
    some (mkRec 5 e.holds ([insnWord e.word, wn (e.cap.num.getD 0)] ++ capWords h e))
  else none

/-- Commands of the engines: those held, ISEAL and IENOUGH behind one, a WNEXT whose count has yet to enter lq, the ATTN that
has started, and the launches that the Harness holds (R243, R263, R265). -/
def commandRecs (s : State) (w : Who) : List TailRec :=
  let h := s.hart w
  (h.reOps.filter (fun o => o.tag.held.isSome)).map (fun o => mkRec 5 o.tag.held [insnWord (reWord o), wn o.tag.num]) ++
  h.itOps.map (fun o => mkRec 5 o.tag.held [insnWord (itWord o), wn o.tag.num]) ++
  (h.pulls.filter (·.stack.isNone)).map (fun p => mkRec 5 none [insnWord p.entry.word, wn p.num, wn p.group.length]) ++
  h.attnAt.toList.map (fun e => mkRec 5 none ([insnWord e.word, wn (e.cap.num.getD 0), e.cap.vtype, wn e.cap.vl] ++ e.cap.xs)) ++
  (s.pool.filter (fun c => c.isOf w && c.tag.held.isSome)).map (fun c =>
    mkRec 5 c.tag.held ([insnWord c.word, wn c.tag.num] ++ c.packet))

/-- The rows that a stream window holds. -/
def heldRows (h : Hart) (i : WinNum) : List (List Int) := rowsOf (h.win i) ((h.win i).heldBox h.ctr)

/-- Those of them that no MROWW has taken, in the order they entered or will enter the queue (R175). -/
def rowsLeft (s : State) (w : Who) (i : WinNum) : List (List Int) :=
  let h := s.hart w
  let win := h.win i
  let here := ((s.core w.core).matrix.queue.filter (fun q => q.who == w && q.win == i)).map (·.pt)
  (here.drop (here.length - (win.rowsSent - win.rowsTaken)) ++
    (h.reOps.filter (fun o => o.win == i)).flatMap (fun o => (o.slabs.flatMap (o.rows win)).drop o.rowsIn)).filter (heldRows h i).contains

/-- The consumed-row record of a stream window lists the held rows not consumed, in their order (log 54). -/
def rowsRec (s : State) (w : Who) (i : WinNum) : TailRec :=
  let l := rowsLeft s w i
  mkRec 7 none (wn l.length :: l.flatMap (fun r => r.map (BitVec.ofInt 64)))

def originsRec (win : Window) : TailRec :=
  mkRec 6 none (win.tiles.flatMap (fun t => [BitVec.ofInt 64 t.1, BitVec.ofInt 64 t.2]))

/-- The records of a window: gather origins, consumed rows. -/
def winRecs (s : State) (w : Who) (i : WinNum) : List TailRec :=
  let win := (s.hart w).win i
  if !win.isOpen then []
  else (if win.gather then [originsRec win] else []) ++ (if win.strm then [rowsRec s w i] else [])

def tailRecs (s : State) (w : Who) : List TailRec :=
  let h := s.hart w
  allWins.flatMap (winRecs s w) ++ (mxOwn s w).map mxRec ++ h.xops.filterMap xRec ++ h.recorded.filterMap (issuedRec h) ++ commandRecs s w

def recsBytes (l : List TailRec) : Nat := (l.map (fun r => 8 * r.words.length)).sum

/-! ### The image (R325 to R327) -/

/-- Start rank: 0 for the running loop that started first. -/
def rankOf (h : Hart) (k : CtrNum) : Nat :=
  match h.active.reverse.findIdx? (· == k) with
  | some i => i
  | none => 0

def loopWords (h : Hart) (k : CtrNum) : List Word :=
  let l := h.loop k
  [l.cnt, l.rem, l.body, l.endAddr, if h.active.contains k then 0x8000000000000000 ||| wn (rankOf h k) else 0, 0, 0, 0]

def winCode : WinState → Nat
  | .unbound => 0 | .bound => 1 | .opened => 2

/-- A window record, given where its tail records begin. -/
def winWords (s : State) (w : Who) (i : WinNum) (at' : Nat) : List Word :=
  let win := (s.hart w).win i
  let recs := winRecs s w i
  let d0 := wn (winCode win.st + (if win.gather then 4 else 0) + (if win.strm then 8 else 0) + (if win.sat then 16 else 0) +
    (if win.rct then 32 else 0) + (win.d - 1) * 256 + win.stack.toNat * 4096 + min win.formVl 31 * 65536 + win.tiles.length * 2 ^ 32)
  let dims := (List.range 16).flatMap (fun d => [win.dims.getD d 0, win.forms.getD d 0, win.origins.getD d 0])
  let place (k : Nat) : List Word :=
    match recs.find? (fun r => r.kind == k) with
    | some r => [wn (at' + (if k == 7 then recsBytes (recs.filter (fun q => q.kind == 6)) else 0)), wn r.bytes]
    | none => [0, 0]
  [d0, win.base, win.mode, 0] ++ dims ++ place 6 ++ place 7

def kindCode : SlotKind → Nat
  | .irange => 1 | .ilist => 2 | .ictr => 3 | .imap => 4 | .imapt => 5 | .ifiltb => 6 | .ifiltc => 7 | .izip => 8
  | .ichain => 9 | .iflat => 10

/-- Counter k, and how often it has changed, as the next pull that is recorded captured them, or as they are. -/
def ctrSeen (h : Hart) (k : Nat) : Word × Nat :=
  match h.recorded.find? (fun e => isPull e.word) with
  | some e => e.cap.pullCtr k
  | none => (h.loops.toList.getD k LoopCtr.zero).seen

/-- A slot; that of ICTR is drained where its counter has not changed since (R182, R199). -/
def slotWords (h : Hart) (x : ISlot) : List Word :=
  if x.kind == .ictr then
    let c := ctrSeen h x.other
    [wn (kindCode x.kind + (if x.flag && x.a == c.1 && x.c == wn c.2 then 256 else 0) + x.other * 65536), x.a, 0, 0]
  else [wn (kindCode x.kind + (if x.flag then 256 else 0) + x.other * 65536), x.a, x.b, x.c]

/-- A stack's header and slots (R199). -/
def stackWords (h : Hart) (st : IStack) : List Word :=
  [wn (st.st.code * 2 ^ 61 + (if st.two then 2 ^ 60 else 0) + (if st.align then 2 ^ 59 else 0) + st.slots.length * 2 ^ 55 +
      (match st.absorber with
        | some j => (j.toNat + 1) * 2 ^ 52
        | none => 0) + (if st.runMark then 2 ^ 51 else 0)), wn st.delivered, 0, 0] ++
  padTo 32 (st.slots.flatMap (slotWords h))

/-- A progress record (R324, R326). -/
def progressWords (e : Issued) : List Word :=
  [insnWord e.word, e.cap.vtype, wn (e.cap.start % 2 ^ 24 * 2 ^ 32 + e.cap.vl), if capsChanges e.word then 0 else e.cap.xs.getD 0 0]

def threadWords (h : Hart) : List Word :=
  match h.threads with
  | some ts => ts.toList.map (fun t => if t.exited then t.pc ||| 0x8000000000000000 else t.pc)
  | none => List.replicate 32 0

def vwords (n : Nat) (v : VBits) : List Word := bitsWords (16 * n) v.toNat

def boolNat (b : Bool) : Nat := if b then 1 else 0

def headerWords (s : State) (w : Who) (pc : Word) (size recs : Nat) : List Word :=
  let h := s.hart w
  let l := h.lib.getD (0, 0)
  padTo 32 ([
    0x4B43585400010000, wn size,
    wn (h.lanes * 2 ^ 48 + h.avail * 2 ^ 32 + h.segs * 2 ^ 28 + (s.core w.core).layout * 2 ^ 24 + w.hart.val * 2 ^ 21 +
      w.core.val * 2 ^ 15 + (s.partOf h).toNat * 2 ^ 11),
    h.sup.aspace.zeroExtend 64, pc, h.vtype, wn (h.vstart * 2 ^ 32 + h.vl), h.fcr.zeroExtend 64, h.fflags.zeroExtend 64, h.kvstart,
    h.instret, h.trap.seq,
    wn (boolNat h.threads.isSome + boolNat h.mbound * 2 + (if h.mbound then w.core.val * 4 else 0) +
      (if h.hbound || h.arming.isSome then 2 ^ 8 + w.core.val * 2 ^ 9 else 0) + boolNat h.xbound * 2 ^ 15 +
      (match h.arming with
        | some o => o.toNat * 2 ^ 16 + 2 ^ 20
        | none => 0) + h.recorded.length * 2 ^ 21 + h.q0.length * 2 ^ 32 + h.q1.length * 2 ^ 40 + h.lq.length * 2 ^ 48),
    l.1, l.2, wn recs, wn (h.xst.last.toNat * 2 ^ 48 + h.xst.aborts * 2 ^ 32 + h.xst.revn.toNat)])

/-- The offset of the tail. -/
def tailAt (n : Nat) : Nat := 8704 + 5120 * n

/-- Window records, each with its place in the tail. -/
def allWinWords (s : State) (w : Who) (n : Nat) : List Word :=
  (allWins.foldl (fun (r : Nat × List Word) i =>
    (r.1 + recsBytes (winRecs s w i), r.2 ++ winWords s w i r.1)) (tailAt n, [])).2

/-- The user context of hart w that resumes at pc, as its image (R325). -/
def imageWords (s : State) (w : Who) (pc : Word) : List Word :=
  let h := s.hart w
  let n := h.lanes
  let recs := tailRecs s w
  headerWords s w pc (tailAt n + recsBytes recs) recs.length ++
  ((List.range 31).map (fun i => h.xu.toList.getD (i + 1) 0) ++ [0]) ++
  allCtrs.flatMap (loopWords h) ++
  (padTo 16 h.q0 ++ padTo 16 h.q1 ++ padTo 16 h.lq) ++
  [h.tlre, h.tlit, (s.core w.core).matrix.counter, h.tlkv, h.tlxc, h.tlln, 0, 0] ++
  padTo 8 (h.kv.toList.map (·.root)) ++
  allWinWords s w n ++
  allStacks.flatMap (fun i => stackWords h (h.iter i)) ++
  h.slotsLn.toList.flatMap (fun x => [x.1, x.2.zeroExtend 64]) ++
  threadWords h ++
  padTo 128 (h.recorded.flatMap progressWords) ++
  List.replicate 16 0 ++
  (List.range 32).flatMap (fun j => vwords n (h.vreg j)) ++
  (List.range 8).flatMap (fun k => vwords n (h.mreg (BitVec.ofNat 3 k))) ++
  recs.flatMap TailRec.words

/-! ### Where an image may lie (R325) -/

/-- The flags that an address is mapped under. -/
def flagsAt (s : State) (w : Who) (va : Word) : Word :=
  match (s.core w.core).ranges.find? (rangeHit va.toNat) with
  | some r => r.getD 2 0 &&& 0xFFE
  | none =>
    match s.leaf w va.toNat with
    | .ok (e, _) => e
    | .error _ => 0

/-- The supervisor's view of a hart's memory. -/
def asSup (s : State) (w : Who) : State := s.modHart w (fun h => { h with trap := { h.trap with priv := true } })

/-- The first address that fails: alignment, then device memory, writable and S = 1 at every page. -/
def areaErr (s : State) (w : Who) (va : Word) (size : Nat) : Option MemErr :=
  if va.toNat % 4096 != 0 then some ⟨.misalign, va, none, true⟩
  else
    (List.range ((size + 4095) / 4096)).findSome? (fun i =>
      let a := va + wn (4096 * i)
      match access s w .store 0 false a with
      | .error e => some e
      | .ok p => if p.tgt != .device || !(flagsAt s w a).getLsbD 8 then some ⟨.perm, a, none, true⟩ else none)

/-- The cells of an image at va. -/
def areaCells (s : State) (w : Who) (va : Word) (ws : List Word) : List Host.Cell :=
  ws.zipIdx.flatMap (fun x =>
    match access s w .store 0 false (va + wn (8 * x.2)) with
    | .ok p => cellsAt p.key (bytesOf 8 x.1.toNat)
    | .error _ => [])

/-- The locks of the hart's lanes (R129). -/
def clearMyLocks (w : Who) (s : State) : State :=
  match (s.hart w).gang with
  | some (m, b) => (gangCores b.val m).foldl (fun s c => clearLocks c (List.range 32) s) s
  | none => clearLocks w.core ((List.range (s.hart w).lanes).map (fun l => (s.laneCore w l).2)) s

/-- The address at which the user context resumes: TRAPPC, or where the scalar unit stopped at a lane-thread trap. -/
def Hart.savePc (h : Hart) : Word := if h.trap.lt && h.threads.isSome then h.trap.stop else h.trap.pc

/-- The trapping lane thread resumes at TRAPPC (R316). -/
def Hart.saveThreads (h : Hart) : Hart :=
  if h.trap.lt then { h with threads := h.threads.map (fun ts => ts.setIfInBounds h.trap.elem.toNat ⟨h.trap.pc, false⟩) } else h

def sysWord (d a b : XReg) (fn : BitVec 5) : Insn := sr 0x3B#6 d a b 0#6 fn

/-- A supervisor member (R52). -/
def supOnly (w : Insn) (k : State → Out) (s : State) : Out := if s.me.trap.priv then k s else raiseWord .priv w s

/-- CTXSAVE (R325): what it withdraws stays withdrawn until TRET leaves for user mode. -/
def execCtxsave (a : XReg) (s0 : State) : Out :=
  supOnly (sysWord 0 a 0 1) (fun s =>
    if !s.me.stream.isEmpty || mxStarted s s.who then stall .stream s
    else
      let va := s.x a
      let img (s : State) : List Word := imageWords (s.modMe Hart.saveThreads) s.who s.me.savePc
      let s := resubmit s.who s
      match areaErr s s.who va (8 * (img s).length) with
      | some e => raiseMem e 0 s0
      | none =>
        match savedBad s s.who with
        | some t => raise t s0
        | none =>
          match flushAll s.who s with
          | .fail w t s' => raiseFailed w t s'
          | .ok s' =>
            released (fun s1 => done (withdraw s1.who (s1.writeCells (areaCells s1 s1.who va (img s1)))))
              (clearMyLocks s.who (drainHart s.who s'))) s0

/-! ### Reading an image (R327) -/

/-- n doublewords at va, as LDS reads them. -/
def readWords (s : State) (w : Who) (va : Word) : Nat → Except MemErr (List Word)
  | 0 => .ok []
  | n + 1 =>
    match access s w .load 8 false va with
    | .error e => .error e
    | .ok p =>
      if s.badByte p.key then .error ⟨.uncorrectable, memBadVal p.key va, none, false⟩
      else
        match readWords s w (va + 8) n with
        | .error e => .error e
        | .ok l => .ok (wn (s.readN p.key 8) :: l)

/-- A part of an image. -/
def part (ws : List Word) (byte n : Nat) : List Word := (ws.drop (byte / 8)).take n
def dwAt (ws : List Word) (byte : Nat) : Word := ws.getD (byte / 8) 0

def imgLanes (ws : List Word) : Nat := bitsOf (ws.getD 2 0) 48 16
def imgHeader (ws : List Word) (i lo len : Nat) : Nat := bitsOf (ws.getD i 0) lo len

/-- The tail records of an image, none where their lengths do not fit it. -/
def parseTail : Nat → List Word → Option (List TailRec)
  | 0, l => if l.isEmpty then some [] else none
  | _ + 1, [] => none
  | n + 1, d :: l =>
    let len := bitsOf d 0 32
    let k := (len + 7) / 8 - 1
    if len < 8 || l.length < k then none
    else
      (parseTail n (l.drop k)).map (fun r =>
        ⟨bitsOf d 56 8, if d.getLsbD 36 then some (d.extractLsb' 32 4) else none, l.take k, len⟩ :: r)

/-- Reason 0x01 on the header alone: MAGIC, VERSION, the lane count, SIZE within its bound, fields shown as zero. -/
def headerBad (ws : List Word) : Bool :=
  let n := imgLanes ws
  ws.getD 0 0 != 0x4B43585400010000 || n == 0 || 2048 < n || (ws.getD 1 0).toNat % 8 != 0 ||
  (ws.getD 1 0).toNat < tailAt n || tailAt n + 4 * 2 ^ 20 < (ws.getD 1 0).toNat ||
  imgHeader ws 2 0 11 != 0 || imgHeader ws 3 10 54 != 0 || imgHeader ws 6 24 8 != 0 || imgHeader ws 6 56 8 != 0 ||
  imgHeader ws 7 10 54 != 0 || imgHeader ws 8 5 59 != 0 || imgHeader ws 12 27 5 != 0 || imgHeader ws 12 37 3 != 0 ||
  imgHeader ws 12 45 3 != 0 || imgHeader ws 12 52 12 != 0 || imgHeader ws 15 32 32 != 0 || imgHeader ws 16 52 12 != 0 ||
  32 < imgHeader ws 12 21 6 || 16 < imgHeader ws 12 32 5 || 16 < imgHeader ws 12 40 5 || 8 < imgHeader ws 12 48 4 ||
  (part ws 136 15).any (· != 0)

/-- Reason 0x01 on the rest. -/
def bodyBad (ws : List Word) : Bool :=
  dwAt ws 504 != 0 || (List.range 8).any (fun k => (part ws (512 + 64 * k + 40) 3).any (· != 0)) || (part ws 1344 8).any (· != 0) ||
  (part ws 1456 2).any (· != 0) || (part ws 1488 6).any (· != 0) || (part ws 8576 16).any (· != 0) ||
  (List.range 8).any (fun i => dwAt ws (1536 + 448 * i + 24) != 0) ||
  (parseTail (ws.getD 15 0).toNat (ws.drop (tailAt (imgLanes ws) / 8))).isNone

def kindOf : Nat → SlotKind
  | 1 => .irange | 2 => .ilist | 3 => .ictr | 4 => .imap | 5 => .imapt | 6 => .ifiltb | 7 => .ifiltc | 8 => .izip
  | 9 => .ichain | _ => .iflat

def parseSlot (l : List Word) : ISlot :=
  let d := l.getD 0 0
  { kind := kindOf (bitsOf d 0 8), flag := d.getLsbD 8, other := bitsOf d 16 8, a := l.getD 1 0, b := l.getD 2 0, c := l.getD 3 0 }

/-- A slot with a kind code out of range, or a nonzero field where R199 shows 0. -/
def slotBad (l : List Word) : Bool :=
  let d := l.getD 0 0
  let x := parseSlot l
  let k := bitsOf d 0 8
  k == 0 || 10 < k || bitsOf d 9 7 != 0 || bitsOf d 24 40 != 0 ||
  (match x.kind with
    | .irange | .imap | .imapt | .ifiltb | .ifiltc => x.flag || x.other != 0 || x.c != 0
    | .ilist => x.flag || x.other != 0
    | .ictr => 7 < x.other || x.b != 0 || x.c != 0
    | .izip => x.flag || 3 < x.other || x.a != 0 || x.b != 0 || x.c != 0
    | .ichain => 3 < x.other || x.a != 0 || x.b != 0 || x.c != 0
    | .iflat => x.other != 0)

def stackStateOf : Nat → StackState
  | 0 => .free | 1 => .building | 2 => .sealed | 3 => .ended | 4 => .absorbed | _ => .bound

def stackPart (ws : List Word) (i : Nat) : List Word := part ws (5120 + 288 * i) 36

/-- Stack i of an image; a bound one names the gather window of the image that it is bound to. -/
def parseStack (ws : List Word) (i : StackNum) : IStack :=
  let l := stackPart ws i.toNat
  let d := l.getD 0 0
  { IStack.clear with
    st := stackStateOf (bitsOf d 61 3), two := d.getLsbD 60, align := d.getLsbD 59
    slots := (List.range (bitsOf d 55 4)).map (fun k => parseSlot ((l.drop (4 + 4 * k)).take 4))
    absorber := if bitsOf d 52 3 == 0 then none else some (BitVec.ofNat 2 (bitsOf d 52 3 - 1))
    runMark := d.getLsbD 51, delivered := (l.getD 1 0).toNat
    win := if bitsOf d 61 3 == 5 then
        allWins.find? (fun w => let x := dwAt ws (1536 + 448 * w.toNat)
          x.getLsbD 2 && bitsOf x 0 2 != 0 && bitsOf x 12 2 == i.toNat)
      else none }

/-- Reason 0x08 (R199). -/
def stacksBad (ws : List Word) : Bool :=
  allStacks.any (fun i =>
    let l := stackPart ws i.toNat
    let d := l.getD 0 0
    let n := bitsOf d 55 4
    5 < bitsOf d 61 3 || 8 < n || bitsOf d 0 51 != 0 || l.getD 2 0 != 0 || l.getD 3 0 != 0 || 4 < bitsOf d 52 3 ||
    (List.range 8).any (fun k =>
      let x := (l.drop (4 + 4 * k)).take 4
      if k < n then slotBad x else x.any (· != 0)) ||
    (bitsOf d 52 3 != 0 &&
      !((parseStack ws (BitVec.ofNat 2 (bitsOf d 52 3 - 1))).slots.any (fun x =>
        (x.kind == .izip || x.kind == .ichain) && x.other == i.toNat))))

/-- Counter k of an image; LBODY[1:0] are zero (R66). How often it has changed goes on counting. -/
def parseLoop (ws : List Word) (k : Nat) (changes : Nat) : LoopCtr :=
  let l := part ws (512 + 64 * k) 4
  ⟨l.getD 0 0, l.getD 1 0, l.getD 2 0 &&& ~~~(3 : Word), l.getD 3 0, changes⟩

/-- VTYPE without its reserved bits (R42). -/
def typeOf (x : Word) : Word := x &&& 0x8000000000FF07FF

/-- The running loops, newest start rank first. -/
def parseActive (ws : List Word) : List CtrNum :=
  let run (k : CtrNum) : Word := dwAt ws (512 + 64 * k.toNat + 32)
  ([7, 6, 5, 4, 3, 2, 1, 0] : List Nat).flatMap (fun r => allCtrs.filter (fun k => (run k).getLsbD 63 && bitsOf (run k) 0 3 == r))

/-- A window of the image: bound, until it is reopened. MODE and the formula stay with an unbound one (R147). -/
def parseWin (ws : List Word) (i : WinNum) : Window :=
  let at' := 1536 + 448 * i.toNat
  let d := dwAt ws at'
  let n := bitsOf d 8 4 + 1
  let forms := min 16 (bitsOf d 16 5)
  let org := bitsOf (dwAt ws (at' + 416)) 0 32
  let base : Window := { Window.clear with
    mode := dwAt ws (at' + 16), formVl := bitsOf d 16 5
    forms := (List.range forms).map (fun j => dwAt ws (at' + 40 + 24 * j))
    origins := (List.range forms).map (fun j => dwAt ws (at' + 48 + 24 * j)) }
  if bitsOf d 0 2 == 0 then base
  else
    { base with
      st := if bitsOf d 0 2 == 2 then .opened else .bound
      gather := d.getLsbD 2, sat := d.getLsbD 4, rct := d.getLsbD 5, base := dwAt ws (at' + 8), stack := d.extractLsb' 12 2
      dims := (List.range n).map (fun j => dwAt ws (at' + 32 + 24 * j))
      tiles := (List.range (bitsOf d 32 32)).map (fun t =>
        ((dwAt ws (org + 8 + 16 * t)).toInt, (dwAt ws (org + 16 + 16 * t)).toInt)) }

/-- The rows of stream window i of the image that are still to be consumed; none where there is no record of them. -/
def parseRows (ws : List Word) (i : WinNum) (win : Window) : Option (List (List Int)) :=
  let off := (dwAt ws (1536 + 448 * i.toNat + 432)).toNat
  if off == 0 then none
  else
    let k := if win.gather then 1 else win.d - 1
    some ((List.range (dwAt ws (off + 8)).toNat).map (fun r =>
      (List.range k).map (fun d => (dwAt ws (off + 16 + 8 * (r * k + d))).toInt)))

def parseThreads (ws : List Word) : Option (Vector Thread 32) :=
  if (ws.getD 12 0).getLsbD 0 then
    some (Vector.ofFn (fun i => let d := dwAt ws (7296 + 8 * i.val); ⟨d &&& 0x7FFFFFFFFFFFFFFF, d.getLsbD 63⟩))
  else none

/-- Registers of n lanes, re-laid by granule onto g lanes (R93, R327). -/
def parseReg (ws : List Word) (byte n g : Nat) : VBits :=
  BitVec.ofNat 2097152 (natOfWords (part ws byte (16 * min n g)))

/-- The instructions recorded, in program order. What an image does not hold is the hart's own (log 19). -/
def parseStream (ws : List Word) (h : Hart) : List Issued :=
  (List.range (imgHeader ws 12 21 6)).map (fun i =>
    let l := part ws (7552 + 32 * i) 4
    let word : Insn := (l.getD 0 0).extractLsb' 32 32
    { word := word, seq := h.nextSeq + i, held := none, stamp := 0, snap := h.snap [], adv := none
      cap := { pc := h.pc, vtype := typeOf (l.getD 1 0), vl := bitsOf (l.getD 2 0) 0 24, epoch := h.epoch
               xs := if capsChanges word then h.ctrs ++ h.loops.toList.map (fun c => wn c.changes)
                 else if capsCtrs word then l.getD 3 0 :: h.ctrs else [l.getD 3 0]
               start := bitsOf (l.getD 2 0) 32 24, num := none, arm := none, began := false, grp := [] } })

/-! ### Putting an image in force (R327) -/

/-- Reasons of R327 in their order, but for a window that no longer fits. -/
def loadReason (s : State) (w : Who) (ws : List Word) : Option Nat :=
  let h := s.hart w
  let vl := imgHeader ws 6 0 24
  let n := imgLanes ws
  let gang := 32 < imgHeader ws 2 32 16
  if bodyBad ws then some 1
  else if vlmaxOf h.lanes (ws.getD 5 0) < vl || (List.range (imgHeader ws 12 21 6)).any (fun i =>
      let l := part ws (7552 + 32 * i) 4
      vlmaxOf h.lanes (l.getD 1 0) < bitsOf (l.getD 2 0) 0 24) then some 2
  else if (ws.getD 12 0).getLsbD 1 && imgHeader ws 12 2 6 != w.core.val then some 4
  else if (ws.getD 12 0).getLsbD 8 && imgHeader ws 12 9 6 != w.core.val then some 5
  else if (ws.getD 12 0).getLsbD 15 && !(imgHeader ws 2 15 6 == w.core.val && imgHeader ws 2 21 3 == w.hart.val) then some 6
  else if ws.getD 9 0 != 0 && h.lanes < n then some 7
  else if stacksBad ws then some 8
  else if imgHeader ws 3 0 10 != h.sup.aspace.toNat || imgHeader ws 2 11 4 != (s.partOf h).toNat then some 9
  else if gang != h.gang.isSome || (gang && imgHeader ws 2 32 16 != h.avail) then some 10
  else none

/-- The scalar part of an image on hart h. -/
def loadScalars (ws : List Word) (h : Hart) : Hart :=
  let n := imgLanes ws
  { h with
    xu := Vector.ofFn (fun i => if i.val == 0 then 0 else dwAt ws (256 + 8 * (i.val - 1)))
    v := Vector.ofFn (fun j => parseReg ws (8704 + 128 * n * j.val) n h.lanes)
    m := Vector.ofFn (fun k => parseReg ws (8704 + 4096 * n + 128 * n * k.val) n h.lanes)
    vtype := typeOf (ws.getD 5 0), vl := imgHeader ws 6 0 24, vstart := imgHeader ws 6 32 24
    fcr := (ws.getD 7 0).extractLsb' 0 10, fflags := (ws.getD 8 0).extractLsb' 0 5, kvstart := ws.getD 9 0, instret := ws.getD 10 0
    loops := Vector.ofFn (fun k => parseLoop ws k.val (h.loops.get k).changes), active := parseActive ws
    q0 := part ws 1024 (imgHeader ws 12 32 5), owed := 0, q1 := part ws 1152 (imgHeader ws 12 40 5), lq := part ws 1280 (imgHeader ws 12 48 4)
    tlre := dwAt ws 1408, tlit := dwAt ws 1416, tlkv := dwAt ws 1432, tlxc := dwAt ws 1440, tlln := dwAt ws 1448
    kv := Vector.ofFn (fun i => ⟨dwAt ws (1472 + 8 * i.val), 0, 0xFFFFFFFF⟩)
    slotsLn := Vector.ofFn (fun i => (dwAt ws (6272 + 16 * i.val), (dwAt ws (6280 + 16 * i.val)).extractLsb' 0 8))
    threads := parseThreads ws, lib := if ws.getD 14 0 == 0 then none else some (ws.getD 13 0, ws.getD 14 0)
    arming := if (ws.getD 12 0).getLsbD 20 then some ((ws.getD 12 0).extractLsb' 16 4) else none
    mbound := (ws.getD 12 0).getLsbD 1, hbound := (ws.getD 12 0).getLsbD 8, xbound := (ws.getD 12 0).getLsbD 15
    xst := { last := (ws.getD 16 0).extractLsb' 48 4, aborts := imgHeader ws 16 32 16, revn := (ws.getD 16 0).extractLsb' 0 32, top := 0 }
    wins := Vector.replicate 8 Window.clear, reOps := [], ahead := [], itOps := [], xops := [], stream := [], pulls := [], drawn := none
    iters := Vector.ofFn (fun i => parseStack ws (BitVec.ofNat 2 i.val))
    trap := { h.trap with pc := ws.getD 4 0, point := ws.getD 4 0, pp := false, lt := false, seq := ws.getD 11 0, redeliver := [], atEnd := false } }

/-- Window i of the image is reopened: one RE operation rebuilds what it holds, of a stream window the rows still to be
consumed (R175). Rows without a record come in slab order, the last first where the window moves down (log 54). -/
def rebuildWin (w : Who) (ws : List Word) (i : WinNum) (win : Window) (u : Nat) (s : State) : State :=
  let h := s.hart w
  let box := win.heldBox h.ctr
  let down := (dimsOf win).any (fun d => win.k d != 15 && win.step d < 0)
  let rows := (parseRows ws i win).getD (if down then (rowsOf win box).reverse else rowsOf win box)
  let slabs := if win.strm && rows.isEmpty then [] else [box]
  { (s.modHart w (fun h => (h.setWin i { win with unit0 := u }).pushRe none s.nextId 0 i .rebuild [] slabs
      (if win.strm then rows else []) none)).zeroNear w u win.alloc with
    nextId := s.nextId + 1 }

/-- Windows reopened one after another; none where one no longer fits (R175). -/
def reopen (w : Who) (ws : List Word) : List WinNum → State → Option State
  | [], s => some s
  | i :: is, s =>
    let h := s.hart w
    let win := parseWin ws i
    if !win.isOpen then reopen w ws is (s.modHart w (fun h => h.setWin i win))
    else
      let fits := !badFit win h.lanes && (!win.gather || win.strm || win.tiles.length ≤ win.tileCap h.lanes)
      match (if fits then freeRun (s.unitsUsed w false) (s.core w.core).scratchSize win.alloc else none) with
      | none => none
      | some u => reopen w ws is (rebuildWin w ws i win u s)

/-- The scoreboard has an entry for each window that the image reopens, in place of those of the hart (R162, R163). -/
def loadRoom (s : State) (w : Who) (ws : List Word) : Bool :=
  let k := (s.core w.core).setHart w.hart { s.hart w with reOps := [], pulls := [] }
  k.scoreboard + (allWins.filter (fun i => (parseWin ws i).isOpen)).length ≤ 64

/-- The kind of a matrix word. -/
def mxKindOf (w : Insn) : MxKind :=
  match fnOf w with
  | 0 => .lds | 1 => .ldsv | 2 => .swap | 3 => .zero | 8 | 9 => .rowStream | 10 => .wait | _ => .row

/-- A matrix operation from its replay record. -/
def mxOfRec (w : Who) (h : Hart) (stamp : Nat) (r : TailRec) : MxOp :=
  let word := r.insn
  let k := mxKindOf word
  let spare := r.body.getD 2 0
  let operand := (r.body.drop 3).take 64
  { MxOp.plain k word w with
    tag := ⟨r.num, 0, r.held, stamp⟩, accumulate := fnOf word == 5 || fnOf word == 7 || fnOf word == 9
    row := if k == .lds then 0 else BitVec.ofNat 4096 (natOfWords operand), mask := BitVec.ofNat 256 (natOfWords ((r.body.drop 67).take 4))
    k := spare.extractLsb' 0 8, vd := word.extractLsb' 21 5, lmul := if bitsOf spare 8 4 == 0 then lmulOf h.vtype else bitsOf spare 8 4
    ta := spare.getLsbD 12, closed := spare.getLsbD 13
    win := if k == .lds then word.extractLsb' 21 3 else if k == .rowStream then word.extractLsb' 16 3 else 0
    corner := if k == .lds then (operand.take (h.win (word.extractLsb' 21 3)).d).map BitVec.toInt else []
    lo := if k == .lds then (operand.getD 16 0).toNat else 0, hi := if k == .lds then (operand.getD 17 0).toNat else 0 }

/-- An XSEND or XRECV from its replay record. -/
def xOfRec (h : Hart) (stamp : Nat) (r : TailRec) : XOp :=
  let cap : Capture := { pc := h.pc, vtype := h.vtype, vl := h.vl, epoch := h.epoch, xs := [], start := 0, num := none, arm := none, began := false, grp := [] }
  let o := XOp.plain (if r.kind == 2 then .send else .recv) r.insn (r.body.getD 2 0) cap
  if r.kind == 2 then
    { o with tag := ⟨r.num, 0, r.held, stamp⟩, bytes := ((r.body.drop 3).flatMap (fun x => bytesOf 8 x.toNat)).take (r.bytes - 32) }
  else
    { o with
      tag := ⟨r.num, 0, r.held, stamp⟩, vd := r.insn.extractLsb' 21 5
      vtype := if r.body.length ≤ 3 then h.vtype else typeOf (r.body.getD 3 0), vl := if r.body.length ≤ 3 then h.vl else bitsOf (r.body.getD 4 0) 0 24 }

/-- The first recorded instruction of its word that has no record yet takes the number, the output and the registers of a
record. A group that ATTN would put back is the one that it finds. -/
def attachRec (h : Hart) (r : TailRec) : List (Issued × Bool) → List (Issued × Bool)
  | [] => []
  | (e, had) :: l =>
    if had || e.word != r.insn then (e, had) :: attachRec h r l
    else
      let xs := r.body.drop 2
      let n := if r.num == 0 then none else some r.num
      let cap := { e.cap with
        num := n, arm := if n.isNone || isPull e.word then r.held else none
        xs := if capsChanges e.word then
            xs.zipIdx.map (fun x => if x.2 < 8 then x.1 else x.1 + wn (h.loops.toList.getD (x.2 - 8) LoopCtr.zero).changes) else xs
        grp := if isAttn e.word then groupBits h (e.word.extractLsb' 21 5) (2 * e.cap.lmul) else [] }
      ({ e with cap := cap, held := if n.isNone || isPull e.word then none else r.held }, true) :: l

/-- The ATTN or ATTNC of a record that has started (R243). -/
def attnOfRec (h : Hart) (r : TailRec) : Issued :=
  let t := typeOf (r.body.getD 2 0)
  { word := r.insn, seq := h.nextSeq, held := none, stamp := 0, snap := h.snap [], adv := none
    cap := { pc := h.pc, vtype := t, vl := (r.body.getD 3 0).toNat, epoch := h.epoch, xs := r.body.drop 4, start := 0
             num := some r.num, arm := none, began := false, grp := groupBits h (r.insn.extractLsb' 21 5) (2 * lmulOf t) } }

/-- A record of a started ATTN, and one of a command that stands at its engine. -/
def TailRec.isAttn (r : TailRec) : Bool := r.kind == 5 && Machine.isAttn r.insn && r.num != 0 && r.held.isNone
def TailRec.isCommand (r : TailRec) : Bool :=
  let m := majorOf r.insn
  let f := fnOf r.insn
  r.kind == 5 && ((m == 0x30 && 3 ≤ f && f ≤ 6 && r.num != 0) || (m == 0x34 && (f == 13 || f == 15) && r.num != 0) ||
    (m == 0x30 && f == 8 && r.body.length == 3) || m == 0x3A)

/-- A command stands at its engine again, held where it was (R265). A launch is one that the pool still has, or enters it. -/
def commandOf (w : Who) (s : State) (r : TailRec) : State :=
  let word := r.insn
  let tag : OpTag := ⟨r.num, 0, r.held, s.nextId⟩
  let s1 : State := { s with nextId := s.nextId + 1 }
  if majorOf word == 0x3A then
    let h := s.hart w
    if s.pool.any (fun c => c.isOf w && c.tag.num == r.num) then s
    else
      { s1 with pool := s.pool ++ [{
          id := s.nextId, parent := w, parentLaunch := h.launch.getD 0, word := word, num := wn r.num, tag := tag, depth := h.depth + 1
          packet := r.body.drop 2, launch := none, ready := none, promoted := false, asked := [], away := none }] }
  else if majorOf word == 0x34 then
    s1.modHart w (fun h => { h with itOps := h.itOps ++ [⟨tag, word.extractLsb' 21 2, fnOf word == 13⟩] })
  else if fnOf word == 8 then
    s1.modHart w (fun h =>
      let cap : Capture := { pc := h.pc, vtype := h.vtype, vl := h.vl, epoch := h.epoch, xs := [], start := 0, num := some r.num, arm := none, began := false, grp := [] }
      { h with pulls := h.pulls ++ [⟨⟨word, cap, 0, none, s.nextId, h.snap [], none⟩, r.num, none, none, some (word.extractLsb' 21 3),
          List.replicate (r.body.getD 2 0).toNat ⟨0, 0, none, false, []⟩, false, true, ⟨[], [], none⟩⟩] })
  else
    let kind : ReKind := match fnOf word with
      | 3 => .deliver | 4 => .close | 5 => .flush | _ => .drop
    s1.modHart w (fun h =>
      let ops := h.reOps ++ [⟨tag, word.extractLsb' 21 3, kind, [], [], [], none, none, 0, kind == .close || kind == .drop⟩]
      { h with reOps := ops.filter (fun o => o.kind != .rebuild) ++ ops.filter (fun o => o.kind == .rebuild) })

/-- A recorded instruction of the image, with what the controller keeps of it. -/
def mergeIssued (old : List Issued) (e : Issued × Nat) : Issued :=
  match old[e.2]? with
  | some o => if o.word == e.1.word then { e.1 with seq := o.seq, stamp := o.stamp, snap := o.snap, cap := { e.1.cap with pc := o.cap.pc, epoch := o.cap.epoch, grp := o.cap.grp } } else e.1
  | none => e.1

/-- Insertion of an operation in number order, or in place of the one that stands there for it. -/
def insertMx (o : MxOp) : List MxOp → List MxOp
  | [] => [o]
  | p :: ps => if o.tag.num == p.tag.num then o :: ps else if o.tag.num < p.tag.num then o :: p :: ps else p :: insertMx o ps

/-- The recorded instructions of an image, each with its record, and the ATTN that has started, behind the pulls; `old` is
the hart that the controller keeps beside the image, where it restores it. -/
def streamOf (ws : List Word) (recs : List TailRec) (old : Option Hart) (h : Hart) : List Issued :=
  let l0 := (parseStream ws h).map (fun e => (e, false))
  let l1 := (recs.filter (fun r => r.kind == 4 || (r.kind == 5 && !r.isAttn && !r.isCommand))).foldl (fun l r => attachRec h r l) l0
  let l2 := (l1.map (·.1)).zipIdx.map (mergeIssued ((old.map Hart.recorded).getD []))
  let n := (l2.takeWhile (fun e => isPull e.word && e.cap.num.isSome)).length
  let attn := (recs.filter TailRec.isAttn).map (fun r =>
    let e := attnOfRec h r
    mergeIssued (old.bind Hart.attnAt).toList (e, 0))
  l2.take n ++ attn ++ l2.drop n

/-- Slots of ICTR count the changes of their counter from the next pull's capture on, or from now (R182, R199). -/
def Hart.countSlots (h : Hart) : Hart :=
  { h with iters := h.iters.map (fun st => { st with
      slots := st.slots.map (fun x => if x.kind == .ictr then { x with c := wn (ctrSeen h x.other).2 } else x) }) }

/-- Steps 1 to 5 of R327 on hart w, whose earlier context is discarded; or the reason that fails. -/
def loadImage (w : Who) (ws : List Word) (old : Option Hart) (s : State) : Except Nat State :=
  match loadReason s w ws with
  | some r => .error r
  | none =>
    let recs := (parseTail (ws.getD 15 0).toNat (ws.drop (tailAt (imgLanes ws) / 8))).getD []
    let h0 := s.hart w
    let dead := (h0.xops.filter (fun o => o.kind == .ring)).map (·.rev)
    let s1 := s.modHart w (fun h => { loadScalars ws h with revDead := dead ++ h.revDead })
    let s2 := s1.modCore w.core (fun k => { k with matrix := { k.matrix with
      ops := k.matrix.ops.filter (fun o => o.who != w || o.away)
      queue := k.matrix.queue.filter (fun q => q.who != w) } })
    match reopen w ws allWins s2 with
    | none => .error 3
    | some s3 =>
      let h := s3.hart w
      let n := s3.nextId
      let mx := (recs.filter (fun r => r.kind == 1)).zipIdx.map (fun r => mxOfRec w h (n + r.2) r.1)
      let xs := (recs.filter (fun r => r.kind == 2 || r.kind == 3)).zipIdx.map (fun r => xOfRec h (n + mx.length + r.2) r.1)
      let at' := n + mx.length + xs.length
      let str := streamOf ws recs old h
      let open' := (recs.filter (fun r => 2 ≤ r.kind && r.kind ≤ 4)).map TailRec.num
      let top := ((List.range (h.tlxc.toNat + 1)).reverse.find? (fun n => !open'.contains n)).getD 0
      let h2 : Hart := { h with
        xops := xs
        stream := if old.isSome then str else str.zipIdx.map (fun e => { e.1 with seq := h.nextSeq + e.2, stamp := at' + e.2 })
        nextSeq := h.nextSeq + str.length, xst := { h.xst with top := top } }
      let s4 := { s3.setHart w h2.countSlots with nextId := at' + str.length }
      let s5 := (recs.filter TailRec.isCommand).foldl (commandOf w) s4
      .ok (s5.modCore w.core (fun k => { k with matrix := { k.matrix with ops := mx.foldl (fun l o => insertMx o l) k.matrix.ops } }))

/-- The lane instruction buffers are reloaded from the recorded LIBLD (R82). -/
def reloadBuf (w : Who) (s : State) : Except MemErr State :=
  match (s.hart w).lib with
  | none => .ok (s.loadBufs w [])
  | some (va, n) =>
    match libCheck { s with agent := ⟨w, none⟩ } va n.toNat with
    | .error e => .error e
    | .ok bs => .ok (s.loadBufs w bs)

/-- Reads the image at va for hart w. -/
inductive ReadImage where
  | ok (ws : List Word)
  | bad
  | mem (e : MemErr)

def readImageAt (s : State) (w : Who) (va : Word) : ReadImage :=
  match readWords s w va 32 with
  | .error e => .mem e
  | .ok hd =>
    if headerBad hd then .bad
    else
      match readWords s w va ((hd.getD 1 0).toNat / 8) with
      | .error e => .mem e
      | .ok ws => .ok ws

/-- CONFIG of CTXLOAD: the reason (R327). -/
def loadConfig (r : Nat) (s : State) : Out := raise ⟨.config, wn r, 0⟩ s

/-- What CTXLOAD discards beside what the image replaces: traps still to be raised, and effects still to land. -/
def Hart.discard (h : Hart) : Hart := { h with xpend := [], late := [], lost := none, revDead := (h.xops.filter (fun o => o.kind == .ring)).map (·.rev) ++ h.revDead }

def execCtxload (a : XReg) (s : State) : Out :=
  supOnly (sysWord 0 a 0 2) (fun s =>
    if !s.me.stream.isEmpty then stall .stream s
    else
      let s0 := drainHart s.who s
      match readImageAt s0 s.who (s.x a) with
      | .mem e => raiseMem e 0 s
      | .bad => loadConfig 1 s
      | .ok ws =>
        match loadImage s.who ws none (s0.modMe Hart.discard) with
        | .error r => loadConfig r s
        | .ok s1 =>
          if !loadRoom s0 s.who ws then stall .room s
          else
            match reloadBuf s.who s1 with
            | .error e => raiseMem e 0 s
            | .ok s2 => done s2) s

/-! ### Hard pre-emption (R321 to R324) -/

/-- What an attempt to save a context comes to; a trap may be that of a window's failed write-back. -/
inductive SaveRes where
  | saved (s : State)
  | trap (w : Option WinNum) (t : Trap) (s : State)
  | later
  | bad

/-- A KVXLAT or KVAPP at the head of the stream has started; it completes first (R243, R324). -/
def Hart.mustFinish (h : Hart) : Bool :=
  match h.stream with
  | e :: _ => e.adv.isNone && majorOf e.word == 0x37 && [1, 2, 5].contains (fnOf e.word) && e.cap.num.isSome && e.held.isNone
  | [] => false

/-- A hart slot whose context is saved. -/
def Hart.savedSlot (h : Hart) : Hart :=
  { Hart.reset with
    run := .saved, launch := h.launch, place := h.place, depth := h.depth, pasid := h.pasid, fn := h.fn
    lanes := h.lanes, avail := h.avail, lib := h.lib }

/-- Ring messages that withdrawn XRINGs of hart w had received are on their way to it again (R285). -/
def returnMail (w : Who) (s : State) : State :=
  match s.groupOfHart w with
  | none => s
  | some g =>
    { s with ringMail := (s.hart w).xops.filterMap (fun o => o.arrived.map (fun bs =>
        (w, g, ⟨BitVec.ofNat 12 (chanDev o.pred), chanWho o.pred, o.rev, o.step, bs⟩))) ++ s.ringMail }

/-- The parked members of hart w's gang. -/
def membersOf (s : State) (w : Who) : List CoreId :=
  match (s.hart w).gang with
  | some (m, b) => (gangCores b.val m).drop 1
  | none => []

/-- The stores of hart w whose earlier vector instructions have all retired are performed (R312). -/
def drainSettled (w : Who) (s : State) : State :=
  ((s.storesOf w).filter (fun t => (s.hart w).settled t.seq)).foldl (fun s t => s.performStore t) s

/-- What the launch controller keeps of the context of hart w, which resumes at pc (R323). The request of a NOTPRESENT that an
engine met is the one that stands for the page of TRAPVAL. -/
def savedOf (w : Who) (pc : Word) (s : State) : Saved :=
  let h := s.hart w
  let req := match h.pageReq with
    | some i => some i
    | none => if h.trap.cause == Cause.notPresent.code then s.askedFor w h.trap.val else none
  let ready := if h.sup.why == 1 then
      (match req with
        | some i => !(s.pageReqs ++ s.pageWait).any (fun r => r.id == i)
        | none => true)
    else h.sup.why != 2
  { id := s.nextId, home := w, area := h.sup.ctxPtr, why := h.sup.why, request := if h.sup.why == 1 then req else none
    ready := if ready then some (s.nextId + 1) else none, frame := { h with pc := pc }
    members := (membersOf s w).map (fun c => s.hart ⟨c, 0⟩), stalled := false, landed := [], lnPulses := 0, stores := s.storesOf w }

/-- Hart w leaves its place, its context kept in `sv`: withdrawn operations stay in the unit as incomplete only (R220). -/
def leavePlace (w : Who) (sv : Saved) (s : State) : State :=
  let mem := membersOf s w
  let s1 := (w :: mem.map (fun c => ⟨c, 0⟩)).foldl (fun s w => s.modHart w Hart.savedSlot) (awayOps w (returnMail w s))
  let s2 := s1.modCore w.core (fun k => { k with matrix := { k.matrix with queue := k.matrix.queue.filter (fun q => q.who != w) } })
  let s3 : State := { s2 with
    nextId := s.nextId + 2, saved := s2.saved ++ [sv], replay := if s2.agent.who == w then none else s2.replay
    stores := s2.stores.filter (fun t => t.who != w), pool := s2.pool.map (fun c => if c.isOf w then { c with away := some sv.id } else c) }
  noteReady ((w.core :: mem).foldl (fun s c => releaseUnits c s) s3)

/-- The context of hart w, which resumes at pc, is written to the area at CTXPTR as CTXSAVE writes it, and its place
is freed (R323, R324). -/
def saveContext (w : Who) (pc : Word) (s0 : State) : SaveRes :=
  let s := resubmit w s0
  let h := s.hart w
  if mxStarted s w || h.mustFinish || h.run == .atLoopEnd then .later
  else
    let va := h.sup.ctxPtr
    match areaErr (asSup s w) w va (8 * (imageWords s w pc).length) with
    | some _ => .bad
    | none =>
      match savedBad s w with
      | some t => .trap none t s
      | none =>
        match flushAll w s with
        | .fail i t s' => .trap (some i) t s'
        | .ok s' =>
          let s1 := clearMyLocks w (drainSettled w s')
          let s2 := s1.writeCells (areaCells (asSup s1 w) w va (imageWords s1 w pc))
          .saved (leavePlace w (savedOf w pc s2) s2)

/-- The trap of a save that fails, taken by the hart it runs for (R321). -/
def saveTrap (i : Option WinNum) (t : Trap) (s : State) : State :=
  trapAt t t.cause.squash s.me.pc (match i with
    | some i => s.modMe (fun h => h.clearFailed i)
    | none => s)

/-- A save at hart w's user-mode boundary: a write-back that fails is taken as a trap first (R321). -/
def takeHard (w : Who) (s : State) : State :=
  match saveContext w (s.hart w).pc s with
  | .saved s' => s'
  | .trap i t s' => s'.asHart w (saveTrap i t)
  | _ => s

/-- HARD_PREEMPTION (R322, R323): in user mode, at the next instruction boundary. -/
def execHardPreemption (who : Who) (s : State) : Out :=
  let h := s.hart who
  if !h.alive || !h.hardNow || h.trap.priv || h.run == .idle || h.run == .gangParked then .next s else .next (takeHard who s)

/-- HARD is set by the controller or by LEFT, which set WHY to 0 (R323). -/
def Hart.hardDue (h : Hart) : Hart := { h with sup := { h.sup with hard := true, soft := false, left := 0, why := 0 } }

/-- PREEMPT_LEFT_EXPIRY (R301, R323): LEFT has reached 0, or the time of a victim that holds its place still. -/
def execPreemptLeftExpiry (who : Who) (s : State) : Out :=
  let h := s.hart who
  if h.sup.soft || (h.victim && h.alive) then .next (s.modHart who Hart.hardDue) else .next s

/-- PREEMPT_REQ_WRITE (R310, R323): the current hart's supervisor writes 1 to PREEMPT.REQ. -/
def execPreemptReqWrite (s : State) : Out := if s.me.trap.priv then .next (requestHard s) else .next s

/-- SUPERVISOR_PREEMPT_TIMEOUT (R322): the launch ends as HALT ends it, with the CAUSE of the trap being handled. -/
def execSupervisorPreemptTimeout (who : Who) (s : State) : Out :=
  let h := s.hart who
  match h.launch with
  | some id => if h.alive && h.hardNow && h.trap.priv then .next (endLaunch id 6 h.trap.cause who s) else .next s
  | none => .next s

/-- The hart stalls in LAUNCH, LWAIT, TLWAIT ln or EXIT on its children (R307). -/
def stallsOnChild (s : State) (w : Who) : Bool :=
  match (s.hart w).run with
  | .waiting (.child _) | .waiting (.quota _) => true
  | .waiting .finish => s.pool.any (fun c => c.isOf w)
  | .waiting (.timeline e _) => e == 5
  | _ => false

/-- No free places fit the child of launch l (R307). -/
def childBlocked (s : State) (l : Launch) (c : Child) : Bool :=
  let child : Launch := { Launch.blank s.nextId l.part l.aspace l.pasid l.fn with depth := c.depth, prio := l.prio, pmax := l.pmax }
  match planLaunch s child c.packet with
  | .error _ => false
  | .ok plan => (choosePlaces (fun k => (s.part l.part).hasCore k && (s.core k).isFree) plan.m plan.cpd plan.groups).isNone

/-- PARENT_STALL_SWAP (R307): a child of the launch is ready and the partition has no free place for it; the parent is
swapped out until its wait can end, and its place goes to that child. -/
def execParentStallSwap (who : Who) (s : State) : Out :=
  let h := s.hart who
  match s.launchOf h with
  | none => .next s
  | some l =>
    match s.pool.find? (fun c => c.parentLaunch == l.id && childReady s c && childBlocked s l c) with
    | none => .next s
    | some c =>
      if !h.alive || !stallsOnChild s who || h.trap.priv then .next s
      else
        let s0 := takeHard who (s.modHart who (fun h => { h with sup := { h.sup with hard := true, why := 2 } }))
        let s1 : State := { s0 with saved := s0.saved.map (fun x => if x.home == who && s.nextId ≤ x.id then { x with stalled := true } else x) }
        .next (match s1.pool.find? (fun d => d.id == c.id) with
          | some d => if (s1.hart who).run == .saved && d.launch.isNone then dispatchChild d l true (Config.imageAreas s1.fresh) s1 else s1
          | none => s1)

/-! ### CONTEXT_RESTORE (R302, R323) -/

/-- The core as it stands for a restored hart: a core that the launch's place did not have last is made ready, with
zeroed scratch (R348), and other saved harts of the place keep their slots there. -/
def readyCore (sv : Saved) (l : Launch) (c : CoreId) (s : State) : State :=
  let k := s.core c
  let place := sv.frame.place
  let mine := k.user == some l.id && (l.places.getD place ⟨[], false⟩).cores.contains c
  if mine then s
  else
    let s1 := cleanMarks c (swapOut c l.id s)
    s1.modCore c (fun k =>
      { k with
        harts := Vector.ofFn (fun i =>
          if s.saved.any (fun x => x.id != sv.id && x.frame.launch == some l.id && x.frame.place == place && x.home.hart.val == i.val) then
            sv.frame.savedSlot
          else Hart.reset)
        layout := if sv.frame.gang.isSome then 1 else 32 / sv.frame.avail
        scratchSize := l.zsize, scratch := [], locks := Vector.replicate 32 0, qbufs := Vector.replicate 8 []
        ranges := rangeTable s l.part.toNat sv.frame.sup.rangeBase, user := some l.id })

/-- The hart that an image is loaded onto: what the controller keeps of the saved one. -/
def Hart.forImage (h : Hart) (gang : Option (Nat × CoreId)) : Hart :=
  let b : Hart := { Hart.reset with
    run := .running, launch := h.launch, place := h.place, depth := h.depth, pasid := h.pasid, fn := h.fn, slices := h.slices
    capBase := h.capBase, avail := h.avail, lanes := h.avail, segs := h.segs, gang := gang, revDead := h.revDead, revDone := h.revDone
    ringDrops := h.ringDrops, xpend := h.xpend, lost := h.lost, epoch := h.epoch, nextSeq := h.nextSeq
    loops := h.loops, late := h.late
    sup := { h.sup with hard := false, hardReq := false, soft := false, left := 0, ceilCtrl := 32 }
    trap := { TrapRegs.reset with priv := true } }
  { b with lanes := b.grant }

/-- The restored hart enters the context (R322), with what the controller kept beside the image: children that retired
meanwhile, what KVSTAT reads, and the entries that QPUT has still to drop. -/
def Hart.enterRestored (h : Hart) (sv : Saved) : Hart :=
  sv.landed.foldl (fun h x => h.landChild x.1 x.2)
    { h with
      pc := h.trap.pc, trap := { h.trap with priv := false }, owed := sv.frame.owed
      kv := Vector.ofFn (fun i => { sv.frame.kv.get i with root := (h.kv.get i).root }) }

/-- The saved context runs again at hart w, whose core is ready for it, with its launch's units swapped in (R302); none
where its image is not taken. -/
def resumeAt (sv : Saved) (l : Launch) (w : Who) (s : State) : Option State :=
  let h := sv.frame
  let cores := gangCores w.core.val sv.size
  let s1 := cores.foldl (fun s c => swapIn c l.id (swapOut c l.id (readyCore sv l c s))) s
  let s2 := s1.modHart w (fun _ => h.forImage (h.gang.map (fun g => (g.1, w.core))))
  let s3 := ((cores.drop 1).zip sv.members).foldl (fun s x => s.setHart ⟨x.1, 0⟩ x.2) s2
  match readImageAt s3 w sv.area with
  | .ok ws =>
    if !loadRoom s3 w ws then none
    else
      (match loadImage w ws (some h) s3 with
      | .error _ => none
      | .ok s4 =>
        match reloadBuf w s4 with
        | .error _ => none
        | .ok s5 =>
          let s6 := s5.modHart w (fun h => h.enterRestored sv)
          let s7 : State := { s6 with
            saved := s6.saved.filter (fun x => x.id != sv.id), stores := s6.stores ++ sv.stores.map (fun t => { t with who := w })
            pool := s6.pool.map (fun c => if c.away == some sv.id then { c with away := none, parent := w } else c)
            launches := s6.launches.map (fun x => if x.id == l.id then
              { x with places := x.places.mapIdx (fun i p => if i == h.place then { p with cores := cores } else p) } else x) }
          let s8 := cores.foldl (fun s c => claimHarness c l.id s) s7
          some (noteReady ((List.range sv.lnPulses).foldl (fun s _ => s.pulseOp w 5) s8)))
  | _ => none

/-- CONTEXT_RESTORE: a ready context returns to its hart number on a free core of its partition, or on the core where
other harts of its place are; on its own core where it is bound to one. A free place it takes in its turn; where none is
left for it, the victims that would give it one are pre-empted first (R301, R302, R323). -/
def execContextRestore (saved : Nat) (who : Who) (s : State) : Out :=
  match s.saved.find? (fun x => x.id == saved) with
  | none => .next s
  | some sv =>
    match s.launches.find? (fun l => sv.frame.launch == some l.id) with
    | none => .next s
    | some l =>
      if sv.ready.isNone || who.hart != sv.home.hart || !spotOk s sv l who.core then .next s
      else
        let holders := spotHolders s sv l who.core
        if holders.isEmpty then
          if spotIsPlace s sv who.core && !isNext s l.part (.context sv.id) then .next s
          else .next ((resumeAt sv l who s).getD s)
        else if isNext s l.part (.context sv.id) then
          .next (match contextVictims s sv l with
            | some vs => preemptVictims vs s
            | none => s)
        else .next s

end Sys2Proof.Machine
end

