-- ==== Sys2Proof/Machine/System.lean ====
section
/-!
DEFINITION. The remaining members of SYS (R316 to R320, R333), YIELD (R73, R322), and the events of R55, R68, R318 and
R334 that act on a hart.
-/

namespace Sys2Proof.Machine

/-! ### TRET (R316) and the re-deliveries that it queues (R169) -/

/-- The elements of a window that the TRET to p delivers again: those whose tags were raised at p, and those still
tagged. -/
def redeliverPoints (h : Hart) (p : Word) (w : WinNum) : List (List Int) :=
  let raised := (h.trap.redeliver.filter (fun r => r.1 == w && r.2.1 == p)).map (fun r => r.2.2)
  if raised.isEmpty || !(h.win w).isOpen then []
  else (raised ++ ((h.win w).slots.filter (fun q => q.2.tag.isSome)).map (·.1)).eraseDups

def redeliverWin (p : Word) (s : State) (w : WinNum) : State :=
  match redeliverPoints s.me p w with
  | [] => s
  | pts => { s.modMe (fun h => h.pushRe none s.nextId h.nextSeq w .redeliver [] [boundBox pts] pts none) with nextId := s.nextId + 1 }

/-- TRET's re-deliveries, one operation for each window. -/
def redeliverAll (p : Word) (s : State) : State :=
  (allWins.foldl (redeliverWin p) s).modMe (fun h =>
    { h with trap := { h.trap with redeliver := h.trap.redeliver.filter (fun r => r.2.1 != p) } })

/-- The instruction counts as retired; the resume address is not the next word (R80, R316). -/
def countOne (s : State) : State := s.modMe (fun h => { h with instret := h.instret + 1 })

/-- TRET: it waits for the handler's own vector instructions, and for scoreboard entries that its re-deliveries need. A
failed write-back that an advance of its check meets is taken as a trap. What CTXSAVE withdrew is resubmitted on the way
back to user mode (R325). -/
def execTret (s : State) : Out :=
  supOnly (sysWord 0 0 0 0) (fun s =>
    if !s.me.stream.isEmpty then stall .stream s
    else
      let r := tretResume (countOne s)
      if r.me.trap.seq != s.me.trap.seq then .next r
      else
        let n := (allWins.filter (fun w => !(redeliverPoints r.me r.me.pc w).isEmpty)).length
        if 64 < s.myCore.scoreboard + n then stall .room s
        else
          let r1 := redeliverAll r.me.pc r
          .next (if s.me.trap.pp then r1 else resubmit r1.who r1)) s

/-! ### Pre-emption points in supervisor mode (R322): YIELD and WFE -/

/-- The user context is saved at the address at which TRET would resume it, after the check that TRET would run; the supervisor
bank is discarded. A failed write-back is taken as a trap at that boundary first (R321, R322). A context at a loop's end whose
check still waits for scoreboard entries is left there in user mode, and saved once the check has run. -/
def preemptInSup (s : State) : Out :=
  if !s.me.stream.isEmpty then stall .stream s
  else
    let r0 := tretResume (countOne s)
    let r := if r0.me.run == .atLoopEnd then arrive r0.me.pc r0 else r0
    if r.me.trap.seq != s.me.trap.seq || r.me.run == .atLoopEnd then .next r
    else
      match saveContext r.who r.me.pc r with
      | .saved s' => .next s'
      | .trap i t s' => .next (saveTrap i t s')
      | .later => stall .stream s
      | .bad => done s

/-- A soft pre-emption that YIELD satisfies is taken as a hard one. -/
def Hart.yields (h : Hart) : Hart := if h.sup.soft then h.hardDue else h

/-- YIELD (R73, R322): a pending pre-emption is taken at the boundary after it. -/
def execYield (s : State) : Out :=
  if !(s.me.hardNow || s.me.sup.soft) then done s
  else
    let s1 := s.modMe Hart.yields
    if s1.me.trap.priv then preemptInSup s1 else done s1

/-- WFE (R318). -/
def execWfe (s : State) : Out :=
  let n := s.me.q1.length + s.me.lq.length
  if s.me.hardNow && s.me.trap.priv then preemptInSup s
  else if s.me.hardNow || s.me.sup.soft then done s
  else
    match s.me.run with
    | .waiting (.event woken k) => if woken || k < n then done s else stall (.event false k) s
    | _ => stall (.event false n) s

/-- WFE_TIMEOUT (R318): 4,096 cycles have passed. -/
def execWfeTimeout (who : Who) (s : State) : Out :=
  match (s.hart who).run with
  | .waiting (.event _ _) => .next (s.asHart who finish)
  | _ => .next s

/-! ### HALT, CAPRD (R319, R320) -/

/-- HALT (R320): the record carries FAULTED with TRAPCAUSE. -/
def execHalt (s : State) : Out :=
  supOnly (sysWord 0 0 0 6) (fun s =>
    if !s.me.stream.isEmpty then stall .stream s
    else
      match s.me.launch with
      | some id => .next (endLaunch id 6 s.me.trap.cause s.who s)
      | none => done s) s

/-- CAPRD (R319). -/
def execCaprd (d : XReg) (a : XReg) (s : State) : Out :=
  let o := s.x a
  if o &&& 7 != 0 then raise ⟨.misalign, o, 0⟩ s
  else writeX d ((s.capWords (s.partOf s.me)).getD (o.toNat / 8) 0) s

/-! ### XLINV, XLINVA (R333) -/

/-- The range table of a core, as its launch controller would cache it now. -/
def freshRanges (s : State) (c : CoreId) : Option (BitVec 10 × List (List Word)) :=
  match (allHarts.map (s.core c).hart).find? (fun h => h.launch.isSome) with
  | some h => some (h.sup.aspace, rangeTable s (s.partOf h).toNat h.sup.rangeBase)
  | none => none

/-- A cached walk that covers va. -/
def walkCovers (va : Nat) (x : BitVec 10 × Nat × Word) : Bool := x.2.1 == va / 2 ^ (12 + 9 * (x.2.2.toNat >>> 62))

/-- One core drops what it caches for va in address space a, or in every address space. -/
def dropOn (va : Nat) (a : Option (BitVec 10)) (s : State) (c : CoreId) : State :=
  let mine (x : BitVec 10) : Bool := a.all (· == x)
  let ranges := match freshRanges s c with
    | some f =>
      if mine f.1 then ((s.core c).ranges.zip f.2).map (fun r => if rangeHit va r.1 || rangeHit va r.2 then r.2 else r.1)
      else (s.core c).ranges
    | none => (s.core c).ranges
  s.modCore c (fun k => { k with ranges := ranges, walks := k.walks.filter (fun x => !(mine x.1 && walkCovers va x)) })

/-- One core drops every cached walk and reloads its range cache. -/
def reloadOn (s : State) (c : CoreId) : State :=
  s.modCore c (fun k => { k with walks := [], ranges := match freshRanges s c with
    | some f => f.2
    | none => k.ranges })

/-- The cores of the executing hart's partition. -/
def State.partCores (s : State) : List CoreId := allCores.filter (s.part (s.partOf s.me)).hasCore

def execXlinv (a : XReg) (b : XReg) (s : State) : Out :=
  supOnly (sysWord 0 a b 3) (fun s =>
    fullFence (fun s =>
      let sel := if (s.x b).getLsbD 63 then none else some ((s.x b).extractLsb' 0 10)
      done (s.partCores.foldl (dropOn (s.x a).toNat sel) s)) s) s

def execXlinva (s : State) : Out :=
  supOnly (sysWord 0 0 0 4) (fun s => fullFence (fun s => done (s.partCores.foldl reloadOn s)) s) s

/-! ### Reserved words, loop ends, LCNT writes, SRAM errors -/

/-- RESERVED_WORD (R55). -/
def execReservedWord (w : Insn) (s : State) : Out := illegal w s

/-- LOOP_WRAP (R68, R163): the back-edge check of a hart that stopped at a loop's end for scoreboard entries. -/
def execLoopWrap (who : Who) (s : State) : Out :=
  if (s.hart who).run == .atLoopEnd then .next (s.asHart who (fun s => arrive s.me.pc s)) else .next s

/-- LCNT_WRITE (R70): counter k of the current hart takes v, and its windows advance by the change. -/
def execLcntWrite (k : CtrNum) (v : Word) (s : State) : Out :=
  if (s.me.loop k).cnt == v then .next s
  else
    match setCounter k v s.me.pc false s with
    | .full s => stall .room s
    | .fail w t => raiseFailed w t s
    | .done s' => .next s'

/-- MEMORY_DOUBLE_ERROR (R334): the granule is marked until a write replaces it. -/
def execMemoryDoubleError (site : ErrorSite) (s : State) : Out :=
  .next (if s.bad.contains site then s else { s with bad := s.bad ++ [site] })

/-- SINGLE_BIT_ERROR (R334): corrected, and counted for the host. -/
def execSingleBitError (_site : ErrorSite) (s : State) : Out := .next { s with corrected := s.corrected + 1 }

end Sys2Proof.Machine
end

