-- ==== Sys2Proof/Machine/Host.lean ====
section
/-!
DEFINITION. The host side: host-visible registers (R338, R342), page responses and ATS (R339 to R342), resets and power
(R341, R353, R354), partitions, tenants and pages (R345 to R348), attestation (R349 to R351).
-/

namespace Sys2Proof.Machine

/-! ### Host-visible registers (R338, R342) -/

def setReg' (l : List (Nat × BitVec 32)) (a : Nat) (v : BitVec 32) : List (Nat × BitVec 32) :=
  if l.any (fun r => r.1 == a) then l.map (fun r => if r.1 == a then (a, v) else r) else l ++ [(a, v)]

/-- Waiting page requests of a function take free groups, oldest first (R340). -/
def servePages (fn : BitVec 6) : List PageReq → State → State
  | [], s => s
  | r :: rs, s =>
    if r.fn != fn || s.pageFail.contains fn then servePages fn rs s
    else
      let used := (s.pageReqs.filter (fun q => q.fn == fn)).map (fun q => q.group.toNat)
      match (List.range 256).find? (fun g => !used.contains g) with
      | none => s
      | some g =>
        servePages fn rs { s with
          pageReqs := s.pageReqs ++ [{ r with group := BitVec.ofNat 8 g }], pageWait := s.pageWait.filter (fun q => q.id != r.id) }

/-- The registers of BAR0 that act beyond being stored: the driver clears a page request failure, sets DEV, or sets the power
cap within its range (R340, R353, R354). -/
def bar0Acts (offset : BitVec 26) (value : BitVec 32) (s : State) : State :=
  let s1 := match Config.clearsFailure offset value with
    | some f => servePages f s.pageWait { s with pageFail := s.pageFail.filter (· != f) }
    | none => s
  let s2 : State := match Config.setsDev offset value with
    | some d => { s1 with dev := d }
    | none => s1
  match Config.setsCap offset value with
  | some n => if 1200 ≤ n && n ≤ 2400 then { s2 with powerCap := n } else s2
  | none => s2

/-- The function whose PRIQ stands at an offset of BAR0 (R342). -/
def priqOf (offset : BitVec 26) : Option (BitVec 6) :=
  if 0x400 ≤ offset.toNat && offset.toNat < 0x600 then some (BitVec.ofNat 6 ((offset.toNat - 0x400) / 8)) else none

/-- DROPPED of function fn is cleared (R342). -/
def clearDropped (fn : BitVec 6) (s : State) : State := { s with pageDrops := s.pageDrops.filter (fun d => d.1 != fn) }

/-- REGISTER_WRITE (R338): byte 0 of a queue's page in BAR2 is its doorbell and byte 8 its completion head, and a write to
any other byte there is dropped. PF 0 alone has BAR0, which stores; a write to the lower half of a PRIQ clears DROPPED, and
its upper half takes none (R342). -/
def execRegisterWrite (fn : BitVec 6) (bar : Bar) (offset : BitVec 26) (value : BitVec 32) (s : State) : Out :=
  match bar with
  | .bar2 =>
    let q := BitVec.ofNat 14 (offset.toNat / 4096)
    if offset.toNat % 4096 == 0 then execDoorbell fn q value s
    else if offset.toNat % 4096 == 8 then execCompletionHead fn q value s
    else .next s
  | .bar0 =>
    if fn != 0 || s.power == .d3cold then .next s
    else
      match priqOf offset with
      | some f => .next (if offset.toNat % 8 == 0 then clearDropped f s else s)
      | none => .next (bar0Acts offset value { s with bar0 := setReg' s.bar0 offset.toNat value })

/-- PRIQ_WRITE (R342): DROPPED of function fn is cleared. -/
def execPriqWrite (fn : BitVec 6) (s : State) : Out :=
  .next (clearDropped fn s)

/-- QUAR and DROPPED as PRIQ reports them (R342). -/
def State.priq (s : State) (fn : BitVec 6) : Word :=
  wn ((s.pageReqs.filter (fun r => r.fn == fn && r.quarantined)).length * 2 ^ 32 + (s.pageDrops.lookup fn).getD 0)

/-- What a read of a register returns: 0 everywhere in BAR2; in BAR0 of PF 0 the PRIQs, the status of a failed device, and
what was stored (R338, R342, R353). -/
def State.barRead (s : State) (fn : BitVec 6) (bar : Bar) (offset : BitVec 26) : BitVec 32 :=
  match bar with
  | .bar2 => 0
  | .bar0 =>
    if fn != 0 then 0
    else
      match priqOf offset with
      | some f => (s.priq f).extractLsb' (if offset.toNat % 8 < 4 then 0 else 32) 32
      | none =>
        match s.sage.failed with
        | some f => if offset == Config.statusOffset then Config.statusWord f.1 f.2 else (s.bar0.lookup offset.toNat).getD 0
        | none => (s.bar0.lookup offset.toNat).getD 0

/-! ### PAGE_RESPONSE (R323, R340 to R342) -/

/-- A dropped response is counted, up to 2^32 - 1. -/
def countDrop (l : List (BitVec 6 × Nat)) (fn : BitVec 6) : List (BitVec 6 × Nat) :=
  if l.any (fun d => d.1 == fn) then l.map (fun d => if d.1 == fn then (fn, min (d.2 + 1) (2 ^ 32 - 1)) else d) else l ++ [(fn, 1)]

/-- What a response leaves for the translations to come. -/
def answered (r : PageReq) (code : PageCode) (s : State) : State :=
  match code with
  | .success =>
    { s with
      grants := if s.grants.contains ⟨r.fn, r.pasid, r.page, r.wr⟩ then s.grants else s.grants ++ [⟨r.fn, r.pasid, r.page, r.wr⟩]
      refused := s.refused.filter (· != (r.fn, r.page)) }
  | .invalidRequest => { s with refused := if s.refused.contains (r.fn, r.page) then s.refused else s.refused ++ [(r.fn, r.page)] }
  | .responseFailure =>
    { s with
      refused := if s.refused.contains (r.fn, r.page) then s.refused else s.refused ++ [(r.fn, r.page)]
      pageFail := if s.pageFail.contains r.fn then s.pageFail else s.pageFail ++ [r.fn] }

/-- A page is refused a second time: the launches of the contexts that waited for it end FAULTED, with the CAUSE of the
refused trap (R340). -/
def endRefused (r : PageReq) (s : State) : State :=
  (s.saved.filter (fun x => x.request == some r.id)).foldl (fun s x =>
    match x.frame.launch with
    | some id => endLaunch id 6 x.frame.trap.cause x.home s
    | none => s) s

/-- Queues whose packet waits for a page are read again. -/
def refetch (s : State) : State := noteReady (s.queues.foldl (fun s q => fetchHead q.num s) s)

def execPageResponse (fn : BitVec 6) (group : BitVec 8) (code : PageCode) (s : State) : Out :=
  match s.pageReqs.find? (fun r => r.fn == fn && r.group == group) with
  | none => .next s
  | some r =>
    let s1 : State := { s with pageReqs := s.pageReqs.filter (fun q => !(q.fn == fn && q.group == group)) }
    if r.quarantined then .next (servePages fn s1.pageWait { s1 with pageDrops := countDrop s1.pageDrops fn })
    else
      let twice := code != .success && s.refused.contains (r.fn, r.page)
      let s2 := answered r code (if twice then endRefused r s1 else s1)
      let s3 : State := { s2 with
        nextId := s2.nextId + 1
        saved := s2.saved.map (fun x => if x.request == some r.id then { x with ready := some s2.nextId } else x) }
      .next (refetch (servePages fn s3.pageWait s3))

/-! ### ATS_INVALIDATION (R339) -/

/-- A queued store that went through the translation. -/
def usesPage (s : State) (fn : BitVec 6) (pasid : BitVec 20) (page : Nat) (t : PStore) : Bool :=
  (s.hart t.who).fn == fn && (s.hart t.who).pasid == pasid && t.cells.any (fun c => c.1 / 4096 == hostKey (page * 4096) / 4096)

/-- It completes once every access that used the translation is performed: stores of the harts that have one queued
are performed first, and it waits while one of them stands behind a vector instruction. -/
def execAtsInvalidation (fn : BitVec 6) (pasid : BitVec 20) (page : BitVec 52) (s : State) : Out :=
  let users := ((s.stores.filter (usesPage s fn pasid page.toNat)).map (·.who)).eraseDups
  let theirs := s.stores.filter (fun t => users.contains t.who)
  if !theirs.all (fun t => (s.hart t.who).settled t.seq) then .next s
  else
    let s1 := theirs.foldl (fun s t => s.performStore t) s
    let gone (g : AtsGrant) : Bool := g.fn == fn && g.pasid == pasid && g.page == page.toNat
    .next { s1 with grants := s1.grants.filter (fun g => !gone g), atsCache := s1.atsCache.filter (fun g => !gone g) }

/-! ### Reset (R341, R353) and power (R354) -/

/-- Sage refuses firmware image n: its key is not the fused one, its signature does not verify, or its version lies below
the anti-rollback counter (R349). -/
def imageRefused (rollback n : Nat) : Bool :=
  Config.shake256 (Config.imageKey n) != Config.fusedKeyHash || !Config.signedBy (Config.imageKey n) n || Config.imageVersion n < rollback

/-- Where the sequence of R353 stops, and the reason: the number of the image refused at step 3, or what is free (log 21). -/
def resetFails (rollback fresh : Nat) : Option (Nat × Nat) :=
  match Config.resetFailure fresh with
  | some (1, r) => some (1, r)
  | some (2, r) => some (2, r)
  | r =>
    match (List.range 3).find? (imageRefused rollback) with
    | some n => some (3, n)
    | none => r

/-- The device as a cold or hot reset leaves it: what R353 initialises is as at reset; the host's and other devices'
memory, what the host would grant, the fuses and the signing counter stay. -/
def resetDevice (s : State) : State :=
  { State.reset with
    mem := s.mem.filter (fun c => 2 ^ 60 ≤ c.1), nextId := s.nextId, grants := s.grants
    msix := ⟨s.msix.masked, [], s.msix.sent⟩
    sage := { State.reset.sage with nextIndex := s.sage.nextIndex, rollback := s.sage.rollback, failed := resetFails s.sage.rollback s.fresh }
    agenda := s.agenda, fresh := s.fresh + 1 }

/-- COLD_RESET (R353). -/
def execColdReset (s : State) : Out := .next (resetDevice s)

/-- A hot reset: a cold reset from step 1, every key slot erased. It needs power (R353, R354). -/
def hotReset (s : State) : State := if s.power == .d3cold then s else { resetDevice s with tenants := [], owners := [] }

/-- HOT_RESET (R353). -/
def execHotReset (s : State) : Out := .next (hotReset s)

/-- The function's launches end without records, those whose record still waits among them, and count as retired (R341). -/
def dropFunction (fn : BitVec 6) (s : State) : State :=
  let mine (q : BitVec 14) : Bool := s.queues.any (fun r => r.num == q && r.fn == fn)
  let ids := (s.launches.filter (fun l => l.queue.any mine)).map (·.id)
  let s1 := ids.foldl (fun s i => dropLaunch i (endLaunch i 7 0 proxy s)) s
  { s1 with
    transfers := s1.transfers.filter (fun t => !mine t.queue), atsCache := s1.atsCache.filter (fun g => g.fn != fn)
    refused := s1.refused.filter (fun r => r.1 != fn), pageWait := s1.pageWait.filter (fun r => r.fn != fn)
    pageReqs := s1.pageReqs.map (fun r => if r.fn == fn then { r with quarantined := true } else r)
    queues := s1.queues.map (fun q => if q.fn == fn then
      { q with head := q.tail, pkt := none, ready := none, wants := none, promoted := false, asked := [], open' := [], records := [] } else q) }

/-- FUNCTION_LEVEL_RESET (R341); of PF 0 it is a hot reset (R353). -/
def execFunctionLevelReset (fn : BitVec 6) (s : State) : Out :=
  if fn == 0 then .next (hotReset s) else .next (noteReady (dropFunction fn s))

/-- The capabilities of a function; every other is absent (R337). -/
def functionCaps (fn : BitVec 6) : List PciCap :=
  [.pasid, .ats, .pri, .atomicOp, .msix, .flr] ++ (if fn == 0 then [.sriov, .doe] else [])

/-- Its number in the free layout of configuration space. -/
def PciCap.code : PciCap → Nat
  | .sriov => 0 | .pasid => 1 | .ats => 2 | .pri => 3 | .atomicOp => 4 | .msix => 5 | .doe => 6 | .flr => 7

/-- What a function's configuration space answers at an offset (R337; its layout is free, log 22). -/
def configReply (fn : BitVec 6) (offset : BitVec 12) : ConfigReply :=
  ⟨fn, offset, (functionCaps fn).find? (fun c => Config.capabilityOffset fn c.code == offset), Config.configWord fn offset⟩

/-- CONFIG_REQUEST (R337, R353): answered from step 4 on; a failed device shows PF 0 only. -/
def execConfigRequest (fn : BitVec 6) (offset : BitVec 12) (s : State) : Out :=
  if s.power == .d3cold || (s.sage.failed.isSome && fn != 0) then .next s
  else .next { s with config := s.config ++ [configReply fn offset] }

/-- POWER_STATE_CHANGE (R354): D3hot needs a device without launches and keeps memory; D3cold loses the contents, and a
cold reset leads back. -/
def execPowerStateChange (target : Power) (s : State) : Out :=
  match target, s.power with
  | .d0, .d3cold => .next (resetDevice s)
  | .d0, _ => .next { s with power := .d0 }
  | .d3hot, .d0 => if s.launches.isEmpty && s.transfers.isEmpty then .next { s with power := .d3hot } else .next s
  | .d3hot, _ => .next s
  | .d3cold, .d3cold => .next s
  | .d3cold, _ => .next { resetDevice s with power := .d3cold }

/-! ### Tenants, pages and partitions (R345 to R348) -/

/-- Prozen runs. -/
def State.up (s : State) : Bool := s.sage.failed.isNone && s.power == .d0

def tenantMask (ptRoot rangeBase trapVec : Word) : Word × Word × Word :=
  (ptRoot &&& 0x000FFFFFFFF00000, rangeBase &&& 0x000FFFFFFFFFF800, trapVec &&& ~~~(3 : Word))

/-- TENANT_CREATE (R347): one tenant lives in an address space at a time. -/
def execTenantCreate (tenant : BitVec 10) (part : BitVec 4) (ptroot rangeBase trapVec capBase : Word) (s : State) : Out :=
  if !s.up || (s.tenant tenant).live then .next s
  else
    let m := tenantMask ptroot rangeBase trapVec
    .next { s with tenants := s.tenants.filter (fun t => t.1 != tenant) ++ [(tenant, ⟨true, part, m.1, m.2.1, m.2.2, capBase⟩)] }

/-- What the bytes of a page read as once its key is erased (R347; log 5). -/
def scramble (seed : Nat) (s : State) (page : Nat) : State :=
  s.writeCells ((List.range 4096).map (fun i => (page * 4096 + i, Config.erasedByte (seed * 2 ^ 64 + page * 4096 + i))))

/-- The device memory that a tenant's page tables map: the place and the size of each leaf (R328). Tables are read as they
stand, entry by entry of what memory lists. -/
def tableMaps (s : State) (part : Nat) : Nat → Nat → List (Nat × Nat)
  | 0, table => leaves 0 table
  | l + 1, table =>
    leaves (l + 1) table ++
      ((entries (l + 1) table).filter (fun e => bitsOf e 3 3 == 0)).flatMap (fun e => tableMaps s part l (bitsOf e 12 40 * 4096))
where
  entries (l table : Nat) : List Word :=
    let a := devKey part table
    let n := if l == 3 then 2 ^ 20 else 4096
    (((s.mem.filter (fun c => a ≤ c.1 && c.1 < a + n)).map (fun c => c.1 / 8 * 8)).eraseDups.map (fun k => wn (s.readN k 8))).filter
      (fun e => e.getLsbD 0)
  leaves (l table : Nat) : List (Nat × Nat) :=
    ((entries l table).filter (fun e => bitsOf e 3 3 != 0 && bitsOf e 9 3 == 0)).map (fun e =>
      let z := 12 + 9 * l
      (bitsOf e z (52 - z) * 2 ^ z, 2 ^ z))

/-- The same of its range table (R329). -/
def rangeMaps (s : State) (t : Tenant) : List (Nat × Nat) :=
  ((rangeTable s t.part.toNat t.rangeBase).filter (fun r => (r.getD 0 0).getLsbD 0 && bitsOf (r.getD 2 0) 9 3 == 0)).map (fun r =>
    (bitsOf (r.getD 2 0) 12 40 * 4096, (bitsOf (r.getD 1 0) 12 44 + 1 - bitsOf (r.getD 0 0) 12 44) * 4096))

/-- A page of device memory is the tenant's: recorded so, or mapped by its tables and recorded for no other (R347, R348). -/
def tenantHas (s : State) (a : BitVec 10) (page : Nat) : Bool :=
  let t := s.tenant a
  match s.owners.lookup page with
  | some b => b == a
  | none =>
    (tableMaps s t.part.toNat 3 (bitsOf t.ptRoot 20 32 * 2 ^ 20) ++ rangeMaps s t).any (fun r =>
      devKey t.part.toNat r.1 < (page + 1) * 4096 && page * 4096 < devKey t.part.toNat r.1 + r.2)

/-- The pages of device memory that hold a tenant's data: those recorded, and those that memory lists. -/
def tenantPages (s : State) (a : BitVec 10) : List Nat :=
  ((s.owners.filter (fun o => o.2 == a)).map (·.1) ++
    (((s.mem.filter (fun c => c.1 < 2 ^ 57)).map (fun c => c.1 / 4096)).eraseDups.filter (tenantHas s a))).eraseDups

/-- TENANT_TEARDOWN (R347): the key slot is erased, once no launch of the tenant is left, and with it what was written under
the key. -/
def execTenantTeardown (tenant : BitVec 10) (s : State) : Out :=
  if !s.up || !(s.tenant tenant).live || s.launches.any (fun l => l.aspace == tenant) then .next s
  else
    let s1 := (tenantPages s tenant).foldl (scramble s.fresh) s
    .next { s1 with
      fresh := s.fresh + 1, tenants := s1.tenants.filter (fun t => t.1 != tenant)
      cores := s1.cores.map (fun k => { k with
        walks := k.walks.filter (fun x => x.1 != tenant), kvCache := k.kvCache.filter (fun e => e.aspace != tenant) }) }

/-- Every byte of a device page is zero, and its marks are gone. -/
def zeroPage (page : Nat) (s : State) : State :=
  { s with
    mem := s.mem.filter (fun c => c.1 / 4096 != page)
    bad := s.bad.filter (fun e => match e with
      | .memory a => a / 4096 != page
      | _ => true) }

/-- PAGE_REASSIGN (R348): after every launch of the old owner has gone, the page is zeroed and handed over. -/
def execPageReassign (page : BitVec 32) (fromPart toPart : BitVec 4) (tenant : BitVec 10) (s : State) : Out :=
  let a := devKey fromPart.toNat (page.toNat * 4096) / 4096
  let b := devKey toPart.toNat (page.toNat * 4096) / 4096
  let reaches (p : BitVec 4) (k : Nat) : Bool := s.launches.any (fun l => l.part == p && tenantHas s l.aspace k)
  if !s.up || reaches fromPart a || reaches toPart b || !(s.tenant tenant).live then .next s
  else .next { zeroPage b (zeroPage a s) with owners := s.owners.filter (fun o => o.1 != a && o.1 != b) ++ [(b, tenant)] }

/-- A partition as R345 allows it, apart from every other: nothing, or cores and on each die 1 to 64 channels and up to
16 bank groups. -/
def partOk (s : State) (part : BitVec 4) (c : PartConfig) : Bool :=
  let others := (List.range 16).filter (· != part.toNat)
  let other (i : Nat) : Partition := s.part (BitVec.ofNat 4 i)
  (c.cores == 0 && c.channels.isEmpty && c.groups.isEmpty) ||
  (c.channels.length == 4 && c.groups.length == 4 &&
   (List.range 4).all (fun d =>
     let ch := c.channels.getD d []
     !ch.isEmpty && ch.all (· < 64) && (ch.zip (ch.drop 1)).all (fun x => x.1 < x.2)) &&
   (List.range 4).all (fun d =>
     let gr := c.groups.getD d []
     gr.all (· < 16) && (gr.zip (gr.drop 1)).all (fun x => x.1 < x.2)) &&
   others.all (fun i => (other i).cores &&& c.cores == 0 &&
     (List.range 4).all (fun d => ((other i).channels.getD d []).all (fun x => !(c.channels.getD d []).contains x) &&
       ((other i).groups.getD d []).all (fun x => !(c.groups.getD d []).contains x))))

/-- Where a byte of a partition's memory stands once its shape has changed: its slice and its byte there stay, so its offset
moves with the list of slices (R346). None where the slice leaves the partition. -/
def movedKey (part : Nat) (old new : Partition) (key : Nat) : Option Nat :=
  let pa := key % 2 ^ 52
  let o := pa % 2 ^ 41
  let d := pa / 2 ^ 42 % 4
  let list (p : Partition) : List Nat := if pa / 2 ^ 41 % 2 == 1 then p.groups.getD d [] else p.channels.getD d []
  let l := list old
  let b := sliceByte l.length o
  ((list new).idxOf? (l.getD (o / 256 % l.length) 0)).map (fun j =>
    devKey part (pa / 2 ^ 41 * 2 ^ 41 + (b / 256 * (list new).length + j) * 256 + b % 256))

/-- The partition takes its new shape: memory that leaves it is zeroed before another can reach it, and so is that which it
takes; scratch of the cores that change hands is zeroed (R126, R348). -/
def setPart (part : BitVec 4) (c : PartConfig) (s : State) : State :=
  let old := s.part part
  let new : Partition := ⟨c.cores, c.channels, c.groups, c.sparse⟩
  let mine (k : Nat) : Bool := devKey part.toNat 0 ≤ k && k < devKey part.toNat (2 ^ 52)
  let same := old.channels == c.channels && old.groups == c.groups
  let moved := old.cores ||| c.cores
  let s1 : State := { s with parts := s.parts.set part.toNat new part.isLt }
  let s2 : State := if same then s1 else
    { s1 with
      mem := Memory.writeAll (s1.mem.filter (fun x => !mine x.1))
        ((s1.mem.filter (fun x => mine x.1)).filterMap (fun x => (movedKey part.toNat old new x.1).map (fun k => (k, x.2))))
      bad := s1.bad.filterMap (fun e => match e with
        | .memory a => if mine a then (movedKey part.toNat old new a).map ErrorSite.memory else some e
        | _ => some e)
      owners := s1.owners.filter (fun o => !mine (o.1 * 4096)) }
  (allCores.filter (fun k => moved.getLsbD k.val)).foldl (fun s k => s.modCore k (fun k => { k with scratch := [], locks := Vector.replicate 32 0 })) s2

/-- PARTITION_CHANGE (R299, R345): while none of its launches runs; tearing it down cancels what has not retired. -/
def execPartitionChange (part : BitVec 4) (cfg : PartConfig) (s : State) : Out :=
  if !s.up || !partOk s part cfg then .next s
  else if cfg.cores == 0 then
    let s1 := (s.queues.filter (fun q => q.part == part)).foldl (fun s q => resetQueue s q.num) s
    .next (setPart part cfg s1)
  else if s.launches.any (fun l => l.part == part) then .next s
  else .next (setPart part cfg s)

/-! ### Attestation (R350, R351) -/

def State.reply (s : State) (r : SpdmReply) : State := { s with sage := { s.sage with replies := s.sage.replies ++ [r] } }

/-- Sage answers a request while the device has power (R354). -/
def spdm (k : State → State) (s : State) : Out := if s.power == .d3cold then .next s else .next (k s)

/-- GET_VERSION starts an SPDM connection (log 23). -/
def execGetVersion (s : State) : Out := spdm (fun s => { s with sage := { s.sage with spdm := .version } }.reply .version) s

/-- An SPDM request out of its order is answered with an error (log 23). -/
def execGetCapabilities (s : State) : Out :=
  spdm (fun s => if s.sage.spdm == .version then { s with sage := { s.sage with spdm := .capabilities } }.reply .capabilities
    else s.reply .error) s

/-- NEGOTIATE_ALGORITHMS: the device offers XMSS^MT and SHA3-384 only. -/
def execNegotiateAlgorithms (asym hash : BitVec 16) (s : State) : Out :=
  spdm (fun s => if s.sage.spdm == .capabilities && asym == Config.asymId && hash == Config.hashId then
      { s with sage := { s.sage with spdm := .negotiated } }.reply .algorithms
    else s.reply .error) s

/-- A request that needs the negotiated algorithms. -/
def negotiated (r : SpdmReply) (s : State) : Out := spdm (fun s => s.reply (if s.sage.spdm == .negotiated then r else .error)) s

def execGetDigests (s : State) : Out := negotiated (.digests (Config.deviceDigest 0)) s
def execGetCertificate (offset length : BitVec 16) (s : State) : Out := negotiated (.certificate offset length) s

/-- The partitions and tenants as numbers. -/
def configNumbers (s : State) : List Nat :=
  s.parts.toList.flatMap (fun p => p.cores.toNat :: (p.channels ++ p.groups).flatMap (fun l => l.length :: l)) ++
  s.tenants.flatMap (fun t => [t.1.toNat, t.2.part.toNat, t.2.ptRoot.toNat, t.2.rangeBase.toNat, t.2.trapVec.toNat, t.2.capBase.toNat])

/-- The measurements in index order (R351). -/
def State.measurements (s : State) : List (Nat × BitVec 384) :=
  (1, Config.deviceDigest 1) :: (List.range 3).map (fun n => (2, Config.imageHash n)) ++
  [(3, Config.deviceDigest 2), (4, Config.digestOf (configNumbers s))]

/-- A signed answer takes the next index before it is released; after the last one every request is refused (R350). -/
def signedReply (r : Nat → SpdmReply) (s : State) : Out :=
  spdm (fun s => if s.sage.spdm == .negotiated && s.sage.nextIndex < 2 ^ 40 then
      { s with sage := { s.sage with nextIndex := s.sage.nextIndex + 1 } }.reply (r s.sage.nextIndex)
    else s.reply .error) s

def execChallenge (nonce : BitVec 256) (s : State) : Out := signedReply (fun i => .challengeAuth i nonce) s
def execGetMeasurements (nonce : BitVec 256) (s : State) : Out := signedReply (fun i => .measurements i nonce s.measurements) s

end Sys2Proof.Machine
end

