-- ==== Sys2Proof/Machine/Dispatch.lean ====
section
/-!
DEFINITION. What each instruction and event does: one arm per constructor, each a call of its meaning.
-/

namespace Sys2Proof.Machine

def exec (i : Instr) (s : State) : Host.Outcome State Fault Refusal :=
  match i with
  | .add d a b => Sys2Proof.Machine.execAdd d a b s
  | .sub d a b => Sys2Proof.Machine.execSub d a b s
  | .and d a b => Sys2Proof.Machine.execAnd d a b s
  | .or d a b => Sys2Proof.Machine.execOr d a b s
  | .xor d a b => Sys2Proof.Machine.execXor d a b s
  | .sll d a b => Sys2Proof.Machine.execSll d a b s
  | .srl d a b => Sys2Proof.Machine.execSrl d a b s
  | .sra d a b => Sys2Proof.Machine.execSra d a b s
  | .slt d a b => Sys2Proof.Machine.execSlt d a b s
  | .sltn d a b => Sys2Proof.Machine.execSltn d a b s
  | .mul d a b => Sys2Proof.Machine.execMul d a b s
  | .mulh d a b => Sys2Proof.Machine.execMulh d a b s
  | .mulhn d a b => Sys2Proof.Machine.execMulhn d a b s
  | .div d a b => Sys2Proof.Machine.execDiv d a b s
  | .divn d a b => Sys2Proof.Machine.execDivn d a b s
  | .rem d a b => Sys2Proof.Machine.execRem d a b s
  | .remn d a b => Sys2Proof.Machine.execRemn d a b s
  | .min d a b => Sys2Proof.Machine.execMin d a b s
  | .max d a b => Sys2Proof.Machine.execMax d a b s
  | .minn d a b => Sys2Proof.Machine.execMinn d a b s
  | .maxn d a b => Sys2Proof.Machine.execMaxn d a b s
  | .rol d a b => Sys2Proof.Machine.execRol d a b s
  | .ror d a b => Sys2Proof.Machine.execRor d a b s
  | .clz d a => Sys2Proof.Machine.execClz d a s
  | .ctz d a => Sys2Proof.Machine.execCtz d a s
  | .popc d a => Sys2Proof.Machine.execPopc d a s
  | .bext d a b => Sys2Proof.Machine.execBext d a b s
  | .bextn d a b => Sys2Proof.Machine.execBextn d a b s
  | .fshl d a b => Sys2Proof.Machine.execFshl d a b s
  | .fshr d a b => Sys2Proof.Machine.execFshr d a b s
  | .addi d a imm => Sys2Proof.Machine.execAddi d a imm s
  | .andi d a imm => Sys2Proof.Machine.execAndi d a imm s
  | .ori d a imm => Sys2Proof.Machine.execOri d a imm s
  | .xori d a imm => Sys2Proof.Machine.execXori d a imm s
  | .slti d a imm => Sys2Proof.Machine.execSlti d a imm s
  | .slli d a s1 => Sys2Proof.Machine.execSlli d a s1 s
  | .srli d a s1 => Sys2Proof.Machine.execSrli d a s1 s
  | .srai d a s1 => Sys2Proof.Machine.execSrai d a s1 s
  | .lui d imm => Sys2Proof.Machine.execLui d imm s
  | .auipc d imm => Sys2Proof.Machine.execAuipc d imm s
  | .bfx d a l p => Sys2Proof.Machine.execBfx d a l p s
  | .bfxS d a l p => Sys2Proof.Machine.execBfxS d a l p s
  | .bfi d a l p => Sys2Proof.Machine.execBfi d a l p s
  | .ldb d a o => Sys2Proof.Machine.execLdb d a o s
  | .ldh d a o => Sys2Proof.Machine.execLdh d a o s
  | .ldw d a o => Sys2Proof.Machine.execLdw d a o s
  | .ldd d a o => Sys2Proof.Machine.execLdd d a o s
  | .ldbn d a o => Sys2Proof.Machine.execLdbn d a o s
  | .ldhn d a o => Sys2Proof.Machine.execLdhn d a o s
  | .ldwn d a o => Sys2Proof.Machine.execLdwn d a o s
  | .stb s1 a o => Sys2Proof.Machine.execStb s1 a o s
  | .sth s1 a o => Sys2Proof.Machine.execSth s1 a o s
  | .stw s1 a o => Sys2Proof.Machine.execStw s1 a o s
  | .std s1 a o => Sys2Proof.Machine.execStd s1 a o s
  | .beq a b o => Sys2Proof.Machine.execBeq a b o s
  | .bne a b o => Sys2Proof.Machine.execBne a b o s
  | .blt a b o => Sys2Proof.Machine.execBlt a b o s
  | .bge a b o => Sys2Proof.Machine.execBge a b o s
  | .bltn a b o => Sys2Proof.Machine.execBltn a b o s
  | .bgen a b o => Sys2Proof.Machine.execBgen a b o s
  | .j o => Sys2Proof.Machine.execJ o s
  | .jal o => Sys2Proof.Machine.execJal o s
  | .jalr d a imm => Sys2Proof.Machine.execJalr d a imm s
  | .loop c a l => Sys2Proof.Machine.execLoop c a l s
  | .loopS c l => Sys2Proof.Machine.execLoopS c l s
  | .loopi c n l => Sys2Proof.Machine.execLoopi c n l s
  | .nop => Sys2Proof.Machine.execNop s
  | .exit => Sys2Proof.Machine.execExit s
  | .brk => Sys2Proof.Machine.execBrk s
  | .scall => Sys2Proof.Machine.execScall s
  | .yield => Sys2Proof.Machine.execYield s
  | .fork a => Sys2Proof.Machine.execFork a s
  | .rdv => Sys2Proof.Machine.execRdv s
  | .lfork a => Sys2Proof.Machine.execLfork a s
  | .ljoin => Sys2Proof.Machine.execLjoin s
  | .lexit => Sys2Proof.Machine.execLexit s
  | .qput a => Sys2Proof.Machine.execQput a s
  | .qget d => Sys2Proof.Machine.execQget d s
  | .lvget d a => Sys2Proof.Machine.execLvget d a s
  | .lvput a b => Sys2Proof.Machine.execLvput a b s
  | .libld a b => Sys2Proof.Machine.execLibld a b s
  | .movs d r => Sys2Proof.Machine.execMovs d r s
  | .sets a r => Sys2Proof.Machine.execSets a r s
  | .lcntWrite k v => Sys2Proof.Machine.execLcntWrite k v s
  | .preemptReqWrite => Sys2Proof.Machine.execPreemptReqWrite s
  | .vsetvl d a b => Sys2Proof.Machine.execVsetvl d a b s
  | .vsetvlq d => Sys2Proof.Machine.execVsetvlq d s
  | .lpart a => Sys2Proof.Machine.execLpart a s
  | .gang a => Sys2Proof.Machine.execGang a s
  | .ungang => Sys2Proof.Machine.execUngang s
  | .vsetvli d a imm => Sys2Proof.Machine.execVsetvli d a imm s
  | .gangFormed base => Sys2Proof.Machine.execGangFormed base s
  | .vadd d a b p k => Sys2Proof.Machine.execVadd d a b p k s
  | .vsub d a b p k => Sys2Proof.Machine.execVsub d a b p k s
  | .vrsub d a b p k => Sys2Proof.Machine.execVrsub d a b p k s
  | .vand d a b p k => Sys2Proof.Machine.execVand d a b p k s
  | .vor d a b p k => Sys2Proof.Machine.execVor d a b p k s
  | .vxor d a b p k => Sys2Proof.Machine.execVxor d a b p k s
  | .vsll d a b p k => Sys2Proof.Machine.execVsll d a b p k s
  | .vsrl d a b p k => Sys2Proof.Machine.execVsrl d a b p k s
  | .vsra d a b p k => Sys2Proof.Machine.execVsra d a b p k s
  | .vmin d a b p k => Sys2Proof.Machine.execVmin d a b p k s
  | .vmax d a b p k => Sys2Proof.Machine.execVmax d a b p k s
  | .vminn d a b p k => Sys2Proof.Machine.execVminn d a b p k s
  | .vmaxn d a b p k => Sys2Proof.Machine.execVmaxn d a b p k s
  | .vmul d a b p k => Sys2Proof.Machine.execVmul d a b p k s
  | .vmulh d a b p k => Sys2Proof.Machine.execVmulh d a b p k s
  | .vmulhn d a b p k => Sys2Proof.Machine.execVmulhn d a b p k s
  | .vdiv d a b p k => Sys2Proof.Machine.execVdiv d a b p k s
  | .vdivn d a b p k => Sys2Proof.Machine.execVdivn d a b p k s
  | .vrem d a b p k => Sys2Proof.Machine.execVrem d a b p k s
  | .vremn d a b p k => Sys2Proof.Machine.execVremn d a b p k s
  | .vaddc d a b p k => Sys2Proof.Machine.execVaddc d a b p k s
  | .vsubb d a b p k => Sys2Proof.Machine.execVsubb d a b p k s
  | .vsadd d a b p k => Sys2Proof.Machine.execVsadd d a b p k s
  | .vsaddn d a b p k => Sys2Proof.Machine.execVsaddn d a b p k s
  | .vssub d a b p k => Sys2Proof.Machine.execVssub d a b p k s
  | .vssubn d a b p k => Sys2Proof.Machine.execVssubn d a b p k s
  | .vmerge d a b p k => Sys2Proof.Machine.execVmerge d a b p k s
  | .vmv d b p k => Sys2Proof.Machine.execVmv d b p k s
  | .vpope d a k => Sys2Proof.Machine.execVpope d a k s
  | .vclz d a k => Sys2Proof.Machine.execVclz d a k s
  | .vbext d a b p k => Sys2Proof.Machine.execVbext d a b p k s
  | .vfshr d a b p k => Sys2Proof.Machine.execVfshr d a b p k s
  | .vaddX d a b k => Sys2Proof.Machine.execVaddX d a b k s
  | .vsubX d a b k => Sys2Proof.Machine.execVsubX d a b k s
  | .vrsubX d a b k => Sys2Proof.Machine.execVrsubX d a b k s
  | .vandX d a b k => Sys2Proof.Machine.execVandX d a b k s
  | .vorX d a b k => Sys2Proof.Machine.execVorX d a b k s
  | .vxorX d a b k => Sys2Proof.Machine.execVxorX d a b k s
  | .vsllX d a b k => Sys2Proof.Machine.execVsllX d a b k s
  | .vsrlX d a b k => Sys2Proof.Machine.execVsrlX d a b k s
  | .vsraX d a b k => Sys2Proof.Machine.execVsraX d a b k s
  | .vminX d a b k => Sys2Proof.Machine.execVminX d a b k s
  | .vmaxX d a b k => Sys2Proof.Machine.execVmaxX d a b k s
  | .vminnX d a b k => Sys2Proof.Machine.execVminnX d a b k s
  | .vmaxnX d a b k => Sys2Proof.Machine.execVmaxnX d a b k s
  | .vmulX d a b k => Sys2Proof.Machine.execVmulX d a b k s
  | .vmulhX d a b k => Sys2Proof.Machine.execVmulhX d a b k s
  | .vmulhnX d a b k => Sys2Proof.Machine.execVmulhnX d a b k s
  | .vdivX d a b k => Sys2Proof.Machine.execVdivX d a b k s
  | .vdivnX d a b k => Sys2Proof.Machine.execVdivnX d a b k s
  | .vremX d a b k => Sys2Proof.Machine.execVremX d a b k s
  | .vremnX d a b k => Sys2Proof.Machine.execVremnX d a b k s
  | .vaddcX d a b k => Sys2Proof.Machine.execVaddcX d a b k s
  | .vsubbX d a b k => Sys2Proof.Machine.execVsubbX d a b k s
  | .vsaddX d a b k => Sys2Proof.Machine.execVsaddX d a b k s
  | .vsaddnX d a b k => Sys2Proof.Machine.execVsaddnX d a b k s
  | .vssubX d a b k => Sys2Proof.Machine.execVssubX d a b k s
  | .vssubnX d a b k => Sys2Proof.Machine.execVssubnX d a b k s
  | .vmergeX d a b k => Sys2Proof.Machine.execVmergeX d a b k s
  | .vmvX d b k => Sys2Proof.Machine.execVmvX d b k s
  | .vbextX d a b k => Sys2Proof.Machine.execVbextX d a b k s
  | .vfshrX d a b k => Sys2Proof.Machine.execVfshrX d a b k s
  | .vaddi d a imm k => Sys2Proof.Machine.execVaddi d a imm k s
  | .vrsubi d a imm k => Sys2Proof.Machine.execVrsubi d a imm k s
  | .vandi d a imm k => Sys2Proof.Machine.execVandi d a imm k s
  | .vori d a imm k => Sys2Proof.Machine.execVori d a imm k s
  | .vxori d a imm k => Sys2Proof.Machine.execVxori d a imm k s
  | .vslli d a s1 k => Sys2Proof.Machine.execVslli d a s1 k s
  | .vsrli d a s1 k => Sys2Proof.Machine.execVsrli d a s1 k s
  | .vsrai d a s1 k => Sys2Proof.Machine.execVsrai d a s1 k s
  | .vmvi d imm k => Sys2Proof.Machine.execVmvi d imm k s
  | .vmini d a imm k => Sys2Proof.Machine.execVmini d a imm k s
  | .vmaxi d a imm k => Sys2Proof.Machine.execVmaxi d a imm k s
  | .vseq d a b p k => Sys2Proof.Machine.execVseq d a b p k s
  | .vsne d a b p k => Sys2Proof.Machine.execVsne d a b p k s
  | .vslt d a b p k => Sys2Proof.Machine.execVslt d a b p k s
  | .vsltn d a b p k => Sys2Proof.Machine.execVsltn d a b p k s
  | .vsle d a b p k => Sys2Proof.Machine.execVsle d a b p k s
  | .vslen d a b p k => Sys2Proof.Machine.execVslen d a b p k s
  | .vsgt d a b p k => Sys2Proof.Machine.execVsgt d a b p k s
  | .vsgtn d a b p k => Sys2Proof.Machine.execVsgtn d a b p k s
  | .vfeq d a b p k => Sys2Proof.Machine.execVfeq d a b p k s
  | .vfne d a b p k => Sys2Proof.Machine.execVfne d a b p k s
  | .vflt d a b p k => Sys2Proof.Machine.execVflt d a b p k s
  | .vfle d a b p k => Sys2Proof.Machine.execVfle d a b p k s
  | .vfunord d a b p k => Sys2Proof.Machine.execVfunord d a b p k s
  | .vfadd d a b p k => Sys2Proof.Machine.execVfadd d a b p k s
  | .vfsub d a b p k => Sys2Proof.Machine.execVfsub d a b p k s
  | .vfmul d a b p k => Sys2Proof.Machine.execVfmul d a b p k s
  | .vfdiv d a b p k => Sys2Proof.Machine.execVfdiv d a b p k s
  | .vfsqrt d a k => Sys2Proof.Machine.execVfsqrt d a k s
  | .vfmin d a b p k => Sys2Proof.Machine.execVfmin d a b p k s
  | .vfmax d a b p k => Sys2Proof.Machine.execVfmax d a b p k s
  | .vfmadd d a b p k => Sys2Proof.Machine.execVfmadd d a b p k s
  | .vfmsub d a b p k => Sys2Proof.Machine.execVfmsub d a b p k s
  | .vfnmadd d a b p k => Sys2Proof.Machine.execVfnmadd d a b p k s
  | .vfnmsub d a b p k => Sys2Proof.Machine.execVfnmsub d a b p k s
  | .vfsgnj d a b p k => Sys2Proof.Machine.execVfsgnj d a b p k s
  | .vfsgnjn d a b p k => Sys2Proof.Machine.execVfsgnjn d a b p k s
  | .vfsgnjx d a b p k => Sys2Proof.Machine.execVfsgnjx d a b p k s
  | .vfclass d a k => Sys2Proof.Machine.execVfclass d a k s
  | .vfrece d a k => Sys2Proof.Machine.execVfrece d a k s
  | .vfrsqe d a k => Sys2Proof.Machine.execVfrsqe d a k s
  | .vfexp2 d a k => Sys2Proof.Machine.execVfexp2 d a k s
  | .vfcvtif d a k => Sys2Proof.Machine.execVfcvtif d a k s
  | .vfcvtfi d a k => Sys2Proof.Machine.execVfcvtfi d a k s
  | .vfnarrow d a k => Sys2Proof.Machine.execVfnarrow d a k s
  | .vfwiden d a k => Sys2Proof.Machine.execVfwiden d a k s
  | .vfaddX d a b k => Sys2Proof.Machine.execVfaddX d a b k s
  | .vfsubX d a b k => Sys2Proof.Machine.execVfsubX d a b k s
  | .vfmulX d a b k => Sys2Proof.Machine.execVfmulX d a b k s
  | .vfdivX d a b k => Sys2Proof.Machine.execVfdivX d a b k s
  | .vfminX d a b k => Sys2Proof.Machine.execVfminX d a b k s
  | .vfmaxX d a b k => Sys2Proof.Machine.execVfmaxX d a b k s
  | .vfmaddX d a b k => Sys2Proof.Machine.execVfmaddX d a b k s
  | .vfmsubX d a b k => Sys2Proof.Machine.execVfmsubX d a b k s
  | .vfnmaddX d a b k => Sys2Proof.Machine.execVfnmaddX d a b k s
  | .vfnmsubX d a b k => Sys2Proof.Machine.execVfnmsubX d a b k s
  | .vfsgnjX d a b k => Sys2Proof.Machine.execVfsgnjX d a b k s
  | .vfsgnjnX d a b k => Sys2Proof.Machine.execVfsgnjnX d a b k s
  | .vfsgnjxX d a b k => Sys2Proof.Machine.execVfsgnjxX d a b k s
  | .vredsum d a b k => Sys2Proof.Machine.execVredsum d a b k s
  | .vredmin d a b k => Sys2Proof.Machine.execVredmin d a b k s
  | .vredmax d a b k => Sys2Proof.Machine.execVredmax d a b k s
  | .vredminn d a b k => Sys2Proof.Machine.execVredminn d a b k s
  | .vredmaxn d a b k => Sys2Proof.Machine.execVredmaxn d a b k s
  | .vredand d a b k => Sys2Proof.Machine.execVredand d a b k s
  | .vredor d a b k => Sys2Proof.Machine.execVredor d a b k s
  | .vredxor d a b k => Sys2Proof.Machine.execVredxor d a b k s
  | .vfredsum d a b k => Sys2Proof.Machine.execVfredsum d a b k s
  | .vfredmin d a b k => Sys2Proof.Machine.execVfredmin d a b k s
  | .vfredmax d a b k => Sys2Proof.Machine.execVfredmax d a b k s
  | .vpopc s1 k => Sys2Proof.Machine.execVpopc s1 k s
  | .vpopq s1 k => Sys2Proof.Machine.execVpopq s1 k s
  | .vfirst s1 k => Sys2Proof.Machine.execVfirst s1 k s
  | .viota d s1 k => Sys2Proof.Machine.execViota d s1 k s
  | .vid d k => Sys2Proof.Machine.execVid d k s
  | .mand d a b => Sys2Proof.Machine.execMand d a b s
  | .mor d a b => Sys2Proof.Machine.execMor d a b s
  | .mxor d a b => Sys2Proof.Machine.execMxor d a b s
  | .mandn d a b => Sys2Proof.Machine.execMandn d a b s
  | .mnot d a => Sys2Proof.Machine.execMnot d a s
  | .mslide1 d a => Sys2Proof.Machine.execMslide1 d a s
  | .msbf d a => Sys2Proof.Machine.execMsbf d a s
  | .mmv d a => Sys2Proof.Machine.execMmv d a s
  | .mfromv d a k => Sys2Proof.Machine.execMfromv d a k s
  | .mtov d s1 k => Sys2Proof.Machine.execMtov d s1 k s
  | .vslideup d a b k => Sys2Proof.Machine.execVslideup d a b k s
  | .vslidedn d a b k => Sys2Proof.Machine.execVslidedn d a b k s
  | .vslide1up d a b k => Sys2Proof.Machine.execVslide1up d a b k s
  | .vslide1dn d a b k => Sys2Proof.Machine.execVslide1dn d a b k s
  | .vpermx d a b k => Sys2Proof.Machine.execVpermx d a b k s
  | .vcompress d a s1 => Sys2Proof.Machine.execVcompress d a s1 s
  | .vexpand d a s1 k => Sys2Proof.Machine.execVexpand d a s1 k s
  | .vrev d a k => Sys2Proof.Machine.execVrev d a k s
  | .vbcast d a b k => Sys2Proof.Machine.execVbcast d a b k s
  | .vmvxv d b k => Sys2Proof.Machine.execVmvxv d b k s
  | .vmvvx a => Sys2Proof.Machine.execVmvvx a s
  | .vld d b k f => Sys2Proof.Machine.execVld d b k f s
  | .vldS d b s1 k f => Sys2Proof.Machine.execVldS d b s1 k f s
  | .vldG d b n k f => Sys2Proof.Machine.execVldG d b n k f s
  | .vldI d b imm k f => Sys2Proof.Machine.execVldI d b imm k f s
  | .vldFf d b k f => Sys2Proof.Machine.execVldFf d b k f s
  | .vst d b k f => Sys2Proof.Machine.execVst d b k f s
  | .vstS d b s1 k f => Sys2Proof.Machine.execVstS d b s1 k f s
  | .vstG d b n k f => Sys2Proof.Machine.execVstG d b n k f s
  | .vstI d b imm k f => Sys2Proof.Machine.execVstI d b imm k f s
  | .vsamoAdd d b imm k => Sys2Proof.Machine.execVsamoAdd d b imm k s
  | .vsamoMin d b imm k => Sys2Proof.Machine.execVsamoMin d b imm k s
  | .vsamoMax d b imm k => Sys2Proof.Machine.execVsamoMax d b imm k s
  | .vsamoMinn d b imm k => Sys2Proof.Machine.execVsamoMinn d b imm k s
  | .vsamoMaxn d b imm k => Sys2Proof.Machine.execVsamoMaxn d b imm k s
  | .vsamoAnd d b imm k => Sys2Proof.Machine.execVsamoAnd d b imm k s
  | .vsamoOr d b imm k => Sys2Proof.Machine.execVsamoOr d b imm k s
  | .vsamoXor d b imm k => Sys2Proof.Machine.execVsamoXor d b imm k s
  | .vsamoSwap d b imm k => Sys2Proof.Machine.execVsamoSwap d b imm k s
  | .vsldl d b imm k => Sys2Proof.Machine.execVsldl d b imm k s
  | .vsstu d b imm k => Sys2Proof.Machine.execVsstu d b imm k s
  | .amoadd d a b w => Sys2Proof.Machine.execAmoadd d a b w s
  | .amomin d a b w => Sys2Proof.Machine.execAmomin d a b w s
  | .amomax d a b w => Sys2Proof.Machine.execAmomax d a b w s
  | .amominn d a b w => Sys2Proof.Machine.execAmominn d a b w s
  | .amomaxn d a b w => Sys2Proof.Machine.execAmomaxn d a b w s
  | .amoand d a b w => Sys2Proof.Machine.execAmoand d a b w s
  | .amoor d a b w => Sys2Proof.Machine.execAmoor d a b w s
  | .amoxor d a b w => Sys2Proof.Machine.execAmoxor d a b w s
  | .amoswap d a b w => Sys2Proof.Machine.execAmoswap d a b w s
  | .amocas d a b w => Sys2Proof.Machine.execAmocas d a b w s
  | .vamoadd d a b k => Sys2Proof.Machine.execVamoadd d a b k s
  | .vamomin d a b k => Sys2Proof.Machine.execVamomin d a b k s
  | .vamomax d a b k => Sys2Proof.Machine.execVamomax d a b k s
  | .vamominn d a b k => Sys2Proof.Machine.execVamominn d a b k s
  | .vamomaxn d a b k => Sys2Proof.Machine.execVamomaxn d a b k s
  | .vamoand d a b k => Sys2Proof.Machine.execVamoand d a b k s
  | .vamoor d a b k => Sys2Proof.Machine.execVamoor d a b k s
  | .vamoxor d a b k => Sys2Proof.Machine.execVamoxor d a b k s
  | .vamoswap d a b k => Sys2Proof.Machine.execVamoswap d a b k s
  | .wbind w a b => Sys2Proof.Machine.execWbind w a b s
  | .wmode w b => Sys2Proof.Machine.execWmode w b s
  | .wform w a b => Sys2Proof.Machine.execWform w a b s
  | .wopen w => Sys2Proof.Machine.execWopen w s
  | .wclose w => Sys2Proof.Machine.execWclose w s
  | .wflush w => Sys2Proof.Machine.execWflush w s
  | .wdrop w => Sys2Proof.Machine.execWdrop w s
  | .wbindi s1 w a b => Sys2Proof.Machine.execWbindi s1 w a b s
  | .wnext w => Sys2Proof.Machine.execWnext w s
  | .wstat w => Sys2Proof.Machine.execWstat w s
  | .wld d w x k => Sys2Proof.Machine.execWld d w x k s
  | .wldS d w x k o => Sys2Proof.Machine.execWldS d w x k o s
  | .wldX d w x k => Sys2Proof.Machine.execWldX d w x k s
  | .wldG d w x k n => Sys2Proof.Machine.execWldG d w x k n s
  | .wldD1 d w x k => Sys2Proof.Machine.execWldD1 d w x k s
  | .wst d w x k => Sys2Proof.Machine.execWst d w x k s
  | .wstS d w x k o => Sys2Proof.Machine.execWstS d w x k o s
  | .wstX d w x k => Sys2Proof.Machine.execWstX d w x k s
  | .wstG d w x k n => Sys2Proof.Machine.execWstG d w x k n s
  | .wstD1 d w x k => Sys2Proof.Machine.execWstD1 d w x k s
  | .ibegin s1 => Sys2Proof.Machine.execIbegin s1 s
  | .irange s1 a b => Sys2Proof.Machine.execIrange s1 a b s
  | .ilist s1 a b => Sys2Proof.Machine.execIlist s1 a b s
  | .ictr s1 c => Sys2Proof.Machine.execIctr s1 c s
  | .imap s1 a b => Sys2Proof.Machine.execImap s1 a b s
  | .imapt s1 a b => Sys2Proof.Machine.execImapt s1 a b s
  | .ifiltb s1 a b => Sys2Proof.Machine.execIfiltb s1 a b s
  | .ifiltc s1 a b => Sys2Proof.Machine.execIfiltc s1 a b s
  | .izip s1 t => Sys2Proof.Machine.execIzip s1 t s
  | .ichain s1 t => Sys2Proof.Machine.execIchain s1 t s
  | .iflat s1 a => Sys2Proof.Machine.execIflat s1 a s
  | .ifill s1 f => Sys2Proof.Machine.execIfill s1 f s
  | .inext s1 v => Sys2Proof.Machine.execInext s1 v s
  | .ienough s1 => Sys2Proof.Machine.execIenough s1 s
  | .istat s1 => Sys2Proof.Machine.execIstat s1 s
  | .iseal s1 => Sys2Proof.Machine.execIseal s1 s
  | .mlds w b => Sys2Proof.Machine.execMlds w b s
  | .mldsv a b => Sys2Proof.Machine.execMldsv a b s
  | .mswap => Sys2Proof.Machine.execMswap s
  | .mzero => Sys2Proof.Machine.execMzero s
  | .mrow d a => Sys2Proof.Machine.execMrow d a s
  | .mrowa d a => Sys2Proof.Machine.execMrowa d a s
  | .mrows d a m => Sys2Proof.Machine.execMrows d a m s
  | .mrowsa d a m => Sys2Proof.Machine.execMrowsa d a m s
  | .mroww d w => Sys2Proof.Machine.execMroww d w s
  | .mrowwa d w => Sys2Proof.Machine.execMrowwa d w s
  | .mwait => Sys2Proof.Machine.execMwait s
  | .kvset s1 c => Sys2Proof.Machine.execKvset s1 c s
  | .kvxlat d a s1 c k => Sys2Proof.Machine.execKvxlat d a s1 c k s
  | .kvxlatf d a s1 c k => Sys2Proof.Machine.execKvxlatf d a s1 c k s
  | .attn d a s1 c => Sys2Proof.Machine.execAttn d a s1 c s
  | .attnc d a s1 c => Sys2Proof.Machine.execAttnc d a s1 c s
  | .kvapp d a s1 c => Sys2Proof.Machine.execKvapp d a s1 c s
  | .kvinv s1 c => Sys2Proof.Machine.execKvinv s1 c s
  | .kvstat c => Sys2Proof.Machine.execKvstat c s
  | .attnBlock who => Sys2Proof.Machine.execAttnBlock who s
  | .fence => Sys2Proof.Machine.execFence s
  | .vfence => Sys2Proof.Machine.execVfence s
  | .lsync => Sys2Proof.Machine.execLsync s
  | .barrive a => Sys2Proof.Machine.execBarrive a s
  | .bwait a b => Sys2Proof.Machine.execBwait a b s
  | .binit a b => Sys2Proof.Machine.execBinit a b s
  | .bwaitReturn who => Sys2Proof.Machine.execBwaitReturn who s
  | .tlwait e a => Sys2Proof.Machine.execTlwait e a s
  | .hevt a => Sys2Proof.Machine.execHevt a s
  | .hwait a => Sys2Proof.Machine.execHwait a s
  | .harm a => Sys2Proof.Machine.execHarm a s
  | .harnessCycle tick => Sys2Proof.Machine.execHarnessCycle tick s
  | .xsend a b => Sys2Proof.Machine.execXsend a b s
  | .xrecv d b => Sys2Proof.Machine.execXrecv d b s
  | .xstep d a b k => Sys2Proof.Machine.execXstep d a b k s
  | .xredsum d a k => Sys2Proof.Machine.execXredsum d a k s
  | .xredmax d a k => Sys2Proof.Machine.execXredmax d a k s
  | .xbcast d a b k => Sys2Proof.Machine.execXbcast d a b k s
  | .xring d a b => Sys2Proof.Machine.execXring d a b s
  | .xstat d => Sys2Proof.Machine.execXstat d s
  | .exchangePairTransfer snd rcv tag => Sys2Proof.Machine.execExchangePairTransfer snd rcv tag s
  | .exchangeWatchdogExpiry who num => Sys2Proof.Machine.execExchangeWatchdogExpiry who num s
  | .ringCommit who => Sys2Proof.Machine.execRingCommit who s
  | .ringAbortNotice who rev => Sys2Proof.Machine.execRingAbortNotice who rev s
  | .launch a => Sys2Proof.Machine.execLaunch a s
  | .launcht d a => Sys2Proof.Machine.execLauncht d a s
  | .lwait d a => Sys2Proof.Machine.execLwait d a s
  | .tret => Sys2Proof.Machine.execTret s
  | .ctxsave a => Sys2Proof.Machine.execCtxsave a s
  | .ctxload a => Sys2Proof.Machine.execCtxload a s
  | .xlinv a b => Sys2Proof.Machine.execXlinv a b s
  | .xlinva => Sys2Proof.Machine.execXlinva s
  | .wfe => Sys2Proof.Machine.execWfe s
  | .halt => Sys2Proof.Machine.execHalt s
  | .caprd d a => Sys2Proof.Machine.execCaprd d a s
  | .wfeTimeout who => Sys2Proof.Machine.execWfeTimeout who s
  | .reservedWord w => Sys2Proof.Machine.execReservedWord w s
  | .loopWrap who => Sys2Proof.Machine.execLoopWrap who s
  | .slabLanded who num slab => Sys2Proof.Machine.execSlabLanded who num slab s
  | .writebackPerformed who num => Sys2Proof.Machine.execWritebackPerformed who num s
  | .streamRowEnter who num => Sys2Proof.Machine.execStreamRowEnter who num s
  | .iteratorTableRead who stack => Sys2Proof.Machine.execIteratorTableRead who stack s
  | .matrixOpStart core => Sys2Proof.Machine.execMatrixOpStart core s
  | .matrixOpComplete core num => Sys2Proof.Machine.execMatrixOpComplete core num s
  | .placeStart launch place => Sys2Proof.Machine.execPlaceStart launch place s
  | .hardPreemption who => Sys2Proof.Machine.execHardPreemption who s
  | .preemptLeftExpiry who => Sys2Proof.Machine.execPreemptLeftExpiry who s
  | .supervisorPreemptTimeout who => Sys2Proof.Machine.execSupervisorPreemptTimeout who s
  | .contextRestore saved who => Sys2Proof.Machine.execContextRestore saved who s
  | .parentStallSwap who => Sys2Proof.Machine.execParentStallSwap who s
  | .priorityPromotion which => Sys2Proof.Machine.execPriorityPromotion which s
  | .doorbell fn queue value => Sys2Proof.Machine.execDoorbell fn queue value s
  | .completionHead fn queue value => Sys2Proof.Machine.execCompletionHead fn queue value s
  | .registerWrite fn bar offset value => Sys2Proof.Machine.execRegisterWrite fn bar offset value s
  | .priqWrite fn => Sys2Proof.Machine.execPriqWrite fn s
  | .queueCreate queue fn desc => Sys2Proof.Machine.execQueueCreate queue fn desc s
  | .queueSwapIn queue => Sys2Proof.Machine.execQueueSwapIn queue s
  | .queueReset queue => Sys2Proof.Machine.execQueueReset queue s
  | .packetDispatch queue areas => Sys2Proof.Machine.execPacketDispatch queue areas s
  | .childDispatch child areas => Sys2Proof.Machine.execChildDispatch child areas s
  | .transferDispatch queue => Sys2Proof.Machine.execTransferDispatch queue s
  | .transferRetire transfer => Sys2Proof.Machine.execTransferRetire transfer s
  | .launchRetire launch => Sys2Proof.Machine.execLaunchRetire launch s
  | .completionRecordWrite queue => Sys2Proof.Machine.execCompletionRecordWrite queue s
  | .pageResponse fn group code => Sys2Proof.Machine.execPageResponse fn group code s
  | .atsInvalidation fn pasid page => Sys2Proof.Machine.execAtsInvalidation fn pasid page s
  | .functionLevelReset fn => Sys2Proof.Machine.execFunctionLevelReset fn s
  | .packetAgeEscalation packet => Sys2Proof.Machine.execPacketAgeEscalation packet s
  | .meshRestitch cores shape => Sys2Proof.Machine.execMeshRestitch cores shape s
  | .lamefFlitReceive port flit => Sys2Proof.Machine.execLamefFlitReceive port flit s
  | .lamefFlitReplay port seq => Sys2Proof.Machine.execLamefFlitReplay port seq s
  | .lamefPortDown port => Sys2Proof.Machine.execLamefPortDown port s
  | .memoryDoubleError site => Sys2Proof.Machine.execMemoryDoubleError site s
  | .coldReset => Sys2Proof.Machine.execColdReset s
  | .hotReset => Sys2Proof.Machine.execHotReset s
  | .configRequest fn offset => Sys2Proof.Machine.execConfigRequest fn offset s
  | .powerStateChange target => Sys2Proof.Machine.execPowerStateChange target s
  | .tenantCreate tenant part ptroot rangeBase trapVec capBase => Sys2Proof.Machine.execTenantCreate tenant part ptroot rangeBase trapVec capBase s
  | .tenantTeardown tenant => Sys2Proof.Machine.execTenantTeardown tenant s
  | .pageReassign page fromPart toPart tenant => Sys2Proof.Machine.execPageReassign page fromPart toPart tenant s
  | .partitionChange part cfg => Sys2Proof.Machine.execPartitionChange part cfg s
  | .getVersion => Sys2Proof.Machine.execGetVersion s
  | .getCapabilities => Sys2Proof.Machine.execGetCapabilities s
  | .negotiateAlgorithms asym hash => Sys2Proof.Machine.execNegotiateAlgorithms asym hash s
  | .getDigests => Sys2Proof.Machine.execGetDigests s
  | .getCertificate offset length => Sys2Proof.Machine.execGetCertificate offset length s
  | .challenge nonce => Sys2Proof.Machine.execChallenge nonce s
  | .getMeasurements nonce => Sys2Proof.Machine.execGetMeasurements nonce s
  | .accessPerformed who access => Sys2Proof.Machine.execAccessPerformed who access s
  | .kvWalkerReadReturn who => Sys2Proof.Machine.execKvWalkerReadReturn who s
  | .exchangeRefused who num noPath => Sys2Proof.Machine.execExchangeRefused who num noPath s
  | .ringStepMessage who src step bytes => Sys2Proof.Machine.execRingStepMessage who src step bytes s
  | .singleBitError site => Sys2Proof.Machine.execSingleBitError site s

end Sys2Proof.Machine
end

