-- ==== Sys2Proof/Machine/Sched.lean ====
section
/-!
DEFINITION. Fetching (R35, R36, R82, R84), what a hart does at an instruction boundary (R284, R321, R322), which agents
may run and which of the device's own events may be due.
-/

namespace Sys2Proof.Machine

/-! ### Fetch -/

/-- Registers that a lane thread's word reads, as granules of its lane (R84, R85). -/
def laneReads (w : Insn) : List XReg :=
  let d : XReg := w.extractLsb' 21 5
  let a : XReg := w.extractLsb' 16 5
  let b : XReg := w.extractLsb' 11 5
  let m := majorOf w
  if m == 1 then (if 23 ≤ fnOf w && fnOf w ≤ 25 then [a] else if fnOf w == 28 || fnOf w == 29 then [d, a, b] else [a, b])
  else if 2 ≤ m && m ≤ 7 || m == 0x0A || m == 0x0C || m == 0x18 then [a]
  else if m == 0x0B || m == 0x0D || (0x10 ≤ m && m ≤ 0x15) then [d, a]
  else if m == 0x1B && fnOf w == 12 then [a]
  else if m == 0x1B && fnOf w == 13 then [a, b]
  else []

/-- A marked granule that a lane thread's word reads (R334): of its registers, or the row that LVGET names. -/
def laneBad (w : Insn) (l : Nat) (s : State) : Option Trap :=
  let row : List (Nat × Nat) :=
    if majorOf w == 0x1B && fnOf w == 12 then
      let sel := s.x (w.extractLsb' 16 5)
      [(bitsOf sel 0 5, rowGranule sel s.me.lanes l)]
    else []
  let reads := ((laneReads w).filter (· != 0)).map (fun r => (r.toNat, l)) ++ row
  (reads.find? (fun r => s.bad.contains (.vreg s.who (BitVec.ofNat 5 r.1) r.2))).map (fun r => ⟨.uncorrectable, regLoc 2 r.1 l, l⟩)

/-- What fetching comes to: an instruction, in the state with its translation noted, or a trap. -/
inductive Fetched where
  | ok (i : Instr) (s : State)
  | trap (o : Out)

/-- The instruction that a word is to the executing agent: a word that its gate does not let pass is reserved (R53, R87). -/
noncomputable def instrOf (w : Insn) (s : State) : Instr := if gated w s then .reservedWord w else decodeOrReserved w

/-- The granule of the quad's buffer at an offset is marked (R334). -/
def bufBad (l off : Nat) (s : State) : Bool :=
  let q := s.quadOf s.who l
  s.bad.any (fun e => match e with
    | .laneBuf c k o => c == q.1 && k == q.2 && o / 8 == off / 8
    | _ => false)

/-- A lane thread fetches from the buffer of its quad (R82, R84). A word that is reserved for it reads no register (R56). -/
noncomputable def fetchLane (l : Nat) (s : State) : Fetched :=
  let off := s.pcNow
  if 4096 ≤ off.toNat then .trap (raise ⟨.perm, off, l⟩ s)
  else if bufBad l off.toNat s then .trap (raise ⟨.uncorrectable, regLoc 5 0 l, l⟩ s)
  else
    let w := s.bufWord s.who l off.toNat
    match instrOf w s with
    | .reservedWord v => .ok (.reservedWord v) s
    | i =>
      match laneBad w l s with
      | some t => .trap (raise t s)
      | none => .ok i s

/-- A scalar unit fetches from generic memory (R36, R328), in user mode from the code of its launch alone (R35; DEDUCED, log
38). -/
noncomputable def fetchScalar (s : State) : Fetched :=
  match access s s.who .fetch 4 false s.me.pc with
  | .error e => .trap (raiseMem e 0 s)
  | .ok p =>
    if !s.me.trap.priv && !s.inCode s.me s.me.pc.toNat then .trap (raise ⟨.perm, s.me.pc, 0⟩ s)
    else if s.badByte p.key then .trap (raise ⟨.uncorrectable, memBadVal p.key s.me.pc, 0⟩ s)
    else
      let w := wordOfBytes (s.byte p.key) (s.byte (p.key + 1)) (s.byte (p.key + 2)) (s.byte (p.key + 3))
      .ok (instrOf w s) (noteWalk s.who s.me.pc s)

noncomputable def State.fetch (s : State) : Fetched :=
  match s.agent.lane with
  | some l => fetchLane l s
  | none => fetchScalar s

/-! ### Agents -/

def Run.stalls : Run → Bool
  | .waiting _ => true
  | _ => false

/-- The scalar unit of the hart has a next instruction. -/
def Hart.scalarRuns (h : Hart) : Bool := h.alive && (h.run == .running || h.run == .atLoopEnd || h.run.stalls)

/-- Lane thread l of the hart has one; while a trap handler runs the threads stand still (R88, R315). -/
def Hart.laneRuns (h : Hart) (l : Nat) : Bool :=
  h.alive && !h.trap.priv && h.run != .idle && h.run != .parked && h.run != .gangParked &&
  (match h.threads with
    | some ts => !(ts.toList.getD l ⟨0, true⟩).exited
    | none => false)

def State.canRun (s : State) (a : Agent) : Bool :=
  match a.lane with
  | some l => (s.hart a.who).laneRuns l
  | none => (s.hart a.who).scalarRuns

/-- Agents in a fixed order: the harts, each followed by its lane threads. -/
def Agent.rank (a : Agent) : Nat := (a.who.core.val * 8 + a.who.hart.val) * 64 + (match a.lane with
  | some l => l + 1
  | none => 0)

def State.agentsOf (s : State) (w : Who) : List Agent :=
  if !(s.hart w).alive then []
  else (⟨w, none⟩ :: (List.range 32).map (fun l => (⟨w, some l⟩ : Agent))).filter s.canRun

/-- The next agent that may run, round the order. -/
def State.nextAgent (s : State) : Agent :=
  let l := allWho.flatMap s.agentsOf
  (l.find? (fun a => s.agent.rank < a.rank)).getD (l.headD s.agent)

/-- The next agent's turn. By the end of its turn a hart has seen every write (R393; log 26). -/
def State.rotate (s : State) : State :=
  { s with agent := s.nextAgent, turn := turnSteps, order := s.order.shows (fun b => b.who == s.who) }

/-! ### The boundary before an instruction -/

/-- The window advances of a counter change at the head of the vector stream (R151, R163): none where the scoreboard has no
room. -/
def runAdvance (e : Issued) (s : State) : Option State :=
  let old := ctrIn (e.cap.xs.take 8)
  let new := ctrIn (e.cap.xs.drop 8)
  let s0 := s.modMe (fun h => { h with stream := h.stream.drop 1 })
  let r := (List.range 8).foldl (fun r k =>
    match r with
    | .done s => if old k == new k then r else advanceAll k old new e.seq s allWins
    | r => r) (AdvRes.done s0)
  match r with
  | .done s' => some s'.fencedDone
  | .full s' => if s'.me.reOps.length == s.me.reOps.length then none else some (s'.modMe (fun h => { h with stream := s.me.stream }))
  | .fail w t => some (streamTrap t true e.cap.pc { s0.modMe (fun h => h.clearFailed w) with replay := some e })

/-- How far a request to run the head of the stream as far as element e may go: whole granule rows (R208). The elements of a
VLD stay together, as those of one lane group read one value of a byte (R122); `hide` sets the groups apart. -/
def splitAt (e : Nat) (s : State) : Option Nat :=
  match s.me.stream with
  | [] => none
  | x :: _ => if majorOf x.word == 0x2A then none else some (rowEnd s.me x e)

/-- Elementwise arithmetic: element e of such a member reads element e of its sources (R102 to R108). -/
def chains (w : Insn) : Bool :=
  let m := majorOf w
  (0x22 ≤ m && m ≤ 0x25) || m == 0x27 || (m == 0x26 && fnOf w != 20)

/-- The k-th entry behind the head may run as far as element e while those before it are unfinished: arithmetic, as far as they
have all come, where no flag can trap (R101); a matrix member behind stores that have begun (R206, R208). -/
def mayAhead (h : Hart) (k : Nat) (x : Issued) (e : Nat) : Bool :=
  let before := h.stream.take k
  let plain (y : Issued) : Bool := y.adv.isNone && y.held.isNone
  k != 0 && plain x && before.all plain && before.all (fun y => y.cap.began) &&
  (if majorOf x.word == 0x36 then before.all (fun y => majorOf y.word == 0x2B)
   else
     chains x.word && e < x.cap.vl && h.enables == 0 &&
     before.all (fun y => chains y.word && y.cap.sew == x.cap.sew && e ≤ y.cap.start))

/-- It runs; `run` executes the head of the stream. One that would trap keeps its place. -/
def runAhead (run : State → Option State) (k e : Nat) (s : State) : State :=
  match s.me.stream.drop k with
  | [] => s
  | x :: after =>
    if !mayAhead s.me k x (rowEnd s.me x e) then s
    else
      match run { s.modMe (fun h => { h with stream := x :: (h.stream.take k ++ after) }) with pace := some (rowEnd s.me x e) } with
      | none => s
      | some t =>
        if t.me.trap.seq != s.me.trap.seq then s
        else
          { t.modMe (fun h => match h.stream with
              | y :: ys => if y.seq == x.seq then { h with stream := ys.take k ++ y :: ys.drop k } else h
              | [] => h) with pace := none }

/-- A hard pre-emption stops a started instruction of R49: the rows of its widest operand that it has finished (R324; log 39). -/
def stopAt (s : State) (x : Issued) : Nat :=
  min x.cap.vl (rowEnd s.me x (Config.rowsDone s.fresh * s.me.lanes * 64 / (if majorOf x.word == 0x2E then 64 else x.cap.sew)))

/-- The vector stream stops: the oldest instruction where it may stop part-way, then those that may have followed it
(R324). -/
def stopStream (run : State → Option State) (s : State) : State :=
  match s.me.stream with
  | [] => s
  | x :: rest =>
    if x.adv.isSome || x.held.isSome || !pauses x.word then s
    else
      let s1 := { ((run { s with pace := some (stopAt s x), fresh := s.fresh + 1 }).getD s) with pace := none }
      if s1.me.trap.priv then s1
      else (rest.zipIdx).foldl (fun s y => runAhead run (y.2 + 1) (stopAt s y.1) { s with fresh := s.fresh + 1 }) s1

/-- The head of the stream reads the result of the hart's row operation from granule row r of each register on, then the
operation completes: its cycle C fell between two rows of the read (R208). -/
def straddled (run : State → Option State) (complete : State → State) (num r : Nat) (s : State) : State :=
  match s.myCore.matrix.ops.find? (fun o => o.tag.num == num && o.who == s.who && o.started && !o.away && o.kind.isRow), s.me.stream with
  | some o, x :: _ =>
    if (vecWrites x.word x.cap.vtype).any (fun g => overlaps o.vd.toNat (2 * o.lmul) g.1 g.2) then s
    else
      let cut := 64 * s.me.lanes * r
      let old := s.me
      let mix (h : Hart) : Hart := (List.range (2 * o.lmul)).foldl (fun h i =>
        h.setVreg (o.vd.toNat + i) (setBits (h.vreg (o.vd.toNat + i)) 0 cut (getBits (old.vreg (o.vd.toNat + i)) 0 cut))) (h.writeRow o)
      match run (s.modMe mix) with
      | some t => complete t
      | none => s
  | _, _ => s

/-- At a boundary of the scalar unit: effects on the Harness whose turn has come land (R312); a pending EXCHANGE is raised
(R284); a due hard pre-emption is taken in user mode (R322), where the vector stream has first stopped
(R324). None where none of them is possible now. -/
def boundary (run : State → Option State) (s : State) : Option State :=
  let s1 := landLate s.me.late s
  if s1.me.late.length != s.me.late.length then some s1
  else
    match s.me.xpend with
    | t :: ts =>
      if s.me.allDone then some (trapAt t t.cause.squash s.pcNow (s.modMe (fun h => { h with xpend := ts }))) else none
    | [] =>
      if s.me.hardNow && !s.me.trap.priv then
        let s2 := stopStream run s
        if s2.me.trap.priv then some s2
        else
          match saveContext s2.who s2.me.pc s2 with
          | .saved s' => some s'
          | .trap _ _ _ => some (takeHard s2.who s2)
          | _ => none
      else none

/-- The scalar unit may go on to its next instruction: nothing is pending that it must first wait for. A context that
cannot be saved does not hold its hart (log 25). -/
def mayIssue (s : State) : Bool :=
  s.me.xpend.isEmpty && s.me.run == .running &&
  (!(s.me.hardNow && !s.me.trap.priv) || (match saveContext s.who s.me.pc s with
    | .later => false
    | _ => true))

/-! ### Events of the device that may be due -/

noncomputable def reCandidate (s : State) (w : Who) (o : ReOp) : Instr :=
  if o.todo || (!o.out.isEmpty && o.failed.isNone) then .writebackPerformed w o.tag.num
  else if ((s.hart w).win o.win).strm && !o.slabs.isEmpty then .streamRowEnter w o.tag.num
  else .slabLanded w o.tag.num 0

noncomputable def xCandidates (s : State) (w : Who) (o : XOp) : List Instr :=
  let p := chanWho o.chan
  let here := chanDev o.chan == s.dev.toNat
  let refused : List Instr :=
    (if here && (s.groupOfHart p).isSome && s.foreign w p then [.exchangeRefused w o.tag.num false] else []) ++
    (if s.noPath then [.exchangeRefused w o.tag.num true] else [])
  match o.kind with
  | .send => (if here then [.exchangePairTransfer w p ⟨BitVec.ofNat 16 (chanTag o.chan), none⟩] else []) ++ refused
  | .recv => refused
  | .ring =>
    (s.mailOf w).map (fun m => .ringStepMessage w ⟨m.dev, m.src⟩ ⟨m.rev, m.step⟩ m.bytes) ++
    (if chanDev o.pred != s.dev.toNat && (ringRound s w o.rev).2 then [] else [.ringCommit w]) ++
    (if (ringRound s w o.rev).1.any (ringLost s w o.rev) then [.ringAbortNotice w o.rev] else []) ++
    (if s.noPath then [.exchangeRefused w o.tag.num true] else [])

noncomputable def hartCandidates (s : State) (w : Who) : List Instr :=
  let h := s.hart w
  if h.launch.isNone then []
  else
    h.reOps.map (reCandidate s w) ++
    (allStacks.filter (fun i => !h.itOps.isEmpty || !h.pulls.isEmpty || (h.iter i).st == .sealed || (h.iter i).st == .bound)).map (.iteratorTableRead w) ++
    (if h.stream.isEmpty then [] else [.attnBlock w, .kvWalkerReadReturn w]) ++
    h.xops.flatMap (xCandidates s w) ++
    (if h.run == .atLoopEnd then [.loopWrap w] else []) ++
    (if h.hardNow then [.hardPreemption w] else [])

/-- An output of the core would fire for a consumer, or for itself and spend the count of a counter (R261). -/
def fires (s : State) (c : CoreId) : Bool :=
  (List.range 16).any (fun o =>
    let h := (s.core c).harness
    let w := h.hout.toList.getD o 0
    w.getLsbD 63 &&
    (match firingProduct h (bitsOf w 48 4) with
      | none => false
      | some mask =>
        (w.getLsbD 62 && (List.range 16).any (fun i =>
          let x := h.hcnt.toList.getD i 0
          mask.testBit i && x.getLsbD 62 && bitsOf x 32 16 != 0)) ||
        !(s.heldOn c (BitVec.ofNat 4 o)).isEmpty || !(s.waiters c (BitVec.ofNat 4 o)).isEmpty))

noncomputable def coreCandidates (s : State) (c : CoreId) : List Instr :=
  let k := s.core c
  (if !k.harness.pulses.isEmpty || fires s c then [.harnessCycle ⟨c, 1⟩] else []) ++
  (match (k.hart 0).run with
    | .waiting (.gang _) => [.gangFormed c]
    | _ => []) ++
  (if k.matrix.ops.any (fun o => !o.started && !o.away) then [.matrixOpStart c] else []) ++
  (k.matrix.ops.filter (·.started)).map (fun o => .matrixOpComplete c o.tag.num)

noncomputable def launchCandidates (s : State) : List Instr :=
  s.launches.flatMap (fun l =>
    ((List.range l.places.length).filter (fun i => !(l.places.getD i ⟨[], true⟩).started)).map (fun i => .placeStart l.id i) ++
    (if launchOver s l then [.launchRetire l.id] else [])) ++
  s.queues.flatMap (fun q =>
    (if q.records.isEmpty then [] else [.completionRecordWrite q.num]) ++ (if q.wants.isSome then [.queueSwapIn q.num] else []) ++
    (if q.drained then [] else [.transferDispatch q.num, .packetDispatch q.num (Config.imageAreas s.fresh)])) ++
  s.transfers.map (fun t => .transferRetire t.id) ++
  (s.pool.filter (fun c => c.launch.isNone)).map (fun c => .childDispatch c.id (Config.imageAreas s.fresh)) ++
  (s.saved.filter (·.ready.isSome)).flatMap (fun x => (x.home.core :: allCores).map (fun c => .contextRestore x.id ⟨c, x.home.hart⟩))

/-- The events that the device itself may take next, but for those that only the passing of time brings. -/
noncomputable def dueEvents (s : State) : List Instr :=
  s.stores.map (fun t => .accessPerformed t.who t.id) ++ allWho.flatMap (hartCandidates s) ++ allCores.flatMap (coreCandidates s) ++
  launchCandidates s

/-- The events that the passing of time brings to a hart. -/
noncomputable def timeEventsOf (s : State) (w : Who) : List Instr :=
  if (s.hart w).launch.isNone then []
  else [.wfeTimeout w, .parentStallSwap w, .preemptLeftExpiry w, .supervisorPreemptTimeout w] ++
    (s.hart w).xops.map (fun o => .exchangeWatchdogExpiry w o.tag.num)

/-- Those of every hart: they come once no agent can go on and no other event is due (log 26). -/
noncomputable def timeEvents (s : State) : List Instr := allWho.flatMap (timeEventsOf s)

/-- How many agents there are to take a turn. -/
def State.turns (s : State) : Nat := (allWho.flatMap s.agentsOf).length

/-! ### Loads that later stores overtake (R392) -/

/-- The register, bank and bytes of the scalar load that the current agent executes next; none where it traps or writes no
register. -/
def lateLoad (i : Instr) (s : State) : Option LateLoad :=
  let go (d a : XReg) (o : BitVec 13) (size : Nat) (signed : Bool) : Option LateLoad :=
    match access s s.who .load size false (s.x a + sext13 o) with
    | .ok p => if d == 0 then none else some ⟨s.who, d, s.me.supBank, p.key, size, signed⟩
    | .error _ => none
  match i with
  | .ldb d a o => go d a o 1 true
  | .ldh d a o => go d a o 2 true
  | .ldw d a o => go d a o 4 true
  | .ldd d a o => go d a o 8 false
  | .ldbn d a o => go d a o 1 false
  | .ldhn d a o => go d a o 2 false
  | .ldwn d a o => go d a o 4 false
  | _ => none

def State.addLoad (l : Option LateLoad) (s : State) : State :=
  match l with
  | some l => { s with order := { s.order with loads := s.order.loads ++ [l] } }
  | none => s

/-- The register takes what the load reads now. -/
def bindLoad (s : State) (l : LateLoad) : State :=
  let n := s.ownN l.who .scalar l.key l.size
  let v := if l.signed then signExt (8 * l.size) n else zeroExt n
  (s.sawBytes l.who ((List.range l.size).map (l.key + ·))).modHart l.who (fun h =>
    if l.sup then { h with xs := h.xs.set l.d.toNat v l.d.isLt } else { h with xu := h.xu.set l.d.toNat v l.d.isLt })

/-- Every such load is performed. -/
def bindLoads (s : State) : State :=
  let s1 := s.order.loads.foldl bindLoad s
  { s1 with order := { s1.order with loads := [] } }

/-- The scalar registers that a store reads; none for another instruction. -/
def storeReads (i : Instr) : Option (List XReg) :=
  match i with
  | .stb d a _ | .sth d a _ | .stw d a _ | .std d a _ => some [d, a]
  | _ => none

/-- The instruction may be executed while loads stand open: a store that reads none of the registers that its hart's loads
write; of another hart, a load too. -/
def overtakes (i : Instr) (s : State) : Bool :=
  let mine := s.order.loads.filter (fun l => l.who == s.who)
  match storeReads i with
  | some rs => mine.all (fun l => !rs.contains l.d)
  | none => mine.isEmpty && (lateLoad i s).isSome

/-- What the instruction did leaves the loads open: it raised no trap, and no store since reaches one of their bytes. -/
def openAfter (s s' : State) : Bool :=
  s'.me.trap.seq == s.me.trap.seq && s'.agent == s.agent &&
  (s'.stores.drop s.stores.length).all (fun t => s.order.loads.all (fun l =>
    t.who != l.who || t.cells.all (fun c => c.1 < l.key || l.key + l.size ≤ c.1)))

/-! ### Placing one instruction for the next step -/

/-- The code page that withFetchWord uses: its virtual page, and its place in partition 0. -/
def fetchVa : Word := 0x1000
def fetchKey : Nat := devKey 0 0x1000

/-- A range entry that maps the code page readable and executable. -/
def fetchRange : List Word := [0x1001, 0x1000, 0x1028, 0]

/-- Hart 0 of core 0 as R24 starts a hart of a launch, at the code page. -/
def fetchHart (id : Nat) (h : Hart) : Hart :=
  { h with
    run := .running, pc := fetchVa, launch := some id, active := [], stream := [], late := [], xpend := [], threads := none
    capBase := 0x2000, sup := { h.sup with hard := false, hardReq := false, soft := false } }

/-- The four bytes of a word at the code page. -/
def placeWord (w : Insn) (s : State) : State := s.writeCells (cellsAt fetchKey (bytesOf 4 w.toNat))

end Sys2Proof.Machine
end

