-- ==== Sys2Proof/Machine/Step.lean ====
section
/-!
DEFINITION. One step of the device: what the agenda names, or the current agent's next instruction, or an event that is
due; and the placing of an instruction for the next step.
-/

namespace Sys2Proof.Machine

/-- The current agent's next instruction is fetched and executed. -/
noncomputable def stepWord (s : State) : Out :=
  match s.fetch with
  | .trap o => o
  | .ok i s' => exec i s'

/-- The instruction at the head of the current hart's vector stream is executed, none where it cannot go on yet. -/
noncomputable def stepStream (s : State) : Option State :=
  match s.me.stream with
  | [] => none
  | e :: rest =>
    if e.held.isSome then none
    else if e.adv.isSome then runAdvance e s
    else
      match exec (decodeOrReserved e.word) { s.modMe (fun h => { h with stream := rest }) with replay := some e } with
      | .next s' => if s'.replay.isSome || s' == s then none else some s'
      | _ => none

/-- The first of the events that changes the state. -/
noncomputable def firstEvent (l : List Instr) (s : State) : Option State :=
  l.findSome? (fun i =>
    match exec i s with
    | .next s' => if s' == s then none else some { s' with idleTurns := 0 }
    | _ => none)

/-- The end of an agent's turn: each event that is due comes, and the next agent has its turn. -/
noncomputable def turnOver (s : State) : State :=
  ((dueEvents s).foldl (fun s' i =>
    match exec i s' with
    | .next t => t
    | _ => s') s).rotate

/-- Nothing could go on in this turn: the next agent's turn. Once every agent has had such a turn, time passes. -/
noncomputable def stepQuiet (s : State) : State :=
  if s.idleTurns < s.turns then { s.rotate with idleTurns := s.idleTurns + 1 }
  else (firstEvent (timeEvents s) s).getD s.rotate

/-- A scalar unit that waits: an event that is due, else its instruction again, else another agent's turn. -/
noncomputable def stepWaiting (s : State) : Out :=
  match firstEvent (dueEvents s) s with
  | some s' => .next s'
  | none =>
    if s.me.run.stalls && s.me.xpend.isEmpty then
      match stepWord s with
      | .next s' => .next (if s'.me.run.stalls then stepQuiet s' else s')
      | o => o
    else .next (stepQuiet s)

/-- A scalar unit's turn. -/
noncomputable def stepScalar (s : State) : Out :=
  match boundary stepStream s with
  | some s' => .next s'
  | none =>
    match stepStream s with
    | some s' => .next { s' with idleTurns := 0 }
    | none => if mayIssue s then stepWord { s with idleTurns := 0 } else stepWaiting s

/-- The current agent's turn; where it cannot run, an event or another agent's. -/
noncomputable def stepAgent (s : State) : Out :=
  if !s.canRun s.agent then
    match firstEvent (dueEvents s) s with
    | some s' => .next s'
    | none => .next (stepQuiet s)
  else
    match s.agent.lane with
    | some _ => stepWord { s with idleTurns := 0 }
    | none => stepScalar s

/-- The head of the vector stream runs as far as element e (R101, R208). -/
noncomputable def stepTo (e : Nat) (s : State) : State :=
  match splitAt e s with
  | none => s
  | some e' => { ((stepStream { s with pace := some e' }).getD s) with pace := none }

/-- The scalar unit's next instruction; a member of the vector stream only issues (R20). -/
noncomputable def stepIssue (s : State) : Out :=
  if s.agent.lane.isNone && s.canRun s.agent && mayIssue s then
    match stepWord { s with pace := some 0 } with
    | .next s' => .next { s' with pace := none }
    | o => o
  else .next s

/-- The row operation completes. -/
noncomputable def completeRow (num : Nat) (s : State) : State :=
  match exec (.matrixOpComplete s.who.core num) s with
  | .next t => t
  | _ => s

/-- The scalar unit's next instruction; where it is a load, its bytes are read again later (R392). -/
noncomputable def stepDefer (s : State) : Out :=
  if s.agent.lane.isNone && s.canRun s.agent && mayIssue s && s.me.stream.isEmpty then
    match s.fetch with
    | .trap o => o
    | .ok i s1 =>
      match exec i s1 with
      | .next s' => .next (if s'.me.trap.seq == s.me.trap.seq then s'.addLoad (lateLoad i s1) else s')
      | o => o
  else .next s

/-- What the agenda names; with nothing there, the current agent's turn, for as many steps as it has left. -/
noncomputable def stepFree (s : State) : Out :=
  match s.agenda with
  | .event i :: r => exec i { s with agenda := r }
  | .agent a :: r => .next { s with agenda := r, agent := a, turn := turnSteps }
  | .upTo e :: r => .next (stepTo e { s with agenda := r })
  | .ahead k e :: r => .next (runAhead stepStream k e { s with agenda := r })
  | .straddle num row :: r => .next (straddled stepStream (completeRow num) num row { s with agenda := r })
  | .queue :: r => stepIssue { s with agenda := r }
  | .defer :: r => stepDefer { s with agenda := r }
  | .hide o :: r => .next { s with agenda := r, order := { s.order with hide := o :: s.order.hide } }
  | .see o :: r => .next { s with agenda := r, order := s.order.shows (· == o) }
  | [] => if s.turn == 0 then .next (turnOver s) else stepAgent { s with turn := s.turn - 1 }

/-- The step leaves the loads open that stand so: a store performed, a change of agent or of what an observer sees, or the next
instruction of a scalar unit with nothing else to do. -/
noncomputable def leavesOpen (s : State) : Bool :=
  match s.agenda with
  | .event (.accessPerformed _ _) :: _ => true
  | .agent _ :: _ | .hide _ :: _ | .see _ :: _ => true
  | _ :: _ => false
  | [] =>
    s.turn != 0 && s.agent.lane.isNone && s.canRun s.agent && (boundary stepStream s).isNone && s.me.stream.isEmpty && mayIssue s &&
    (match s.fetch with
      | .ok i s1 => overtakes i s1
      | .trap _ => false)

/-- One step: loads that a store has overtaken are performed before anything else than such a store (R392). -/
noncomputable def step (s : State) : Host.Outcome State Fault Refusal :=
  if s.order.loads.isEmpty then stepFree s
  else if leavesOpen s then
    match stepFree s with
    | .next s' => if openAfter s s' || !s.agenda.isEmpty then .next s' else stepFree (bindLoads s)
    | o => o
  else stepFree (bindLoads s)

/-- The state in which step runs the given instruction next: hart 0 of core 0 of a launch on partition 0 fetches it. -/
def State.withFetchWord (s : State) (nbits w : Nat) : State :=
  let l : Launch := { Launch.blank s.nextId 0 0 0 0 with places := [⟨[0], true⟩], code := [(fetchVa, 4)] }
  let s1 := placeWord (BitVec.ofNat 32 (w % 2 ^ nbits)) s
  let s2 := s1.modHart ⟨0, 0⟩ (fetchHart s.nextId)
  { s2.modCore 0 (fun k => { k with ranges := [fetchRange] }) with
    parts := s2.parts.set 0 ⟨1, [[0], [0], [0], [0]], [[], [], [], []], true⟩
    nextId := s.nextId + 1, launches := l :: s2.launches, agent := ⟨⟨0, 0⟩, none⟩, agenda := [], turn := turnSteps, order := Order.idle, replay := none, pace := none }

end Sys2Proof.Machine
end

