-- ==== Sys2Proof/Safety.lean ====
section
/-!
DEFINITION. The terms that claims about the machine use: on whose behalf an instruction runs, what stands in the vector
stream, how an instruction completes, and the invariant of the state.
-/

namespace Sys2Proof.Machine

/-- The scalar unit of the current hart executes: neither a lane thread nor a queued vector instruction (R21, R312). A member
of the vector stream that can execute at once does so. -/
abbrev State.OnScalar (s : State) : Prop := s.replay = none ∧ s.agent.lane = none ∧ s.pace = none

/-- The scalar unit executes, no vector instruction of the hart is outstanding, every INEXT and WNEXT has its group (R312,
R324), and no store that a FENCE at hart scope orders is left (R248). -/
abbrev State.Quiet (s : State) : Prop :=
  s.OnScalar ∧ s.me.stream = [] ∧ s.me.pulls.all (·.formed) = true ∧
  s.stores.all (fun t => t.who != s.who || !t.fenced) = true

/-- Quiet, with no granule marked uncorrectable (R334), no XRECV, INEXT or WNEXT that a register could wait for (R189,
R277), and no write that some observer has yet to see (R394). -/
abbrev State.Ready (s : State) : Prop :=
  s.Quiet ∧ s.bad = [] ∧ s.me.pulls = [] ∧ s.me.xops.all (fun o => o.kind != .recv) = true ∧ s.order.lag = []

/-- No trap of FCR is enabled (R98, R99). -/
abbrev State.FpQuiet (s : State) : Prop := s.me.enables = 0

/-- The instruction has its own effect, which leads to u, and completes there at the next word (R68, R80). -/
abbrev Completes (i : Instr) (s u : State) : Prop := exec i s = .next (finish u)

/-- The instruction has its own effect, which leads to u, and control goes from there to p (R65, R68, R80). -/
abbrev CompletesAt (i : Instr) (p : Word) (s u : State) : Prop := exec i s = .next (complete p u)

/-- The instruction raises trap t at itself: every effect is that of the trap entry (R312, R315). -/
abbrev Traps (i : Instr) (t : Trap) (s : State) : Prop := exec i s = .next (trapAt t t.cause.squash s.pcNow s)

/-- The instruction traps at itself, its word in TRAPVAL (R311). -/
abbrev TrapsWord (i : Instr) (c : Cause) (s : State) : Prop := Traps i ⟨c, (encodeWord i).zeroExtend 64, 0⟩ s

/-- A vector member raises trap t where the stream executes it; a page request that it sent stays with the trap (R312,
R339). -/
abbrev StreamTraps (i : Instr) (t : Trap) (s : State) : Prop := exec i s = .next (streamTrap t t.cause.squash s.pcNow s)

/-- The instruction stays where it is, and its hart waits (R31, R255, R321). -/
abbrev Waits (i : Instr) (w : Wait) (s : State) : Prop := exec i s = .next (s.setMe { s.me with run := .waiting w })

/-- Hart w has nothing under way: no queued instruction, window, iterator stack, operation, child or store, and no store
that was lost (R74, R249). -/
abbrev State.CalmAt (s : State) (w : Who) : Prop :=
  (s.hart w).stream = [] ∧ (∀ i, ((s.hart w).win i).st = .unbound) ∧ (∀ i, ((s.hart w).iter i).st = .free) ∧
  s.quiet w = true ∧ s.storesOf w = [] ∧ (s.hart w).lost = none

/-- The lanes, die segments and length of a hart are such as R19, R90 and R97 let them be. -/
abbrev Hart.Shaped (h : Hart) : Prop :=
  1 ≤ h.lanes ∧ h.lanes ≤ 2048 ∧ 1 ≤ h.segs ∧ h.segs ∣ h.lanes ∧ h.vl ≤ vlmaxOf h.lanes h.vtype

/-- The flags of the active elements that run, accrued to those of the hart (R99). -/
def Hart.accrued (h : Hart) (k : MReg) (fl : Nat → Flags) : Flags :=
  ((List.range' h.vstart (h.vl - h.vstart)).filter (h.isActive k)).foldl (fun acc e => acc ||| fl e) h.fflags

/-- What element e of a destination holds after an elementwise member, by R48 to R50: the tail, the elements before
VSTART, the active ones and the masked-off ones. -/
def Hart.elementAfter {α : Type} (h : Hart) (k : MReg) (zero old new : α) (e : Nat) : α :=
  if h.vl ≤ e then (if taOf h.vtype then zero else old)
  else if e < h.vstart then old
  else if h.isActive k e then new
  else if maOf h.vtype then zero else old

/-- Instruction i completes from s with hart h as it stands but for the vector group at d, whose elements of width w take
f under mask k, its flags accrued and VSTART cleared (R48 to R50, R99). Registers outside the group stay. -/
def WritesElements (i : Instr) (s : State) (h : Hart) (d : VReg) (w : Nat) (k : MReg) (f : Nat → Nat × Flags) : Prop :=
  ∃ v, Completes i s (s.setMe { h with v := v, vstart := 0, fflags := h.accrued k (fun e => (f e).2) }) ∧
    (∀ e, e * w < h.lanes * 1024 * emulOf h.vtype w →
      Hart.elem { h with v := v } d.toNat e w =
        h.elementAfter k 0 (h.elem d.toNat e w) ((f e).1 % 2 ^ w) e) ∧
    (∀ r, (r < d.toNat ∨ d.toNat + emulOf h.vtype w ≤ r) → Hart.vreg { h with v := v } r = h.vreg r)

/-- The same for a mask destination (R48, R104). -/
def WritesMask (i : Instr) (s : State) (m k : MReg) (f : Nat → Bool × Flags) : Prop :=
  let h := s.me
  ∃ ms, Completes i s (s.setMe { h with m := ms, vstart := 0, fflags := h.accrued k (fun e => (f e).2) }) ∧
    (∀ e, Hart.maskBit { h with m := ms } m e = h.elementAfter k false (h.maskBit m e) (f e).1 e) ∧
    (∀ j, j ≠ m → Hart.mreg { h with m := ms } j = h.mreg j)

/-- The magnitude that a code of a binary format below the infinity has; at the infinity's code, the power of two beyond
the largest (R50). -/
def FFmt.magnitude (f : FFmt) (c : Nat) : ℚ :=
  ((if c / 2 ^ f.mb = 0 then 0 else 2 ^ f.mb) + c % 2 ^ f.mb : Nat) *
    (2 : ℚ) ^ (f.emin - f.mb + (max (c / 2 ^ f.mb) 1 - 1 : Nat))

/-- The number that a finite code stands for (R50). -/
def FFmt.value (f : FFmt) (c : Nat) : ℚ :=
  (if c / f.signBit % 2 = 1 then -1 else 1) * f.magnitude (c % f.signBit)

/-- The code and flags r are what IEEE 754 gives in a mode for a number other than zero, of sign `neg`, where `against q`
compares q with its magnitude: the neighbouring code below, or the next one away from zero, by the mode (R50, R98). Inexact sets
NX, a result beyond the largest OF with it, and one still below the least normal number when rounded with no bound on the
exponent UF with it. -/
def FFmt.Rounds (f : FFmt) (mode : BitVec 3) (neg : Bool) (against : ℚ → Ordering) (r : Nat × Flags) : Prop :=
  ∃ lo, lo < f.infCode ∧ against (f.magnitude lo) ≠ .gt ∧ (∀ c, c < f.infCode → against (f.magnitude c) ≠ .gt → c ≤ lo) ∧
    let inexact := against (f.magnitude lo) ≠ .eq
    let away (l h : ℚ) (odd : Bool) : Bool := match mode.toNat with
      | 1 => false
      | 2 => neg
      | 3 => !neg
      | 4 => against ((l + h) / 2) != .gt
      | _ => against ((l + h) / 2) == .lt || (against ((l + h) / 2) == .eq && odd)
    let up := inexact ∧ away (f.magnitude lo) (f.magnitude (lo + 1)) (lo % 2 == 1)
    let least := (2 : ℚ) ^ f.emin
    let below := least - (2 : ℚ) ^ (f.emin - 1 - f.mb)
    r.1 = signed f neg (if up then lo + 1 else lo) ∧
    r.2 = (if inexact then fNX else 0) |||
      (if inexact ∧ (up ∧ lo + 1 = f.infCode ∨ against (f.magnitude f.infCode) ≠ .gt) then fOF else 0) |||
      (if inexact ∧ against least = .gt ∧ ¬ (against below = .lt ∧ away below least true) then fUF else 0)

/-- The same for any rational number; a zero is one of either sign, without flags. -/
def FFmt.RoundsQ (f : FFmt) (mode : BitVec 3) (x : ℚ) (r : Nat × Flags) : Prop :=
  if x = 0 then r.1 % f.signBit = 0 ∧ r.2 = 0 else f.Rounds mode (x < 0) (fun q => cmp q |x|) r

/-- The invariant of a run: generic memory and the scratch of every core keep their one form, rising keys and no byte
equal to what an unlisted one reads as. -/
abbrev State.Inv (s : State) : Prop := Memory.wf s.mem = true ∧ ∀ c, Memory.wf (s.core c).scratch = true

end Sys2Proof.Machine
end

