-- ==== Sys2Proof/Certificates/Slice0/Obligations.lean ====
section
/-!
DEFINITION. The statements for the provers, from the spec's numbered rules. Where a value or a behaviour is the model's
choice, the docstring names the log entry.
-/

open Sys2Proof Sys2Proof.Machine

/-! ### Scalar registers, arithmetic and control -/

/-- R19: x0 reads as zero and discards writes, on the scalar unit and in a lane thread; any other register reads back
what was written, and no other register changes. -/
def Obligations.ScalarRegisterReadAfterWrite : Prop :=
  ∀ (s : State) (d r : XReg) (v : Word), (∀ l, s.agent.lane = some l → l < 32) →
    s.x 0 = 0 ∧ s.setX 0 v = s ∧ (d ≠ 0 → (s.setX d v).x d = v) ∧ (r ≠ d → (s.setX d v).x r = s.x r)

/-- R59: what each arithmetic, logic, shift, compare and count member writes to xd. R59, R60: quotients and remainders,
division by zero and the overflow of -2^63 by -1 among them; none traps. R61, R62: the immediate and bit-field
members. Bits [pos+len-1 : pos] of a word are the word over 2^pos, modulo 2^len; the immediate of BFX and BFI holds
len - 1. -/
def Obligations.ScalarArithmeticResults : Prop :=
  (
    ∀ (s : State) (d a b : XReg),
      let ua := (s.x a).toNat
      let ub := (s.x b).toNat
      let sa := (s.x a).toInt
      let sb := (s.x b).toInt
      let sh := ub % 64
      Completes (.add d a b) s (s.setX d (s.x a + s.x b)) ∧
      Completes (.sub d a b) s (s.setX d (s.x a - s.x b)) ∧
      Completes (.and d a b) s (s.setX d (s.x a &&& s.x b)) ∧
      Completes (.or d a b) s (s.setX d (s.x a ||| s.x b)) ∧
      Completes (.xor d a b) s (s.setX d (s.x a ^^^ s.x b)) ∧
      Completes (.sll d a b) s (s.setX d (BitVec.ofNat 64 (ua * 2 ^ sh))) ∧
      Completes (.srl d a b) s (s.setX d (BitVec.ofNat 64 (ua / 2 ^ sh))) ∧
      Completes (.sra d a b) s (s.setX d (BitVec.ofInt 64 (sa / 2 ^ sh))) ∧
      Completes (.slt d a b) s (s.setX d (if sa < sb then 1 else 0)) ∧
      Completes (.sltn d a b) s (s.setX d (if ua < ub then 1 else 0)) ∧
      Completes (.mul d a b) s (s.setX d (BitVec.ofNat 64 (ua * ub))) ∧
      Completes (.mulh d a b) s (s.setX d (BitVec.ofInt 64 (sa * sb / 2 ^ 64))) ∧
      Completes (.mulhn d a b) s (s.setX d (BitVec.ofNat 64 (ua * ub / 2 ^ 64))) ∧
      Completes (.min d a b) s (s.setX d (BitVec.ofInt 64 (min sa sb))) ∧
      Completes (.max d a b) s (s.setX d (BitVec.ofInt 64 (max sa sb))) ∧
      Completes (.minn d a b) s (s.setX d (BitVec.ofNat 64 (min ua ub))) ∧
      Completes (.maxn d a b) s (s.setX d (BitVec.ofNat 64 (max ua ub))) ∧
      Completes (.rol d a b) s (s.setX d ((s.x a).rotateLeft sh)) ∧
      Completes (.ror d a b) s (s.setX d ((s.x a).rotateRight sh)) ∧
      Completes (.clz d a) s (s.setX d (BitVec.ofNat 64 (((List.range 64).find? (fun i => (s.x a).getLsbD (63 - i))).getD 64))) ∧
      Completes (.ctz d a) s (s.setX d (BitVec.ofNat 64 (((List.range 64).find? (fun i => (s.x a).getLsbD i)).getD 64))) ∧
      Completes (.popc d a) s (s.setX d (BitVec.ofNat 64 ((List.range 64).filter (fun i => (s.x a).getLsbD i)).length)) ∧
      Completes (.fshl d a b) s (s.setX d (BitVec.ofNat 64 (((s.x d).toNat * 2 ^ 64 + ua) / 2 ^ (64 - sh)))) ∧
      Completes (.fshr d a b) s (s.setX d (BitVec.ofNat 64 ((ua * 2 ^ 64 + (s.x d).toNat) / 2 ^ sh)))) ∧
  (
    ∀ (s : State) (d a b : XReg),
      let x := s.x a
      let y := s.x b
      Completes (.div d a b) s (s.setX d (if y = 0 then BitVec.allOnes 64 else BitVec.ofInt 64 (x.toInt.tdiv y.toInt))) ∧
      Completes (.rem d a b) s (s.setX d (if y = 0 then x else BitVec.ofInt 64 (x.toInt.tmod y.toInt))) ∧
      Completes (.divn d a b) s (s.setX d (if y = 0 then BitVec.allOnes 64 else BitVec.ofNat 64 (x.toNat / y.toNat))) ∧
      Completes (.remn d a b) s (s.setX d (if y = 0 then x else BitVec.ofNat 64 (x.toNat % y.toNat)))) ∧
  (
    ∀ (s : State) (d a b : XReg) (i : BitVec 16) (n p : BitVec 6) (u : BitVec 21),
      let x := s.x a
      let len := n.toNat + 1
      let f := x.toNat / 2 ^ p.toNat % 2 ^ len
      let q := (s.x b).toNat % 64
      let top := min (q + (s.x b).toNat / 64 % 64 + 1) 64
      let g := x.toNat / 2 ^ q % 2 ^ (top - q)
      Completes (.addi d a i) s (s.setX d (x + i.signExtend 64)) ∧
      Completes (.slti d a i) s (s.setX d (if x.toInt < i.toInt then 1 else 0)) ∧
      Completes (.andi d a i) s (s.setX d (x &&& i.zeroExtend 64)) ∧
      Completes (.ori d a i) s (s.setX d (x ||| i.zeroExtend 64)) ∧
      Completes (.xori d a i) s (s.setX d (x ^^^ i.zeroExtend 64)) ∧
      Completes (.slli d a n) s (s.setX d (BitVec.ofNat 64 (x.toNat * 2 ^ n.toNat))) ∧
      Completes (.srli d a n) s (s.setX d (BitVec.ofNat 64 (x.toNat / 2 ^ n.toNat))) ∧
      Completes (.srai d a n) s (s.setX d (BitVec.ofInt 64 (x.toInt / 2 ^ n.toNat))) ∧
      Completes (.lui d u) s (s.setX d (BitVec.ofInt 64 (u.toInt * 2 ^ 16))) ∧
      Completes (.auipc d u) s (s.setX d (s.pcNow + BitVec.ofInt 64 (u.toInt * 2 ^ 16))) ∧
      (p.toNat + len ≤ 64 →
        Completes (.bfx d a n p) s (s.setX d (BitVec.ofNat 64 f)) ∧
        Completes (.bfxS d a n p) s (s.setX d (BitVec.ofInt 64 (if f < 2 ^ n.toNat then (f : Int) else (f : Int) - 2 ^ len))) ∧
        Completes (.bfi d a n p) s (s.setX d
          (BitVec.ofNat 64 ((s.x d).toNat - (s.x d).toNat / 2 ^ p.toNat % 2 ^ len * 2 ^ p.toNat + x.toNat % 2 ^ len * 2 ^ p.toNat)))) ∧
      Completes (.bextn d a b) s (s.setX d (BitVec.ofNat 64 g)) ∧
      Completes (.bext d a b) s (s.setX d
        (BitVec.ofInt 64 (if g < 2 ^ (top - q - 1) then (g : Int) else (g : Int) - 2 ^ (top - q)))))

/-- R68, R80: with no running loop an instruction of the scalar unit counts one retired instruction and goes to the next
word, and one of a lane thread (R84) moves only its thread's offset. R68: at the end of the innermost running loop,
with no window on its counter, a remaining count of zero ends the loop and control falls through; any other wraps to
TOP with the index one up and the count one down. -/
def Obligations.CompletionAndBackEdge : Prop :=
  (
    ∀ (s : State),
      (s.OnScalar → s.me.active = [] →
        finish s = s.setMe { s.me with instret := s.me.instret + 1, pc := s.me.pc + 4, run := .running }) ∧
      (∀ l, s.replay = none → s.agent.lane = some l →
        finish s = s.setMe { s.me with threads := s.me.threads.map (fun ts => ts.setIfInBounds l ⟨s.pcNow + 4, false⟩) })) ∧
  (
    ∀ (s : State) (k : CtrNum), s.Quiet → s.me.active = [k] → (s.me.loop k).endAddr = s.me.pc + 4 →
      (∀ w, (s.me.win w).tied k.toNat = 0) →
      let l := s.me.loop k
      (l.rem = 0 →
        finish s = s.setMe { s.me with instret := s.me.instret + 1, active := [], pc := s.me.pc + 4, run := .running }) ∧
      (l.rem ≠ 0 →
        finish s = s.setMe { s.me.setLoop k ⟨l.cnt + 1, l.rem - 1, l.body, l.endOf, l.changes + 1⟩ with
          instret := s.me.instret + 1, pc := l.top, run := .running, ahead := [] }))

/-- R65, R69: conditional branches and J go to the PC plus four times the offset, and a branch taken, like J, ends every
running loop whose body holds the branch and not the target; an untaken branch goes to the next word. R36, R65: JAL
links the next address in x1, JALR in xd, and neither ends a loop; JALR to an address that is not a multiple of 4
raises MISALIGN at the JALR with the target in TRAPVAL. -/
def Obligations.BranchesAndJumps : Prop :=
  (
    ∀ (s : State) (a b : XReg) (o : BitVec 16) (o' : BitVec 26),
      let t := s.pcNow + BitVec.ofInt 64 (4 * o.toInt)
      let t' := s.pcNow + BitVec.ofInt 64 (4 * o'.toInt)
      let left (t : Word) : State := if s.agent.lane = none then s.modMe (fun h => h.leaveLoops s.pcNow t) else s
      let branch (i : Instr) (c : Prop) : Prop := (c → CompletesAt i t s (left t)) ∧ (¬ c → Completes i s s)
      branch (.beq a b o) (s.x a = s.x b) ∧ branch (.bne a b o) (s.x a ≠ s.x b) ∧
      branch (.blt a b o) ((s.x a).toInt < (s.x b).toInt) ∧ branch (.bge a b o) ((s.x b).toInt ≤ (s.x a).toInt) ∧
      branch (.bltn a b o) ((s.x a).toNat < (s.x b).toNat) ∧ branch (.bgen a b o) ((s.x b).toNat ≤ (s.x a).toNat) ∧
      CompletesAt (.j o') t' s (left t') ∧
      (∀ h p q k, k ∈ (Hart.leaveLoops h p q).active ↔ k ∈ h.active ∧
        ¬ ((h.loop k).top.toNat ≤ p.toNat ∧ p.toNat < (h.loop k).endAddr.toNat ∧
          ¬ ((h.loop k).top.toNat ≤ q.toNat ∧ q.toNat ≤ (h.loop k).endAddr.toNat)))) ∧
  (
    ∀ (s : State) (d a : XReg) (i : BitVec 16) (o : BitVec 26),
      let t := s.x a + BitVec.ofInt 64 i.toInt
      CompletesAt (.jal o) (s.pcNow + BitVec.ofInt 64 (4 * o.toInt)) s (s.setX 1 (s.pcNow + 4)) ∧
      (t.toNat % 4 = 0 → CompletesAt (.jalr d a i) t s (s.setX d (s.pcNow + 4))) ∧
      (t.toNat % 4 ≠ 0 → s.Quiet → Traps (.jalr d a i) ⟨.misalign, t, 0⟩ s))

/-- R67, R71: LOOP, LOOPI and LOOP.S with a count of n. With no window on the counter, n = 0 skips the body; any other n
starts the loop newest, its index at the first index, n - 1 iterations left, its end after the body. R71: LOOP.S on
a counter of no spatial level is illegal. -/
def Obligations.LoopsStart : Prop :=
  (
    ∀ (s : State) (k : CtrNum) (a : XReg) (l : BitVec 16) (n : BitVec 13) (l' : BitVec 10), s.Quiet →
      (∀ w, (s.me.win w).tied k.toNat = 0) →
      let h := s.me
      let top := h.pc + 4
      let past (len : Nat) : Word := top + BitVec.ofNat 64 (4 * len)
      let skipped : State := s.setMe { h with active := h.active.filter (· != k) }
      let started (cnt first : Word) (len : Nat) : State :=
        s.setMe { h.setLoop k {
          cnt := first, rem := cnt - 1, body := BitVec.ofNat 64 (len * 2 ^ 48 + top.toNat % 2 ^ 48 / 4 * 4), endAddr := past len
          changes := (h.loop k).changes + if (h.loop k).cnt = first then 0 else 1 } with
          active := k :: h.active.filter (· != k), ahead := if (h.loop k).cnt = first then h.ahead else [] }
      (s.x a = 0 → exec (.loop k a l) s = .next (complete (past l.toNat) skipped)) ∧
      (s.x a ≠ 0 → exec (.loop k a l) s = .next (complete top (started (s.x a) 0 l.toNat))) ∧
      (n = 0 → exec (.loopi k n l') s = .next (complete (past l'.toNat) skipped)) ∧
      (n ≠ 0 → exec (.loopi k n l') s = .next (complete top (started (n.zeroExtend 64) 0 l'.toNat))) ∧
      (∀ first cnt, h.slices.get k.toFin = some (first, cnt) →
        (cnt = 0 → exec (.loopS k l) s = .next (complete (past l.toNat) skipped)) ∧
        (cnt ≠ 0 → exec (.loopS k l) s = .next (complete top (started cnt first l.toNat))))) ∧
  (
    ∀ (s : State) (k : CtrNum) (l : BitVec 16), s.Quiet → l ≠ 0 → s.me.slices.get k.toFin = none →
      ∃ w : Insn, decode w = .ok (.loopS k l) ∧ Traps (.loopS k l) ⟨.illegalInsn, w.zeroExtend 64, 0⟩ s)

/-- R30, R31, R73, R77: NOP changes nothing; QPUT appends to q0 and waits while it holds 16 entries; QGET pops the
oldest entry of q1 into xd and waits while there is none. A QPUT of user mode whose entry was popped before a trap
discarded it places none (R116, R312; the model's reading, log 70). R31, R112, R113, R116: VPOPC, VPOPQ, VFIRST and
VMVVX push their result into q1 or lq; while the queue is full they wait in the vector stream. -/
def Obligations.NopAndResultQueues : Prop :=
  (
    ∀ (s : State) (d a : XReg), s.agent.lane = none →
      exec .nop s = .next (finish s) ∧
      ((s.me.owed = 0 ∨ s.me.trap.priv = true) →
        (s.me.q0.length < 16 → exec (.qput a) s = .next (finish (s.setMe { s.me with q0 := s.me.q0 ++ [s.x a] }))) ∧
        (16 ≤ s.me.q0.length → exec (.qput a) s = .next (s.setMe { s.me with run := .waiting .queue }))) ∧
      (s.me.owed ≠ 0 → s.me.trap.priv = false →
        exec (.qput a) s = .next (finish (s.setMe { s.me with owed := s.me.owed - 1 }))) ∧
      (∀ v q, s.me.q1 = v :: q → exec (.qget d) s = .next (finish ((s.setMe { s.me with q1 := q }).setX d v))) ∧
      (s.me.q1 = [] → exec (.qget d) s = .next (s.setMe { s.me with run := .waiting .queue }))) ∧
  (
    ∀ (s : State) (m k : MReg) (a : VReg), s.Ready → s.me.vill = false → s.me.vstart = 0 →
      let h := s.me
      let found := (List.range h.vl).filter (fun e => h.isActive k e && h.maskBit m e)
      let n := BitVec.ofNat 64 found.length
      let first := (found.head?.map (fun e => BitVec.ofNat 64 e)).getD (BitVec.allOnes 64)
      let zeroth := BitVec.ofNat 64 (h.elem a.toNat 0 (sewOf h.vtype))
      (h.q1.length < 16 → exec (.vpopc m k) s = .next (finish (s.setMe { h with q1 := h.q1 ++ [n] }))) ∧
      (h.q1.length < 16 → exec (.vfirst m k) s = .next (finish (s.setMe { h with q1 := h.q1 ++ [first] }))) ∧
      (h.q1.length < 16 → groupOk h.vtype a.toNat (sewOf h.vtype) = true →
        exec (.vmvvx a) s = .next (finish (s.setMe { h with q1 := h.q1 ++ [zeroth] }))) ∧
      (h.lq.length < 8 → exec (.vpopq m k) s = .next (finish (s.setMe { h with lq := h.lq ++ [n] }))) ∧
      (∀ i, (16 ≤ h.q1.length ∧ i = .vpopc m k) ∨ (8 ≤ h.lq.length ∧ i = .vpopq m k) →
        ∃ u e, Completes i s u ∧ u.me.stream = [e] ∧ e.word = encodeWord i ∧ u.me.q1 = h.q1 ∧ u.me.lq = h.lq ∧ u.me.v = h.v))

/-- R73, R311, R315: BRK and SCALL trap at themselves. The entry saves the cause, the address, the word and PRIV, enters
supervisor mode, counts the trap, and continues at TRAPVEC; every other piece of the hart and of the device stays.
R88, R312, R315: what taking any trap leaves. A trap of the scalar unit or of a lane thread keeps every register of
the hart; TRAPELEM of a lane thread's trap is the lane; the executing agent is the scalar unit again. R312, R313: a
trap of a queued vector instruction discards what issued after it: the queued instructions, the engine operations,
the pulls, the stores and the effects on the Harness of its hart with a later issue number, and puts the scalar
state and the registers that the supervisor wrote back as they stood at its issue; earlier operations and stores,
other harts and memory stay. -/
def Obligations.TrapsAndTheirEntry : Prop :=
  (
    ∀ (s : State), s.Quiet →
      let entered (i : Instr) (c : Byte) (w : Word) : Prop :=
        exec i s = .next (s.setMe { s.me with
          run := .running, pc := s.me.sup.trapVec &&& ~~~(3 : Word), pageReq := none
          trap := { s.me.trap with
            cause := c, pc := s.me.pc, val := w, elem := 0, pp := s.me.trap.priv, priv := true, ux := false, sq := false,
            lt := false, seq := s.me.trap.seq + 1, point := s.me.pc
            stop := if s.me.trap.priv then s.me.trap.stop else s.me.pc
            atEnd := if s.me.trap.priv then s.me.trap.atEnd else decide (s.me.run = .atLoopEnd) } })
      entered .brk 0x0D 0x6C000002 ∧ entered .scall 0x0E 0x6C000003) ∧
  (
    ∀ (s : State) (t : Trap) (sq : Bool) (pc : Word), s.replay = none →
      let u := trapAt t sq pc s
      let h := u.me
      h.trap.cause = t.cause.code ∧ h.trap.pc = pc ∧ h.trap.val = t.val ∧
      h.trap.elem = BitVec.ofNat 24 (s.agent.lane.getD t.elem) ∧ h.trap.pp = s.me.trap.priv ∧ h.trap.priv = true ∧
      h.trap.ux = false ∧ h.trap.sq = sq ∧ h.trap.lt = s.agent.lane.isSome ∧ h.trap.seq = s.me.trap.seq + 1 ∧
      h.pc = s.me.sup.trapVec &&& ~~~(3 : Word) ∧ h.run = .running ∧
      (∃ p r tr, h = { s.me with pc := p, run := r, pageReq := none, trap := tr }) ∧
      u.who = s.who ∧ u.agent.lane = none ∧ u.mem = s.mem ∧ u.stores = s.stores ∧
      (∀ w, w ≠ s.who → u.hart w = s.hart w)) ∧
  (
    ∀ (s : State) (e : Issued) (t : Trap) (sq : Bool) (pc : Word), s.replay = some e →
      let u := trapAt t sq pc s
      let h := u.me
      h.xu = e.snap.xu ∧ h.xs = e.snap.xs ∧ h.loops = e.snap.loops ∧ h.active = e.snap.active ∧ h.q0 = e.snap.q0 ∧
      h.q1 = e.snap.q1 ∧ h.lq = e.snap.lq ∧ h.vtype = e.snap.vtype ∧ h.vl = e.snap.vl ∧ h.instret = e.snap.instret ∧
      h.stream = [] ∧ h.pulls = s.me.pulls.filter (fun p => p.entry.seq ≤ e.seq) ∧
      h.late = s.me.late.filter (fun l => l.1 ≤ e.seq) ∧ h.reOps = s.me.reOps.filter (fun o => o.tag.seq ≤ e.seq) ∧
      h.xops = s.me.xops.filter (fun o => o.tag.seq ≤ e.seq) ∧ h.trap.pc = pc ∧ h.trap.cause = t.cause.code ∧
      h.trap.pp = e.snap.trap.priv ∧ h.sup.trapVec = e.snap.sup.trapVec ∧ h.sup.ceilSup = e.snap.sup.ceilSup ∧
      h.sup.ctxPtr = e.snap.sup.ctxPtr ∧ h.v = s.me.v ∧ h.m = s.me.m ∧
      u.stores = s.stores.filter (fun p => p.who != s.who || p.seq ≤ e.seq) ∧ u.mem = s.mem ∧ u.replay = none ∧
      (∀ w, w ≠ s.who → u.hart w = s.hart w))

/-! ### Scalar memory and lane threads -/

/-- R63, R84: a load writes xd with the bytes at the sum of xa and the offset, little-endian, sign-extended or
zero-extended as its member says; the bytes of the scalar unit's own queued stores come first (R64). A load from
another device's memory goes over a link, and what a load has read an acquire may rest on (R248, R270). A load from
a device page takes a free value, once no vector instruction is outstanding (R312; log 71, DESIGN CHOICE). R63, R64:
a store reads no register but its two and writes none; the scalar unit reads the low bytes of the register back at
the address at once, every other byte as before, and memory itself is still as before. A store to a device page
reaches the device, once no vector instruction is outstanding (R312; log 71, DESIGN CHOICE). R63, R314, R315: an
access that fails changes no register and no byte; the hart traps at the instruction with the cause of the failure
and the address that failed, and the instruction counts as squashed. R314: an address that is not a multiple of the
size is MISALIGN before any other cause, and a 64-bit address above the 56 virtual bits is PERM before the tables
are read. -/
def Obligations.ScalarLoadsAndStores : Prop :=
  (
    ∀ (s : State) (d a : XReg) (o : BitVec 13) (i : Instr) (n : Nat) (sg : Bool) (p : Phys),
      (i, n, sg) ∈ [(.ldb d a o, 1, true), (.ldh d a o, 2, true), (.ldw d a o, 4, true), (.ldd d a o, 8, true),
        (.ldbn d a o, 1, false), (.ldhn d a o, 2, false), (.ldwn d a o, 4, false)] →
      s.agent.lane = none →
      let va := s.x a + BitVec.ofInt 64 o.toInt
      let wide (v : BitVec (8 * n)) : Word := if sg then v.signExtend 64 else v.zeroExtend 64
      access s s.who .load n true va = .ok p →
      (p.tgt ≠ .mmio → s.badByte p.key = false →
        let v := BitVec.ofNat (8 * n) (((List.range n).map (fun j => (s.ownByte s.who .scalar (p.key + j)).toNat * 256 ^ j)).sum)
        let read := ((noteWalk s.who va s).linkTo p.key 1).sawBytes s.who ((List.range n).map (p.key + ·))
        Completes i s (read.setX d (wide v))) ∧
      (p.tgt = .mmio → s.Quiet →
        Completes i s (({ s with fresh := s.fresh + 1, mmio := s.mmio ++ [⟨s.who, p.key, n, none⟩] } : State).setX d
          (wide (BitVec.ofNat (8 * n) (Config.mmioValue s.fresh).toNat))))) ∧
  (
    ∀ (s : State) (r a : XReg) (o : BitVec 13) (i : Instr) (n : Nat) (p : Phys),
      (i, n) ∈ [(.stb r a o, 1), (.sth r a o, 2), (.stw r a o, 4), (.std r a o, 8)] → s.agent.lane = none →
      let va := s.x a + BitVec.ofInt 64 o.toInt
      access s s.who .store n true va = .ok p →
      (p.tgt ≠ .mmio →
        ∃ u, Completes i s u ∧ u.mem = s.mem ∧ (∀ w, u.hart w = s.hart w) ∧
          (∀ j, j < n → u.ownByte s.who .scalar (p.key + j) = (s.x r).extractLsb' (8 * j) 8) ∧
          (∀ k, k < p.key ∨ p.key + n ≤ k → u.ownByte s.who .scalar k = s.ownByte s.who .scalar k) ∧
          (∃ t, u.stores = s.stores ++ [t] ∧ t.who = s.who ∧ t.by' = .scalar ∧ t.cells.map (·.1) = (List.range n).map (p.key + ·))) ∧
      (p.tgt = .mmio → s.Quiet →
        Completes i s { s with mmio := s.mmio ++ [⟨s.who, p.key, n, some ((s.x r).toNat % 256 ^ n)⟩] })) ∧
  (
    ∀ (s : State) (r a : XReg) (o : BitVec 13) (i : Instr) (acc : Acc) (n : Nat) (e : MemErr),
      (i, acc, n) ∈ [(.ldb r a o, .load, 1), (.ldh r a o, .load, 2), (.ldw r a o, .load, 4), (.ldd r a o, .load, 8),
        (.ldbn r a o, .load, 1), (.ldhn r a o, .load, 2), (.ldwn r a o, .load, 4), (.stb r a o, .store, 1),
        (.sth r a o, .store, 2), (.stw r a o, .store, 4), (.std r a o, .store, 8)] →
      s.Quiet → access s s.who acc n true (s.x a + BitVec.ofInt 64 o.toInt) = .error e →
      ∃ u, exec i s = .next u ∧ u.me.trap.cause = e.cause.code ∧ u.me.trap.pc = s.me.pc ∧ u.me.trap.val = e.addr ∧
        u.me.trap.sq = true ∧ u.me.trap.priv = true ∧ u.me.pc = s.me.sup.trapVec &&& ~~~(3 : Word) ∧
        u.me.xu = s.me.xu ∧ u.me.xs = s.me.xs ∧ u.me.v = s.me.v ∧ u.me.m = s.me.m ∧ u.mem = s.mem ∧ u.stores = s.stores) ∧
  (
    ∀ (s : State) (w : Who) (acc : Acc) (n : Nat) (mmio : Bool) (va : Word), n ∈ [1, 2, 4, 8] →
      (va.toNat % n ≠ 0 → access s w acc n mmio va = .error ⟨.misalign, va, none, acc.writes⟩) ∧
      (va.toNat % n = 0 → 2 ^ 56 ≤ va.toNat → access s w acc n mmio va = .error ⟨.perm, va, none, acc.writes⟩) ∧
      (∀ e, access s w acc n mmio va = .error e →
        e.cause ∈ [.misalign, .perm, .notPresent, .compressed] ∧ e.addr = va))

/-- R84, R126: in a lane thread the same members access the scratch of their lane, where the offset is aligned and
inside Z; a store changes the bytes stored, in that lane's scratch alone, and no register. R82, R83, R85, R86: the
members that start, join, end and serve lane threads. -/
def Obligations.LaneThreadsAndTheirScratch : Prop :=
  (
    ∀ (s : State) (l : Nat) (r a : XReg) (o : BitVec 13) (n : Nat), s.agent.lane = some l → n ∈ [1, 2, 4, 8] →
      let va := s.x a + BitVec.ofInt 64 o.toInt
      va.toNat % n = 0 → va.toNat + n ≤ s.myCore.scratchSize → s.bad = [] → s.Inv →
      let v := BitVec.ofNat (8 * n) (s.scratchN s.who l va.toNat n)
      (∀ i sg, (i, n, sg) ∈ [(Instr.ldb r a o, 1, true), (.ldh r a o, 2, true), (.ldw r a o, 4, true), (.ldd r a o, 8, true),
          (.ldbn r a o, 1, false), (.ldhn r a o, 2, false), (.ldwn r a o, 4, false)] →
        Completes i s (s.setX r (if sg then v.signExtend 64 else v.zeroExtend 64))) ∧
      (∀ i, (i, n) ∈ [(Instr.stb r a o, 1), (.sth r a o, 2), (.stw r a o, 4), (.std r a o, 8)] →
        ∃ u, Completes i s u ∧ u.mem = s.mem ∧ (∀ w, u.hart w = s.hart w) ∧
          u.scratchN s.who l va.toNat n = (s.x r).toNat % 256 ^ n ∧
          (∀ c k, (c ≠ (s.laneCore s.who l).1 ∨ k < scratchKey (s.laneCore s.who l).2 va.toNat ∨
              scratchKey (s.laneCore s.who l).2 va.toNat + n ≤ k) →
            Memory.read (u.core c).scratch k = Memory.read (s.core c).scratch k))) ∧
  (
    ∀ (s : State) (d a b : XReg), s.replay = none →
      (∀ bs, s.agent.lane = none → (s.x b).toNat % 4 = 0 → 4 ≤ (s.x b).toNat → (s.x b).toNat ≤ 4096 → (s.x a).toNat % 4 = 0 →
        libCheck s (s.x a) (s.x b).toNat = .ok bs →
        ∃ u, exec (.libld a b) s = .next (finish u) ∧ u.me = { s.me with lib := some (s.x a, s.x b) } ∧ u.mem = s.mem ∧
          (∀ l i, l < s.me.avail / 4 → Memory.read (u.qbuf (u.quadOf u.who (4 * l))) i = bs.getD i 0)) ∧
      (s.Quiet → s.me.vecDone = true → s.me.threads = none → s.me.gang = none → (s.x a).toNat % 4 = 0 → (s.x a).toNat < 4096 →
        ∃ ts, Completes (.lfork a) s (s.setMe { s.me with threads := some ts }) ∧
          (∀ i : Fin 32, ts.get i = ⟨s.x a, decide (s.me.lanes ≤ i.val)⟩)) ∧
      (s.agent.lane = none →
        (∀ ts, s.me.threads = some ts → (∀ i : Fin 32, (ts.get i).exited = true) →
          Completes .ljoin s (s.setMe { s.me with threads := none })) ∧
        (∀ ts i, s.me.threads = some ts → (Vector.get ts i).exited = false →
          exec .ljoin s = .next (s.setMe { s.me with run := .waiting .threads })) ∧
        (s.me.threads = none → Completes .ljoin s s)) ∧
      (∀ (l : Fin 32) ts, s.agent.lane = some l.val → s.me.threads = some ts →
        exec .lexit s = .next (s.setMe { s.me with threads := some (ts.set l.val ⟨(ts.get l).pc, true⟩ l.isLt) })) ∧
      (∀ l, s.agent.lane = some l →
        let row (x : Word) : Nat := x.toNat / 32 % 16 * s.me.lanes + l
        Completes (.lvget d a) s (s.setX d (BitVec.ofNat 64 (s.me.granule ((s.x a).toNat % 32) (row (s.x a))))) ∧
        Completes (.lvput a b) s { s.setMe (s.me.setGranule ((s.x b).toNat % 32) (row (s.x b)) (s.x a).toNat) with
          bad := s.bad.filter (· != .vreg s.who (BitVec.ofNat 5 ((s.x b).toNat % 32)) (row (s.x b))) }))

/-! ### System registers, privilege, waiting -/

/-- R42, R66, R79, R80, R84, R90, R98, R310: MOVS copies the register that its number names into xd and changes nothing
else: the type and length state, the loop registers, the identity and timeline registers in any mode, the supervisor
registers in supervisor mode. CYCLE is at least what it last read, and greater where the same agent has read that
(how much is free: log 2, DESIGN CHOICE). -/
def Obligations.MovsReadsTheRegister : Prop :=
  ∀ (s : State) (d : XReg), s.Quiet → s.me.vecDone = true →
    let h := s.me
    let reads (r : BitVec 12) (v : Word) : Prop := Completes (.movs d r) s (s.setX d v)
    let n (k : Nat) : Word := BitVec.ofNat 64 k
    reads 0x000 h.vtype ∧ reads 0x001 (n h.vl) ∧ reads 0x002 (n h.vstart) ∧
    reads 0x003 (n (h.segs * 2 ^ 32 + h.avail * 2 ^ 16 + h.lanes)) ∧ reads 0x004 (h.fcr.zeroExtend 64) ∧
    reads 0x005 (h.fflags.zeroExtend 64) ∧ reads 0x006 h.kvstart ∧ reads 0x007 0 ∧
    (∀ k : CtrNum, reads (0x010 + k.zeroExtend 12) (h.loop k).cnt ∧ reads (0x018 + k.zeroExtend 12) (h.loop k).rem ∧
      reads (0x020 + k.zeroExtend 12) (h.loop k).body) ∧
    reads 0x030 (n ((if h.gang = none then s.myCore.layout else 1) * 16 + s.who.hart.val)) ∧
    reads 0x042 (if s.myCore.matrix.owner = h.launch ∧ h.launch ≠ none then s.myCore.matrix.counter else 0) ∧
    reads 0x031 (n s.who.core.val) ∧ reads 0x032 ((s.partOf h).zeroExtend 64) ∧ reads 0x035 h.instret ∧
    reads 0x038 h.capBase ∧ reads 0x040 h.tlre ∧ reads 0x041 h.tlit ∧ reads 0x043 h.tlkv ∧ reads 0x044 h.tlxc ∧
    reads 0x045 h.tlln ∧ reads 0x050 (n (h.lq.length * 2 ^ 16 + h.q1.length * 2 ^ 8 + h.q0.length)) ∧
    (let c := s.cycle + (if s.agent ∈ s.cycleBy then 1 else 0) + Config.cyclesBetween s.fresh
     let read : State := { s with
       fresh := s.fresh + 1, cycle := c, cycleBy := if c = s.cycle then s.agent :: s.cycleBy else [s.agent] }
     Completes (.movs d 0x034) s (read.setX d (n c))) ∧
    (h.trap.priv = true →
      reads 0x100 (n (16 * h.trap.ux.toNat + 8 * h.trap.sq.toNat + 4 * h.trap.lt.toNat + 2 * h.trap.pp.toNat + 1)) ∧
      reads 0x101 (h.sup.trapVec &&& ~~~(3 : Word)) ∧ reads 0x102 (h.trap.cause.zeroExtend 64) ∧ reads 0x103 h.trap.pc ∧ reads 0x104 h.trap.val ∧
      reads 0x105 (h.trap.elem.zeroExtend 64) ∧ reads 0x10B (h.sup.aspace.zeroExtend 64) ∧ reads 0x106 h.trap.seq ∧ reads 0x108 (h.sup.aspace.zeroExtend 64) ∧
      reads 0x109 h.sup.ptRoot ∧ reads 0x10A h.sup.rangeBase ∧
      reads 0x110 (n (h.sup.ceilSup.toNat * 2 ^ 16 + h.sup.ceilCtrl.toNat)) ∧ reads 0x112 h.sup.ctxPtr ∧
      (h.sup.soft = false →
        reads 0x111 (n (h.hardNow.toNat * 2 ^ 63 + h.sup.why.toNat * 2 ^ 56 + h.sup.left.toNat))))

/-- R70, R79, R98, R310: SETS writes the fields of the register it names, reserved fields discarded, and changes nothing
else; STATUS keeps PRIV and SQ, GRANTCEIL its CTRL half. R79: a number that no register has is illegal in MOVS; in
SETS so is a read-only register. A lane thread may name five registers and no other. -/
def Obligations.SetsWritesTheRegister : Prop :=
  (
    ∀ (s : State) (a : XReg), s.Quiet → s.me.vecDone = true →
      let h := s.me
      let v := s.x a
      let writes (r : BitVec 12) (h' : Hart) : Prop := Completes (.sets a r) s (s.setMe h')
      writes 0x002 { h with vstart := v.toNat % 2 ^ 24 } ∧
      (v.toNat % 8 ≤ 4 → writes 0x004 { h with fcr := v.extractLsb' 0 10 }) ∧
      (4 < v.toNat % 8 → TrapsWord (.sets a 0x004) .illegalInsn s) ∧
      writes 0x005 { h with fflags := v.extractLsb' 0 5 } ∧ writes 0x006 { h with kvstart := v } ∧
      (∀ k : CtrNum,
        ((∀ w, (h.win w).tied k.toNat = 0) → writes (0x010 + k.zeroExtend 12) (h.setLoop k { h.loop k with
          cnt := v
          changes := (h.loop k).changes + if (h.loop k).cnt = v then 0 else 1 } |> fun g => { g with
            ahead := if (h.loop k).cnt = v then h.ahead else [] })) ∧
        writes (0x018 + k.zeroExtend 12) (h.setLoop k { h.loop k with rem := v }) ∧
        writes (0x020 + k.zeroExtend 12) (h.setLoop k { h.loop k with body := v &&& ~~~(3 : Word) })) ∧
      (h.trap.priv = true →
        writes 0x100 { h with trap := { h.trap with ux := v.getLsbD 4, lt := v.getLsbD 2, pp := v.getLsbD 1 } } ∧
        writes 0x101 { h with sup := { h.sup with trapVec := v &&& ~~~(3 : Word) } } ∧
        writes 0x102 { h with trap := { h.trap with cause := v.extractLsb' 0 8 } } ∧
        writes 0x103 { h with trap := { h.trap with pc := v } } ∧ writes 0x104 { h with trap := { h.trap with val := v } } ∧
        writes 0x105 { h with trap := { h.trap with elem := v.extractLsb' 0 24 } } ∧
        writes 0x106 { h with trap := { h.trap with seq := v } } ∧
        writes 0x110 { h with sup := { h.sup with ceilSup := v.extractLsb' 16 16 } } ∧
        writes 0x111 { h with sup := { h.sup with why := v.extractLsb' 56 4, hardReq := h.sup.hardReq || v.getLsbD 61 } } ∧
        writes 0x112 { h with sup := { h.sup with ctxPtr := v &&& 0x00FFFFFFFFFFF000 } })) ∧
  (
    ∀ (s : State) (d : XReg) (r : BitVec 12), s.replay = none →
      (s.agent.lane = none → s.me.stream = [] ∧ s.me.pulls.all (·.formed) = true) →
      (r.toNat ∈ [0x008, 0x033, 0x036, 0x037, 0x039, 0x046, 0x051, 0x0B0, 0x107, 0x10C, 0x113, 0xFFF] →
        TrapsWord (.movs d r) .illegalInsn s) ∧
      (r.toNat ∈ [0x000, 0x001, 0x003, 0x007, 0x008, 0x030, 0x031, 0x032, 0x034, 0x035, 0x038, 0x040, 0x042, 0x050, 0x0B0,
          0x107, 0x108, 0x109, 0x10A, 0x10B, 0x113] → TrapsWord (.sets d r) .illegalInsn s) ∧
      (s.agent.lane.isSome = true → r.toNat ∉ [0x007, 0x030, 0x031, 0x032, 0x034] → TrapsWord (.movs d r) .illegalInsn s) ∧
      (∀ l, s.agent.lane = some l → Completes (.movs d 0x007) s (s.setX d (BitVec.ofNat 64 l))))

/-- R309, R310: in user mode every supervisor member, and MOVS and SETS of a supervisor register, raises PRIV with its
word, and does nothing else. R316: TRET restores the mode from PP, ends UX, counts as retired and resumes at TRAPPC;
where a lane thread trapped, the thread resumes at TRAPPC and the scalar unit where it had stopped. No other
register changes. -/
def Obligations.PrivilegeAndReturn : Prop :=
  (
    ∀ (s : State) (a b : XReg) (r : BitVec 12), s.Quiet → s.me.trap.priv = false →
      TrapsWord .tret .priv s ∧ TrapsWord (.ctxsave a) .priv s ∧ TrapsWord (.ctxload a) .priv s ∧
      TrapsWord (.xlinv a b) .priv s ∧ TrapsWord .xlinva .priv s ∧ TrapsWord .halt .priv s ∧
      (r.toNat ∈ [0x100, 0x101, 0x102, 0x103, 0x104, 0x105, 0x106, 0x110, 0x111, 0x112] →
        TrapsWord (.movs a r) .priv s ∧ TrapsWord (.sets a r) .priv s) ∧
      exec .preemptReqWrite s = .next s) ∧
  (
    ∀ (s : State), s.Quiet → s.me.trap.priv = true → s.me.trap.redeliver = [] → s.me.drawn = none → s.myCore.scoreboard ≤ 64 →
      let h := s.me
      let back : Hart := { h with instret := h.instret + 1, trap := { h.trap with priv := h.trap.pp, ux := false } }
      ((h.threads = none ∨ h.trap.lt = false) → (h.trap.pp = true ∨ h.trap.pc = h.trap.point) →
        exec .tret s = .next (s.setMe { back with
          pc := h.trap.pc, run := if h.trap.atEnd && !h.trap.pp then .atLoopEnd else .running })) ∧
      (∀ ts, h.threads = some ts → h.trap.lt = true →
        exec .tret s = .next (s.setMe { back with
          pc := h.trap.stop, run := if h.trap.atEnd then .atLoopEnd else .running, threads := some (ts.setIfInBounds h.trap.elem.toNat ⟨h.trap.pc, false⟩) })))

/-- R73, R318, R319, R322: YIELD with nothing pending and CAPRD in either mode; a YIELD that meets a soft pre-emption
makes it a hard one (log 25, DEDUCED); WFE waits until a wake event, an entry that came, a pre-emption or its limit,
and then goes on. R301, R310, R322, R323: a supervisor's write of PREEMPT.REQ makes a hard pre-emption pending, and
so does the end of the time of a soft pre-emption, or of a victim that holds its place after it has satisfied SOFT
(the latter: log 57, DEDUCED); nothing else changes. -/
def Obligations.YieldWaitAndPreemption : Prop :=
  (
    ∀ (s : State) (d a : XReg) (w : Who), s.Quiet →
      (s.me.hardNow = false → s.me.sup.soft = false →
        Completes .yield s s ∧
        (∀ woken n, s.me.run = .waiting (.event woken n) → (woken = true ∨ n < s.me.q1.length + s.me.lq.length) →
          Completes .wfe s s) ∧
        (s.me.run = .running → Waits .wfe (.event false (s.me.q1.length + s.me.lq.length)) s)) ∧
      (s.me.trap.priv = false → s.me.hardNow = true → s.me.sup.soft = false → Completes .yield s s ∧ Completes .wfe s s) ∧
      (s.me.trap.priv = false → s.me.sup.soft = true →
        Completes .yield s (s.setMe { s.me with sup := { s.me.sup with hard := true, soft := false, left := 0, why := 0 } }) ∧
        Completes .wfe s s) ∧
      (∀ woken n, (s.hart w).run = .waiting (.event woken n) →
        exec (.wfeTimeout w) s = .next (s.asHart w finish)) ∧
      ((s.x a).toNat % 8 = 0 →
        Completes (.caprd d a) s (s.setX d ((s.capWords (s.partOf s.me)).getD ((s.x a).toNat / 8) 0))) ∧
      ((s.x a).toNat % 8 ≠ 0 → Traps (.caprd d a) ⟨.misalign, s.x a, 0⟩ s)) ∧
  (
    ∀ (s : State) (w : Who),
      (s.me.trap.priv = true →
        exec .preemptReqWrite s = .next (s.setMe { s.me with sup := { s.me.sup with hardReq := true } })) ∧
      (((s.hart w).sup.soft = true ∨ ((s.hart w).victim = true ∧ (s.hart w).alive = true)) →
        exec (.preemptLeftExpiry w) s = .next (s.setHart w { s.hart w with
          sup := { (s.hart w).sup with hard := true, soft := false, left := 0, why := 0 } })) ∧
      ((s.hart w).sup.soft = false → ((s.hart w).victim = false ∨ (s.hart w).alive = false) →
        exec (.preemptLeftExpiry w) s = .next s))

/-- R42, R43, R90 to R92: under an unchanged grant VSETVL, VSETVLI and VSETVLQ set VTYPE to a legal request and VL to
the smaller of the length asked for and VLMAX, write VL to xd and clear VSTART and a soft pre-emption; any other
request sets VILL and VL 0. R43: which requested types are legal: SEW at most 64, EK only with SEW 16 or 32, SCOPE
at most 4, and the reserved bits zero. -/
def Obligations.SetLengthAndLegalTypes : Prop :=
  (
    ∀ (s : State) (d a b : XReg) (imm : BitVec 16), s.OnScalar → s.me.grant = s.me.lanes →
      let sets (i : Instr) (s' : State) (avl req : Word) : Prop :=
        let vlmax := s.me.lanes * 1024 * 2 ^ (req.toNat / 16 % 4) / (8 * 2 ^ (req.toNat % 4))
        let vl := min avl.toNat vlmax
        let h : Hart := { s'.me with vstart := 0, epoch := s.me.epoch + 1, sup := { s.me.sup with soft := false, left := 0 } }
        (typeLegal req = true → Completes i s ((s'.setMe { h with vtype := req, vl := vl }).setX d (BitVec.ofNat 64 vl))) ∧
        (typeLegal req = false → Completes i s ((s'.setMe { h with vtype := villType, vl := 0 }).setX d 0))
      sets (.vsetvl d a b) s (s.x a) (s.x b) ∧
      sets (.vsetvli d a imm) s (s.x a) (BitVec.ofNat 64 (s.me.vtype.toNat / 2 ^ 16 % 2 ^ 8 * 2 ^ 16 + imm.toNat)) ∧
      (∀ n q, s.me.lq = n :: q → sets (.vsetvlq d) (s.setMe { s.me with lq := q }) n
        (if s.me.vtype.getLsbD 63 then villType else s.me.vtype)) ∧
      (s.me.lq = [] → Waits (.vsetvlq d) .queue s)) ∧
  (
    ∀ (t : Word), typeLegal t = true ↔
      (t.getLsbD 2 = false ∧ (t.getLsbD 3 = true → t.toNat % 8 = 1 ∨ t.toNat % 8 = 2) ∧ t.toNat / 2 ^ 8 % 8 ≤ 4 ∧
        t.toNat / 2 ^ 11 % 2 ^ 5 = 0 ∧ t.toNat / 2 ^ 24 = 0))

/-- R93: what Relay leaves of the registers: every granule of the lanes that the old and the new count share, and zeros
in place of the rest. R94: LPART on hart 0 with every other hart parked or ended and nothing under way gives the
core the layout asked for: each hart of it its share of the lanes and no vector type, each other hart that ran
ended. Memory stays. R94, R95: LPART off hart 0, in a gang or with another number raises CONFIG, as GANG does with a
size, a core or a layout that R95 does not allow, and UNGANG outside a gang. R95, R96: a GANG waits for the others;
once every core of the aligned group waits with the same operand, the gang forms on its lowest core, with 32 lanes a
member, and the others park. UNGANG gives the core its 32 lanes back and lets each parked member go on with empty
vector state. -/
def Obligations.LayoutsAndGangs : Prop :=
  (
    ∀ (h : Hart) (g : Nat), (h.relaid g).lanes = g ∧ (h.relaid g).xu = h.xu ∧ (h.relaid g).vtype = h.vtype ∧
      (∀ r i, ((h.relaid g).vreg r).getLsbD i = ((h.vreg r).getLsbD i && decide (i < min h.lanes g * 1024))) ∧
      (∀ m i, ((h.relaid g).mreg m).getLsbD i = ((h.mreg m).getLsbD i && decide (i < min h.lanes g * 1024)))) ∧
  (
    ∀ (s : State) (a : XReg), s.OnScalar → s.who.hart = 0 → s.me.gang = none → (s.x a).toNat ∈ [1, 2, 4, 8] →
      (∀ k : HartNum, k.val < s.myCore.layout ∨ k = 0 → s.CalmAt ⟨s.who.core, k⟩) → s.myCore.othersParked = true →
      ∃ u, Completes (.lpart a) s u ∧ (u.core s.who.core).layout = (s.x a).toNat ∧ u.mem = s.mem ∧ u.agent = s.agent ∧
        (∀ k : HartNum, let h := s.hart ⟨s.who.core, k⟩
          let h' := u.hart ⟨s.who.core, k⟩
          (k.val < (s.x a).toNat → h'.avail = 32 / (s.x a).toNat ∧ h'.lanes ≤ h'.avail ∧ h'.vtype = villType ∧ h'.vl = 0 ∧
            h'.xu = h.xu ∧ h'.xs = h.xs ∧ h'.pc = h.pc) ∧
          ((s.x a).toNat ≤ k.val → h' = if h.run = .idle then h else { h with run := .exited })) ∧
        (∀ w : Who, w.core ≠ s.who.core → u.hart w = s.hart w)) ∧
  (
    ∀ (s : State) (a : XReg), s.Quiet →
      ((s.who.hart ≠ 0 ∨ s.me.gang ≠ none ∨ (s.x a).toNat ∉ [1, 2, 4, 8]) → TrapsWord (.lpart a) .config s) ∧
      (((s.x a).toNat % 256 ∉ [2, 4, 8, 16, 32, 64] ∨ s.me.gang ≠ none ∨ s.myCore.layout ≠ 1) → TrapsWord (.gang a) .config s) ∧
      (s.me.gang = none → TrapsWord .ungang .config s)) ∧
  (
    ∀ (s : State) (a : XReg) (base : CoreId),
      (s.OnScalar → s.CalmAt s.who → gangBad s ((s.x a).toNat % 256) = false →
        exec (.gang a) s = .next (s.allSee.waits (.gang (s.x a).toNat))) ∧
      (∀ x, x % 256 ∈ [2, 4, 8, 16, 32, 64] → base.val % (x % 256) = 0 →
        (∀ c : CoreId, base.val ≤ c.val → c.val < base.val + x % 256 → (s.hart ⟨c, 0⟩).run = .waiting (.gang x)) →
        ∃ u v : State, exec (.gangFormed base) s = .next u ∧ u = v.asHart ⟨base, 0⟩ finish ∧
          (v.hart ⟨base, 0⟩).gang = some (x % 256, base) ∧ (v.hart ⟨base, 0⟩).lanes = 32 * (x % 256) ∧
          (v.hart ⟨base, 0⟩).avail = 32 * (x % 256) ∧ (v.hart ⟨base, 0⟩).segs = max 1 (x % 256 / 16) ∧
          (∀ c : CoreId, base.val < c.val → c.val < base.val + x % 256 → v.hart ⟨c, 0⟩ = { s.hart ⟨c, 0⟩ with run := .gangParked }) ∧
          v.mem = s.mem) ∧
      (∀ m b, s.OnScalar → s.CalmAt s.who → s.me.gang = some (m, b) → s.me.run ≠ .gangParked →
        ∃ u, Completes .ungang s u ∧ u.me = { s.me.relaid 32 with avail := 32, segs := 1, gang := none } ∧ u.mem = s.mem ∧
          (∀ c : CoreId, b.val ≤ c.val → c.val < b.val + m → (s.hart ⟨c, 0⟩).run = .gangParked → (s.hart ⟨c, 0⟩).active = [] →
            u.hart ⟨c, 0⟩ = { s.hart ⟨c, 0⟩ with
              v := Vector.replicate 32 0, m := Vector.replicate 8 0, vtype := villType, vl := 0, vstart := 0
              epoch := (s.hart ⟨c, 0⟩).epoch + 1, instret := (s.hart ⟨c, 0⟩).instret + 1, pc := (s.hart ⟨c, 0⟩).pc + 4
              run := .running })))

/-! ### Memory, ordering, Harness -/

/-- R64, R125, R248, R249: an ACCESS_PERFORMED of a store that is the oldest of its agent and slice writes its bytes to
memory and takes it out of its queue; no other byte of memory and no hart changes. R64, R125: a store that is not
the oldest of its agent and slice, or that comes after a vector instruction still queued and not retired (R312), is
not performed. R125, R248, R249: VFENCE and LSYNC complete with every queued store of their hart performed, FENCE
with every one of its scalar unit, at every scope: none is left, and for every byte address the last queued byte of
them that names it is what memory reads there, any other byte as before. No hart changes. R28, R255: TLWAIT waits
where an operation numbered at or below xa is incomplete, and goes on where none is: on a hart's own engine contexts
even with xa above the counter; on MX once the counter has reached xa, and at once for a hart whose launch does not
own the unit. It changes no state, but every observer then sees every write: more than R248 asks (log 26, DESIGN
CHOICE). -/
def Obligations.StoresFencesAndTimelines : Prop :=
  (
    ∀ (s : State) (t : PStore), s.Inv → s.stores.find? (fun u => u.id == t.id && u.who == t.who) = some t →
      s.storeReady t = true → (∀ c, c ∈ t.cells → c.1 < 2 ^ 61) → t.cells.Pairwise (fun a b => a.1 ≠ b.1) →
      ∃ u, exec (.accessPerformed t.who t.id) s = .next u ∧ u.stores = s.stores.filter (fun x => x.id != t.id) ∧
        (∀ w, u.hart w = s.hart w) ∧ (∀ c, c ∈ t.cells → Memory.read u.mem c.1 = c.2) ∧
        (∀ k, (∀ c, c ∈ t.cells → c.1 ≠ k) → Memory.read u.mem k = Memory.read s.mem k)) ∧
  (
    ∀ (s : State) (w : Who) (n : Nat) (t : PStore), s.stores.find? (fun u => u.id == n && u.who == w) = some t →
      ((∃ e, e ∈ (s.hart w).stream ∧ e.seq < t.seq ∧ (s.hart w).retired e = false) ∨
        (∃ x pre post, s.stores = pre ++ x :: post ∧ (∀ y, y ∈ pre → ¬ (y.who = w ∧ y.by' = t.by' ∧ y.slice = t.slice)) ∧
          x.who = w ∧ x.by' = t.by' ∧ x.slice = t.slice ∧ x.id ≠ n)) →
      exec (.accessPerformed w n) s = .next s) ∧
  (
    ∀ (s : State) (w : Who), w = s.who → s.Quiet → s.me.lost = none → s.Inv →
      ((∀ t c, t ∈ s.stores → c ∈ t.cells → c.1 < 2 ^ 61) ∨ s.noPath = false) → (s.stores.map (fun t => t.id)).Nodup →
      let performed (l : List PStore) (u : State) : Prop :=
        (∀ w, u.hart w = s.hart w) ∧
        (∀ pre t post cs c cs', l = pre ++ t :: post → t.cells = cs ++ c :: cs' → (∀ d, d ∈ cs' → d.1 ≠ c.1) →
          (∀ x d, x ∈ post → d ∈ x.cells → d.1 ≠ c.1) → Memory.read u.mem c.1 = c.2) ∧
        (∀ k, (∀ t c, t ∈ l → c ∈ t.cells → c.1 ≠ k) → Memory.read u.mem k = Memory.read s.mem k)
      (s.me.vecDone = true →
        (∃ u, Completes .vfence s u ∧ u.storesOf w = [] ∧ performed (s.storesOf w) u) ∧
        (∃ u, Completes .lsync s u ∧ u.storesOf w = [] ∧ performed (s.storesOf w) u)) ∧
      (∃ u, Completes .fence s u ∧ u.scalarStores w = [] ∧ performed (s.scalarStores w) u)) ∧
  (
    ∀ (s : State) (e : BitVec 5) (a : XReg), s.Quiet → s.failure s.who e.toNat (s.x a).toNat = none → e ∈ [0, 1, 2, 3, 4, 5] →
      let n := (s.x a).toNat
      let waits : Prop := Waits (.tlwait e a) (.timeline e n) s
      (e = 2 → s.ownsMatrix = false → Completes (.tlwait e a) s s.allSee) ∧
      ((e = 2 → s.ownsMatrix = true) →
        ((∀ k, k ∈ s.pending s.who e.toNat → n < k) → (e = 2 → n ≤ s.tlmx.toNat) → Completes (.tlwait e a) s s.allSee) ∧
        (∀ k, k ∈ s.pending s.who e.toNat → k ≤ n → waits)) ∧
      (e = 2 → s.ownsMatrix = true → s.tlmx.toNat < n → waits))

/-- R4, R5, R353: generic memory as bytes. Reading a byte after a write of it gives what was written and leaves every
other byte; a write of n bytes reads back as the number, its least significant byte at the lowest address; writes
keep the one form, in which memories that read alike are equal. -/
def Obligations.MemoryReadAfterWrite : Prop :=
  ∀ (m : List Host.Cell), Memory.wf m = true →
    (∀ k v, Memory.wf (Memory.write m k v) = true ∧ Memory.read (Memory.write m k v) k = v ∧
      (∀ j, j ≠ k → Memory.read (Memory.write m k v) j = Memory.read m j)) ∧
    (∀ m', Memory.wf m' = true → (∀ k, Memory.read m k = Memory.read m' k) → m = m') ∧
    (∀ (s : State) k n v, s.mem = m → k + n ≤ 2 ^ 57 → (s.writeN k n v).readN k n = v % 256 ^ n ∧
      (∀ j, (j < k ∨ k + n ≤ j) → Memory.read (s.writeN k n v).mem j = Memory.read m j))

/-- R250, R251, R253: BARRIVE counts one arrival, the one that completes the expected count opening the next phase;
BINIT stores phase and expected count with no arrivals; BWAIT goes on once the phase is past its target over a half
range and waits before. Only the eight bytes of the word change. A return leaves no write that some observer has yet
to see: more than its scope asks (R248; log 26, DESIGN CHOICE). R253: the wait read of a hart that waits in BWAIT
lets it go on once the phase is past its target, and leaves the state as it is before. -/
def Obligations.BarrierWords : Prop :=
  (
    ∀ (s : State) (a b : XReg) (p : Phys), s.Quiet → s.me.vecDone = true → s.storesOf s.who = [] → s.me.lost = none → s.bad = [] → s.Inv →
      p.key + 8 ≤ 2 ^ 57 →
      (barrierAccess s true (s.x a) = .ok p →
        (∃ u, Completes (.barrive a) s u ∧ (∀ w, u.hart w = s.hart w) ∧
          (let w := s.readN p.key 8
           let arrived := w / 2 ^ 16 % 2 ^ 16 + 1
           let expected := w % 2 ^ 16
           u.readN p.key 8 = if expected ≤ arrived then (w / 2 ^ 32 + 1) % 2 ^ 32 * 2 ^ 32 + expected
             else w / 2 ^ 32 * 2 ^ 32 + arrived * 2 ^ 16 + expected) ∧
          (∀ k, k < p.key ∨ p.key + 8 ≤ k → Memory.read u.mem k = Memory.read s.mem k)) ∧
        (∃ u, Completes (.binit a b) s u ∧ (∀ w, u.hart w = s.hart w) ∧ u.mem = s.mem ∧
          u.ownN s.who .scalar p.key 8 = (s.x b).toNat / 2 ^ 32 * 2 ^ 32 + (s.x b).toNat % 2 ^ 16)) ∧
      (barrierAccess s false (s.x a) = .ok p →
        let phase := s.ownN s.who .scalar p.key 8 / 2 ^ 32
        let target := (s.x b).toNat % 2 ^ 32
        ((phase + 2 ^ 32 - target) % 2 ^ 32 < 2 ^ 31 → Completes (.bwait a b) s (noteWalk s.who (s.x a) s).allSee) ∧
        (2 ^ 31 ≤ (phase + 2 ^ 32 - target) % 2 ^ 32 → Waits (.bwait a b) (.barrier (s.x a) (BitVec.ofNat 32 target)) s))) ∧
  (
    ∀ (s : State) (who : Who) (va : Word) (t : BitVec 32) (p : Phys), s.agent = ⟨who, none⟩ → s.replay = none →
      s.me.run = .waiting (.barrier va t) → s.storesOf who = [] → barrierAccess s false va = .ok p →
      let phase := BitVec.ofNat 32 (s.ownN who .scalar p.key 8 / 2 ^ 32)
      ((phase - t).toNat < 2 ^ 31 → exec (.bwaitReturn who) s = .next (finish (noteWalk who va s).allSee)) ∧
      (2 ^ 31 ≤ (phase - t).toNat → exec (.bwaitReturn who) s = .next s))

/-- R256, R258 to R260, R262 to R264: the members of a hart whose launch owns the Harness: HEVT pulses its event input,
HARM arms the next engine command, HWAIT waits on its output, MOVS and SETS reach the Harness registers with
reserved fields zero; each binds the hart to the Harness. A hart whose launch does not own it gets CONFIG. R257,
R258, R260, R261: a cycle of the Harness with every output disabled counts its n oldest pulses, each in every
enabled counter of its input, up to 2^32 - 1 (how many a cycle brings is timing, log 8), and changes nothing else,
but every observer sees every write (log 26); a cycle in which one enabled output that needs no consumer has a true
first product, with no pulse, counts its firing and takes the threshold off each of its counters that consumes. -/
def Obligations.HarnessMembersAndCycles : Prop :=
  (
    ∀ (s : State) (a d : XReg), s.Quiet →
      let core := s.who.core
      let bound : State := s.setMe { s.me with hbound := true }
      let harness (f : Harness → Harness) : State := bound.modCore core (fun k => { k with harness := f k.harness })
      let v := s.x a
      (s.myCore.harness.owner = s.me.launch →
        Completes (.hevt a) s (harness (fun h => { h with pulses := h.pulses ++ [BitVec.ofNat 6 (48 + v.toNat % 8)] })) ∧
        Completes (.harm a) s (s.setMe { s.me with hbound := true, arming := some (v.extractLsb' 0 4) }) ∧
        exec (.hwait a) s = .next (s.setMe { s.me with hbound := true, run := .waiting (.output (v.extractLsb' 0 4)) }) ∧
        (s.me.late = [] → s.myCore.harness.pulses = [] → ∀ k : BitVec 4,
          Completes (.movs d (0x080 + k.zeroExtend 12)) s (bound.setX d (s.myCore.harness.hcnt.get k.toFin)) ∧
          Completes (.movs d (0x090 + k.zeroExtend 12)) s (bound.setX d (s.myCore.harness.hterm.get k.toFin)) ∧
          Completes (.movs d (0x0A0 + k.zeroExtend 12)) s (bound.setX d (s.myCore.harness.hout.get k.toFin |||
            BitVec.ofNat 64 (s.armed core k * 2 ^ 40 + (s.waiters core k).length * 2 ^ 36))) ∧
          Completes (.sets a (0x080 + k.zeroExtend 12)) s (harness (fun h => { h with
            hcnt := h.hcnt.set k.toNat (v &&& 0xC03FFFFFFFFFFFFF) k.isLt })) ∧
          Completes (.sets a (0x090 + k.zeroExtend 12)) s (harness (fun h => { h with
            hterm := h.hterm.set k.toNat (v &&& 0x00000000FFFFFFFF) k.isLt })) ∧
          Completes (.sets a (0x0A0 + k.zeroExtend 12)) s (harness (fun h => { h with
            hout := h.hout.set k.toNat (v &&& 0xC00F0000FFFFFFFF) k.isLt })))) ∧
      (s.myCore.harness.owner ≠ s.me.launch →
        TrapsWord (.hevt a) .config s ∧ TrapsWord (.harm a) .config s ∧ TrapsWord (.hwait a) .config s ∧
        TrapsWord (.sets a 0x080) .config s ∧ TrapsWord (.movs d 0x0A0) .config s)) ∧
  (
    ∀ (s : State) (core : CoreId) (n : Nat),
      let h := (s.core core).harness
      let on (c : Word) : Nat := ((h.pulses.take n).filter (fun p => p == c.extractLsb' 48 6)).length
      let counted (c : Word) : Word :=
        if c.getLsbD 63 = true then c + BitVec.ofNat 64 (min (on c) (2 ^ 32 - 1 - c.toNat % 2 ^ 32)) else c
      ((∀ o : Fin 16, (h.hout.get o).getLsbD 63 = false) →
        exec (.harnessCycle ⟨core, n⟩) s = .next (s.modCore core (fun k => { k with harness := { h with
          pulses := h.pulses.drop n, hcnt := h.hcnt.map counted } })).allSee) ∧
      (∀ o : Fin 8, h.pulses = [] → (∀ j : Fin 16, j.val ≠ o.val → (h.hout.get j).getLsbD 63 = false) →
        let w := h.hout.get (o.castLE (by decide))
        let first := (h.hterm.get (w.extractLsb' 48 4).toFin).toNat % 2 ^ 16
        w.getLsbD 63 = true → w.getLsbD 62 = true → s.heldOn core (BitVec.ofNat 4 o.val) = [] →
        s.waiters core (BitVec.ofNat 4 o.val) = [] → first ≠ 0 →
        (∀ i : Fin 16, first.testBit i.val = true → (h.hcnt.get i).getLsbD 63 = true ∧
          (h.hcnt.get i).toNat / 2 ^ 32 % 2 ^ 16 ≤ (h.hcnt.get i).toNat % 2 ^ 32) →
        ∃ u, exec (.harnessCycle ⟨core, n⟩) s = .next u ∧ u.mem = s.mem ∧
          ((u.core core).harness.hout.get (o.castLE (by decide))).toNat % 2 ^ 32 = min (w.toNat % 2 ^ 32 + 1) (2 ^ 32 - 1) ∧
          (∀ i : Fin 16, let c := h.hcnt.get i
            (u.core core).harness.hcnt.get i =
              if first.testBit i.val = true ∧ c.getLsbD 62 = true then c - BitVec.ofNat 64 (c.toNat / 2 ^ 32 % 2 ^ 16) else c)))

/-! ### Vector members -/

/-- R102: what each integer member writes, in its vector, scalar and immediate forms, at every SEW; division by zero,
shifts modulo SEW and saturation included. The vector form reads the element of vb that the replicate modifier
names. -/
def Obligations.VectorIntegerResults : Prop :=
  ∀ (s : State) (d a b : VReg) (x : XReg) (p k : MReg) (im : BitVec 8) (sh : BitVec 6),
    s.Ready → s.me.Shaped → s.me.vill = false →
    let h := s.me
    let w := sewOf h.vtype
    groupOk h.vtype d.toNat w = true → groupOk h.vtype a.toNat w = true → groupOk h.vtype b.toNat w = true →
    let E (r : VReg) (e : Nat) : BitVec w := BitVec.ofNat w (h.elem r.toNat e w)
    let rep (e : Nat) : Nat := if 4 ≤ p.toNat then e % 2 ^ (p.toNat - 4) else e
    let writes (i : Instr) (f : Nat → BitVec w) : Prop := WritesElements i s h d w k (fun e => ((f e).toNat, 0))
    let clamp (i : Int) : BitVec w := BitVec.ofInt w (max (-(2 : Int) ^ (w - 1)) (min ((2 : Int) ^ (w - 1) - 1) i))
    let both : List (Instr × Instr × (BitVec w → BitVec w → BitVec w → BitVec w)) :=
      [(.vadd d a b p k, .vaddX d a x k, fun A B _ => A + B), (.vsub d a b p k, .vsubX d a x k, fun A B _ => A - B),
       (.vrsub d a b p k, .vrsubX d a x k, fun A B _ => B - A), (.vand d a b p k, .vandX d a x k, fun A B _ => A &&& B),
       (.vor d a b p k, .vorX d a x k, fun A B _ => A ||| B), (.vxor d a b p k, .vxorX d a x k, fun A B _ => A ^^^ B),
       (.vsll d a b p k, .vsllX d a x k, fun A B _ => A <<< (B.toNat % w)),
       (.vsrl d a b p k, .vsrlX d a x k, fun A B _ => A >>> (B.toNat % w)),
       (.vsra d a b p k, .vsraX d a x k, fun A B _ => A.sshiftRight (B.toNat % w)),
       (.vmin d a b p k, .vminX d a x k, fun A B _ => if A.toInt ≤ B.toInt then A else B),
       (.vmax d a b p k, .vmaxX d a x k, fun A B _ => if A.toInt ≤ B.toInt then B else A),
       (.vminn d a b p k, .vminnX d a x k, fun A B _ => if A.toNat ≤ B.toNat then A else B),
       (.vmaxn d a b p k, .vmaxnX d a x k, fun A B _ => if A.toNat ≤ B.toNat then B else A),
       (.vmul d a b p k, .vmulX d a x k, fun A B _ => A * B),
       (.vmulh d a b p k, .vmulhX d a x k, fun A B _ => BitVec.ofInt w (A.toInt * B.toInt / 2 ^ w)),
       (.vmulhn d a b p k, .vmulhnX d a x k, fun A B _ => BitVec.ofNat w (A.toNat * B.toNat / 2 ^ w)),
       (.vdiv d a b p k, .vdivX d a x k, fun A B _ => if B = 0 then BitVec.allOnes w else BitVec.ofInt w (A.toInt.tdiv B.toInt)),
       (.vdivn d a b p k, .vdivnX d a x k, fun A B _ => if B = 0 then BitVec.allOnes w else BitVec.ofNat w (A.toNat / B.toNat)),
       (.vrem d a b p k, .vremX d a x k, fun A B _ => if B = 0 then A else BitVec.ofInt w (A.toInt.tmod B.toInt)),
       (.vremn d a b p k, .vremnX d a x k, fun A B _ => if B = 0 then A else BitVec.ofNat w (A.toNat % B.toNat)),
       (.vsadd d a b p k, .vsaddX d a x k, fun A B _ => clamp (A.toInt + B.toInt)),
       (.vsaddn d a b p k, .vsaddnX d a x k, fun A B _ => BitVec.ofNat w (min (A.toNat + B.toNat) (2 ^ w - 1))),
       (.vssub d a b p k, .vssubX d a x k, fun A B _ => clamp (A.toInt - B.toInt)),
       (.vssubn d a b p k, .vssubnX d a x k, fun A B _ => BitVec.ofNat w (A.toNat - B.toNat)),
       (.vbext d a b p k, .vbextX d a x k, fun A B _ =>
          let z := w - (min (B.toNat % w + B.toNat / w % w + 1) w - B.toNat % w)
          ((A >>> (B.toNat % w)) <<< z).sshiftRight z),
       (.vfshr d a b p k, .vfshrX d a x k, fun A B D => BitVec.ofNat w ((A.toNat * 2 ^ w + D.toNat) / 2 ^ (B.toNat % w))),
       (.vmv d b p k, .vmvX d x k, fun _ B _ => B)]
    let imms : List (Instr × BitVec w × (BitVec w → BitVec w → BitVec w)) :=
      [(.vaddi d a im k, BitVec.ofInt w im.toInt, fun A B => A + B), (.vrsubi d a im k, BitVec.ofInt w im.toInt, fun A B => B - A),
       (.vandi d a im k, BitVec.ofInt w im.toInt, fun A B => A &&& B), (.vori d a im k, BitVec.ofInt w im.toInt, fun A B => A ||| B),
       (.vxori d a im k, BitVec.ofInt w im.toInt, fun A B => A ^^^ B), (.vmvi d im k, BitVec.ofInt w im.toInt, fun _ B => B),
       (.vmini d a im k, BitVec.ofInt w im.toInt, fun A B => if A.toInt ≤ B.toInt then A else B),
       (.vmaxi d a im k, BitVec.ofInt w im.toInt, fun A B => if A.toInt ≤ B.toInt then B else A),
       (.vslli d a sh k, BitVec.ofNat w (sh.toNat % w), fun A B => A <<< B.toNat),
       (.vsrli d a sh k, BitVec.ofNat w (sh.toNat % w), fun A B => A >>> B.toNat),
       (.vsrai d a sh k, BitVec.ofNat w (sh.toNat % w), fun A B => A.sshiftRight B.toNat),
       (.vpope d a k, 0, fun A _ => BitVec.ofNat w ((List.range w).filter (fun i => A.getLsbD i)).length),
       (.vclz d a k, 0, fun A _ => BitVec.ofNat w (((List.range w).find? (fun i => A.getLsbD (w - 1 - i))).getD w))]
    (∀ r, r ∈ both →
      ((p.toNat < 4 ∨ b ≠ d) → writes r.1 (fun e => r.2.2 (E a e) (E b (rep e)) (E d e))) ∧
      (4 ≤ p.toNat → b = d → ∃ v, Completes r.1 s (s.setMe { h with v := v, vstart := 0 })) ∧
      writes r.2.1 (fun e => r.2.2 (E a e) (BitVec.ofNat w (s.x x).toNat) (E d e))) ∧
    (∀ r, r ∈ imms → writes r.1 (fun e => r.2.2 (E a e) r.2.1))

/-- R103: VADDC and VSUBB add or subtract with the carry or borrow that mask register k holds for the element, and leave
it the carry or borrow out; with k = 0 there is none. VMERGE takes b where the mask bit is set and a elsewhere.
R104: the compares write one mask bit an element, signed, unsigned or floating; a float compare raises NV for a
signalling NaN, and VFLT and VFLE for any NaN. -/
def Obligations.CarryMergeAndCompareResults : Prop :=
  (
    ∀ (s : State) (d a b : VReg) (x : XReg) (p k : MReg), s.Ready → s.me.Shaped → s.me.vill = false →
      let h := s.me
      let w := sewOf h.vtype
      groupOk h.vtype d.toNat w = true → groupOk h.vtype a.toNat w = true → groupOk h.vtype b.toNat w = true →
      (p.toNat < 4 ∨ b ≠ d) →
      let A (e : Nat) : Nat := h.elem a.toNat e w
      let bv (e : Nat) : Nat := h.elem b.toNat (if 4 ≤ p.toNat then e % 2 ^ (p.toNat - 4) else e) w
      let bx (_ : Nat) : Nat := (s.x x).toNat % 2 ^ w
      let carry (i : Instr) (sub : Bool) (B : Nat → Nat) : Prop :=
        let cin (e : Nat) : Nat := if k ≠ 0 ∧ h.maskBit k e = true then 1 else 0
        ∃ v m, Completes i s (s.setMe { h with v := v, m := m, vstart := 0 }) ∧
          (∀ e, e < vlmaxOf h.lanes h.vtype → Hart.elem { h with v := v } d.toNat e w =
            h.elementAfter 0 0 (h.elem d.toNat e w)
              ((if sub then A e + 2 ^ w + 2 ^ w - B e - cin e else A e + B e + cin e) % 2 ^ w) e) ∧
          (∀ j e, Hart.maskBit { h with m := m } j e =
            if j = k ∧ k ≠ 0 ∧ h.vstart ≤ e ∧ e < h.vl then
              (if sub then decide (A e < B e + cin e) else decide (2 ^ w ≤ A e + B e + cin e)) else h.maskBit j e) ∧
          (∀ r, (r < d.toNat ∨ d.toNat + lmulOf h.vtype ≤ r) → Hart.vreg { h with v := v } r = h.vreg r)
      carry (.vaddc d a b p k) false bv ∧ carry (.vsubb d a b p k) true bv ∧ carry (.vaddcX d a x k) false bx ∧
      carry (.vsubbX d a x k) true bx ∧
      WritesElements (.vmerge d a b p k) s h d w 0 (fun e => (if h.maskBit k e then bv e else A e, 0)) ∧
      WritesElements (.vmergeX d a x k) s h d w 0 (fun e => (if h.maskBit k e then bx e else A e, 0))) ∧
  (
    ∀ (s : State) (d k p : MReg) (a b : VReg), s.Ready → s.me.Shaped → s.me.vill = false →
      let h := s.me
      let w := sewOf h.vtype
      groupOk h.vtype a.toNat w = true → groupOk h.vtype b.toNat w = true →
      let A (e : Nat) : BitVec w := BitVec.ofNat w (h.elem a.toNat e w)
      let B (e : Nat) : BitVec w := BitVec.ofNat w (h.elem b.toNat (if 4 ≤ p.toNat then e % 2 ^ (p.toNat - 4) else e) w)
      let ints (i : Instr) (c : Nat → Bool) : Prop := WritesMask i s d k (fun e => (c e, 0))
      let flt (i : Instr) (quiet : Bool) (c : Machine.Num → Machine.Num → Bool) : Prop :=
        WritesMask i s d k (fun e =>
          let x := decodeF (fmtOf w) (A e).toNat
          let y := decodeF (fmtOf w) (B e).toNat
          (c x y, if x.isSig || y.isSig || (quiet && (x.isNaN || y.isNaN)) then fNV else 0))
      ints (.vseq d a b p k) (fun e => decide (A e = B e)) ∧ ints (.vsne d a b p k) (fun e => decide (A e ≠ B e)) ∧
      ints (.vslt d a b p k) (fun e => decide ((A e).toInt < (B e).toInt)) ∧ ints (.vsltn d a b p k) (fun e => decide ((A e).toNat < (B e).toNat)) ∧
      ints (.vsle d a b p k) (fun e => decide ((A e).toInt ≤ (B e).toInt)) ∧ ints (.vslen d a b p k) (fun e => decide ((A e).toNat ≤ (B e).toNat)) ∧
      ints (.vsgt d a b p k) (fun e => decide ((B e).toInt < (A e).toInt)) ∧ ints (.vsgtn d a b p k) (fun e => decide ((B e).toNat < (A e).toNat)) ∧
      (ekOf h.vtype = true → s.FpQuiet →
        flt (.vfeq d a b p k) false numEq ∧ flt (.vfne d a b p k) false (fun x y => !numEq x y) ∧
        flt (.vflt d a b p k) true numLt ∧ flt (.vfle d a b p k) true (fun x y => numLt x y || numEq x y) ∧
        flt (.vfunord d a b p k) false (fun x y => x.isNaN || y.isNaN)))

/-- R45, R105 to R108: under EK = 1 with no trap enabled every float member completes with its function of the elements
under FCR.RM and accrues the flags of every active element. R50, R98, R99, R105, R107: what the float functions that
those results name come to on numbers: the exact sum, difference, product, quotient, fused result, root or
conversion, rounded once in the mode with its flags OF, UF and NX; a division by zero gives an infinity with DZ, or
the canonical NaN with NV where the dividend is zero too. R99, R105, R107: what they come to on infinities and NaNs.
A NaN operand gives the canonical NaN, with NV where it signals (in a division or a root without a flag: R105 names
no signalling NaN there), and so does an operation without a value, with NV. VFMIN and VFMAX take the smaller or
larger code in the order of the numbers, -0 below +0, or the operand that is no NaN (a signalling one beside a
number: log 37, DEDUCED). Compares (R104) find a NaN unordered, the zeros equal. Sign injection copies bits. R106 to
R108: VFRECE and VFRSQE cut the exact reciprocal, or that of the root, to 8 significant bits; VFEXP2 goes through
the five roundings of ExpTwo and rounds the last product once; VFCVTFI rounds to an integer in the mode and stops at
the ends of the signed range with NV. R99, R311: an element with a flag whose enable is set stops VFADD there: FP is
raised with the flags of the element in TRAPVAL and its number in TRAPELEM and VSTART; the elements before it are
written, it and those after are not. -/
def Obligations.VectorFloatResults : Prop :=
  (
    ∀ (s : State) (d a b : VReg) (x : XReg) (p k : MReg), s.Ready → s.me.Shaped → s.me.vill = false → ekOf s.me.vtype = true →
      s.FpQuiet →
      let h := s.me
      let w := sewOf h.vtype
      groupOk h.vtype d.toNat w = true →
      let A (e : Nat) : Nat := h.elem a.toNat e w
      let D (e : Nat) : Nat := h.elem d.toNat e w
      let bv (e : Nat) : Nat := h.elem b.toNat (if 4 ≤ p.toNat then e % 2 ^ (p.toNat - 4) else e) w
      let bx : Nat := (s.x x).toNat % 2 ^ w
      let both : List (Instr × Instr × (BitVec 3 → Nat → Nat → Nat → Nat → Nat × Flags)) :=
        [(.vfadd d a b p k, .vfaddX d a x k, vfAdd), (.vfsub d a b p k, .vfsubX d a x k, vfSub),
         (.vfmul d a b p k, .vfmulX d a x k, vfMul), (.vfdiv d a b p k, .vfdivX d a x k, vfDiv),
         (.vfmin d a b p k, .vfminX d a x k, vfMin), (.vfmax d a b p k, .vfmaxX d a x k, vfMax),
         (.vfmadd d a b p k, .vfmaddX d a x k, vfFma false false), (.vfmsub d a b p k, .vfmsubX d a x k, vfFma false true),
         (.vfnmadd d a b p k, .vfnmaddX d a x k, vfFma true true), (.vfnmsub d a b p k, .vfnmsubX d a x k, vfFma true false),
         (.vfsgnj d a b p k, .vfsgnjX d a x k, vfSgnj), (.vfsgnjn d a b p k, .vfsgnjnX d a x k, vfSgnjn),
         (.vfsgnjx d a b p k, .vfsgnjxX d a x k, vfSgnjx)]
      let one : List (Instr × (BitVec 3 → Nat → Nat → Nat → Nat → Nat × Flags)) :=
        [(.vfsqrt d a k, vfSqrt), (.vfclass d a k, vfClass), (.vfrece d a k, vfRece), (.vfrsqe d a k, vfRsqe),
         (.vfexp2 d a k, vfExp2), (.vfcvtif d a k, vfCvtif), (.vfcvtfi d a k, vfCvtfi)]
      (groupOk h.vtype a.toNat w = true → ∀ r, r ∈ both →
        (groupOk h.vtype b.toNat w = true → (p.toNat < 4 ∨ b ≠ d) →
          WritesElements r.1 s h d w k (fun e => r.2.2 h.rm w (A e) (bv e) (D e))) ∧
        (groupOk h.vtype b.toNat w = true → 4 ≤ p.toNat → b = d →
          ∃ v fl, Completes r.1 s (s.setMe { h with v := v, vstart := 0, fflags := fl })) ∧
        WritesElements r.2.1 s h d w k (fun e => r.2.2 h.rm w (A e) bx (D e))) ∧
      (groupOk h.vtype a.toNat w = true → ∀ r, r ∈ one → WritesElements r.1 s h d w k (fun e => r.2 h.rm w (A e) 0 (D e))) ∧
      (w = 16 → groupOk h.vtype a.toNat 32 = true → overlapOk h.vtype d.toNat 16 a.toNat 32 = true →
        WritesElements (.vfnarrow d a k) s h d w k (fun e => vfConvert f32 bf16 h.rm (h.elem a.toNat e 32))) ∧
      (w = 32 → groupOk h.vtype a.toNat 16 = true → overlapOk h.vtype d.toNat 32 a.toNat 16 = true →
        WritesElements (.vfwiden d a k) s h d w k (fun e => vfConvert bf16 f32 h.rm (h.elem a.toNat e 16)))) ∧
  (
    ∀ (rm : BitVec 3) (w A B D : Nat), w ∈ [16, 32] → A < 2 ^ w → B < 2 ^ w → D < 2 ^ w →
      let f := fmtOf w
      let num (c : Nat) : Prop := c % f.signBit < f.infCode
      let x := f.value A
      let y := f.value B
      let z := f.value D
      let minus (c : Nat) : Bool := decide (f.signBit ≤ c)
      (num A → num B →
        f.RoundsQ rm (x + y) (vfAdd rm w A B D) ∧ f.RoundsQ rm (x - y) (vfSub rm w A B D) ∧ f.RoundsQ rm (x * y) (vfMul rm w A B D) ∧
        (x + y = 0 → (vfAdd rm w A B D).1 = signed f (if minus A = minus B then minus A else rm == 2) 0) ∧
        (x * y = 0 → (vfMul rm w A B D).1 = signed f (minus A != minus B) 0) ∧
        (y ≠ 0 → f.RoundsQ rm (x / y) (vfDiv rm w A B D)) ∧
        (y = 0 → vfDiv rm w A B D = if x = 0 then (f.canonNaN, fNV) else (signed f (minus A != minus B) f.infCode, fDZ)) ∧
        (num D →
          f.RoundsQ rm (x * y + z) (vfFma false false rm w A B D) ∧ f.RoundsQ rm (x * y - z) (vfFma false true rm w A B D) ∧
          f.RoundsQ rm (-(x * y) - z) (vfFma true true rm w A B D) ∧ f.RoundsQ rm (-(x * y) + z) (vfFma true false rm w A B D))) ∧
      (num A →
        (0 < x → f.Rounds rm false (fun q => cmp (q * q) x) (vfSqrt rm w A B D)) ∧ (x = 0 → vfSqrt rm w A B D = (A, 0)) ∧
        (x < 0 → vfSqrt rm w A B D = (f.canonNaN, fNV)) ∧
        (w = 32 → bf16.RoundsQ rm x (vfConvert f32 bf16 rm A)) ∧ (w = 16 → f32.RoundsQ rm x (vfConvert bf16 f32 rm A))) ∧
      (let i : Int := if A < 2 ^ (w - 1) then A else (A : Int) - 2 ^ w
       f.RoundsQ rm i (vfCvtif rm w A B D))) ∧
  (
    ∀ (rm : BitVec 3) (w A B D : Nat), w ∈ [16, 32] → A < 2 ^ w → B < 2 ^ w → D < 2 ^ w →
      let f := fmtOf w
      let minus (c : Nat) : Bool := decide (f.signBit ≤ c)
      let mag (c : Nat) : Nat := c % f.signBit
      let nan (c : Nat) : Prop := f.infCode < mag c
      let inf (c : Nat) : Prop := mag c = f.infCode
      let sig (c : Nat) : Prop := nan c ∧ c % 2 ^ f.mb < 2 ^ (f.mb - 1)
      let key (c : Nat) : Int := if minus c then -(mag c : Int) - 1 else mag c
      (nan A ∨ nan B → ∀ r, r ∈ [vfAdd rm w A B D, vfSub rm w A B D, vfMul rm w A B D] →
        r = (f.canonNaN, if sig A ∨ sig B then fNV else 0)) ∧
      (nan A ∨ nan B → vfDiv rm w A B D = (f.canonNaN, 0)) ∧ (nan A → vfSqrt rm w A B D = (f.canonNaN, 0)) ∧
      (inf A → minus A = false → vfSqrt rm w A B D = (A, 0)) ∧ (inf A → minus A = true → vfSqrt rm w A B D = (f.canonNaN, fNV)) ∧
      (inf A → inf B →
        vfAdd rm w A B D = (if minus A = minus B then (A, 0) else (f.canonNaN, fNV)) ∧ vfDiv rm w A B D = (f.canonNaN, fNV) ∧
        vfMul rm w A B D = (signed f (minus A != minus B) f.infCode, 0)) ∧
      (inf A → mag B < f.infCode →
        vfAdd rm w A B D = (A, 0) ∧ vfDiv rm w A B D = (signed f (minus A != minus B) f.infCode, 0) ∧
        vfMul rm w A B D = (if mag B = 0 then (f.canonNaN, fNV) else (signed f (minus A != minus B) f.infCode, 0)) ∧
        (mag B = 0 → ∀ n m, vfFma n m rm w A B D = (f.canonNaN, fNV))) ∧
      (mag A < f.infCode → inf B → vfDiv rm w A B D = (signed f (minus A != minus B) 0, 0)) ∧
      (∀ n m, nan D → ¬ nan A → ¬ nan B → ¬ (inf A ∧ mag B = 0) → ¬ (mag A = 0 ∧ inf B) →
        vfFma n m rm w A B D = (f.canonNaN, if sig D then fNV else 0)) ∧
      (let nv : Flags := if sig A ∨ sig B then fNV else 0
       vfMin rm w A B D = (if nan A ∧ nan B then f.canonNaN else if nan A then B else if nan B then A
         else if key A ≤ key B then A else B, nv) ∧
       vfMax rm w A B D = (if nan A ∧ nan B then f.canonNaN else if nan A then B else if nan B then A
         else if key A ≤ key B then B else A, nv)) ∧
      (let n (c : Nat) : Int := if minus c then -(mag c : Int) else mag c
       let lt := numLt (decodeF f A) (decodeF f B)
       let eq := numEq (decodeF f A) (decodeF f B)
       (lt = true ↔ ¬ nan A ∧ ¬ nan B ∧ n A < n B) ∧ (eq = true ↔ ¬ nan A ∧ ¬ nan B ∧ n A = n B)) ∧
      vfSgnj rm w A B D = (signed f (minus B) (mag A), 0) ∧ vfSgnjn rm w A B D = (signed f (!minus B) (mag A), 0) ∧
      vfSgnjx rm w A B D = (signed f (minus A != minus B) (mag A), 0)) ∧
  (
    ∀ (rm : BitVec 3) (w A B D : Nat), w ∈ [16, 32] → A < 2 ^ w → A % (fmtOf w).signBit < (fmtOf w).infCode →
      let f := fmtOf w
      let x := f.value A
      let minus : Bool := decide (f.signBit ≤ A)
      (x = 0 → vfRece rm w A B D = (signed f minus f.infCode, fDZ) ∧ vfRsqe rm w A B D = (signed f minus f.infCode, fDZ)) ∧
      (x ≠ 0 → ∃ (j : Nat) (k : Int), 128 ≤ j ∧ j < 256 ∧ j * (2 : ℚ) ^ k ≤ 1 / |x| ∧ 1 / |x| < (j + 1) * (2 : ℚ) ^ k ∧
        f.Rounds 1 minus (fun q => cmp q (j * (2 : ℚ) ^ k)) (vfRece rm w A B D)) ∧
      (0 < x → ∃ (j : Nat) (k : Int), 128 ≤ j ∧ j < 256 ∧ (j * (2 : ℚ) ^ k) ^ 2 ≤ 1 / x ∧ 1 / x < ((j + 1) * (2 : ℚ) ^ k) ^ 2 ∧
        f.Rounds 1 false (fun q => cmp q (j * (2 : ℚ) ^ k)) (vfRsqe rm w A B D)) ∧
      (x < 0 → vfRsqe rm w A B D = (f.canonNaN, fNV)) ∧
      (⌊x⌋ < -149 → vfExp2 rm w A B D = (0, 0)) ∧
      (-149 ≤ ⌊x⌋ →
        let j := ⌊64 * (x - ⌊x⌋)⌋
        let t := x - ⌊x⌋ - j / 64
        let step (y : ℚ) (c : Nat) : Prop := ∃ fl, f32.RoundsQ 0 y (c, fl)
        ∃ p1 p2 p3 p4 p5, step (t * f32.value 0x3E75FDF0) p1 ∧ step (f32.value 0x3F317218 + f32.value p1) p2 ∧
          step (t * f32.value p2) p3 ∧ step (1 + f32.value p3) p4 ∧ step (f32.value (exp2Table.getD j.toNat 0) * f32.value p4) p5 ∧
          f.RoundsQ 0 (f32.value p5 * (2 : ℚ) ^ ⌊x⌋) (vfExp2 rm w A B D)) ∧
      (let d := x - ⌊x⌋
       let up : Bool := match rm.toNat with
         | 1 => decide (x < 0 ∧ d ≠ 0)
         | 2 => false
         | 3 => decide (d ≠ 0)
         | 4 => decide (1 / 2 < d ∨ d = 1 / 2 ∧ 0 ≤ x)
         | _ => decide (1 / 2 < d ∨ d = 1 / 2 ∧ ⌊x⌋ % 2 = 1)
       let n : Int := if up then ⌊x⌋ + 1 else ⌊x⌋
       vfCvtfi rm w A B D =
         if 2 ^ (w - 1) - 1 < n then (2 ^ (w - 1) - 1, fNV) else if n < -(2 : Int) ^ (w - 1) then (2 ^ (w - 1), fNV)
         else ((n % 2 ^ w).toNat, if d = 0 then 0 else fNX))) ∧
  (
    ∀ (s : State) (d a b : VReg) (e : Nat), s.Ready → s.me.Shaped → s.me.vill = false → ekOf s.me.vtype = true →
      let h := s.me
      let w := sewOf h.vtype
      let r (i : Nat) : Nat × Flags := vfAdd h.rm w (h.elem a.toNat i w) (h.elem b.toNat i w) 0
      groupOk h.vtype d.toNat w = true → groupOk h.vtype a.toNat w = true → groupOk h.vtype b.toNat w = true →
      h.vstart ≤ e → e < h.vl → (r e).2 &&& h.enables ≠ 0 → (∀ i, h.vstart ≤ i → i < e → (r i).2 &&& h.enables = 0) →
      ∃ u, exec (.vfadd d a b 0 0) s = .next u ∧ u.me.trap.cause = 0x0B ∧ u.me.trap.elem = BitVec.ofNat 24 e ∧
        u.me.trap.val = (r e).2.zeroExtend 64 ∧ u.me.trap.pc = s.me.pc ∧ u.me.trap.sq = false ∧ u.me.vstart = e ∧
        (∀ i, i < vlmaxOf h.lanes h.vtype → u.me.elem d.toNat i w =
          if h.vstart ≤ i ∧ i < e then (r i).1 % 2 ^ w else h.elem d.toNat i w) ∧ u.me.xu = h.xu ∧ u.me.xs = h.xs ∧ u.mem = s.mem)

/-- R97, R109, R111: an integer reduction folds the active elements of each die segment, in increasing order, into
element 0 of the segment of vb, and writes it at the segment's first element; every other element of vd is tail. A
length of 0 writes nothing. R110, R111: a float reduction combines the active elements of each segment in the tree
of R110 and then with element 0 of the segment of vb; with no active element it gives the latter. Every other
element of vd is tail. -/
def Obligations.VectorReductions : Prop :=
  (
    ∀ (s : State) (d a b : VReg) (k : MReg), s.Ready → s.me.Shaped → s.me.vill = false → s.me.vstart = 0 →
      let h := s.me
      let w := sewOf h.vtype
      groupOk h.vtype d.toNat w = true → groupOk h.vtype a.toNat w = true → groupOk h.vtype b.toNat w = true →
      let E (r : VReg) (e : Nat) : BitVec w := BitVec.ofNat w (h.elem r.toNat e w)
      let first (j : Nat) : Nat := j * (h.lanes / h.segs) * (64 / w)
      let rows : List (Instr × (BitVec w → BitVec w → BitVec w)) :=
        [(.vredsum d a b k, fun A B => A + B), (.vredmin d a b k, fun A B => if A.toInt ≤ B.toInt then A else B),
         (.vredmax d a b k, fun A B => if A.toInt ≤ B.toInt then B else A),
         (.vredminn d a b k, fun A B => if A.toNat ≤ B.toNat then A else B),
         (.vredmaxn d a b k, fun A B => if A.toNat ≤ B.toNat then B else A), (.vredand d a b k, fun A B => A &&& B),
         (.vredor d a b k, fun A B => A ||| B), (.vredxor d a b k, fun A B => A ^^^ B)]
      ∀ r, r ∈ rows → ∃ v, Completes r.1 s (s.setMe { h with v := v }) ∧
        (h.vl = 0 → v = h.v) ∧
        (0 < h.vl → ∀ j, j < h.segs → Hart.elem { h with v := v } d.toNat (first j) w =
          (((List.range h.vl).filter (fun e => decide (segOf h.lanes h.segs w e = j) && h.isActive k e)).foldl
            (fun acc e => r.2 acc (E a e)) (E b (first j))).toNat) ∧
        (0 < h.vl → ∀ e, e < vlmaxOf h.lanes h.vtype → (∀ j, j < h.segs → e ≠ first j) →
          Hart.elem { h with v := v } d.toNat e w = if taOf h.vtype then 0 else h.elem d.toNat e w) ∧
        (∀ q, (q < d.toNat ∨ d.toNat + lmulOf h.vtype ≤ q) → Hart.vreg { h with v := v } q = h.vreg q)) ∧
  (
    ∀ (s : State) (d a b : VReg) (k : MReg), s.Ready → s.me.Shaped → s.me.vill = false → s.me.vstart = 0 →
      ekOf s.me.vtype = true → s.FpQuiet →
      let h := s.me
      let w := sewOf h.vtype
      groupOk h.vtype d.toNat w = true → groupOk h.vtype a.toNat w = true → groupOk h.vtype b.toNat w = true →
      let first (j : Nat) : Nat := j * (h.lanes / h.segs) * (64 / w)
      ∀ r, r ∈ [(Instr.vfredsum d a b k, vfAdd), (.vfredmin d a b k, vfMin), (.vfredmax d a b k, vfMax)] →
        ∃ v fl, Completes r.1 s (s.setMe { h with v := v, fflags := h.fflags ||| fl }) ∧
          (∀ j, j < h.segs →
            let nodes := ((List.range h.vl).filter (fun e => decide (segOf h.lanes h.segs w e = j))).map
              (fun e => if h.isActive k e then some (h.elem a.toNat e w) else none)
            Hart.elem { h with v := v } d.toNat (first j) w =
              match (tree (fun y z => r.2 h.rm w y z 0) 22 nodes).1 with
              | none => h.elem b.toNat (first j) w
              | some y => (r.2 h.rm w y (h.elem b.toNat (first j) w) 0).1 % 2 ^ w) ∧
          (∀ e, e < vlmaxOf h.lanes h.vtype → (∀ j, j < h.segs → e ≠ first j) →
            Hart.elem { h with v := v } d.toNat e w = if taOf h.vtype then 0 else h.elem d.toNat e w) ∧
          (∀ q, (q < d.toNat ∨ d.toNat + lmulOf h.vtype ≤ q) → Hart.vreg { h with v := v } q = h.vreg q))

/-- R112: VIOTA counts the set bits of active elements before each element, VID numbers them, MTOV copies mask bits into
elements, MFROMV elements into mask bits; the mask members combine, slide or cut whole masks. -/
def Obligations.MaskMembers : Prop :=
  ∀ (s : State) (m a b k : MReg) (d : VReg), s.Ready → s.me.Shaped → s.me.vill = false → s.me.vstart = 0 →
    let h := s.me
    let w := sewOf h.vtype
    (groupOk h.vtype d.toNat w = true →
      WritesElements (.viota d m k) s h d w k (fun e =>
        (((List.range e).filter (fun i => h.isActive k i && h.maskBit m i)).length, 0)) ∧
      WritesElements (.vid d k) s h d w k (fun e => (e, 0)) ∧
      WritesElements (.mtov d m k) s h d w k (fun e => (if h.maskBit m e then 1 else 0, 0)) ∧
      WritesMask (.mfromv m d k) s m k (fun e => (decide (h.elem d.toNat e w ≠ 0), 0))) ∧
    WritesMask (.mand m a b) s m 0 (fun e => (h.maskBit a e && h.maskBit b e, 0)) ∧
    WritesMask (.mor m a b) s m 0 (fun e => (h.maskBit a e || h.maskBit b e, 0)) ∧
    WritesMask (.mxor m a b) s m 0 (fun e => (Bool.xor (h.maskBit a e) (h.maskBit b e), 0)) ∧
    WritesMask (.mandn m a b) s m 0 (fun e => (h.maskBit a e && !h.maskBit b e, 0)) ∧
    WritesMask (.mnot m a) s m 0 (fun e => (!h.maskBit a e, 0)) ∧ WritesMask (.mmv m a) s m 0 (fun e => (h.maskBit a e, 0)) ∧
    WritesMask (.mslide1 m a) s m 0 (fun e => (decide (0 < e) && h.maskBit a (e - 1), 0)) ∧
    WritesMask (.msbf m a) s m 0 (fun e => (decide (∀ i, i ≤ e → h.maskBit a i = false), 0))

/-- R97, R114 to R116: slides, permutes, reverse, broadcast, expand and compress, each inside its die segment by local
index, and the moves that take a scalar, from xb or, where the field is 0, the oldest entry of q0. R273 to R275:
XSTEP reads the same local index xb segments back, XBCAST the element xb for all, XREDSUM and XREDMAX fold every
active element into element 0, zero or the least value where there is none; other elements are tail. -/
def Obligations.PermutesAndSpans : Prop :=
  (
    ∀ (s : State) (d a b : VReg) (x : XReg) (m k : MReg), s.Ready → s.me.Shaped → s.me.vill = false → s.me.vstart = 0 →
      let h := s.me
      let w := sewOf h.vtype
      groupOk h.vtype d.toNat w = true → groupOk h.vtype a.toNat w = true → groupOk h.vtype b.toNat w = true → d ≠ a → d ≠ b →
      let seg (e : Nat) : Nat := segOf h.lanes h.segs w e
      let loc (e : Nat) : Nat := localOf h.lanes h.segs w e
      let A (e l : Nat) : Nat := h.elem a.toNat (elemOf h.lanes h.segs w (seg e) l) w
      let len (e : Nat) : Nat := ((List.range h.vl).filter (fun i => decide (seg i = seg e))).length
      let top := vlmaxOf h.lanes h.vtype / h.segs
      let n := (s.x x).toNat
      let old (e : Nat) : Nat := h.elem d.toNat e w
      let writes (i : Instr) (f : Nat → Nat) : Prop := WritesElements i s h d w k (fun e => (f e, 0))
      let one (i : XReg → Instr) (f : Word → Nat → Nat) : Prop :=
        (x ≠ 0 → writes (i x) (f (s.x x))) ∧
        (∀ v q, h.q0 = v :: q → WritesElements (i 0) s { h with q0 := q } d w k (fun e => (f v e, 0))) ∧
        (h.q0 = [] → ∃ u e, Completes (i 0) s u ∧ u.me.stream = [e] ∧ e.word = encodeWord (i 0) ∧ u.me.v = h.v)
      writes (.vslideup d a x k) (fun e => if loc e < n then old e else A e (loc e - n)) ∧
      writes (.vslidedn d a x k) (fun e => if loc e + n < top then A e (loc e + n) else 0) ∧
      writes (.vpermx d a b k) (fun e => if h.elem b.toNat e w < top then A e (h.elem b.toNat e w) else 0) ∧
      writes (.vrev d a k) (fun e => A e (len e - 1 - loc e)) ∧
      writes (.vbcast d a x k) (fun e => if n < top then A e n else 0) ∧
      writes (.vexpand d a m k) (fun e => if h.maskBit m e then
        A e ((List.range e).filter (fun i => decide (seg i = seg e) && h.maskBit m i)).length
        else if maOf h.vtype then 0 else old e) ∧
      one (fun x => .vslide1up d a x k) (fun v e => if loc e = 0 then v.toNat else A e (loc e - 1)) ∧
      one (fun x => .vslide1dn d a x k) (fun v e => if loc e + 1 < len e then A e (loc e + 1) else v.toNat) ∧
      (∃ v, Completes (.vcompress d a m) s (s.setMe { h with v := v }) ∧
        (∀ e, e < h.vl → h.maskBit m e = true → Hart.elem { h with v := v } d.toNat
          (elemOf h.lanes h.segs w (seg e) ((List.range e).filter (fun i => decide (seg i = seg e) && h.maskBit m i)).length) w
            = h.elem a.toNat e w) ∧
        (0 < h.vl → ∀ e, e < vlmaxOf h.lanes h.vtype →
          ((List.range h.vl).filter (fun i => decide (seg i = seg e) && h.maskBit m i)).length ≤ loc e →
          Hart.elem { h with v := v } d.toNat e w = if taOf h.vtype then 0 else old e) ∧
        (h.vl = 0 → ∀ e, e < vlmaxOf h.lanes h.vtype → Hart.elem { h with v := v } d.toNat e w = if taOf h.vtype then 0 else old e) ∧
        (∀ q, (q < d.toNat ∨ d.toNat + lmulOf h.vtype ≤ q) → Hart.vreg { h with v := v } q = h.vreg q)) ∧
      (let moved (g : Hart) (x : XReg) (n : Nat) : Prop := ∃ v, Completes (.vmvxv d x k) s (s.setMe { g with v := v }) ∧
         (∀ e, e < vlmaxOf h.lanes h.vtype → Hart.elem { h with v := v } d.toNat e w =
           if e = 0 ∧ 0 < h.vl then (if h.isActive k 0 then n % 2 ^ w else if maOf h.vtype then 0 else old 0)
           else if taOf h.vtype then 0 else old e) ∧
         (∀ q, (q < d.toNat ∨ d.toNat + lmulOf h.vtype ≤ q) → Hart.vreg { h with v := v } q = h.vreg q)
       (x ≠ 0 → moved h x n) ∧
       (∀ v q, h.q0 = v :: q → moved { h with q0 := q } 0 v.toNat) ∧
       (h.q0 = [] → ∃ u e, Completes (.vmvxv d 0 k) s u ∧ u.me.stream = [e] ∧ e.word = encodeWord (.vmvxv d 0 k) ∧ u.me.v = h.v))) ∧
  (
    ∀ (s : State) (d a : VReg) (x : XReg) (k : MReg), s.Ready → s.me.Shaped → s.me.vill = false → s.me.vstart = 0 →
      let h := s.me
      let w := sewOf h.vtype
      groupOk h.vtype d.toNat w = true → groupOk h.vtype a.toNat w = true →
      let A (e : Nat) : Nat := h.elem a.toNat e w
      let act := (List.range h.vl).filter (h.isActive k)
      let back (e : Nat) : Nat := elemOf h.lanes h.segs w ((segOf h.lanes h.segs w e + h.segs - (s.x x).toNat % h.segs) % h.segs)
        (localOf h.lanes h.segs w e)
      let one (i : Instr) (y : Nat) (fl : Flags) : Prop :=
        ∃ v, Completes i s (s.setMe { h with v := v, fflags := h.fflags ||| fl }) ∧
          (∀ e, e < vlmaxOf h.lanes h.vtype → Hart.elem { h with v := v } d.toNat e w =
            if e = 0 then y % 2 ^ w else if taOf h.vtype then 0 else h.elem d.toNat e w) ∧
          (∀ q, (q < d.toNat ∨ d.toNat + lmulOf h.vtype ≤ q) → Hart.vreg { h with v := v } q = h.vreg q)
      let nodes := (List.range h.vl).map (fun e => if h.isActive k e then some (A e) else none)
      (d ≠ a →
        WritesElements (.xstep d a x k) s h d w k (fun e => (if back e < h.vl then A (back e) else 0, 0)) ∧
        WritesElements (.xbcast d a x k) s h d w k (fun _ => (if (s.x x).toNat < vlmaxOf h.lanes h.vtype then A (s.x x).toNat else 0, 0))) ∧
      (ekOf h.vtype = false →
        one (.xredsum d a k) (act.foldl (fun acc e => (acc + A e) % 2 ^ w) 0) 0 ∧
        one (.xredmax d a k) (act.foldl (fun (acc : BitVec w) e => if acc.toInt ≤ (BitVec.ofNat w (A e)).toInt then BitVec.ofNat w (A e) else acc)
          (BitVec.intMin w)).toNat 0) ∧
      (ekOf h.vtype = true → s.FpQuiet →
        let sum := tree (fun y z => vfAdd h.rm w y z 0) 22 nodes
        let top := tree (fun y z => vfMax h.rm w y z 0) 22 nodes
        one (.xredsum d a k) (sum.1.getD 0) sum.2 ∧ one (.xredmax d a k) (top.1.getD (if w = 16 then 0xFF80 else 0xFF800000)) top.2))

/-! ### Vector memory, scratch and atomics -/

/-- R117 to R119, R121: the address phase gives each active element, in increasing order, its fields' addresses and the
places they translate to; it ends at the lowest element that an access of fails. An address beyond 64 bits wraps
(log 41, DESIGN CHOICE). R48, R120, R121, R314: a VLD or VST whose address phase fails at an element traps there
with the cause, the address and the element, with no register, no byte and no queue changed; a store of a scaled
format accesses each record for its lowest active element (R139). An address beyond 64 bits wraps (log 41), and a
record whose elements are all masked off is written too (log 40; both DESIGN CHOICE). -/
def Obligations.VectorAddressPhase : Prop :=
  (
    ∀ (s : State) (acc : Acc) (m : VMode) (fc : Nat) (xb xs : Word) (es : List Nat),
      let r := addressPhase s acc m fc xb xs es
      let wants (e : Nat) : List (Nat × Nat) := (List.range m.fields).map (fun f => (e, f))
      (r.2 = none → r.1.map (fun a => (a.e, a.f)) = es.flatMap wants) ∧
      (∀ err e, r.2 = some (err, e) → ∃ pre post, es = pre ++ e :: post ∧ r.1.map (fun a => (a.e, a.f)) = pre.flatMap wants) ∧
      (∀ a, a ∈ r.1 → a.pl = vplace m fc xb xs a.e a.f ∧ physOf s acc fc a.addrs = .ok a.keys ∧
        (fmtWhole fc = true →
          let va : Word := match m with
            | .unit => BitVec.ofInt 64 (xb.toNat + (a.e : Int) * fmtBytes fc)
            | .ff => BitVec.ofInt 64 (xb.toNat + (a.e : Int) * fmtBytes fc)
            | .strided => xb + BitVec.ofNat 64 a.e * xs
            | .seg n => xb + BitVec.ofNat 64 ((a.e * n + a.f) * fmtBytes fc)
          ∃ p, access s s.who acc (fmtBytes fc) false va = .ok p ∧ a.keys = (List.range (fmtBytes fc)).map (fun i => p.key + i)))) ∧
  (
    ∀ (s : State) (d : VReg) (b x : XReg) (n k : MReg) (f : BitVec 5) (i : Instr) (acc : Acc) (m : VMode) (caps : List Word)
      (accs : List VAcc) (err : MemErr) (e : Nat),
      (i, acc, m, caps) ∈ [(.vld d b k f, .load, .unit, [s.x b]), (.vldS d b x k f, .load, .strided, [s.x b, s.x x]),
        (.vldG d b n k f, .load, .seg (n.toNat + 1), [s.x b]), (.vst d b k f, .store, .unit, [s.x b]),
        (.vstS d b x k f, .store, .strided, [s.x b, s.x x]), (.vstG d b n k f, .store, .seg (n.toNat + 1), [s.x b])] →
      s.Ready → s.me.vill = false →
      let h := s.me
      let fc := f.toNat
      let all := List.range' h.vstart (h.vl - h.vstart)
      fmtLegal fc (ekOf h.vtype) (sewOf h.vtype) m.isUnit = true → segOk h.vtype d.toNat m.fields = true →
      (acc = .store → fmtScaled fc = true → h.vstart % fmtBlock fc = 0) →
      addressPhase s acc m fc (caps.getD 0 0) (caps.getD 1 0)
        (if acc = .store ∧ fmtScaled fc = true then recordElems (s.capture caps) h k (fmtBlock fc) else all.filter (h.isActive k))
        = (accs, some (err, e)) →
      ∃ u, exec i s = .next u ∧ u.me.trap.cause = err.cause.code ∧ u.me.trap.val = err.addr ∧
        u.me.trap.elem = BitVec.ofNat 24 e ∧ u.me.trap.pc = h.pc ∧ u.me.vstart = h.vstart ∧ u.me.v = h.v ∧ u.me.m = h.m ∧
        u.me.xu = h.xu ∧ u.me.xs = h.xs ∧ u.mem = s.mem ∧ u.stores = s.stores)

/-- R117 to R120, R123, R133 to R136: the loads of VLD. An active element takes the code at its place, widened; the
bytes of the lane group's own queued stores come first. Masked-off elements, the tail and other registers follow
R48. R123: VLD.FF whose element e fails, beyond its first active element and not for MISALIGN or COMPRESSED, loads
the elements below e and sets VL to e, for itself and for what issued under the same length setting: executed from
the stream, it gives the entries behind it that have its length setting, and the hart where that still stands, VL =
e. -/
def Obligations.VectorLoads : Prop :=
  (
    ∀ (s : State) (d : VReg) (b x : XReg) (n k : MReg) (f : BitVec 5), s.Ready → s.me.Shaped → s.me.vill = false →
      let h := s.me
      let w := sewOf h.vtype
      let g := lmulOf h.vtype
      let fc := f.toNat
      let act := (List.range' h.vstart (h.vl - h.vstart)).filter (h.isActive k)
      let code (a : VAcc) : Option Nat :=
        let bs := a.keys.map (fun key => (s.ownByte s.who (.group (groupOf h w a.e)) key).toNat)
        let raw := (if fmtScaled fc then bs.drop 1 else bs).foldr (fun y z => y + 256 * z) 0
        widen fc (ekOf h.vtype) w (raw / 2 ^ a.pl.bit % 2 ^ fmtBits fc) (if fmtScaled fc then bs.headD 0 else 0)
      let readable (m : VMode) (stride : Word) (accs : List VAcc) : Prop :=
        fmtLegal fc (ekOf h.vtype) w m.isUnit = true ∧ segOk h.vtype d.toNat m.fields = true ∧
        addressPhase s .load m fc (s.x b) stride act = (accs, none) ∧ (∀ a key, a ∈ accs → key ∈ a.keys → key < 2 ^ 61) ∧
        (h.rct = false ∨ ∀ a, a ∈ accs → code a ≠ none)
      let loaded (m : VMode) (accs : List VAcc) (v : Vector VBits 32) : Prop :=
        (∀ a, a ∈ accs → Hart.elem { h with v := v } (d.toNat + a.f * g) a.e w = (code a).getD (fmtOf w).canonNaN % 2 ^ w) ∧
        (∀ q e, q < m.fields → e < vlmaxOf h.lanes h.vtype → ¬ (h.vstart ≤ e ∧ e < h.vl ∧ h.isActive k e = true) →
          Hart.elem { h with v := v } (d.toNat + q * g) e w =
            h.elementAfter k 0 (h.elem (d.toNat + q * g) e w) 0 e) ∧
        (∀ r, (r < d.toNat ∨ d.toNat + m.fields * g ≤ r) → Hart.vreg { h with v := v } r = h.vreg r)
      let after (accs : List VAcc) (v : Vector VBits 32) : State := finish (noteAll accs (s.setMe { h with v := v, vstart := 0 }))
      ∀ accs : List VAcc,
        (readable .unit 0 accs → ∃ v, exec (.vld d b k f) s = .next (after accs v) ∧ loaded .unit accs v) ∧
        (readable .strided (s.x x) accs → ∃ v, exec (.vldS d b x k f) s = .next (after accs v) ∧ loaded .strided accs v) ∧
        (readable (.seg (n.toNat + 1)) 0 accs → ∃ v, exec (.vldG d b n k f) s = .next (after accs v) ∧ loaded (.seg (n.toNat + 1)) accs v) ∧
        (readable .ff 0 accs → ∃ v, exec (.vldFf d b k f) s = .next (after accs v) ∧ loaded .ff accs v)) ∧
  (
    let loads (s u : State) (d : VReg) (fc : Nat) (t : Word) (accs : List VAcc) : Prop :=
      ∀ a, a ∈ accs →
        let bs := a.keys.map (fun key => (s.ownByte s.who (.group (groupOf s.me (sewOf t) a.e)) key).toNat)
        u.me.elem d.toNat a.e (sewOf t) = (widen fc (ekOf t) (sewOf t)
          (bs.foldr (fun y z => y + 256 * z) 0 / 2 ^ a.pl.bit % 2 ^ fmtBits fc) 0).getD (fmtOf (sewOf t)).canonNaN % 2 ^ sewOf t
    (∀ (s : State) (d : VReg) (b : XReg) (k : MReg) (f : BitVec 5) (accs : List VAcc) (err : MemErr) (e : Nat),
      s.Ready → s.me.Shaped → s.me.vill = false →
      let h := s.me
      let fc := f.toNat
      let act := (List.range' h.vstart (h.vl - h.vstart)).filter (h.isActive k)
      fmtLegal fc (ekOf h.vtype) (sewOf h.vtype) true = true → segOk h.vtype d.toNat 1 = true → fmtScaled fc = false →
      addressPhase s .load .ff fc (s.x b) 0 act = (accs, some (err, e)) → h.rct = false →
      (∀ a key, a ∈ accs → key ∈ a.keys → key < 2 ^ 61) → err.cause ≠ .misalign → err.cause ≠ .compressed →
      (act.headD 0 < e →
        ∃ u, Completes (.vldFf d b k f) s u ∧ u.me.vl = e ∧ u.me.vtype = h.vtype ∧ u.me.vstart = 0 ∧ u.me.xu = h.xu ∧
          u.mem = s.mem ∧ (∀ r, (r < d.toNat ∨ d.toNat + lmulOf h.vtype ≤ r) → u.me.vreg r = h.vreg r) ∧
          loads s u d fc h.vtype accs) ∧
      (act.headD 0 = e →
        ∃ u, exec (.vldFf d b k f) s = .next u ∧ u.me.trap.cause = err.cause.code ∧ u.me.trap.val = err.addr ∧
          u.me.trap.elem = BitVec.ofNat 24 e ∧ u.me.vl = h.vl ∧ u.me.v = h.v ∧ u.mem = s.mem)) ∧
    (∀ (s : State) (d : VReg) (b : XReg) (k : MReg) (f : BitVec 5) (accs : List VAcc) (err : MemErr) (e : Nat) (q : Issued),
      s.replay = some q → s.agent.lane = none → s.pace = none → s.bad = [] → s.me.pulls = [] → s.order.lag = [] →
      s.me.xops.all (fun o => o.kind != .recv) = true → s.stores.all (fun t => t.who != s.who || !t.fenced) = true →
      let h := s.me
      let fc := f.toNat
      let t := q.cap.vtype
      let act := (List.range' q.cap.start (q.cap.vl - q.cap.start)).filter (h.isActive k)
      1 ≤ h.lanes → q.cap.vl ≤ vlmaxOf h.lanes t → fmtLegal fc (ekOf t) (sewOf t) true = true → segOk t d.toNat 1 = true →
      fmtScaled fc = false → addressPhase s .load .ff fc (q.cap.xs.getD 0 0) 0 act = (accs, some (err, e)) → h.rct = false →
      (∀ a key, a ∈ accs → key ∈ a.keys → key < 2 ^ 61) → err.cause ≠ .misalign → err.cause ≠ .compressed → act.headD 0 < e →
      ∃ u, exec (.vldFf d b k f) s = .next u ∧ u.replay = none ∧ u.mem = s.mem ∧
        u.me.stream = s.me.stream.map (fun x =>
          if x.cap.epoch = q.cap.epoch then { x with cap := { x.cap with vl := e }, snap := { x.snap with vl := e } } else x) ∧
        u.me.vl = (if h.epoch = q.cap.epoch then e else h.vl) ∧ u.me.xu = h.xu ∧ u.me.pc = h.pc ∧
        (∀ r, (r < d.toNat ∨ d.toNat + lmulOf t ≤ r) → u.me.vreg r = h.vreg r) ∧ loads s u d fc t accs))

/-- R117 to R122, R125, R137: the stores of VST enter the queues of their lane groups: no register and no byte of memory
changes yet, and a lane group reads back the code of a whole-byte element that no other element of the instruction
touches, and every byte that the instruction does not touch as before. A scaled format touches whole records (R139),
one whose elements are all masked off among them (log 40, DESIGN CHOICE). -/
def Obligations.VectorStores : Prop :=
  ∀ (s : State) (d : VReg) (b x : XReg) (n k : MReg) (f : BitVec 5), s.Ready → s.me.Shaped → s.me.vill = false →
    let h := s.me
    let w := sewOf h.vtype
    let fc := f.toNat
    let all := List.range' h.vstart (h.vl - h.vstart)
    let writable (m : VMode) (stride : Word) (accs : List VAcc) : Prop :=
      fmtLegal fc (ekOf h.vtype) w m.isUnit = true ∧ segOk h.vtype d.toNat m.fields = true ∧
      (fmtScaled fc = true → h.vstart % fmtBlock fc = 0) ∧
      addressPhase s .store m fc (s.x b) stride
        (if fmtScaled fc then recordElems (s.capture []) h k (fmtBlock fc) else all.filter (h.isActive k)) = (accs, none)
    let stored (accs : List VAcc) (u : State) : Prop :=
      u.mem = s.mem ∧ u.me = { h with vstart := 0 } ∧ (∀ q, q ≠ s.who → u.hart q = s.hart q) ∧
      (∀ q key, (∀ a, a ∈ accs → key ∉ a.keys) → u.ownByte s.who q key = s.ownByte s.who q key) ∧
      (fmtWhole fc = true → ∀ a, a ∈ accs → (∀ a', a' ∈ accs → (a'.e, a'.f) ≠ (a.e, a.f) → ∀ key, key ∈ a.keys → key ∉ a'.keys) →
        ∀ j, j < a.keys.length →
          u.ownByte s.who (.group (groupOf h w a.e)) (a.keys.getD j 0) =
            BitVec.ofNat 8 (narrow fc h.sat h.rm (ekOf h.vtype) w (h.elem (d.toNat + a.f * lmulOf h.vtype) a.e w) / 256 ^ j))
    ∀ accs : List VAcc,
      (writable .unit 0 accs → ∃ u, exec (.vst d b k f) s = .next (finish u) ∧ stored accs u) ∧
      (writable .strided (s.x x) accs → ∃ u, exec (.vstS d b x k f) s = .next (finish u) ∧ stored accs u) ∧
      (writable (.seg (n.toNat + 1)) 0 accs → ∃ u, exec (.vstG d b n k f) s = .next (finish u) ∧ stored accs u)

/-- R48, R119, R126 to R129: scratch members act on the scratch of each element's lane at the exact sum of xb and the
element's index (a sum beyond Z is PERM, one beyond 64 bits too: log 41, DESIGN CHOICE). Where no two active
elements touch one place, a load takes the element there, a store replaces it and an atomic does both; VSLDL takes
each lock that is free when its turn comes and clears the mask bit of an element whose lock is not; VSSTU stores and
frees the locks. Masked-off elements, the tail and other registers follow R48; every other byte of scratch, every
other lock and generic memory stay. -/
def Obligations.LaneScratchMembers : Prop :=
  ∀ (s : State) (d x : VReg) (b : XReg) (k : MReg) (f : BitVec 5), s.Ready → s.me.Shaped → s.me.vill = false → s.Inv →
    s.myCore.scratchSize ≤ 2 ^ 17 →
    let h := s.me
    let w := sewOf h.vtype
    let act := (List.range' h.vstart (h.vl - h.vstart)).filter (h.isActive k)
    let off (e : Nat) : Nat := (s.x b).toNat + h.elem x.toNat e w
    let lane (e : Nat) : Nat := e * w / 64 % h.lanes
    let inside (n : Nat) : Prop := ∀ e, e ∈ act → off e % n = 0 ∧ off e + n ≤ s.myCore.scratchSize
    let apart (n : Nat) : Prop :=
      ∀ e e', e ∈ act → e' ∈ act → e ≠ e' → lane e ≠ lane e' ∨ off e + n ≤ off e' ∨ off e' + n ≤ off e
    let held (t : State) (e n : Nat) : Nat := t.scratchN s.who (lane e) (off e) n
    let others (n : Nat) (u : State) : Prop :=
      u.mem = s.mem ∧ u.stores = s.stores ∧ (∀ q, q ≠ s.who → u.hart q = s.hart q) ∧
      (∀ c key, (∀ e, e ∈ act → (s.laneCore s.who (lane e)).1 ≠ c ∨ key < scratchKey (s.laneCore s.who (lane e)).2 (off e) ∨
          scratchKey (s.laneCore s.who (lane e)).2 (off e) + n ≤ key) →
        Memory.read (u.core c).scratch key = Memory.read (s.core c).scratch key)
    let locksBut (u : State) : Prop :=
      ∀ (c : CoreId) (l : Fin 32) (q : Nat), (∀ e, e ∈ act → s.laneCore s.who (lane e) ≠ (c, l.val) ∨ lockBit (off e) ≠ q) →
        ((u.core c).locks.get l).getLsbD q = ((s.core c).locks.get l).getLsbD q
    let group (v : Vector VBits 32) (new : Nat → Nat) : Prop :=
      (∀ e, e < vlmaxOf h.lanes h.vtype →
        Hart.elem { h with v := v } d.toNat e w = h.elementAfter k 0 (h.elem d.toNat e w) (new e) e) ∧
      (∀ r, (r < d.toNat ∨ d.toNat + lmulOf h.vtype ≤ r) → Hart.vreg { h with v := v } r = h.vreg r)
    groupOk h.vtype d.toNat w = true → groupOk h.vtype x.toNat w = true →
    (∀ e, e ∈ act → (s.laneCore s.who (lane e)).2 < 32) →
    (let n := fmtBytes f.toNat
     let value (e : Nat) : Option Nat := widen f.toNat (ekOf h.vtype) w (held s e n) 0
     fmtLegal f.toNat (ekOf h.vtype) w false = true → inside n →
      (d = x → TrapsWord (.vldI d b x k f) .illegalInsn s) ∧
      (d ≠ x → (h.rct = false ∨ ∀ e, e ∈ act → value e ≠ none) →
        WritesElements (.vldI d b x k f) s h d w k (fun e => ((value e).getD (fmtOf w).canonNaN, 0))) ∧
      (apart n → ∃ u, Completes (.vstI d b x k f) s u ∧ u.me = { h with vstart := 0 } ∧ others n u ∧
        (∀ c, (u.core c).locks = (s.core c).locks) ∧
        (∀ e, e ∈ act → held u e n = narrow f.toNat h.sat h.rm (ekOf h.vtype) w (h.elem d.toNat e w) % 256 ^ n))) ∧
    (32 ≤ w → ekOf h.vtype = false → inside (w / 8) →
      let n := w / 8
      let combines (i : Instr) (g : BitVec w → BitVec w → BitVec w) : Prop :=
        ∃ u v, Completes i s u ∧ u.me = { h with v := v, vstart := 0 } ∧ group v (fun e => held s e n) ∧ others n u ∧
          (∀ c, (u.core c).locks = (s.core c).locks) ∧
          (∀ e, e ∈ act → held u e n = (g (BitVec.ofNat w (held s e n)) (BitVec.ofNat w (h.elem d.toNat e w))).toNat)
      (apart n →
        combines (.vsamoAdd d b x k) (fun A B => A + B) ∧
        combines (.vsamoMin d b x k) (fun A B => if A.toInt ≤ B.toInt then A else B) ∧
        combines (.vsamoMax d b x k) (fun A B => if A.toInt ≤ B.toInt then B else A) ∧
        combines (.vsamoMinn d b x k) (fun A B => if A.toNat ≤ B.toNat then A else B) ∧
        combines (.vsamoMaxn d b x k) (fun A B => if A.toNat ≤ B.toNat then B else A) ∧
        combines (.vsamoAnd d b x k) (fun A B => A &&& B) ∧ combines (.vsamoOr d b x k) (fun A B => A ||| B) ∧
        combines (.vsamoXor d b x k) (fun A B => A ^^^ B) ∧ combines (.vsamoSwap d b x k) (fun _ B => B)) ∧
      (k ≠ 0 →
        (let got (e : Nat) : Prop := s.lockOf (lane e) (off e) = false ∧
           ∀ e', e' ∈ act → e' < e → lane e' = lane e → lockBit (off e') ≠ lockBit (off e)
         ∃ u v m, Completes (.vsldl d b x k) s u ∧ u.me = { h with v := v, m := m, vstart := 0 } ∧ others 0 u ∧ locksBut u ∧
           (∀ e, e ∈ act → u.lockOf (lane e) (off e) = true ∧
             (got e → Hart.maskBit { h with m := m } k e = true ∧ Hart.elem { h with v := v } d.toNat e w = held s e n) ∧
             (¬ got e → Hart.maskBit { h with m := m } k e = false ∧ Hart.elem { h with v := v } d.toNat e w = h.elem d.toNat e w)) ∧
           (∀ e, e < vlmaxOf h.lanes h.vtype → e ∉ act → Hart.elem { h with v := v } d.toNat e w =
             h.elementAfter k 0 (h.elem d.toNat e w) (h.elem d.toNat e w) e) ∧
           (∀ r, (r < d.toNat ∨ d.toNat + lmulOf h.vtype ≤ r) → Hart.vreg { h with v := v } r = h.vreg r) ∧
           (∀ j e, j ≠ k ∨ e ∉ act → Hart.maskBit { h with m := m } j e = h.maskBit j e)) ∧
        (apart n → ∃ u, Completes (.vsstu d b x k) s u ∧ u.me = { h with vstart := 0 } ∧ others n u ∧ locksBut u ∧
          (∀ e, e ∈ act → held u e n = h.elem d.toNat e w ∧ u.lockOf (lane e) (off e) = false))))

/-- R130, R132: an AMO reads the word or doubleword at xa, writes the combination with xb back in the same step, and
gives xd the old value, sign-extended; no other byte changes. On host memory only ADD, SWAP and CAS do. R131, R132:
a VAMO does the same for each active element, in increasing order, at the address that its 64-bit element of va
holds; with the places apart, each element of vd takes what stood there, and no other byte changes. -/
def Obligations.AtomicMembers : Prop :=
  (
    ∀ (s : State) (d a b : XReg) (z : BitVec 1) (p : Phys), s.Quiet → s.Inv → s.scalarStores s.who = [] →
      let w := if z = 0 then 32 else 64
      access s s.who .amo (w / 8) false (s.x a) = .ok p → s.badByte p.key = false → (p.key + 8 ≤ 2 ^ 57 ∨ 2 ^ 58 ≤ p.key) →
      let old := BitVec.ofNat w (s.readN p.key (w / 8))
      let B : BitVec w := BitVec.ofNat w (s.x b).toNat
      let D : BitVec w := BitVec.ofNat w (s.x d).toNat
      let wrote (new : BitVec w) (u : State) : Prop := (∀ q, u.hart q = s.hart q) ∧ u.readN p.key (w / 8) = new.toNat ∧
        (∀ key, key < p.key ∨ p.key + w / 8 ≤ key → Memory.read u.mem key = Memory.read s.mem key)
      let after (u : State) : State := finish (u.setX d (old.signExtend 64))
      (∃ u : State, exec (.amoadd d a b z) s = .next (after u) ∧ wrote (old + B) u) ∧
      (∃ u : State, exec (.amoswap d a b z) s = .next (after u) ∧ wrote B u) ∧
      (∃ u : State, exec (.amocas d a b z) s = .next (after u) ∧ wrote (if old = D then B else old) u) ∧
      (p.tgt ≠ .host →
        (∃ u : State, exec (.amomin d a b z) s = .next (after u) ∧ wrote (if old.toInt ≤ B.toInt then old else B) u) ∧
        (∃ u : State, exec (.amomax d a b z) s = .next (after u) ∧ wrote (if old.toInt ≤ B.toInt then B else old) u) ∧
        (∃ u : State, exec (.amominn d a b z) s = .next (after u) ∧ wrote (if old.toNat ≤ B.toNat then old else B) u) ∧
        (∃ u : State, exec (.amomaxn d a b z) s = .next (after u) ∧ wrote (if old.toNat ≤ B.toNat then B else old) u) ∧
        (∃ u : State, exec (.amoand d a b z) s = .next (after u) ∧ wrote (old &&& B) u) ∧
        (∃ u : State, exec (.amoor d a b z) s = .next (after u) ∧ wrote (old ||| B) u) ∧
        (∃ u : State, exec (.amoxor d a b z) s = .next (after u) ∧ wrote (old ^^^ B) u)) ∧
      (p.tgt = .host → ∀ i, i ∈ [Instr.amomin d a b z, .amomax d a b z, .amominn d a b z, .amomaxn d a b z, .amoand d a b z, .amoor d a b z,
        .amoxor d a b z] → Traps i ⟨.perm, s.x a, 0⟩ s)) ∧
  (
    ∀ (s : State) (d a b : VReg) (k : MReg) (l : List (Nat × Word × Nat)), s.Ready → s.me.Shaped → s.me.vill = false → s.Inv →
      s.storesOf s.who = [] → ekOf s.me.vtype = false →
      let h := s.me
      let w := sewOf h.vtype
      32 ≤ w → groupOk h.vtype d.toNat w = true → groupOk h.vtype a.toNat 64 = true → groupOk h.vtype b.toNat w = true →
      overlapOk h.vtype d.toNat w a.toNat 64 = true →
      let reached (host : Bool) (l : List (Nat × Word × Nat)) : Prop :=
        vamoPhase s (s.capture []) host a ((List.range' h.vstart (h.vl - h.vstart)).filter (h.isActive k)) = .ok l ∧
        (∀ q, q ∈ l → q.2.2 + 8 ≤ 2 ^ 57) ∧ l.Pairwise (fun y z => y.2.2 + w / 8 ≤ z.2.2 ∨ z.2.2 + w / 8 ≤ y.2.2)
      let wrote (l : List (Nat × Word × Nat)) (g : BitVec w → BitVec w → BitVec w) (u : State) : Prop :=
        (∃ v, u.me = { h with v := v, vstart := 0 }) ∧
        (∀ q, q ∈ l → u.me.elem d.toNat q.1 w = s.readN q.2.2 (w / 8) ∧
          u.readN q.2.2 (w / 8) = (g (BitVec.ofNat w (s.readN q.2.2 (w / 8))) (BitVec.ofNat w (h.elem b.toNat q.1 w))).toNat) ∧
        (∀ key, (∀ q, q ∈ l → key < q.2.2 ∨ q.2.2 + w / 8 ≤ key) → Memory.read u.mem key = Memory.read s.mem key) ∧
        (∀ x, (x < d.toNat ∨ d.toNat + lmulOf h.vtype ≤ x) → u.me.vreg x = h.vreg x)
      (reached true l → ∃ u, exec (.vamoadd d a b k) s = .next (finish u) ∧ wrote l (fun O B => O + B) u) ∧
      (reached true l → ∃ u, exec (.vamoswap d a b k) s = .next (finish u) ∧ wrote l (fun _ B => B) u) ∧
      (reached false l → ∃ u, exec (.vamomin d a b k) s = .next (finish u) ∧ wrote l (fun O B => if O.toInt ≤ B.toInt then O else B) u) ∧
      (reached false l → ∃ u, exec (.vamomax d a b k) s = .next (finish u) ∧ wrote l (fun O B => if O.toInt ≤ B.toInt then B else O) u) ∧
      (reached false l → ∃ u, exec (.vamominn d a b k) s = .next (finish u) ∧ wrote l (fun O B => if O.toNat ≤ B.toNat then O else B) u) ∧
      (reached false l → ∃ u, exec (.vamomaxn d a b k) s = .next (finish u) ∧ wrote l (fun O B => if O.toNat ≤ B.toNat then B else O) u) ∧
      (reached false l → ∃ u, exec (.vamoand d a b k) s = .next (finish u) ∧ wrote l (fun O B => O &&& B) u) ∧
      (reached false l → ∃ u, exec (.vamoor d a b k) s = .next (finish u) ∧ wrote l (fun O B => O ||| B) u) ∧
      (reached false l → ∃ u, exec (.vamoxor d a b k) s = .next (finish u) ∧ wrote l (fun O B => O ^^^ B) u))

/-! ### Residency windows and iterator stacks -/

/-- R145, R147 to R149: WBIND records base and dimensions of a window and makes it bound, WMODE its mode, WFORM its
formula, and WBINDI a gather window on a sealed stack; no other window changes. R155, R157, R164: WOPEN with no
reason against it opens the window empty, at the lowest free units, and issues the delivery of its held set; WOPEN
with a reason raises WINDOW_BIND. WCLOSE and WDROP unbind, WFLUSH keeps; each takes the next RE number, a close or
flush of an open window with its held set to write back, a drop with nothing. R144, R155: which reasons WOPEN meets
first: a window that is not bound, then a formula of another dimension. -/
def Obligations.WindowsBindAndOpen : Prop :=
  (
    ∀ (s : State) (w : WinNum) (i : StackNum) (a b : VReg) (x : XReg), s.Ready → (s.me.win w).isOpen = false →
      let h := s.me
      let words (r : VReg) (n : Nat) : List Word := (List.range n).map (fun e => BitVec.ofNat 64 (h.elem r.toNat e 64))
      let keeps (h' : Hart) : Prop := (∀ j, j ≠ w → h'.win j = h.win j) ∧ h'.v = h.v ∧ h'.m = h.m ∧ h'.xu = h.xu ∧ h'.reOps = h.reOps
      Completes (.wmode w x) s (s.setMe (h.setWin w { h.win w with mode := s.x x })) ∧
      (h.vill = false → sewOf h.vtype = 64 → ekOf h.vtype = false → h.vstart = 0 → groupOk h.vtype a.toNat 64 = true →
        (groupOk h.vtype b.toNat 64 = true →
          Completes (.wform w a b) s (s.setMe (h.setWin w { h.win w with
            forms := words a (min h.vl 16), origins := words b (min h.vl 16), formVl := h.vl }))) ∧
        (1 ≤ h.vl → h.vl ≤ 16 → (∀ e, e < h.vl → h.elem a.toNat e 64 % 2 ^ 32 ≠ 0) →
          (∃ h', Completes (.wbind w a x) s (s.setMe h') ∧ keeps h' ∧
            h'.win w = { Window.clear with
              st := .bound, base := s.x x, dims := words a h.vl, mode := (h.win w).mode,
              forms := (h.win w).forms, origins := (h.win w).origins, formVl := (h.win w).formVl }) ∧
          (h.vl = 2 → (h.win w).gather = false → (h.iter i).st = .sealed →
            ∃ h', Completes (.wbindi i w a x) s (s.setMe h') ∧ keeps h' ∧ h'.iter i = { h.iter i with st := .bound, win := some w } ∧
              h'.win w = { Window.clear with
                st := .bound, gather := true, stack := i, base := s.x x, dims := words a 2,
                mode := (h.win w).mode, forms := (h.win w).forms, origins := (h.win w).origins, formVl := (h.win w).formVl })) ∧
        (h.vl = 0 ∨ 16 < h.vl → StreamTraps (.wbind w a x) ⟨.windowBind, BitVec.ofNat 64 (w.toNat * 256 + 1), 0⟩ s) ∧
        (1 ≤ h.vl → h.vl ≤ 16 → (∃ e, e < h.vl ∧ h.elem a.toNat e 64 % 2 ^ 32 = 0) →
          StreamTraps (.wbind w a x) ⟨.windowBind, BitVec.ofNat 64 (w.toNat * 256 + 2), 0⟩ s))) ∧
  (
    ∀ (s : State) (w : WinNum), s.Ready → s.me.arming = none →
      let h := s.me
      let win := h.win w
      let issues (i : Instr) (h' : Hart) (kind : ReKind) (out slabs : List Box) (save : Option Window) : Prop :=
        Completes i s { s.setMe { h' with
          tlre := h.tlre + 1
          reOps := h.reOps ++ [⟨⟨(h.tlre + 1).toNat, h.nextSeq, none, s.nextId⟩, w, kind, out, slabs, [], none, save, 0, false⟩] } with
            nextId := s.nextId + 1 }
      (∀ u r, openReason s win = .ok r → freeRun (s.unitsUsed s.who true) s.myCore.scratchSize win.alloc = some u →
        s.myCore.scoreboard < 64 →
        issues (.wopen w) (h.setWin w { win with
          st := .opened, sat := h.sat, rct := h.rct, unit0 := u, tiles := [], slots := [], rowsTaken := 0, rowsSent := 0, held := none })
          .deliver [] [{ win with st := .opened, tiles := [] }.heldBox h.ctr] none) ∧
      (∀ r, openReason s win = .error r → StreamTraps (.wopen w) ⟨.windowBind, BitVec.ofNat 64 (w.toNat * 256 + r), 0⟩ s) ∧
      (win.isOpen = false → win.gather = false →
        issues (.wclose w) (h.setWin w Window.clear) .closeBound [] [] none ∧
        issues (.wdrop w) (h.setWin w Window.clear) .closeBound [] [] none ∧ issues (.wflush w) h .closeBound [] [] none) ∧
      (win.isOpen = true → win.gather = false → win.strm = false → winBusy s w = false → win.held = none →
        issues (.wclose w) (h.setWin w Window.clear) .close [win.heldBox h.ctr] [] (some win) ∧
        (s.myCore.matrix.ops.all (fun m => m.who != s.who || m.kind != .rowStream || m.win != w) = true →
          issues (.wdrop w) (h.setWin w Window.clear) .drop [] [] none) ∧
        issues (.wflush w) (h.setWin w { win with slots := win.slots.map (fun q =>
          if inBox (win.heldBox h.ctr) q.1 then (q.1, { q.2 with dirty := false }) else q) })
          .flush [win.heldBox h.ctr] [] (some win))) ∧
  (
    ∀ (s : State) (win : Window),
      (win.st ≠ .bound → openReason s win = .error 0x0B) ∧
      (win.st = .bound → win.formVl ≠ win.dims.length → openReason s win = .error 0x01) ∧
      (win.st = .bound → win.formVl = win.dims.length → (∃ d, d < win.dims.length ∧ win.extent d = 0) → openReason s win = .error 0x02) ∧
      (∀ u, openReason s win = .ok u → 512 * (u + win.alloc) ≤ 2 ^ 17 - s.myCore.scratchSize ∧
        (∀ j, (s.me.win j).isOpen = true → 0 < (s.me.win j).alloc → 0 < win.alloc →
          u + win.alloc ≤ (s.me.win j).unit0 ∨ (s.me.win j).unit0 + (s.me.win j).alloc ≤ u)))

/-- R171, R174, R189: WSTAT pushes the status word into q1; WNEXT pulls the next tiles of a gather window's stack: it
releases the old tiles, records the new ones, pushes their count into lq and delivers them; the stack of a window
that an IENOUGH has ended, or that another stack took, gives none (R193). TILES shows the count modulo 2^16 (log
47), and a window without tile capacity gets no tile (log 46; both DESIGN CHOICE). R162, R166 to R169: WLD reads
near elements into registers and WST registers into near elements, at the coordinates that cursor, offsets and mode
give; an element outside the current set raises RESIDENCY there. A tag of a squashing cause is raised at a load that
meets it. A NaN that changes format becomes the canonical one (log 44, DESIGN CHOICE). -/
def Obligations.WindowStatusTilesAndAccesses : Prop :=
  (
    ∀ (s : State) (w : WinNum), s.Ready →
      let h := s.me
      let win := h.win w
      let tag := win.slots.any (fun q => q.2.tag.isSome) || win.held.isSome
      let n (c : Bool) (k : Nat) : Nat := if c then 2 ^ k else 0
      (h.q1.length < 16 → exec (.wstat w) s = .next (finish (s.setMe { h with q1 := h.q1 ++ [if win.st = .unbound then 0 else
        (BitVec.ofNat 64 (n win.isOpen 63 + n win.gather 62 + n win.strm 61 + n tag 60) |||
          BitVec.ofNat 64 ((win.dims.length - 1) * 2 ^ 56 + ((h.reOps.filter (fun o => o.win == w)).map (fun o => o.slabs.length)).sum * 2 ^ 48 +
            win.tiles.length % 2 ^ 16 * 2 ^ 32 + min (win.slots.filter (fun q => q.2.dirty)).length (2 ^ 32 - 1)))] }))) ∧
      (win.isOpen = true → win.gather = true → h.lq.length < 8 → s.myCore.scoreboard < 64 →
        h.reOps.all (fun o => o.win != w && o.tag.held.isNone) = true → h.itOps = [] → h.arming = none →
        (h.iter win.stack).st = .bound → (h.iter win.stack).win = some w →
        ∀ es h', pullGroup (s.setMe { h with tlre := h.tlre + 1 }) s.who (s.capture (pullCaps s)).pullCtr
            win.stack (min h.vl (win.tileCap h.lanes)) = (.group es, h') →
          ∃ u, exec (.wnext w) s = .next (finish u) ∧ u.me.pulls = [] ∧ u.me.lq = h'.lq ++ [BitVec.ofNat 64 es.length] ∧ u.me.tlre = h'.tlre ∧
            (u.me.win w).tiles = es.map (fun y => (if (h.iter win.stack).two then (y.f0.toInt, y.f1.toInt)
              else (y.f0.toInt % (win.extent 0 : Int), y.f0.toInt / (win.extent 0 : Int)) : Int × Int)) ∧ (u.me.win w).slots = [] ∧ u.mem = s.mem ∧
            (∀ j, j ≠ w → u.me.win j = h'.win j)) ∧
      (win.isOpen = true → win.gather = true → h.lq.length < 8 → s.myCore.scoreboard < 64 →
        h.reOps.all (fun o => o.win != w && o.tag.held.isNone) = true → h.itOps = [] → h.arming = none →
        ((h.iter win.stack).st ≠ .bound ∨ (h.iter win.stack).win ≠ some w) →
        ∃ u, exec (.wnext w) s = .next (finish u) ∧ u.me.pulls = [] ∧ u.me.lq = h.lq ++ [0] ∧ (u.me.win w).tiles = [] ∧ u.mem = s.mem)) ∧
  (
    ∀ (s : State) (d x : VReg) (w : WinNum) (n k : MReg) (o : BitVec 6) (ld st : Instr) (m : WMode) (accs : List WAcc),
      (ld, st, m) ∈ [(.wld d w x k, .wst d w x k, .unit), (.wldS d w x k o, .wstS d w x k o, .strided o.toInt),
        (.wldX d w x k, .wstX d w x k, .indexed), (.wldG d w x k n, .wstG d w x k n, .seg (n.toNat + 1)),
        (.wldD1 d w x k, .wstD1 d w x k, .dim1)] →
      s.Ready → s.me.Shaped → s.me.vill = false →
      let h := s.me
      let win := h.win w
      let g := lmulOf h.vtype
      let width := sewOf h.vtype
      let cap := s.capture ((if m matches .indexed then 0 else s.x x) :: captureCtrs s)
      modeOk win h.vtype = true → segOk h.vtype d.toNat m.fields = true →
      ((m matches .indexed) → groupOk h.vtype x.toNat width = true) →
      (∀ a, a ∈ accs → h.reOps.all (fun o => o.win != w || !o.slabs.any (fun b => inBox b a.p)) = true) →
      (accsOf win w m cap h x k cap.elems = (accs, none) →
        ((∀ a, a ∈ accs → (win.slot? a.p).bind (·.tag) = none) →
          ∃ v, exec ld s = .next (finish (s.setMe { h with v := v, vstart := 0 })) ∧
            (∀ a, a ∈ accs → Hart.elem { h with v := v } (d.toNat + a.f * g) a.e width =
              near2reg win.fmt win.nh width (((win.slot? a.p).map (fun q => q.val.toNat)).getD 0) % 2 ^ width) ∧
            (∀ r, (r < d.toNat ∨ d.toNat + m.fields * g ≤ r) → Hart.vreg { h with v := v } r = h.vreg r)) ∧
        (win.acc ≠ 1 → s.myCore.matrix.ops.all (fun o => o.who != s.who) = true →
          ∃ slots, exec st s = .next (finish (s.setMe { h.setWin w { win with slots := slots } with vstart := 0 })) ∧
            (∀ a, a ∈ accs → (∀ a', a' ∈ accs → a'.p = a.p → a' = a) →
              slots.lookup a.p = some ⟨BitVec.ofNat 64 (reg2near win.fmt win.nh width (h.elem (d.toNat + a.f * g) a.e width)), true, none⟩) ∧
            (∀ p, (∀ a, a ∈ accs → a.p ≠ p) → slots.lookup p = win.slots.lookup p)) ∧
        (∀ a sl t, accs.head? = some a → win.slot? a.p = some sl → sl.tag = some t → t.cause.squash = true →
          ∃ u, exec ld s = .next u ∧ u.me.trap.cause = t.cause.code ∧ u.me.trap.val = t.val ∧ u.me.trap.sq = true ∧
            u.me.trap.elem = BitVec.ofNat 24 a.e ∧ u.me.v = h.v ∧ u.mem = s.mem)) ∧
      (∀ t, accsOf win w m cap h x k cap.elems = (accs, some t) → (∀ a, a ∈ accs → (win.slot? a.p).bind (·.tag) = none) →
        ∃ u, exec ld s = .next u ∧ u.me.trap.cause = 0x08 ∧ u.me.trap.val = t.val ∧ u.me.trap.elem = BitVec.ofNat 24 t.elem ∧
          u.me.trap.sq = false ∧ u.me.vstart = t.elem ∧ u.me.xu = h.xu ∧ u.mem = s.mem))

/-- R152, R159, R162, R169: SLAB_LANDED of an operation whose turn it is delivers each point of the slab, a zero for a
write-only window or a point outside the tensor, and takes the slab from the operation; WRITEBACK_PERFORMED writes
the dirty elements of the next box to memory, those bytes alone; where no path leads to another device, its bytes
are lost and the hart is marked for its next release (R271; that no path means no port up: log 53, DEDUCED); a
release that HARM held first closes its window (R263). STREAM_ROW_ENTER puts the next row into the elastic queue. -/
def Obligations.ResidencyEngineEvents : Prop :=
  ∀ (s : State) (who : Who) (o : ReOp), s.Inv →
    let h := s.hart who
    let win := h.win o.win
    h.reOp o.tag.num = some o → s.reReady who o = true →
    (∀ k b, o.out = [] → win.strm = false → o.kind ≠ .redeliver → o.slabs[k]? = some b →
      ∃ u, exec (.slabLanded who o.tag.num k) s = .next u ∧ u.mem = s.mem ∧
        (∀ p, p ∈ boxPoints b → ((u.hart who).win o.win).slot? p =
          some (if win.acc = 2 ∨ win.inTensor (win.tensorPt p) = false then ⟨0, false, none⟩ else (deliver s who win (win.tensorPt p)).1)) ∧
        (∀ p, p ∉ boxPoints b → ((u.hart who).win o.win).slot? p = win.slot? p) ∧ (u.hart who).xu = h.xu ∧ (u.hart who).v = h.v) ∧
    (∀ b rest cs, o.out = b :: rest → o.todo = false → outBehind s who o = false → s.bad = [] →
      writeBackCells s who (o.save.getD win) b = .ok cs → ((∀ c, c ∈ cs → c.1 < 2 ^ 61) ∨ s.noPath = false) →
      ∃ u, exec (.writebackPerformed who o.tag.num) s = .next u ∧ u.mem = Memory.writeAll s.mem cs ∧
        (∀ key, (∀ c, c ∈ cs → c.1 ≠ key) → Memory.read u.mem key = Memory.read s.mem key) ∧
        (u.hart who).xu = h.xu ∧ (u.hart who).v = h.v ∧ (∀ q, q ≠ who → u.hart q = s.hart q)) ∧
    (∀ b rest cs, o.out = b :: rest → o.todo = false → outBehind s who o = false → s.bad = [] →
      writeBackCells s who (o.save.getD win) b = .ok cs → (∃ c, c ∈ cs ∧ 2 ^ 61 ≤ c.1) → s.noPath = true →
      ∃ u, exec (.writebackPerformed who o.tag.num) s = .next u ∧ (u.hart who).lost ≠ none ∧
        u.mem = Memory.writeAll s.mem (cs.filter (fun c => decide (c.1 < 2 ^ 61)))) ∧
    (o.todo = true → outBehind s who o = false →
      ∃ u, exec (.writebackPerformed who o.tag.num) s = .next u ∧ (u.hart who).win o.win = Window.clear ∧ u.mem = s.mem) ∧
    (∀ b rest r row, win.strm = true → win.held = none → (s.core who.core).matrix.queue.length < 32 → o.slabs = b :: rest →
      (o.rows win b)[o.rowsIn]? = some r → buildRow s who win b r = .ok row →
      ∃ u, exec (.streamRowEnter who o.tag.num) s = .next u ∧ u.mem = s.mem ∧
        (u.core who.core).matrix.queue = (s.core who.core).matrix.queue ++ [⟨who, o.win, row, r⟩] ∧
        ((u.hart who).win o.win).rowsSent = win.rowsSent + 1)

/-- R179 to R188: the members that build an iterator stack append one slot with their operands to a stack that is
building; IBEGIN empties one, IFILL chooses alignment, IZIP and ICHAIN absorb a sealed stack, or an ended one, which
then yields nothing (R193). On a stack in another state they raise ITER with reason 1; where two rules are broken,
the first of the table (log 48, DESIGN CHOICE). -/
def Obligations.IteratorStacksBuild : Prop :=
  ∀ (s : State) (i j : StackNum) (a b : XReg) (c : CtrNum) (f : BitVec 1), s.Ready → s.me.itOps = [] →
    let h := s.me
    let st := h.iter i
    let iter (reason : Nat) : Trap := ⟨.iter, BitVec.ofNat 64 (i.toNat * 256 + reason), 0⟩
    let adds (h0 : Hart) (m : Instr) (v : ISlot) (two : Bool) : Prop :=
      exec m s = .next (finish (s.setMe (h0.setIter i { st with slots := st.slots ++ [v], two := two })))
    (st.st = .free ∨ st.st = .building →
      exec (.ibegin i) s = .next (finish (s.setMe ((((h.family i).filter (· != i)).foldl (fun h j =>
        h.setIter j { h.iter j with st := .ended, absorber := none }) h).setIter i { IStack.clear with st := .building })))) ∧
    (st.st = .sealed ∨ st.st = .ended → ∃ h', exec (.ibegin i) s = .next (finish (s.setMe h')) ∧ h'.iter i = { IStack.clear with st := .building }) ∧
    (st.st = .building → st.slots = [] →
      adds h (.irange i a b) ⟨.irange, false, 0, s.x a, s.x b, 0⟩ false ∧
      ((s.x a).toNat % 4 = 0 → adds h (.ilist i a b) ⟨.ilist, false, 0, s.x a, s.x b, 0⟩ false) ∧
      ((s.x a).toNat % 4 ≠ 0 → StreamTraps (.ilist i a b) (iter 10) s) ∧
      adds h (.ictr i c) ⟨.ictr, false, c.toNat, 0, 0, 0⟩ false ∧
      StreamTraps (.imap i a b) (iter 2) s) ∧
    (st.st = .building → exec (.ifill i f) s = .next (finish (s.setMe (h.setIter i { st with align := decide (f = 1) })))) ∧
    (st.st = .building → st.slots ≠ [] → st.slots.length < 8 →
      adds h (.imap i a b) ⟨.imap, false, 0, s.x a, s.x b, 0⟩ st.two ∧
      ((s.x a).toNat % 4 = 0 → adds h (.imapt i a b) ⟨.imapt, false, 0, s.x a, s.x b, 0⟩ st.two) ∧
      adds h (.ifiltb i a b) ⟨.ifiltb, false, 0, s.x a, s.x b, 0⟩ st.two ∧
      adds h (.ifiltc i a b) ⟨.ifiltc, false, 0, s.x a, s.x b, 0⟩ st.two ∧
      (st.two = false → (s.x a).toNat % 4 = 0 → adds h (.iflat i a) ⟨.iflat, false, 0, s.x a, 0, 0⟩ true) ∧
      (st.two = true → StreamTraps (.iflat i a) (iter 4) s) ∧ StreamTraps (.irange i a b) (iter 2) s ∧
      (i ≠ j → (h.iter j).st = .sealed →
        let taken := h.setIter j { h.iter j with st := .absorbed, absorber := some i, buf := [], seen := [], work := [], fault := none, exhausted := false }
        adds taken (.izip i j) ⟨.izip, false, j.toNat, 0, 0, 0⟩ true ∧
        (st.two = (h.iter j).two → adds taken (.ichain i j) ⟨.ichain, false, j.toNat, 0, 0, 0⟩ st.two)) ∧
      (i ≠ j → (h.iter j).st = .ended →
        let taken := h.setIter j { h.iter j with
          st := .absorbed, absorber := some i, buf := [], seen := [], work := [], fault := none, exhausted := true
          slots := (h.iter j).slots.map (fun x => match x.kind with
            | .irange => { x with b := 0 }
            | .ilist => { x with c := x.b }
            | .iflat => { x with flag := false, b := 0, c := 0 }
            | _ => x) }
        adds taken (.izip i j) ⟨.izip, false, j.toNat, 0, 0, 0⟩ true ∧
        (st.two = (h.iter j).two → adds taken (.ichain i j) ⟨.ichain, false, j.toNat, 0, 0, 0⟩ st.two)) ∧
      (i ≠ j → (h.iter j).st ∈ [.sealed, .ended] → st.two ≠ (h.iter j).two → StreamTraps (.ichain i j) (iter 4) s) ∧
      ((h.iter j).st = .absorbed → StreamTraps (.izip i j) (iter 1) s ∧ StreamTraps (.ichain i j) (iter 1) s) ∧
      (i = j ∨ (h.iter j).st ∈ [.free, .building, .bound] → StreamTraps (.izip i j) (iter 5) s)) ∧
    (st.st = .building → 8 ≤ st.slots.length → StreamTraps (.imap i a b) (iter 3) s ∧ StreamTraps (.ifiltb i a b) (iter 3) s) ∧
    (st.st ≠ .building → StreamTraps (.irange i a b) (iter 1) s ∧ StreamTraps (.imap i a b) (iter 1) s ∧ StreamTraps (.ifill i f) (iter 1) s)

/-- R28, R187, R193, R197: ISEAL and IENOUGH complete at once where no operation is held before them and count on TLIT;
a sealed stack can be pulled, an ended one with all it absorbed yields nothing. ISTAT pushes the status word into
q1. R48, R189, R190, R198: INEXT of a group pulled pushes its size g into lq, sets the first g bits of m0 and clears
the others, writes the elements' fields into vd and, for a stack of two fields, into the next group, elements g to
VL-1 as masked-off and the rest as tail, and commits the slots of its stack and those it absorbed as they stood
after its last element; other masks, registers and stacks and generic memory stay. A second group beyond v31 raises
ITER (R188). R191, R198: ITERATOR_TABLE_READ forms elements ahead of the pulls: it fills the buffer of a sealed
stack and changes no register, no memory and no committed slot. -/
def Obligations.IteratorStacksRun : Prop :=
  (
    ∀ (s : State) (i : StackNum), s.Ready → s.me.itOps = [] → s.me.arming = none → s.me.run = .running →
      let h := s.me
      let st := h.iter i
      (st.st = .building → st.slots ≠ [] → ∃ u, Completes (.iseal i) s u ∧ u.me.tlit = h.tlit + 1 ∧ u.me.itOps = [] ∧
        u.me.iter i = { st with
          st := .sealed, delivered := 0, runMark := false, buf := [], seen := [], work := [], runNo := 0, fault := none,
          exhausted := false, retry := false } ∧ (∀ j, j ≠ i → u.me.iter j = h.iter j) ∧ u.mem = s.mem) ∧
      (st.st = .sealed → ∃ u, Completes (.ienough i) s u ∧ u.me.tlit = h.tlit + 1 ∧ u.me.itOps = [] ∧
        (∀ j, j ∈ h.family i → (u.me.iter j).st = .ended ∧ (u.me.iter j).buf = [] ∧ (u.me.iter j).fault = none) ∧
        (∀ j, j ∉ h.family i → u.me.iter j = h.iter j) ∧ u.mem = s.mem) ∧
      (st.st = .absorbed → StreamTraps (.ienough i) ⟨.iter, BitVec.ofNat 64 (i.toNat * 256 + 1), 0⟩ s) ∧
      (h.q1.length < 16 → Completes (.istat i) s (s.setMe { h with q1 := h.q1 ++ [h.istat (s.capture (pullCaps s)).pullCtr i] }))) ∧
  (
    ∀ (s : State) (i : StackNum) (d : VReg) (es : List IElem) (h' : Hart), s.Ready → s.me.Shaped → s.me.vill = false →
      let h := s.me
      let w := sewOf h.vtype
      let st := h.iter i
      let g := lmulOf h.vtype
      let fields := if st.two then 2 else 1
      ekOf h.vtype = false → 32 ≤ w → h.vstart = 0 → groupOk h.vtype d.toNat w = true → h.arming = none → h.itOps = [] →
      st.st = .sealed →
      (32 < d.toNat + fields * g → StreamTraps (.inext i d) ⟨.iter, BitVec.ofNat 64 (i.toNat * 256 + 9), 0⟩ s) ∧
      (d.toNat + fields * g ≤ 32 → h.lq.length < 8 →
        pullGroup (s.setMe { h with tlit := h.tlit + 1 }) s.who (s.capture (pullCaps s)).pullCtr i h.vl = (.group es, h') →
        ∃ u, exec (.inext i d) s = .next (finish u) ∧ u.me.pulls = [] ∧ es.length ≤ h.vl ∧
          u.me.lq = h.lq ++ [BitVec.ofNat 64 es.length] ∧ u.me.tlit = h.tlit + 1 ∧
          (∀ e, u.me.maskBit 0 e = decide (e < es.length)) ∧ (∀ j, j ≠ 0 → u.me.mreg j = h.mreg j) ∧
          (∀ f e, f < fields → e < vlmaxOf h.lanes h.vtype →
            let old := h.elem (d.toNat + f * g) e w
            u.me.elem (d.toNat + f * g) e w = match es[e]? with
              | some y => (if f = 0 then y.f0 else y.f1).toNat % 2 ^ w
              | none => if e < h.vl then (if maOf h.vtype then 0 else old) else if taOf h.vtype then 0 else old) ∧
          (∀ r, (r < d.toNat ∨ d.toNat + fields * g ≤ r) → u.me.vreg r = h.vreg r) ∧
          (u.me.iter i).delivered = (h'.iter i).delivered + es.length ∧
          (∀ y, es.getLast? = some y → ∀ j, j ∈ h.family i → (u.me.iter j).slots = y.slots.getD j.toNat []) ∧
          (∀ j, es = [] ∨ j ∉ h.family i → (u.me.iter j).slots = (h.iter j).slots) ∧ u.mem = s.mem ∧ u.stores = s.stores)) ∧
  (
    ∀ (s : State) (who : Who) (i : StackNum), (s.hart who).itOps = [] → (s.hart who).pulls = [] →
      ∃ u, exec (.iteratorTableRead who i) s = .next u ∧ u.mem = s.mem ∧ (u.hart who).xu = (s.hart who).xu ∧
        (u.hart who).v = (s.hart who).v ∧ (u.hart who).lq = (s.hart who).lq ∧
        (∀ j, ((u.hart who).iter j).slots = ((s.hart who).iter j).slots ∧ ((u.hart who).iter j).st = ((s.hart who).iter j).st) ∧
        (∃ more, ((u.hart who).iter i).buf = ((s.hart who).iter i).buf ++ more) ∧ (∀ q, q ≠ who → u.hart q = s.hart q))

/-! ### Vector stream and matrix unit -/

/-- R20, R49, R312, R324: a vector member that issues while others are outstanding captures its operands, takes the next
issue number and enters the stream behind them, with the scalar state of that moment; nothing else changes. With 32
outstanding it waits. It starts at VSTART, or at 0 where an outstanding member clears that; one that needs VSTART 0
and would start elsewhere is illegal, which traps once what is outstanding has completed (R315). -/
def Obligations.VectorStreamIssue : Prop :=
  ∀ (s : State) (d a b : VReg) (x : XReg) (k m : MReg) (i : Instr) (caps : List Word), s.OnScalar →
    s.stores.all (fun t => t.who != s.who || !t.fenced) = true → s.me.vill = false →
    let h := s.me
    let w := sewOf h.vtype
    groupOk h.vtype d.toNat w = true → groupOk h.vtype a.toNat w = true → groupOk h.vtype b.toNat w = true →
    (i, caps) ∈ [(Instr.vadd d a b 0 k, []), (.vaddX d a x k, [s.x x]), (.vmulhX d a x k, [s.x x]), (.vmvX d x k, [s.x x]),
      (.vredsum d a b k, []), (.vpopc m k, []), (.viota d m k, []), (.vslidedn d a x k, [s.x x]), (.mand m k m, [])] →
    (i = .vslidedn d a x k → d ≠ a) →
    let needs0 : Prop := i ∈ [Instr.vredsum d a b k, .vpopc m k, .viota d m k, .vslidedn d a x k, .mand m k m]
    (h.stream ≠ [] → (h.vstartNow = 0 ∨ ¬ needs0) → h.outstanding < 32 →
      exec i s = .next (finish ({ s.setMe { h with
        nextSeq := h.nextSeq + 1
        stream := h.stream ++ [{
          word := encodeWord i, seq := h.nextSeq, held := none, stamp := s.nextId, snap := s.snap, adv := none
          cap := {
            pc := h.pc, vtype := h.vtype, vl := h.vl, epoch := h.epoch, xs := caps, start := h.vstartNow, num := none, arm := none
            began := false, grp := [] } }] }
        with nextId := s.nextId + 1 }))) ∧
    (h.stream ≠ [] → (h.vstartNow = 0 ∨ ¬ needs0) → 32 ≤ h.outstanding → Waits i .stream s) ∧
    (h.vstartNow = if h.stream.any (fun e => e.adv.isNone && clearsVstart e.word) then 0 else h.vstart) ∧
    (h.vstartNow ≠ 0 → needs0 → h.stream ≠ [] → Waits i .stream s) ∧
    (h.vstartNow ≠ 0 → needs0 → h.stream = [] → h.pulls.all (·.formed) = true → TrapsWord i .illegalInsn s)

/-- R202, R203, R205, R206, R218: a matrix member of a hart that may use the unit takes the next MX number and waits to
start, with its captured operands; the first of a launch makes the launch the owner of a zeroed unit, or of its own
that was swapped out (R302), with the operations that a save has withdrawn (log 55, DEDUCED). No register changes.
MWAIT stays in the stream. A hart of another launch, in a gang or with fewer than 4 lanes gets CONFIG; an MLDS of a
window that it cannot read is illegal before that. -/
def Obligations.MatrixMembersIssue : Prop :=
  ∀ (s : State) (d a : VReg) (x : XReg) (w : WinNum) (m : MReg), s.Ready → s.me.arming = none → s.me.vstart = 0 →
    let h := s.me
    let unit : MatrixUnit :=
      if s.myCore.matrix.owner.isSome then s.myCore.matrix
      else
        match s.myCore.images.findSome? (fun i => if some i.launch == h.launch then i.matrix else none) with
        | some (a, b, n, ops) => { MatrixUnit.reset with owner := h.launch, active := a, shadow := b, counter := n, ops := ops }
        | none => { MatrixUnit.reset with owner := h.launch }
    let n := unit.counter + 1
    let issued (u : State) (op : MxOp) : Prop :=
      u.myCore.matrix = { unit with counter := n, ops := unit.ops ++ [op] } ∧ op.tag.num = n.toNat ∧ op.who = s.who ∧
      op.started = false ∧ u.me.v = h.v ∧ u.me.m = h.m ∧ u.me.xu = h.xu ∧ u.mem = s.mem ∧ (∀ q, q ≠ s.who → u.hart q = s.hart q)
    let issues (i : Instr) (p : MxOp → Prop) : Prop := ∃ u op, Completes i s u ∧ issued u op ∧ p op
    let rowOk := h.vill = false ∧ sewOf h.vtype = 16 ∧ ekOf h.vtype = true ∧ groupOk h.vtype d.toNat 32 = true
    let regOk := rowOk ∧ groupOk h.vtype a.toNat 16 = true ∧ overlapOk h.vtype d.toNat 32 a.toNat 16 = true ∧
      s.mxMine.all (fun o => !o.writesReg a.toNat (lmulOf h.vtype)) = true
    let asRow (kind : MxKind) (acc : Bool) (mask : BitVec 256) (op : MxOp) : Prop :=
      op.kind = kind ∧ op.accumulate = acc ∧ op.mask = mask ∧ op.vd = d ∧ op.lmul = lmulOf h.vtype ∧ op.ta = taOf h.vtype
    (s.matrixConfig = false → s.mxFull = false →
      issues .mzero (fun op => op.kind = .zero) ∧ issues .mswap (fun op => op.kind = .swap) ∧
      (h.vill = false → sewOf h.vtype = 16 → groupOk h.vtype a.toNat 16 = true →
        s.mxMine.all (fun o => !o.writesReg a.toNat (lmulOf h.vtype)) = true →
        issues (.mldsv a x) (fun op => op.kind = .ldsv ∧ op.row = rowOf h a h.vl ∧ op.k.toNat = (s.x x).toNat % 256)) ∧
      (regOk →
        issues (.mrow d a) (fun op => asRow .row false (BitVec.allOnes 256) op ∧ op.row = rowOf h a h.vl) ∧
        issues (.mrowa d a) (fun op => asRow .row true (BitVec.allOnes 256) op ∧ op.row = rowOf h a h.vl) ∧
        issues (.mrows d a m) (fun op => asRow .row false ((h.mreg m).extractLsb' 0 256) op ∧ op.row = rowOf h a h.vl) ∧
        issues (.mrowsa d a m) (fun op => asRow .row true ((h.mreg m).extractLsb' 0 256) op ∧ op.row = rowOf h a h.vl)) ∧
      (rowOk → (h.win w).isOpen = true → (h.win w).strm = true →
        issues (.mroww d w) (fun op => asRow .rowStream false (BitVec.allOnes 256) op ∧ op.win = w) ∧
        issues (.mrowwa d w) (fun op => asRow .rowStream true (BitVec.allOnes 256) op ∧ op.win = w)) ∧
      (let win := h.win w
       let corner := (List.range win.d).map (fun j => win.cursor h.ctr j + offAt (s.x x) j)
       mldsWindowOk win = true →
       (∀ e, e < 65536 → win.inTensor (mldsPoint corner e) = true → inBox (win.current h.ctr) (mldsPoint corner e) = true ∧
         covered s w (mldsPoint corner e) = false ∧ (win.slot? (mldsPoint corner e)).bind (·.tag) = none) →
       issues (.mlds w x) (fun op => op.kind = .lds ∧ op.win = w ∧ op.corner = corner ∧ op.lo = 0 ∧ op.hi = 65536)) ∧
      (∃ u op e, Completes .mwait s u ∧ issued u op ∧ op.kind = .wait ∧ u.me.stream = [e] ∧ e.word = encodeWord .mwait ∧
        e.cap.num = some n.toNat)) ∧
    (s.matrixConfig = true → ∀ i, i ∈ [Instr.mzero, .mswap, .mwait] → TrapsWord i .config s) ∧
    (let word : Word := (encodeWord (.mlds w x)).zeroExtend 64
     (mldsWindowOk (h.win w) = false → StreamTraps (.mlds w x) ⟨.illegalInsn, word, 0⟩ s) ∧
     (mldsWindowOk (h.win w) = true → s.matrixConfig = true → StreamTraps (.mlds w x) ⟨.config, word, 0⟩ s)) ∧
    (s.matrixConfig = true ↔ (s.myCore.matrix.owner ≠ none ∧ s.myCore.matrix.owner ≠ h.launch) ∨ h.lanes < 4 ∨ h.gang ≠ none)

/-- R207 to R209, R212, R213, R216, R217: MATRIX_OP_START starts the lowest operation that has not started where nothing
holds it, a stream row with the first row of its window in the queue, or with zeros where the window has closed and
none is left; MATRIX_OP_COMPLETE gives a started one its effect, takes it out and pulses its input: MZERO clears the
shadow plane, MLDSV writes one row of it, MLDS the elements that it covers (R210; what stands under a tag is free:
log 52), MSWAP exchanges the planes, a row operation, a stream row among them, writes its 256 results and leaves or
zeroes the rest of the group. Memory stays. -/
def Obligations.MatrixEvents : Prop :=
  ∀ (s : State) (core : CoreId) (o : MxOp),
    let m := (s.core core).matrix
    (m.ops.find? (fun p => !p.started && !p.away) = some o → o.tag.held = none → (s.hart o.who).settled o.tag.seq = true →
      m.mayStart o = true → o.who.core = core → o.kind ≠ .rowStream →
      ∃ (u : State) (o' : MxOp → MxOp), exec (.matrixOpStart core) s = .next u ∧ u.mem = s.mem ∧ (∀ w, u.hart w = s.hart w) ∧
        (u.core core).matrix = { m with ops := m.ops.map (fun p => if p.tag.num = o.tag.num then o' p else p) } ∧
        (o' o).started = true ∧ (o.kind = .row → (o' o).res = rowResult o.accumulate (s.hart o.who) o.vd o.row o.mask m.active)) ∧
    (∀ r q, m.ops.find? (fun p => !p.started && !p.away) = some o → o.tag.held = none → (s.hart o.who).settled o.tag.seq = true →
      m.mayStart o = true → o.who.core = core → o.kind = .rowStream →
      ((o.closed = false ∧ takeRow o.who o.win m.queue = some (r, q)) ∨
        (r = 0 ∧ q = m.queue ∧ (o.closed = true ∨
          takeRow o.who o.win m.queue = none ∧ ((s.hart o.who).win o.win).isOpen = false))) →
      ∃ (u : State) (o' : MxOp → MxOp), exec (.matrixOpStart core) s = .next u ∧ u.mem = s.mem ∧ (u.hart o.who).v = (s.hart o.who).v ∧
        (u.core core).matrix = { m with
          queue := q
          ops := m.ops.map (fun p => if p.tag.num = o.tag.num then o' p else p) } ∧
        (o' o).started = true ∧ (o' o).res = rowResult o.accumulate (s.hart o.who) o.vd r o.mask m.active) ∧
    (m.ops.find? (fun p => !p.started && !p.away) = none → exec (.matrixOpStart core) s = .next s) ∧
    (∀ n, m.ops.find? (fun p => p.tag.num == n && !p.away) = some o → o.started = true → o.who.core = core →
      ∃ u : State, exec (.matrixOpComplete core n) s = .next u ∧ u.mem = s.mem ∧
        (u.core core).matrix.ops = m.ops.filter (fun p => p.tag.num != n) ∧
        (u.core core).harness.pulses = (s.core core).harness.pulses ++ [BitVec.ofNat 6 (6 * o.who.hart.val + 2)] ∧
        (u.hart o.who).xu = (s.hart o.who).xu ∧
        (o.kind = .zero → (u.core core).matrix.shadow = Vector.replicate 256 0 ∧ (u.core core).matrix.active = m.active) ∧
        (o.kind = .ldsv → (∀ r : Fin 256, (u.core core).matrix.shadow.get r = if r.val = o.k.toNat then o.row else m.shadow.get r) ∧
          (u.core core).matrix.active = m.active) ∧
        (o.kind = .lds → (u.core core).matrix.active = m.active ∧
          ∀ k j : Fin 256, ((u.core core).matrix.shadow.get k).extractLsb' (16 * j.val) 16 =
            let e := 256 * k.val + j.val
            let win := (s.hart o.who).win o.win
            let p := mldsPoint o.corner e
            if o.lo ≤ e ∧ e < o.hi then
              (if win.inTensor p = true then BitVec.ofNat 16 (near2bf16 win.fmt (((win.slot? p).map (·.near e)).getD 0)) else 0)
            else (m.shadow.get k).extractLsb' (16 * j.val) 16) ∧
        (o.kind = .swap → (u.core core).matrix.active = m.shadow ∧ (u.core core).matrix.shadow = m.active) ∧
        (o.kind ≠ .row → o.kind ≠ .rowStream → (u.hart o.who).v = (s.hart o.who).v) ∧
        (o.kind = .row ∨ o.kind = .rowStream → (s.hart o.who).lanes * 16 * 2 * o.lmul ≥ 128 → o.vd.toNat + 2 * o.lmul ≤ 32 → 4 ≤ (s.hart o.who).lanes →
          (s.hart o.who).lanes ≤ 2048 → (u.core core).matrix.shadow = m.shadow ∧ (u.core core).matrix.active = m.active ∧
          (∀ j, j < 256 → (u.hart o.who).elem o.vd.toNat j 32 = (o.res.extractLsb' (32 * j) 32).toNat) ∧
          (∀ j, 256 ≤ j → j < (s.hart o.who).lanes * 64 * o.lmul → (u.hart o.who).elem o.vd.toNat j 32 =
            if o.ta then 0 else (s.hart o.who).elem o.vd.toNat j 32) ∧
          (∀ r, (r < o.vd.toNat ∨ o.vd.toNat + 2 * o.lmul ≤ r) → (u.hart o.who).vreg r = (s.hart o.who).vreg r)))

/-! ### Paged key and value members -/

/-- R227 to R232, R241: KVSET names a root, forgets its context's old walks and counts on TLKV; KVINV forgets the walks
that its operand selects; KVSTAT pushes the status word. KVXLAT, KVXLATF, ATTN, ATTNC and KVAPP take their number
and stand in the vector stream with their captured operands. A misaligned root is raised, and KVSET has taken its
number (log 33, DEDUCED); a hart in a gang gets CONFIG. -/
def Obligations.KvMembers : Prop :=
  ∀ (s : State) (d a : VReg) (x : XReg) (c : KvNum) (k : MReg), s.Ready → s.me.arming = none → s.me.run = .running →
    let h := s.me
    let ctx := h.kv.get c.toFin
    let counted : State := s.setMe { h with tlkv := h.tlkv + 1 }
    let once (i : Instr) (u : State) : Prop := Completes i s u ∧ u.me.tlkv = h.tlkv + 1 ∧ u.me.xu = h.xu ∧ u.me.v = h.v ∧
      u.mem = s.mem ∧ u.myCore.harness.pulses = s.myCore.harness.pulses ++ [BitVec.ofNat 6 (6 * s.who.hart.val + 3)]
    let stands (i : Instr) (caps : List Word) : Prop := ∃ u e, Completes i s u ∧ u.me.stream = [e] ∧ e.word = encodeWord i ∧
      e.cap.num = some (h.tlkv + 1).toNat ∧ e.cap.xs = caps ∧ e.cap.vl = h.vl ∧ e.cap.vtype = h.vtype ∧ u.me.tlkv = h.tlkv + 1 ∧
      u.me.v = h.v ∧ u.me.m = h.m ∧ u.mem = s.mem
    let rows := h.vtype.toNat / 2 ^ 16 % 16 + 1
    let dim := 16 * (h.vtype.toNat / 2 ^ 20 % 16 + 1)
    let room := 64 * h.lanes * lmulOf h.vtype
    let typed := h.vill = false ∧ h.vstart = 0
    (h.gang = none →
      ((s.x x).toNat % 8192 = 0 → ∃ u : State, once (.kvset x c) u ∧ u.me.kv.get c.toFin = { ctx with root := s.x x } ∧
        (∀ j, j ≠ c → u.me.kv.get j.toFin = h.kv.get j.toFin) ∧
        (rootShared s c ctx.root = false → ∀ e, e ∈ u.myCore.kvCache ↔
          e ∈ s.myCore.kvCache ∧ ¬ (e.aspace = h.sup.aspace ∧ e.root = ctx.root))) ∧
      ((s.x x).toNat % 8192 ≠ 0 → exec (.kvset x c) s = .next (streamTrap ⟨.misalign, s.x x, 0⟩ true s.pcNow counted)) ∧
      (let q := (s.x x).toNat % 2 ^ 20
       ∃ u : State, once (.kvinv x c) u ∧ u.me.kv = h.kv ∧ (∀ e, e ∈ u.myCore.kvCache ↔ e ∈ s.myCore.kvCache ∧
        ¬ (e.aspace = h.sup.aspace ∧ e.root = ctx.root ∧ ((s.x x).getLsbD 63 = true ∨
          e.idx.getD 0 0 = if e.level = 1 then q / 1024 else q)))) ∧
      (h.q1.length < 16 → ctx.root ≠ 0 → Completes (.kvstat c) s (s.setMe { h with q1 := h.q1 ++ [0x8000000000000000 |||
        BitVec.ofNat 64 ((s.myCore.kvCache.filter (fun e => e.root == ctx.root)).length * 2 ^ 48 + ctx.restarts * 2 ^ 32 + ctx.lastBlk.toNat)] })) ∧
      (h.q1.length < 16 → ctx.root = 0 → Completes (.kvstat c) s (s.setMe { h with q1 := h.q1 ++
        [BitVec.ofNat 64 (ctx.restarts * 2 ^ 32 + ctx.lastBlk.toNat)] })) ∧
      (typed → sewOf h.vtype = 64 → ekOf h.vtype = false → groupOk h.vtype d.toNat 64 = true → groupOk h.vtype a.toNat 64 = true → d ≠ a →
        stands (.kvxlat d a x c k) [s.x x] ∧ stands (.kvxlatf d a x c k) [s.x x]) ∧
      (typed → sewOf h.vtype = 16 → ekOf h.vtype = true → groupOk h.vtype d.toNat 32 = true → groupOk h.vtype a.toNat 16 = true →
        rows * dim + 2 * rows + 2 ≤ room → overlaps d.toNat (emulOf h.vtype 32) a.toNat (emulOf h.vtype 16) = false →
        stands (.attn d a x c) [s.x x] ∧ stands (.attnc d a x c) [s.x x, s.x (x + 1)]) ∧
      (typed → sewOf h.vtype = 16 → ekOf h.vtype = true → groupOk h.vtype d.toNat 16 = true → groupOk h.vtype a.toNat 16 = true →
        rows * dim ≤ room → stands (.kvapp d a x c) [s.x x, s.x (x + 1)])) ∧
    (h.gang ≠ none → TrapsWord (.kvset x c) .config s ∧ TrapsWord (.kvinv x c) .config s ∧ TrapsWord (.kvstat c) .config s)

/-- R233 to R240: the events that carry on the KV member at the head of a hart's stream. KVXLAT writes the address of
each token and clears its mask bit. ATTN commits a block: the first starts from the initial state, the last
normalises and ends in the same event (log 33, DEDUCED). KVAPP writes its rows to memory first, and raises LEN to
the end of the rows at the next return. -/
def Obligations.KvEvents : Prop :=
  ∀ (s : State) (who : Who) (e : Issued) (rest : List Issued) (d a : VReg) (x : XReg) (c : KvNum) (k : MReg) (n : Nat),
    let h := s.hart who
    let t := e.cap.vtype
    let s0 : State := { s.modHart who (fun h => { h with stream := rest }) with agent := ⟨who, none⟩, replay := some e }
    let ended (u : State) : Prop := (u.hart who).stream = rest ∧ (u.hart who).xu = h.xu ∧ u.agent = s.agent
    let sel := e.cap.xs.getD 0 0
    let rows := trowsOf t
    let dim := tdimOf t
    let p := (e.cap.xs.getD 1 0).toNat % 2 ^ 32
    h.stream = e :: rest → e.held = none → e.cap.num = some n → s.bad = [] → s.stores = [] → h.Shaped →
    (∀ desc s1 out, e.word = encodeWord (.kvxlat d a x c k) → sewOf t = 64 → groupOk t d.toNat 64 = true → e.cap.vl ≤ vlmaxOf h.lanes t →
      walkDesc c sel 0 0 (fun _ => 0) s0 = (s1, .ok desc) → xlatAll c desc a (List.range e.cap.vl) s1 = out →
      (∀ y, y ∈ out.2 → y.isAddr = true) →
      ∃ u : State, exec (.kvWalkerReadReturn who) s = .next u ∧ ended u ∧ u.mem = s.mem ∧
        (∀ i y, out.2[i]? = some y → (u.hart who).elem d.toNat i 64 = y.word.toNat ∧ (u.hart who).maskBit k i = false) ∧
        (∀ r, (r < d.toNat ∨ d.toNat + emulOf t 64 ≤ r) → (u.hart who).vreg r = h.vreg r)) ∧
    (∀ desc s1 s2 blk ks vs, ∀ causal : Bool, e.word = encodeWord (if causal then .attnc d a x c else .attn d a x c) → sewOf t = 16 →
      groupOk t d.toNat 32 = true → rows * dim + 2 * rows + 2 ≤ 64 * h.lanes * lmulOf t → h.kvstart = 0 →
      walkDesc c sel dim (BitVec.ofNat 32 0) (fun _ => BitVec.ofNat 32 0) s0 = (s1, .ok desc) →
      let nb := if causal then min (ceilDiv desc.len desc.bs) (ceilDiv (p + rows) desc.bs) else ceilDiv desc.len desc.bs
      0 < nb → walkBlock c desc 0 (BitVec.ofNat 32 0) s1 = (s2, .ok blk) →
      blockRows s2 desc blk 0 = .ok ks → blockRows s2 desc blk 1 = .ok vs →
      let q := (List.range rows).map (fun r => (List.range dim).map (fun i => decodeF bf16 (h.elem a.toNat (r * dim + i) 16)))
      let st := attnBlock q ks vs desc 0 (fun r j => !causal || decide (j ≤ p + r)) (attnInit rows dim desc)
      ∃ u : State, exec (.attnBlock who) s = .next u ∧ u.mem = s.mem ∧ (u.hart who).xu = h.xu ∧
        (∀ i y, (if nb = 1 then attnNormal st else st).elems[i]? = some y → (u.hart who).elem d.toNat i 32 = y % 2 ^ 32) ∧
        (nb = 1 → ended u ∧ (u.hart who).kvstart = 0 ∧ (u.hart who).vstart = 0) ∧
        (1 < nb → (∃ e', (u.hart who).stream = e' :: rest ∧ e'.word = e.word ∧ e'.cap = e.cap) ∧ (u.hart who).kvstart = 1)) ∧
    (∀ desc s1 s2 bs ph, e.word = encodeWord (.kvapp d a x c) → e.cap.xs.length = 2 →
      walkDesc c sel dim (Config.kvIndex p) (fun y => BitVec.ofNat 32 (p / y.bs)) s0 = (s1, .ok desc) →
      appWalk c desc p (List.range rows) s1 = (s2, .ok bs)  → lenAccess s2 (desc.va + 4) = .ok ph →
      ∃ u : State, exec (.kvWalkerReadReturn who) s = .next u ∧ u.mem = (appWrite desc d a p bs s2).mem ∧ (u.hart who).v = h.v ∧
        ∃ e', (u.hart who).stream = e' :: rest ∧ e'.word = e.word ∧ e'.cap.xs = e.cap.xs ++ [desc.va + 4]) ∧
    (∀ va ph, e.word = encodeWord (.kvapp d a x c) → e.cap.xs[2]? = some va → lenAccess s0 va = .ok ph → s.Inv →
      (ph.key + 8 ≤ 2 ^ 57 ∨ (2 ^ 58 ≤ ph.key ∧ ph.key + 8 ≤ 2 ^ 61)) → p + rows < 2 ^ 32 →
      ∃ u : State, exec (.kvWalkerReadReturn who) s = .next u ∧ ended u ∧ (u.hart who).v = h.v ∧
        u.readN ph.key 4 = max (s.readN ph.key 4) (p + rows) ∧
        (∀ key, key < ph.key ∨ ph.key + 4 ≤ key → Memory.read u.mem key = Memory.read s.mem key)) ∧
    (majorOf e.word ≠ 0x37 → exec (.attnBlock who) s = .next s ∧ exec (.kvWalkerReadReturn who) s = .next s)

/-! ### Exchange -/

/-- R276, R277, R279, R282, R283: XSEND and XRECV take the next XC number and stand as operations with the bytes of the
elements or the place for them; a fifth of a kind waits in the stream. XRING reads its descriptor, sends its step's
message to its successor's slot, a hart of its exchange group or one that is saved (R285), and stands in the stream.
XSTAT reads the status word. A channel word with a reserved bit raises EXCHANGE; a gang CONFIG. -/
def Obligations.ExchangeMembers : Prop :=
  ∀ (s : State) (d a : VReg) (x : XReg), s.Quiet → s.bad = [] → s.me.pulls = [] → s.order.lag = [] → s.me.arming = none →
    s.me.vill = false → s.me.vstart = 0 →
    let h := s.me
    let w := sewOf h.vtype
    let apart (r : VReg) : Prop := ∀ o, o ∈ h.xops → o.kind = .recv →
      overlaps o.vd.toNat (emulOf o.vtype (sewOf o.vtype)) r.toNat (lmulOf h.vtype) = false
    let n := h.tlxc + 1
    let counted : State := s.setMe { h with
      tlxc := n
      xbound := true }
    groupOk h.vtype d.toNat w = true → groupOk h.vtype a.toNat w = true →
    let kept (u : State) : Prop := u.me.v = h.v ∧ u.me.m = h.m ∧ u.me.xu = h.xu ∧ u.me.q1 = h.q1 ∧ u.me.lq = h.lq ∧ u.mem = s.mem
    let sends := (h.xops.filter (fun o => o.kind == .send)).length
    let recvs := (h.xops.filter (fun o => o.kind == .recv)).length
    let queued (i : Instr) : Prop := ∃ u e, Completes i s u ∧ kept u ∧ u.me.stream = [e] ∧ e.word = encodeWord i ∧ u.me.xops = h.xops ∧
      u.me.tlxc = h.tlxc
    let issues (i : Instr) (p : XOp → Prop) : Prop := ∃ u o, Completes i s u ∧ kept u ∧ u.me.tlxc = n ∧ u.me.stream = [] ∧
      u.me.xops = h.xops ++ [o] ∧ o.tag.num = n.toNat ∧ o.chan = s.x x ∧ o.vtype = h.vtype ∧ o.vl = h.vl ∧ p o
    let good := h.gang = none ∧ (s.x x).toNat / 2 ^ 16 % 2 ^ 11 = 0
    (good → sends < 4 → apart a → issues (.xsend a x) (fun o => o.kind = .send ∧
      o.bytes = (List.range h.vl).flatMap (fun e => bytesOf (w / 8) (h.elem a.toNat e w)))) ∧
    (good → 4 ≤ sends ∨ ¬ apart a → queued (.xsend a x)) ∧
    (good → recvs < 4 → apart d → issues (.xrecv d x) (fun o => o.kind = .recv ∧ o.vd = d)) ∧
    (good → 4 ≤ recvs ∨ ¬ apart d → queued (.xrecv d x)) ∧
    (h.gang = none → apart a → apart d → (s.x x).toNat / 2 ^ 16 % 2 ^ 11 ≠ 0 →
      StreamTraps (.xsend a x) ⟨.exchange, 0x0300000000000000, 0⟩ s ∧ StreamTraps (.xrecv d x) ⟨.exchange, 0x0300000000000000, 0⟩ s) ∧
    (h.gang ≠ none → ∀ i, i ∈ [Instr.xsend a x, .xrecv d x, .xring d a x] → TrapsWord i .config s) ∧
    (h.xops = [] → Completes (.xstat x) s (s.setX x
      (BitVec.ofNat 64 (h.xst.last.toNat * 2 ^ 48 + h.xst.aborts * 2 ^ 32 + h.xst.revn.toNat)))) ∧
    (h.xops ≠ [] → Waits (.xstat x) .stream s) ∧
    (∀ key l, h.gang = none → ringDesc counted (s.x x) = .ok (key, l) → ringBad l = false →
      let rev := (l.getD 2 0).extractLsb' 32 32
      let step := (l.getD 2 0).extractLsb' 0 16
      let next := chanWho (l.getD 0 0)
      apart a → apart d → h.revDead.contains rev = false → chanDev (l.getD 0 0) = s.dev.toNat → ∀ g, s.groupOfHart s.who = some g →
      s.groupOfHart next = none ∨ s.foreign s.who next = false →
      ∃ u o e, Completes (.xring d a x) s u ∧ kept u ∧ u.me.tlxc = n ∧ u.me.stream = [e] ∧ e.word = encodeWord (.xring d a x) ∧
        e.cap.num = some n.toNat ∧ u.me.xops = h.xops ++ [o] ∧ o.tag.num = n.toNat ∧ o.kind = .ring ∧ o.rev = rev ∧ o.step = step ∧
        o.mem = (l.getD 3 0).toNat % 2 ^ 16 ∧ o.key = key ∧ o.vd = d ∧
        u.ringMail = s.ringMail ++
          [(next, g, ⟨s.dev, s.who, rev, step, (List.range h.vl).flatMap (fun e => bytesOf (w / 8) (h.elem a.toNat e w))⟩)])

/-- R276, R277, R282, R284, R285: what the network brings to the operations of harts. A pair that matches moves the
bytes and completes both with status 0, or, of different lengths, with EXCHANGE pending for both and status 3, of
the XRECV too (log 28, DEDUCED: the spec gives the XSEND's); where one end is on another device, the end on this one
is served in the same way. A refusal completes one with status 3, a lost path or an expired watchdog with status 2
(log 28, DEDUCED), and EXCHANGE pending. A partner whose context is saved is not refused. Memory stays. -/
def Obligations.ExchangeTransfers : Prop :=
  ∀ (s : State) (a b : Who) (tag : BitVec 16) (n : Nat) (o r : XOp),
    let gone (u : State) (w : Who) (o : XOp) (st : BitVec 4) : Prop :=
      (u.hart w).xops = (s.hart w).xops.filter (fun p => p.tag.num != o.tag.num) ∧ (u.hart w).xu = (s.hart w).xu ∧
      ((s.hart w).xst.top ≤ o.tag.num → (u.hart w).xst.last = st)
    let raised (u : State) (w : Who) (reason num : Nat) : Prop :=
      (u.hart w).xpend = (s.hart w).xpend ++ [⟨.exchange, BitVec.ofNat 64 (reason * 2 ^ 56 + num % 2 ^ 32), 0⟩]
    (a ≠ b → s.oldest a .send s.dev b tag.toNat = some o → s.oldest b .recv s.dev a tag.toNat = some r → s.xFree a o = true → s.xFree b r = true →
      s.sameGroup a b = true →
      (o.bytes.length = r.vl * (sewOf r.vtype / 8) → groupOk r.vtype r.vd.toNat (sewOf r.vtype) = true → (s.hart b).lanes ≤ 2048 →
        r.vl ≤ vlmaxOf (s.hart b).lanes r.vtype →
        ∃ u : State, exec (.exchangePairTransfer a b ⟨tag, none⟩) s = .next u ∧ u.mem = s.mem ∧ gone u a o 0 ∧ gone u b r 0 ∧
          (u.hart a).v = (s.hart a).v ∧ (u.hart b).xpend = (s.hart b).xpend ∧
          (∀ e, e < r.vl → (u.hart b).elem r.vd.toNat e (sewOf r.vtype) =
            natOf ((o.bytes.drop (e * (sewOf r.vtype / 8))).take (sewOf r.vtype / 8))) ∧
          (∀ q, (q < r.vd.toNat ∨ r.vd.toNat + emulOf r.vtype (sewOf r.vtype) ≤ q) → (u.hart b).vreg q = (s.hart b).vreg q)) ∧
      (o.bytes.length ≠ r.vl * (sewOf r.vtype / 8) →
        ∃ u : State, exec (.exchangePairTransfer a b ⟨tag, none⟩) s = .next u ∧ u.mem = s.mem ∧ gone u a o 3 ∧ gone u b r 3 ∧
          raised u a 2 o.tag.num ∧ raised u b 2 r.tag.num ∧ (u.hart b).v = (s.hart b).v)) ∧
    (s.oldest a .send s.dev b tag.toNat = none → exec (.exchangePairTransfer a b ⟨tag, none⟩) s = .next s) ∧
    (∀ f : FarEnd, f.dev ≠ s.dev → s.noPath = false →
      (f.sends = true → s.oldest b .recv f.dev a tag.toNat = some r → s.xFree b r = true → f.bytes.length = r.vl * (sewOf r.vtype / 8) →
        groupOk r.vtype r.vd.toNat (sewOf r.vtype) = true → (s.hart b).lanes ≤ 2048 → r.vl ≤ vlmaxOf (s.hart b).lanes r.vtype →
        ∃ u : State, exec (.exchangePairTransfer a b ⟨tag, some f⟩) s = .next u ∧ u.mem = s.mem ∧ gone u b r 0 ∧
          (∀ e, e < r.vl → (u.hart b).elem r.vd.toNat e (sewOf r.vtype) =
            natOf ((f.bytes.drop (e * (sewOf r.vtype / 8))).take (sewOf r.vtype / 8)))) ∧
      (f.sends = false → s.oldest a .send f.dev b tag.toNat = some o → s.xFree a o = true →
        (o.bytes.length = f.bytes.length → ∃ u : State, exec (.exchangePairTransfer a b ⟨tag, some f⟩) s = .next u ∧ u.mem = s.mem ∧
          gone u a o 0 ∧ (u.hart a).v = (s.hart a).v) ∧
        (o.bytes.length ≠ f.bytes.length → ∃ u : State, exec (.exchangePairTransfer a b ⟨tag, some f⟩) s = .next u ∧ u.mem = s.mem ∧
          gone u a o 3 ∧ raised u a 2 o.tag.num ∧ (u.hart a).v = (s.hart a).v))) ∧
    ((s.hart a).xops.find? (fun p => p.tag.num == n) = some o → o.kind ≠ .ring → o.tag.num = n → s.xFree a o = true →
      (chanDev o.chan ≠ s.dev.toNat ∨ s.foreign a (chanWho o.chan) = true →
        ∃ u : State, exec (.exchangeRefused a n false) s = .next u ∧ u.mem = s.mem ∧ gone u a o 3 ∧ raised u a 3 n ∧ (u.hart a).v = (s.hart a).v) ∧
      (chanDev o.chan ≠ s.dev.toNat → s.noPath = true →
        ∃ u : State, exec (.exchangeRefused a n true) s = .next u ∧ u.mem = s.mem ∧ gone u a o 2 ∧ raised u a 5 n ∧ (u.hart a).v = (s.hart a).v) ∧
      (chanDev o.chan = s.dev.toNat → ∀ g x, s.groupOfHart a = some g → x ∈ s.saved → x.home = chanWho o.chan → s.groupOf x.frame = some g →
        exec (.exchangeRefused a n false) s = .next s) ∧
      (chanDev o.chan = s.dev.toNat → s.sameGroup a (chanWho o.chan) = true → exec (.exchangeRefused a n false) s = .next s)) ∧
    ((s.hart a).xops.find? (fun p => p.tag.num == n) = some o → o.tag.num = n →
      (o.wdog ≠ 0 → o.tag.held = none → (s.hart a).drawn = none → o.kind ≠ .ring →
        ∃ u : State, exec (.exchangeWatchdogExpiry a n) s = .next u ∧ u.mem = s.mem ∧ gone u a o 2 ∧ raised u a 1 n ∧ (u.hart a).v = (s.hart a).v) ∧
      (o.wdog = 0 → exec (.exchangeWatchdogExpiry a n) s = .next s))

/-- R279, R280: what comes to the XRING at the head of a hart's stream. The message of its step, from its predecessor
and from no other, is taken into vd, and but in the last step of a revolution it ends there, its descriptor one step
on; the last step waits for the commit, which ends it in the same way once every member of the ring holds its last
message, and where the ring leaves the device once the marker comes from another device, or from a predecessor here
that has seen it. An abort ends it without its message. A message of an older revolution is dropped and counted. -/
def Obligations.RingEvents : Prop :=
  ∀ (s : State) (who : Who) (e : Issued) (rest : List Issued) (o : XOp) (bs : List Byte) (n : Nat) (rev : BitVec 32) (dev : BitVec 12)
    (src : Who),
    let h := s.hart who
    let w := sewOf o.vtype
    h.stream = e :: rest → e.held = none → e.cap.num = some n → majorOf e.word = 0x39 → fnOf e.word = 6 →
    h.xops.find? (fun p => p.kind == .ring && some p.tag.num == e.cap.num) = some o → s.stores = [] → s.Inv →
    h.lanes ≤ 2048 → groupOk o.vtype o.vd.toNat w = true → o.vl ≤ vlmaxOf h.lanes o.vtype →
    (o.key + 8 ≤ 2 ^ 57 ∨ 2 ^ 58 ≤ o.key) →
    let m : RingMsg := ⟨dev, src, o.rev, o.step, bs⟩
    let comes (m : RingMsg) : Prop := m ∈ s.mailOf who ∨ (dev ≠ s.dev ∧ s.noPath = false)
    let left (m : RingMsg) := s.ringMail.erase (who, (s.groupOfHart who).getD 0, m)
    let round := ringRound s who o.rev
    let fromPred := chanDev o.pred = dev.toNat ∧ chanWho o.pred = src
    let ended (u : State) (st : BitVec 4) : Prop := (u.hart who).stream = rest ∧
      (u.hart who).xops = h.xops.filter (fun p => p.tag.num != o.tag.num) ∧ (u.hart who).xst.revn = o.rev ∧
      (h.xst.top ≤ o.tag.num → (u.hart who).xst.last = st) ∧
      u.readN o.key 8 = (if o.step.toNat + 2 < o.mem then o.rev.toNat * 2 ^ 32 + o.step.toNat + 1 else (o.rev.toNat + 1) % 2 ^ 32 * 2 ^ 32) ∧
      (∀ k, k < o.key ∨ o.key + 8 ≤ k → Memory.read u.mem k = Memory.read s.mem k)
    let took (u : State) (bs : List Byte) : Prop := ∀ i, i < o.vl →
      (u.hart who).elem o.vd.toNat i w = natOf ((bs.drop (i * (w / 8))).take (w / 8))
    (comes m → fromPred → o.arrived = none → bs.length = o.vl * (w / 8) →
      (o.step.toNat + 2 < o.mem → ∃ u : State, exec (.ringStepMessage who ⟨dev, src⟩ ⟨o.rev, o.step⟩ bs) s = .next u ∧ ended u 0 ∧ took u bs ∧
        u.ringMail = left m) ∧
      (o.mem ≤ o.step.toNat + 2 → ∃ (u : State) (e' : Issued), exec (.ringStepMessage who ⟨dev, src⟩ ⟨o.rev, o.step⟩ bs) s = .next u ∧ u.mem = s.mem ∧
        (u.hart who).stream = e' :: rest ∧ e'.word = e.word ∧ e'.cap = e.cap ∧ (u.hart who).v = h.v ∧
        (u.hart who).xops = h.xops.map (fun p => if p.tag.num = o.tag.num then { o with arrived := some bs } else p))) ∧
    (¬ fromPred → exec (.ringStepMessage who ⟨dev, src⟩ ⟨o.rev, o.step⟩ bs) s = .next s) ∧
    (∀ st, comes ⟨dev, src, rev, st, bs⟩ → olderRev rev o.rev = true →
      ∃ u : State, exec (.ringStepMessage who ⟨dev, src⟩ ⟨rev, st⟩ bs) s = .next u ∧ u.mem = s.mem ∧ (u.hart who).ringDrops = h.ringDrops + 1 ∧
        u.ringMail = left ⟨dev, src, rev, st, bs⟩ ∧ (u.hart who).xops = h.xops ∧ (u.hart who).v = h.v) ∧
    (o.arrived = some bs → bs.length = o.vl * (w / 8) → o.step.toNat + 2 = o.mem →
      (∀ k, k ∈ round.1 → ∃ m, s.memberOf who k = some m ∧ m.drawn = none ∧ m.ringReady o.rev = true) →
      (round.2 = true → if chanDev o.pred = s.dev.toNat then ∃ m, s.memberOf who (chanWho o.pred) = some m ∧ o.rev ∈ m.revDone
        else s.noPath = false) →
      ∃ u : State, exec (.ringCommit who) s = .next u ∧ ended u 0 ∧ took u bs ∧ o.rev ∈ (u.hart who).revDone ∧
        ∀ k, k ∈ round.1 → s.groupOfHart k = s.groupOfHart who → o.rev ∈ (u.hart k).revDone) ∧
    (o.arrived ≠ none → o.rev ∉ h.revDone → (∃ k, k ∈ round.1 ∧ ∀ m, s.memberOf who k = some m → m.ringReady o.rev = false) →
      exec (.ringCommit who) s = .next s) ∧
    (ringCommitted s who o.rev = false → ringCause s who o.rev = true → o.rev ∉ h.revDead → o.rev ∉ h.revDone →
      ∃ u : State, exec (.ringAbortNotice who o.rev) s = .next u ∧ ended u 1 ∧ (u.hart who).v = h.v ∧ o.rev ∈ (u.hart who).revDead ∧
        (u.hart who).xst.aborts = min (h.xst.aborts + 1) 65535)

/-! ### Harts, launches and queues -/

/-- R32, R74, R75, R76, R80: EXIT ends a hart with nothing under way, its queues empty and its registers as they stand,
and with hart 0 the parked harts go on to their end. RDV parks a hart other than 0, and lets hart 0 go on once the
others are parked or ended. FORK sets parked harts going at xa, whose RDV completes and counts then, starts ended
ones anew there and leaves the others, one whose context is saved among them (log 58, DESIGN CHOICE); it belongs to
hart 0. Memory stays; every write is seen by all from there on (log 26). -/
def Obligations.HartsEndAndFork : Prop :=
  ∀ (s : State) (a : XReg), s.Quiet → s.me.vecDone = true → s.storesOf s.who = [] → s.me.lost = none →
    let at' (k : HartNum) : Who := ⟨s.who.core, k⟩
    let elsewhere (u : State) : Prop := (∀ w : Who, w.core ≠ s.who.core → u.hart w = s.hart w) ∧ u.mem = s.mem ∧ u.stores = s.stores
    (s.CalmAt s.who → s.me.gang = none → ∃ u, exec .exit s = .next u ∧ elsewhere u ∧ u.me.run = .exited ∧ u.me.launch = s.me.launch ∧
      u.me.xu = s.me.xu ∧ u.me.v = s.me.v ∧ u.me.m = s.me.m ∧ u.me.loops = s.me.loops ∧ u.me.fflags = s.me.fflags ∧ u.me.lanes = s.me.lanes ∧
      u.me.tlre = s.me.tlre ∧ u.me.tlit = s.me.tlit ∧ u.me.tlkv = s.me.tlkv ∧ u.me.trap.seq = s.me.trap.seq ∧
      u.me.q0 = [] ∧ u.me.q1 = [] ∧ u.me.lq = [] ∧ u.me.active = [] ∧
      (∀ k, k ≠ s.who.hart → u.hart (at' k) = if s.who.hart = 0 ∧ (s.hart (at' k)).run = .parked then
        { s.hart (at' k) with
          run := .running
          ending := true } else s.hart (at' k))) ∧
    (s.me.ending = true → s.CalmAt s.who → s.me.gang = none → exec .rdv s = exec .exit s) ∧
    (s.me.ending = false →
      ((s.me.gang ≠ none ∨ s.myCore.layout ≤ 1) → Completes .rdv s s.allSee) ∧
      (s.me.gang = none → 1 < s.myCore.layout → s.who.hart ≠ 0 →
        exec .rdv s = .next (s.allSee.setMe { s.me with run := .parked })) ∧
      (s.me.gang = none → 1 < s.myCore.layout → s.who.hart = 0 →
        (s.myCore.othersParked = true → Completes .rdv s s.allSee) ∧
        (s.myCore.othersParked = false → exec .rdv s = .next (s.allSee.setMe { s.me with run := .waiting .harts })))) ∧
    (s.who.hart ≠ 0 → TrapsWord (.fork a) .config s) ∧
    (s.who.hart = 0 → (s.x a).toNat % 4 ≠ 0 → Traps (.fork a) ⟨.misalign, s.x a, 0⟩ s) ∧
    (s.who.hart = 0 → (s.x a).toNat % 4 = 0 → ∃ u, Completes (.fork a) s u ∧ elsewhere u ∧ u.me = s.me ∧
      (∀ k : HartNum, k ≠ 0 → k.val < s.myCore.layout →
        ((s.hart (at' k)).run = .parked → u.hart (at' k) = { s.hart (at' k) with
          run := .running
          pc := s.x a
          instret := (s.hart (at' k)).instret + 1 }) ∧
        ((s.hart (at' k)).run ≠ .parked → (s.hart (at' k)).run ≠ .exited → (s.hart (at' k)).run ≠ .idle → u.hart (at' k) = s.hart (at' k)) ∧
        (∀ l, s.launchOf s.me = some l → (s.hart (at' k)).run = .exited ∨ (s.hart (at' k)).run = .idle →
          let f := u.hart (at' k)
          f.run = .running ∧ f.pc = s.x a ∧ f.xu = (Vector.replicate 32 0).set 2 l.args ∧ f.launch = some l.id ∧
          f.lanes = 32 / s.myCore.layout ∧ f.avail = 32 / s.myCore.layout ∧ f.vtype = villType ∧ f.vl = 0 ∧ f.stream = [] ∧
          f.v = Vector.replicate 32 0 ∧ f.trap.priv = false ∧ f.slices = s.me.slices)) ∧
      (∀ k : HartNum, s.myCore.layout ≤ k.val → u.hart (at' k) = s.hart (at' k)))

/-- R304 to R306: LAUNCH and LAUNCHT read the packet at xa once, when they issue, take a pool entry and the next LN
number, held on the output that HARM armed; LAUNCHT writes the number, 0 without an entry, -1 at depth 8, where
LAUNCH waits with its packet or raises CONFIG. LWAIT gives the status of a retired child, FEH for a number never
given, FFH for one whose slot was taken, and else waits for that number. -/
def Obligations.ChildMembers : Prop :=
  ∀ (s : State) (d a : XReg) (p : Phys), s.Quiet → s.me.vecDone = true → s.bad = [] → s.storesOf s.who = [] → s.me.lost = none →
    let h := s.me
    let n := h.tlln + 1
    let full := h.depth = 8
    let none' := 512 ≤ (s.pool.filter (fun c => c.depth == h.depth + 1)).length
    let taken (i : Instr) (pk : List Word) (u : State) : Prop := u.me = { h with
        tlln := n
        arming := none } ∧ u.mem = s.mem ∧ (∀ w, w ≠ s.who → u.hart w = s.hart w) ∧
      u.pool.map (fun c => c.id) = s.pool.map (fun c => c.id) ++ [s.nextId] ∧
      ∃ c, c ∈ u.pool ∧ c.id = s.nextId ∧ c.parent = s.who ∧ c.num = n ∧ c.depth = h.depth + 1 ∧ c.tag.held = h.arming ∧ c.launch = none ∧
        c.packet = pk ∧ c.word = encodeWord i
    let pk := (List.range 8).map (fun i => BitVec.ofNat 64 (s.ownN s.who .scalar (p.key + 8 * i) 8))
    let read := noteWalk s.who (s.x a) s
    (h.gang = none → (∀ q, h.run ≠ .waiting (.quota q)) → access s s.who .load 64 false (s.x a) = .ok p →
      (¬ full → ¬ none' → (∃ u, Completes (.launch a) s u ∧ taken (.launch a) pk u) ∧
        ∃ u : State, Completes (.launcht d a) s (u.setX d n) ∧ taken (.launcht d a) pk u) ∧
      (¬ full → none' → exec (.launch a) s = .next (read.setMe { h with run := .waiting (.quota pk) }) ∧
        exec (.launcht d a) s = .next (finish (read.setX d 0))) ∧
      (full → exec (.launch a) s = .next (trapAt ⟨.config, (encodeWord (.launch a)).zeroExtend 64, 0⟩ false s.pcNow read) ∧
        exec (.launcht d a) s = .next (finish (read.setX d (BitVec.allOnes 64))))) ∧
    (∀ q, h.gang = none → h.run = .waiting (.quota q) → ¬ full →
      (¬ none' → ∃ u, Completes (.launch a) s u ∧ taken (.launch a) q u) ∧ (none' → Waits (.launch a) (.quota q) s)) ∧
    (h.gang ≠ none → TrapsWord (.launch a) .config s ∧ TrapsWord (.launcht d a) .config s ∧ TrapsWord (.lwait d a) .config s) ∧
    (h.gang = none →
      let k := s.x a
      let slot := h.slotsLn.toList.getD (k.toNat % 64) (0, 0)
      ((k = 0 ∨ h.tlln.toNat < k.toNat) → Completes (.lwait d a) s (s.setX d 0xFE)) ∧
      (k ≠ 0 → k.toNat ≤ h.tlln.toNat →
        (slot.1 = k → Completes (.lwait d a) s (s.allSee.setX d (slot.2.zeroExtend 64))) ∧
        (k.toNat < slot.1.toNat → Completes (.lwait d a) s (s.allSee.setX d 0xFF)) ∧
        (slot.1.toNat < k.toNat → Waits (.lwait d a) (.child k) s)))

/-- R287 to R289, R291, R299, R301: the driver's side of a virtual queue. A legal descriptor makes an empty queue, whose
first number is NEXTSEQ, or 1 where that is 0; another changes nothing (both log 29, DEDUCED). A doorbell of its
function sets TAIL and asks for a slot, and the packet at the head of a resident queue is then read, once, the head
moving past it; a completion head within the written records is taken; a swap-in gives a slot; a promotion marks the
ready packet, or the ready child; a reset cancels each packet submitted or read, which takes its number (log 29,
DEDUCED), ends the queue's launches with status 7 and takes its transfers away. R344: a transfer packet that breaks
a rule retires with status 1; a good one leaves the ring and moves its bytes. Once every byte is moved or a fault
has ended it, its record is handed over. -/
def Obligations.QueueAndTransferEvents : Prop :=
  (
    ∀ (s : State) (n : BitVec 14) (fn : BitVec 6) (value : BitVec 32) (desc : List Word) (q : VQueue) (id : Nat),
      (s.queue? n = none → descOk s desc = true → s.sage.failed = none →
        ∃ q', exec (.queueCreate n fn desc) s = .next { s with queues := s.queues ++ [q'] } ∧ q'.num = n ∧ q'.fn = fn ∧ q'.desc = desc ∧
          q'.head = 0 ∧ q'.tail = 0 ∧ q'.cHead = 0 ∧ q'.cWrite = 0 ∧ q'.nextNo = (if desc.getD 4 0 = 0 then 1 else desc.getD 4 0) ∧ q'.records = [] ∧ q'.slot = false) ∧
      (descOk s desc = false → exec (.queueCreate n fn desc) s = .next s) ∧
      (∃ u : State, exec (.priorityPromotion (.child id)) s = .next u ∧ u.queues = s.queues ∧ u.mem = s.mem ∧ (∀ w, u.hart w = s.hart w) ∧
        u.pool = s.pool.map (fun c => if c.id = id ∧ c.ready ≠ none then { c with promoted := true } else c)) ∧
      (s.queue? n = some q →
        let becomes (i : Instr) (p : VQueue → Prop) : Prop := ∃ (u : State) (q' : VQueue), exec i s = .next u ∧ u.queue? n = some q' ∧
          q'.num = n ∧ q'.fn = q.fn ∧ q'.desc = q.desc ∧ u.mem = s.mem ∧ (∀ w, u.hart w = s.hart w) ∧ p q'
        let inFlight (q' : VQueue) : Prop := q'.nextNo = q.nextNo ∧ q'.open' = q.open' ∧ q'.records = q.records ∧ q'.cWrite = q.cWrite
        let stays (q' : VQueue) : Prop := q'.head = q.head ∧ q'.pkt = q.pkt
        let tail := value.toNat % 2 ^ q.plog
        (q.fn = fn → becomes (.doorbell fn n value) (fun q' => inFlight q' ∧ q'.tail = tail ∧
          q'.cHead = q.cHead ∧ q'.slot = q.slot ∧ (q.slot = false → q'.wants ≠ none) ∧
          (q.slot = false ∨ q.pkt ≠ none ∨ q.head = tail → stays q') ∧
          (∀ bs, q.slot = true → q.pkt = none → q.head ≠ tail →
            let q1 := { q with
              tail := tail
              bell := s.nextId
              wants := none }
            let s1 : State := { s.setQueue q1 with nextId := s.nextId + 1 }
            ctlBytes (s1.queueProbe q1) (q.dw 0 + wn (64 * q.head)) 64 = .ok bs →
              q'.pkt = some (wordsIn bs 8) ∧ q'.head = (q.head + 1) % 2 ^ q.plog))) ∧
        (q.fn ≠ fn → exec (.doorbell fn n value) s = .next s ∧ exec (.completionHead fn n value) s = .next s) ∧
        (let size := 2 ^ q.clog
         let c := value.toNat % size
         (q.fn = fn → (c + size - q.cHead) % size ≤ (q.cWrite + size - q.cHead) % size →
           becomes (.completionHead fn n value) (fun q' => q' = { q with cHead := c })) ∧
         (q.fn = fn → (q.cWrite + size - q.cHead) % size < (c + size - q.cHead) % size → exec (.completionHead fn n value) s = .next s)) ∧
        (∀ t, q.wants = some t → (∀ r v, r ∈ s.queues → r.wants = some v → t ≤ v) → (s.queues.filter (fun r => r.slot)).length < 64 →
          becomes (.queueSwapIn n) (fun q' => inFlight q' ∧ q'.slot = true ∧ q'.wants = none ∧ q'.tail = q.tail ∧
            (q.pkt ≠ none ∨ q.head = q.tail → stays q'))) ∧
        (q.ready ≠ none → becomes (.priorityPromotion (.queue n)) (fun q' => q' = { q with promoted := true })) ∧
        (q.ready = none → exec (.priorityPromotion (.queue n)) s = .next s) ∧
        (s.launches.filter (fun l => l.queue == some n) = [] → s.transfers.filter (fun t => t.queue == n) = [] →
          becomes (.queueReset n) (fun q' => q'.wants = none ∧ q'.pkt = none ∧ q'.nextNo = q.nextNo + BitVec.ofNat 64 q.left ∧ q'.tail = q.tail ∧
            ∃ rs, q'.records = q.records ++ rs ∧ rs.map (fun r => r.status) = List.replicate q.left 7 ∧
              rs.map (fun r => r.seqNo) = (List.range q.left).map (fun i => q.nextNo + BitVec.ofNat 64 i))) ∧
        (s.launches.Pairwise (fun l r => l.id ≠ r.id) → ∃ u : State, exec (.queueReset n) s = .next u ∧ (∀ t, t ∈ u.transfers → t.queue ≠ n) ∧
          (∀ l, l ∈ s.launches → l.queue = some n → l.status = 0 → ∀ l', l' ∈ u.launches → l'.id = l.id → l'.status = 7) ∧
          (∀ l w, l ∈ s.launches → l.queue = some n → (s.hart w).launch = some l.id → (u.hart w).alive = false)))) ∧
  (
    ∀ (s : State) (n : BitVec 14) (q : VQueue) (pk : List Word) (t : Transfer), s.queue? n = some q →
      (noteReady s = s → q.pkt = some pk → Packet.op pk = 2 → headReady s q = true → (Packet.waits pk).any (waitBad s q) = false →
        (transferOk pk = false → pk ≠ [] → ∃ (u : State) (q' : VQueue), exec (.transferDispatch n) s = .next u ∧ u.queue? n = some q' ∧
          q'.records = q.records ++ [⟨q.nextNo, n, 1, 0, 0, 0, pk.getD 6 0, Packet.notify pk⟩] ∧ u.transfers = s.transfers ∧ u.mem = s.mem) ∧
        (transferOk pk = true → t = {
            id := s.nextId, queue := n, seqNo := q.nextNo, utag := pk.getD 6 0, notify := Packet.notify pk, src := pk.getD 1 0
            dst := pk.getD 2 0, len := (pk.getD 7 0).toNat % 2 ^ 40, pos := 0, asked := [], zero := decide ((pk.getD 7 0).toNat / 2 ^ 40 % 4 = 1)
            status := 0, cause := 0 } →
          let s1 : State := { s.setQueue q.take with
            nextId := s.nextId + 1
            transfers := s.transfers ++ [t] }
          ∀ p t', moveBytes t.len (s1.queueProbe q) t = (p, t', none) →
            ∃ (u : State) (q' : VQueue), exec (.transferDispatch n) s = .next u ∧ u.mem = p.mem ∧ t' ∈ u.transfers ∧ t'.pos = t.len ∧
              u.queue? n = some q' ∧ q'.nextNo = q.nextNo + 1 ∧ q'.open' = q.open' ++ [q.nextNo] ∧ q'.records = q.records)) ∧
      (t.queue = n → s.transfers.find? (fun x => x.id == t.id) = some t → (t.status ≠ 0 ∨ t.len ≤ t.pos) →
        ∃ (u : State) (q' : VQueue), exec (.transferRetire t.id) s = .next u ∧ u.mem = s.mem ∧
          u.transfers = s.transfers.filter (fun x => x.id != t.id) ∧ u.queue? n = some q' ∧
          q'.records = q.records ++ [⟨t.seqNo, n, t.status, t.cause, 0, 0, t.utag, t.notify⟩]))

/-- R24, R289, R291, R292, R296 to R301, R305, R343: a kernel packet whose waits are met and that fails a check retires
at once with its status, whatever else is ready; one that is next, whose checks give a plan and for whose places
there are free cores, becomes a launch on those places. A child is dispatched in the same way. A place whose windows
have landed starts its harts, whatever other places wait for (log 67, DESIGN CHOICE); a launch that is over hands
over its record, the registers of its harts as they stand; a record is written to the completion ring and its
message sent. -/
def Obligations.LaunchEvents : Prop :=
  ∀ (s : State) (n : BitVec 14) (q : VQueue) (areas : List Word) (plan : Plan) (bases : List (List Nat)), noteReady s = s →
    let placed (u : State) (id : Nat) : Prop := u.mem = s.mem ∧ ∃ l, u.launches = s.launches ++ [l] ∧ l.id = id ∧ l.areas = areas ∧
      (∀ p c, p ∈ l.places → c ∈ p.cores → (u.core c).user = some id) ∧ (∀ p, p ∈ l.places → p.started = false)
    let free (part : BitVec 4) (c : CoreId) : Bool := (s.part part).hasCore c && (s.core c).isFree
    (∀ pk, s.queue? n = some q → q.pkt = some pk → Packet.op pk ≠ 2 → headReady s q = true → pk ≠ [] →
      ((Packet.waits pk).any (waitBad s q) = true → ∃ (u : State) (q' : VQueue), exec (.packetDispatch n areas) s = .next u ∧ u.queue? n = some q' ∧
        q'.records = q.records ++ [⟨q.nextNo, n, 4, 0, 0, 0, pk.getD 6 0, Packet.notify pk⟩] ∧ q'.nextNo = q.nextNo + 1 ∧ u.launches = s.launches) ∧
      ((Packet.waits pk).any (waitBad s q) = false →
        let l : Launch := { Launch.blank s.nextId q.part q.aspace q.pasid q.fn with
          queue := some n, seqNo := q.nextNo, prio := Packet.prio pk, pmax := q.pmax }
        (∀ b, planLaunch s l pk = .error (.status b) → ∃ (u : State) (q' : VQueue), exec (.packetDispatch n areas) s = .next u ∧
          u.queue? n = some q' ∧ q'.records = q.records ++ [⟨q.nextNo, n, b, 0, 0, 0, pk.getD 6 0, Packet.notify pk⟩] ∧ u.launches = s.launches) ∧
        (planLaunch s l pk = .ok plan → q.slot = true → isNext s q.part (.queue n) = true →
          choosePlaces (fun c => free plan.launch.part c) plan.m plan.cpd plan.groups = some bases →
          ∃ (u : State) (q' : VQueue), exec (.packetDispatch n areas) s = .next u ∧ placed u plan.launch.id ∧ u.queue? n = some q' ∧
            q'.nextNo = q.nextNo + 1 ∧ q'.open' = q.open' ++ [q.nextNo] ∧ q'.records = q.records ∧ q'.tail = q.tail ∧
            (q.head = q.tail → q'.head = q.head ∧ q'.pkt = none)))) ∧
    (∀ (c : Child) (pl : Launch), s.pool.find? (fun x => x.id == c.id) = some c → s.launches.find? (fun x => x.id == c.parentLaunch) = some pl →
      c.launch = none → childReady s c = true → childWaitBad s c = false → isNext s pl.part (.child c.id) = true →
      planLaunch s { Launch.blank s.nextId pl.part pl.aspace pl.pasid pl.fn with depth := c.depth, prio := pl.prio, pmax := pl.pmax } c.packet = .ok plan →
      choosePlaces (fun c => free plan.launch.part c) plan.m plan.cpd plan.groups = some bases →
      ∃ u : State, exec (.childDispatch c.id areas) s = .next u ∧ placed u plan.launch.id ∧
        ∃ c', c' ∈ u.pool ∧ c'.id = c.id ∧ c'.launch = some s.nextId ∧ c'.num = c.num ∧ c'.parent = c.parent) ∧
    (∀ (l : Launch) (i : Nat) (p : Place), s.launches.find? (fun x => x.id == l.id) = some l → l.places[i]? = some p → p.started = false → l.status = 0 →
      let mine (k : HartNum) : Prop := ((s.core (p.cores.headD 0)).hart k).launch = some l.id ∧ ((s.core (p.cores.headD 0)).hart k).run = .idle
      (∀ k, mine k → landedHart (s.core (p.cores.headD 0)) ((s.core (p.cores.headD 0)).hart k) = true) →
      ∃ u : State, exec (.placeStart l.id i) s = .next u ∧ u.mem = s.mem ∧
        (∀ k, mine k → u.hart ⟨p.cores.headD 0, k⟩ = { s.hart ⟨p.cores.headD 0, k⟩ with run := .running }) ∧
        (∀ k, ¬ mine k → u.hart ⟨p.cores.headD 0, k⟩ = s.hart ⟨p.cores.headD 0, k⟩) ∧
        ∃ l', l' ∈ u.launches ∧ l'.id = l.id ∧ l'.places[i]? = some { p with started := true }) ∧
    (∀ l : Launch, s.launches.find? (fun x => x.id == l.id) = some l → launchOver s l = true → l.queue = some n → s.queue? n = some q →
      ∃ (u : State) (q' : VQueue), exec (.launchRetire l.id) s = .next u ∧ u.launches = s.launches.filter (fun x => x.id != l.id) ∧
        (∀ w, (s.hart w).launch = some l.id → (u.hart w).launch = none ∧ (u.hart w).run = .idle ∧ (u.hart w).v = (s.hart w).v ∧
          (u.hart w).m = (s.hart w).m ∧ (u.hart w).xu = (s.hart w).xu ∧ (u.hart w).loops = (s.hart w).loops ∧ (u.hart w).tlre = (s.hart w).tlre) ∧
        u.queue? n = some q' ∧ q'.records = q.records ++ [⟨l.seqNo, n, l.status, l.cause, l.errCore, l.errHart, l.utag, l.notify⟩]) ∧
    (∀ r rest cs, s.queue? n = some q → q.records = r :: rest → (q.cWrite + 2 ^ q.clog - q.cHead) % 2 ^ q.clog < 2 ^ q.clog - 1 →
      storeBytes (s.queueProbe q) proxy (q.dw 1 + wn (32 * q.cWrite)) (r.words.flatMap (fun w => bytesOf 8 w.toNat)) = .ok cs →
      ∃ (u : State) (q' : VQueue), exec (.completionRecordWrite n) s = .next u ∧ u.mem = Memory.writeAll s.mem cs ∧ u.queue? n = some q' ∧
        q'.records = rest ∧ q'.cWrite = (q.cWrite + 1) % 2 ^ q.clog ∧ q'.open' = q.open'.filter (fun x => x != r.seqNo) ∧
        u.msix.sent = if r.notify = true ∧ q.vec < 2048 ∧ (q.fn, q.vec) ∉ s.msix.masked then s.msix.sent ++ [(q.fn, q.vec)] else s.msix.sent)

/-! ### Context, traps of the system, errors -/

/-- R325 to R327: CTXSAVE of a hart without open windows writes its image at xa and changes nothing else but the locks
of its lanes, which it frees, and its pending matrix and exchange operations, which stay withdrawn until TRET. The
image starts with its magic and length, and holds the resume address, the type state, the counts, x1 to x31 and the
loop registers at their places. CTXLOAD puts such an image in force, and raises CONFIG with the reason where it is
not taken. -/
def Obligations.ContextImages : Prop :=
  ∀ (s : State) (a : XReg) (w : Who) (pc : Word),
    (let h := s.hart w
     let img := imageWords s w pc
     h.q0.length ≤ 16 → h.q1.length ≤ 16 → h.lq.length ≤ 16 → h.recorded.length ≤ 32 → (∀ i : StackNum, (h.iter i).slots.length ≤ 8) →
     8 * img.length = tailAt h.lanes + recsBytes (tailRecs s w) ∧ dwAt img 0 = 0x4B43585400010000 ∧
     dwAt img 8 = BitVec.ofNat 64 (8 * img.length) ∧ dwAt img 32 = pc ∧ dwAt img 40 = h.vtype ∧
     dwAt img 48 = BitVec.ofNat 64 (h.vstart * 2 ^ 32 + h.vl) ∧ dwAt img 72 = h.kvstart ∧ dwAt img 80 = h.instret ∧
     dwAt img 88 = h.trap.seq ∧ (∀ r : Fin 31, dwAt img (256 + 8 * r.val) = h.xu.get (r.succ.castLE (by decide))) ∧
     (∀ k : CtrNum, dwAt img (512 + 64 * k.toNat) = (h.loop k).cnt ∧ dwAt img (520 + 64 * k.toNat) = (h.loop k).rem ∧
       dwAt img (528 + 64 * k.toNat) = (h.loop k).body)) ∧
    (s.Quiet → s.me.trap.priv = true → s.storesOf s.who = [] → s.bad = [] → s.me.drawn = none →
      (mxStarted s s.who = false → s.me.reOps = [] → (∀ i, (s.me.win i).isOpen = false) → s.me.lost = none →
        areaErr s s.who (s.x a) (8 * (imageWords (s.modMe Hart.saveThreads) s.who s.me.savePc).length) = none →
        ∃ u, Completes (.ctxsave a) s u ∧ (∀ q, q ≠ s.who → u.hart q = s.hart q) ∧ u.stores = s.stores ∧
          u.me = { s.me with drawn := some ((mxOwn s s.who).map (fun o => o.tag.num)) } ∧
          (∀ o, o ∈ u.myCore.matrix.ops → o.who = s.who → o.away = true) ∧
          u.mem = Memory.writeAll s.mem (areaCells (clearMyLocks s.who s) s.who (s.x a)
            (imageWords ((clearMyLocks s.who s).modMe Hart.saveThreads) s.who s.me.savePc))) ∧
      (∀ e, mxStarted s s.who = false →
        areaErr s s.who (s.x a) (8 * (imageWords (s.modMe Hart.saveThreads) s.who s.me.savePc).length) = some e → e.page = none →
        Traps (.ctxsave a) ⟨e.cause, e.addr, 0⟩ s) ∧
      (∀ ws s1 s2, readImageAt s s.who (s.x a) = .ok ws → loadImage s.who ws none (s.modMe Hart.discard) = .ok s1 →
        loadRoom s s.who ws = true → reloadBuf s.who s1 = .ok s2 →
        Completes (.ctxload a) s s2 ∧ s2.me.trap.pc = dwAt ws 32 ∧ s2.me.trap.pp = false ∧ s2.me.vtype = typeOf (dwAt ws 40) ∧
        s2.me.vl = (dwAt ws 48).toNat % 2 ^ 24 ∧ s2.me.vstart = (dwAt ws 48).toNat / 2 ^ 32 % 2 ^ 24 ∧ s2.me.kvstart = dwAt ws 72 ∧
        s2.me.instret = dwAt ws 80 ∧ s2.me.trap.seq = dwAt ws 88 ∧
        (∀ r : Fin 31, s2.me.xu.get (r.succ.castLE (by decide)) = dwAt ws (256 + 8 * r.val)) ∧ s2.mem = s.mem ∧
        (∀ k : CtrNum, (s2.me.loop k).cnt = dwAt ws (512 + 64 * k.toNat)) ∧ (∀ q, q ≠ s.who → s2.hart q = s.hart q)) ∧
      (readImageAt s s.who (s.x a) = .bad → Traps (.ctxload a) ⟨.config, 1, 0⟩ s) ∧
      (∀ ws r, readImageAt s s.who (s.x a) = .ok ws → loadImage s.who ws none (s.modMe Hart.discard) = .error r →
        Traps (.ctxload a) ⟨.config, BitVec.ofNat 64 r, 0⟩ s))

/-- R301, R302, R307, R321 to R324: a due hard pre-emption of a hart in user mode saves its context in its area and
frees its place; in supervisor mode, or where none is due, nothing happens. A parent that stalls on its children
while a child of its launch is ready and no free place fits it is saved in the same way, and that child has the
place, with whatever areas it is given (log 24, DESIGN CHOICE). A ready saved context whose image is taken runs
again at a hart of its number: where other harts of its place run, or on a free core once it is next; RESTARTS and
LASTBLK of its KV contexts come back with it (log 30, DEDUCED). -/
def Obligations.PreemptionAndRestore : Prop :=
  ∀ (s u : State) (w : Who) (sv : Saved) (l : Launch),
    let h := s.hart w
    let saved (u : State) (why : BitVec 4) : Prop := (u.hart w).run = .saved ∧ (u.hart w).launch = h.launch ∧
      ∃ x, u.saved.getLast? = some x ∧ u.saved.map (fun y => y.id) = s.saved.map (fun y => y.id) ++ [x.id] ∧ x.home = w ∧ x.area = h.sup.ctxPtr ∧
        x.why = why ∧ x.frame.pc = h.pc ∧ x.frame.xu = h.xu
    let onChild : Prop := (∃ n, h.run = .waiting (.child n)) ∨ (∃ q, h.run = .waiting (.quota q)) ∨ (∃ n, h.run = .waiting (.timeline 5 n)) ∨
      (h.run = .waiting .finish ∧ ∃ c, c ∈ s.pool ∧ c.parent = w ∧ c.away = none)
    (h.alive = true → h.hardNow = true → h.trap.priv = false → h.run ≠ .idle → h.run ≠ .gangParked → saveContext w h.pc s = .saved u →
      exec (.hardPreemption w) s = .next u ∧ saved u h.sup.why) ∧
    ((h.hardNow = false ∨ h.trap.priv = true) → exec (.hardPreemption w) s = .next s) ∧
    (∀ c d, h.alive = true → onChild → h.trap.priv = false →
      s.launchOf h = some l → s.pool.find? (fun c => c.parentLaunch == l.id && childReady s c && childBlocked s l c) = some c →
      saveContext w h.pc (s.setHart w { h with sup := { h.sup with
        hard := true
        why := 2 } }) = .saved u → u.pool.find? (fun x => x.id == c.id) = some d → d.launch = none →
      exec (.parentStallSwap w) s = .next (dispatchChild d l true (Config.imageAreas u.fresh) { u with
        saved := u.saved.map (fun x => if x.home = w ∧ s.nextId ≤ x.id then { x with stalled := true } else x) }) ∧ saved u 2) ∧
    (¬ onChild → exec (.parentStallSwap w) s = .next s) ∧
    (s.saved.find? (fun x => x.id == sv.id) = some sv → s.launches.find? (fun x => sv.frame.launch == some x.id) = some l →
      let mayTake : Prop := w.hart = sv.home.hart ∧ sv.frame.gang = none ∧ (s.part l.part).hasCore w.core = true ∧
        (w.core = sv.home.core ∨ (sv.frame.mbound = false ∧ sv.frame.hbound = false ∧ sv.frame.xbound = false ∧ sv.frame.arming = none)) ∧
        (∀ q : Who, (s.hart q).alive = true → (s.hart q).launch = some l.id → (s.hart q).place = sv.frame.place → q.core = w.core)
      let beside : Prop := ∀ k : HartNum, ((s.core w.core).hart k).alive = true →
        k ≠ w.hart ∧ ((s.core w.core).hart k).launch = some l.id ∧ ((s.core w.core).hart k).place = sv.frame.place
      (sv.ready = none → exec (.contextRestore sv.id w) s = .next s) ∧
      (sv.ready ≠ none → mayTake → beside → ((s.core w.core).isFree = true → isNext s l.part (.context sv.id) = true) →
        resumeAt sv l w s = some u →
        exec (.contextRestore sv.id w) s = .next u ∧ (u.hart w).run = .running ∧ (u.hart w).trap.priv = false ∧
          (u.hart w).launch = sv.frame.launch ∧ (∀ c, ((u.hart w).kv.get c).restarts = (sv.frame.kv.get c).restarts ∧
            ((u.hart w).kv.get c).lastBlk = (sv.frame.kv.get c).lastBlk) ∧
          u.saved.map (fun x => x.id) = (s.saved.map (fun x => x.id)).filter (fun i => i != sv.id)) ∧
      (mayTake → ¬ beside ∨ (s.core w.core).isFree = true → isNext s l.part (.context sv.id) = false →
        exec (.contextRestore sv.id w) s = .next s))

/-- R320, R322, R333: HALT, and a supervisor that reaches no pre-emption point in time, end the launch of the hart with
status 6 and its TRAPCAUSE: each of its running harts is ended. XLINV and XLINVA drop the cached walks of the
partition's cores and take their range tables anew; they change no register and no memory. -/
def Obligations.HaltAndInvalidation : Prop :=
  ∀ (s : State) (a b : XReg) (w : Who) (id : Nat) (l : Launch),
    let ends (i : Instr) (w : Who) : Prop := ∃ u : State, exec i s = .next u ∧
      (∀ q, (s.hart q).launch = some id → (s.hart q).alive = true → (u.hart q).run = .exited) ∧
      ∃ l', l' ∈ u.launches ∧ l'.id = id ∧ l'.status = 6 ∧ l'.cause = (s.hart w).trap.cause ∧ l'.errHart = w.hart ∧ l'.errCore = w.core
    (l ∈ s.launches → l.id = id → l.status = 0 → (s.hart w).launch = some id →
      (s.Quiet → s.who = w → s.me.trap.priv = true → ends .halt w) ∧
      ((s.hart w).alive = true → (s.hart w).hardNow = true → (s.hart w).trap.priv = true → ends (.supervisorPreemptTimeout w) w)) ∧
    (((s.hart w).hardNow = false ∨ (s.hart w).trap.priv = false) → exec (.supervisorPreemptTimeout w) s = .next s) ∧
    (s.Quiet → s.me.vecDone = true → s.me.trap.priv = true → s.storesOf s.who = [] → s.me.lost = none →
      let va := (s.x a).toNat
      let sel (as : BitVec 10) : Prop := (s.x b).getLsbD 63 = true ∨ as.toNat = (s.x b).toNat % 2 ^ 10
      let mine (c : CoreId) : Prop := (s.part (s.partOf s.me)).hasCore c = true
      (∃ u, Completes (.xlinv a b) s u ∧ u.mem = s.mem ∧ (∀ q, u.hart q = s.hart q) ∧ (∀ c, ¬ mine c → u.core c = s.core c) ∧
        (∀ c, mine c → ∀ x, x ∈ (u.core c).walks ↔ x ∈ (s.core c).walks ∧ ¬ (sel x.1 ∧ x.2.1 = va / 2 ^ (12 + 9 * (x.2.2.toNat / 2 ^ 62))))) ∧
      (∃ u, Completes .xlinva s u ∧ u.mem = s.mem ∧ (∀ q, u.hart q = s.hart q) ∧ (∀ c, ¬ mine c → u.core c = s.core c) ∧
        (∀ c, mine c → (u.core c).walks = [])))

/-- R55, R70, R151, R158, R163, R334: a counter that takes a value, from a loop's wrap or LCNT, advances each window
tied to it once, those that it had advanced before it had to wait for scoreboard entries left out, or leaves the
advances in the vector stream where a member that takes an RE number still stands there (R28, R157; log 12,
DEDUCED). While it waits the counters stay. A hart that stopped at a loop's end goes on with the wrap. A reserved
word is illegal. A double error marks its granule, a corrected error is counted, and nothing else changes. -/
def Obligations.CountersReservedWordsAndErrors : Prop :=
  ∀ (s : State) (k : CtrNum) (v : Word) (w : Who) (site : ErrorSite) (word : Insn),
    (∀ u p wrap, setCounter k v p wrap s = .done u →
      let tied := allWins.filter (fun w => (s.me.win w).tied k.toNat != 0 &&
        !(s.me.ahead.find? (fun a => a.1 == w && a.2.1 == k.toNat)).any (fun a => a.2.2 == v))
      (u.me.loop k) = { s.me.loop k with cnt := v, changes := (s.me.loop k).changes + 1 } ∧ (∀ j, j ≠ k → u.me.loop j = s.me.loop j) ∧
      u.me.xu = s.me.xu ∧ u.me.xs = s.me.xs ∧ u.mem = s.mem ∧
      (s.me.winPending = false →
        u.me.stream = s.me.stream ∧ u.me.tlre = s.me.tlre + BitVec.ofNat 64 tied.length ∧
        (∃ ops, u.me.reOps = s.me.reOps ++ ops ∧ ops.map (fun o => (o.win, o.kind)) = tied.map (fun w => (w, ReKind.advance)))) ∧
      (s.me.winPending = true →
        u.me.reOps = s.me.reOps ∧ u.me.tlre = s.me.tlre ∧
        (∃ e, u.me.stream = s.me.stream ++ [e] ∧ e.adv = some wrap ∧ e.cap.pc = p ∧ e.cap.xs = s.me.ctrs ++ u.me.ctrs))) ∧
    (∀ u p wrap, setCounter k v p wrap s = .full u → u.me.loops = s.me.loops ∧ u.me.xu = s.me.xu ∧ u.mem = s.mem) ∧
    (s.Quiet → (∀ w, (s.me.win w).tied k.toNat = 0) → (s.me.loop k).cnt ≠ v →
      exec (.lcntWrite k v) s = .next (s.setMe { s.me.setLoop k { s.me.loop k with
        cnt := v
        changes := (s.me.loop k).changes + 1 } with ahead := [] })) ∧
    ((s.me.loop k).cnt = v → exec (.lcntWrite k v) s = .next s) ∧
    (let h := s.hart w
     let l := h.loop k
     h.stream = [] → h.active = [k] → h.pc = l.endAddr → l.rem ≠ 0 → (∀ i, (h.win i).tied k.toNat = 0) → h.run = .atLoopEnd →
     exec (.loopWrap w) s = .next (s.setHart w { h.setLoop k ⟨l.cnt + 1, l.rem - 1, l.body, l.endOf, l.changes + 1⟩ with
        pc := l.top
        run := .running
        ahead := [] })) ∧
    ((s.hart w).run ≠ .atLoopEnd → exec (.loopWrap w) s = .next s) ∧
    (s.Quiet → Traps (.reservedWord word) ⟨.illegalInsn, word.zeroExtend 64, 0⟩ s) ∧
    (∃ bad, exec (.memoryDoubleError site) s = .next { s with bad := bad } ∧ ∀ x, x ∈ bad ↔ x ∈ s.bad ∨ x = site) ∧
    exec (.singleBitError site) s = .next { s with corrected := s.corrected + 1 }

/-! ### Host interface -/

/-- R323, R337 to R342, R353: a page response frees its group: Success grants the page and makes the context ready whose
trap asked for it, the others refuse the page or stop the function's requests; a second refusal ends the launch of
that context FAULTED. One for a quarantined group is dropped and counted, which PRIQ shows. An invalidation
withdraws a translation that no queued store uses. Byte 0 of a queue's page in BAR2 is its doorbell, byte 8 its
completion head, other writes there are dropped and reads give 0; a write to a PRIQ clears DROPPED, and other values
are stored (log 22). A configuration request is answered (log 34). -/
def Obligations.PagesAndRegisters : Prop :=
  ∀ (s : State) (fn : BitVec 6) (group : BitVec 8) (code : PageCode) (r : PageReq) (pasid : BitVec 20) (page : BitVec 52)
    (off : BitVec 26) (value : BitVec 32) (o : BitVec 12),
    let asked := s.pageReqs.find? (fun r => r.fn == fn && r.group == group)
    let rest := s.pageReqs.filter (fun q => !(q.fn == fn && q.group == group))
    (asked = none → exec (.pageResponse fn group code) s = .next s) ∧
    (asked = some r → r.quarantined = true → s.pageWait = [] → exec (.pageResponse fn group code) s = .next { s with
      pageReqs := rest
      pageDrops := countDrop s.pageDrops fn }) ∧
    (asked = some r → r.quarantined = false → code = .success ∨ (r.fn, r.page) ∉ s.refused →
      ∃ u : State, exec (.pageResponse fn group code) s = .next u ∧ u.mem = s.mem ∧
      (∀ w, u.hart w = s.hart w) ∧ (∀ q, q ∈ rest → q ∈ u.pageReqs) ∧ u.saved.map (fun x => x.id) = s.saved.map (fun x => x.id) ∧
      (∀ x, x ∈ u.saved → x.request = some r.id → x.ready ≠ none) ∧
      (code = .success → ⟨r.fn, r.pasid, r.page, r.wr⟩ ∈ u.grants ∧ (r.fn, r.page) ∉ u.refused) ∧
      (code ≠ .success → u.grants = s.grants ∧ (r.fn, r.page) ∈ u.refused) ∧
      (code = .responseFailure → r.fn ∈ u.pageFail)) ∧
    (∀ x l, asked = some r → r.quarantined = false → code ≠ .success → (r.fn, r.page) ∈ s.refused →
      s.saved.filter (fun x => x.request == some r.id) = [x] → l ∈ s.launches → x.frame.launch = some l.id → l.status = 0 →
      ∃ (u : State) (l' : Launch), exec (.pageResponse fn group code) s = .next u ∧ l' ∈ u.launches ∧ l'.id = l.id ∧ l'.status = 6 ∧
        l'.cause = x.frame.trap.cause ∧ ∀ y, y ∈ u.saved → y.frame.launch ≠ some l.id) ∧
    ((∀ t, t ∈ s.stores → usesPage s fn pasid page.toNat t = false) → ∃ u : State, exec (.atsInvalidation fn pasid page) s = .next u ∧
      u.mem = s.mem ∧ (∀ w, u.hart w = s.hart w) ∧
      (∀ g, g ∈ u.grants ↔ g ∈ s.grants ∧ ¬ (g.fn = fn ∧ g.pasid = pasid ∧ g.page = page.toNat)) ∧
      (∀ g, g ∈ u.atsCache ↔ g ∈ s.atsCache ∧ ¬ (g.fn = fn ∧ g.pasid = pasid ∧ g.page = page.toNat))) ∧
    (let cleared (f : BitVec 6) : State := { s with pageDrops := s.pageDrops.filter (fun d => d.1 != f) }
     let writes (fn : BitVec 6) (bar : Bar) : Instr := .registerWrite fn bar off value
     let queue : BitVec 14 := off.extractLsb' 12 14
     exec (.priqWrite fn) s = .next (cleared fn) ∧
     (off.toNat % 4096 = 0 → exec (writes fn .bar2) s = exec (.doorbell fn queue value) s) ∧
     (off.toNat % 4096 = 8 → exec (writes fn .bar2) s = exec (.completionHead fn queue value) s) ∧
     (off.toNat % 4096 ≠ 0 → off.toNat % 4096 ≠ 8 → exec (writes fn .bar2) s = .next s) ∧ s.barRead fn .bar2 off = 0 ∧
     (fn ≠ 0 ∨ s.power = .d3cold → exec (writes fn .bar0) s = .next s) ∧
     (∀ f : BitVec 6, off.toNat = 0x400 + 8 * f.toNat →
       (s.power ≠ .d3cold → exec (writes 0 .bar0) s = .next (cleared f)) ∧ (cleared f).barRead 0 .bar0 off = 0 ∧
       s.barRead 0 .bar0 off = BitVec.ofNat 32 ((s.pageDrops.lookup f).getD 0) ∧
       ((s.pageDrops.lookup f).getD 0 < 2 ^ 32 → s.barRead 0 .bar0 (off + 4) = BitVec.ofNat 32 (s.pageReqs.filter (fun r => r.fn == f && r.quarantined)).length)) ∧
     (s.power ≠ .d3cold → off.toNat < 0x400 ∨ 0x600 ≤ off.toNat → ∃ u : State, exec (writes 0 .bar0) s = .next u ∧ u.mem = s.mem ∧
       (∀ w, u.hart w = s.hart w) ∧ u.bar0.lookup off.toNat = some value ∧ u.pageDrops = s.pageDrops ∧
       ∀ a, a ≠ off.toNat → u.bar0.lookup a = s.bar0.lookup a)) ∧
    (s.power ≠ .d3cold → (s.sage.failed = none ∨ fn = 0) → ∃ a, exec (.configRequest fn o) s = .next { s with config := s.config ++ [a] } ∧
      a.fn = fn ∧ a.offset = o ∧ ∀ c, a.shows = some c → c ∈ [PciCap.pasid, .ats, .pri, .atomicOp, .msix, .flr] ∨ (fn = 0 ∧ c ∈ [PciCap.sriov, .doe])) ∧
    (s.power = .d3cold ∨ (s.sage.failed ≠ none ∧ fn ≠ 0) → exec (.configRequest fn o) s = .next s)

/-- R341, R349, R353, R354: a cold or hot reset leaves the device as State.reset, but for the memory of the host and of
other devices, the signing index, what the host granted and the model's own schedule; firmware whose key, signature
or version is not good leaves it failed at step 3, whatever the images are (log 69). A reset of function 0 is a hot
reset; of another it ends its launches, empties its queues, drops its translations and quarantines its page
requests. Power states: without power no reset but a cold one comes. What a reset keeps, and that D3hot waits for
launches and transfers, is log 34 (DEDUCED). -/
def Obligations.ResetsAndPower : Prop :=
  ∀ (s : State) (fn : BitVec 6),
    let bad (n : Nat) : Prop := Config.shake256 (Config.imageKey n) ≠ Config.fusedKeyHash ∨ Config.signedBy (Config.imageKey n) n = false ∨
      Config.imageVersion n < s.sage.rollback
    let fresh (u : State) : Prop := u.cores = State.reset.cores ∧ u.queues = [] ∧ u.launches = [] ∧ u.stores = [] ∧ u.saved = [] ∧
      u.pool = [] ∧ u.transfers = [] ∧ u.parts = State.reset.parts ∧ u.bad = [] ∧ u.tenants = [] ∧ u.owners = [] ∧
      u.mem = s.mem.filter (fun c => decide (2 ^ 60 ≤ c.1)) ∧ u.sage.nextIndex = s.sage.nextIndex ∧ u.sage.rollback = s.sage.rollback ∧
      u.sage.spdm = .start ∧ u.grants = s.grants ∧ u.agenda = s.agenda ∧
      ((∃ n, n < 3 ∧ bad n) → ∃ f, u.sage.failed = some f ∧ f.1 ≤ 3 ∧ (f.1 = 3 → ∃ n, n < 3 ∧ bad n ∧ f.2 = n ∧ ∀ j, j < n → ¬ bad j))
    (∃ u, exec .coldReset s = .next u ∧ fresh u ∧ u.power = .d0) ∧
    (s.power ≠ .d3cold → ∃ u, exec .hotReset s = .next u ∧ fresh u ∧ u.power = .d0) ∧
    (s.power = .d3cold → exec .hotReset s = .next s) ∧
    exec (.functionLevelReset 0) s = exec .hotReset s ∧
    (fn ≠ 0 → ∃ u : State, exec (.functionLevelReset fn) s = .next u ∧
      (∀ r, r ∈ u.pageReqs → r.fn = fn → r.quarantined = true) ∧ u.pageReqs.length = s.pageReqs.length ∧
      (∀ g, g ∈ u.atsCache → g.fn ≠ fn) ∧
      (∀ q, q ∈ u.queues → q.fn = fn → q.head = q.tail ∧ q.open' = [] ∧ q.pkt = none ∧ q.records = []) ∧
      (∀ l q, l ∈ u.launches → q ∈ s.queues → q.fn = fn → l.queue ≠ some q.num)) ∧
    (s.power = .d0 → s.launches = [] → s.transfers = [] → exec (.powerStateChange .d3hot) s = .next { s with power := .d3hot }) ∧
    (s.launches ≠ [] ∨ s.transfers ≠ [] → exec (.powerStateChange .d3hot) s = .next s) ∧
    (s.power ≠ .d3cold → exec (.powerStateChange .d0) s = .next { s with power := .d0 }) ∧
    (s.power = .d3cold → exec (.powerStateChange .d0) s = exec .coldReset s) ∧
    (s.power ≠ .d3cold → ∃ u, exec (.powerStateChange .d3cold) s = .next u ∧ fresh u ∧ u.power = .d3cold)

/-- R299, R345 to R348: a tenant is made in an address space that is free, and torn down once it has no launch, its data
becoming free values (log 5); a page that no launch reaches is zeroed and handed over; a partition takes an allowed
shape while none of its launches runs, or none, which cancels them: what lies in a slice that stays keeps its byte
there, the rest reads 0, and the scratch of the cores that change hands is zeroed. Other memory stays. Where a
condition does not hold, a launch among them, nothing changes (log 34, DEDUCED). -/
def Obligations.TenantsAndPartitions : Prop :=
  ∀ (s : State) (t : BitVec 10) (part other : BitVec 4) (root range vec cap : Word) (page : BitVec 32) (cfg : PartConfig),
    (s.up = true → (s.tenant t).live = false → ∃ u : State, exec (.tenantCreate t part root range vec cap) s = .next u ∧ u.mem = s.mem ∧
      u.cores = s.cores ∧ u.tenant t = ⟨true, part, root &&& 0x000FFFFFFFF00000, range &&& 0x000FFFFFFFFFF800, vec &&& ~~~(3 : Word), cap⟩ ∧
      (∀ x, x ≠ t → u.tenant x = s.tenant x)) ∧
    ((s.tenant t).live = true → exec (.tenantCreate t part root range vec cap) s = .next s) ∧
    (s.up = true → (s.tenant t).live = true → (∀ l, l ∈ s.launches → l.aspace ≠ t) → s.Inv → ∃ u : State, exec (.tenantTeardown t) s = .next u ∧
      (u.tenant t).live = false ∧ (∀ x, x ≠ t → u.tenant x = s.tenant x) ∧ (∀ w, u.hart w = s.hart w) ∧
      (∀ key, (key / 4096, t) ∉ s.owners → tenantHas s t (key / 4096) = false → Memory.read u.mem key = Memory.read s.mem key) ∧
      (∀ key, key < 2 ^ 57 → (key / 4096, t) ∈ s.owners ∨ (tenantHas s t (key / 4096) = true ∧ ∃ c, c ∈ s.mem ∧ c.1 / 4096 = key / 4096) →
        Memory.read u.mem key = Config.erasedByte (s.fresh * 2 ^ 64 + key))) ∧
    ((∃ l, l ∈ s.launches ∧ l.aspace = t) → exec (.tenantTeardown t) s = .next s) ∧
    (let a := devKey part.toNat (page.toNat * 4096) / 4096
     let b := devKey other.toNat (page.toNat * 4096) / 4096
     let reaches (l : Launch) : Prop := (l.part = part ∧ tenantHas s l.aspace a = true) ∨ (l.part = other ∧ tenantHas s l.aspace b = true)
     (s.up = true → (s.tenant t).live = true → (∀ l, l ∈ s.launches → ¬ reaches l) →
       ∃ u : State, exec (.pageReassign page part other t) s = .next u ∧ (b, t) ∈ u.owners ∧ (∀ x, (b, x) ∈ u.owners → x = t) ∧
         (∀ key, (key / 4096 = a ∨ key / 4096 = b) → Memory.read u.mem key = 0) ∧
         (∀ key, key / 4096 ≠ a → key / 4096 ≠ b → Memory.read u.mem key = Memory.read s.mem key) ∧ u.cores = s.cores) ∧
     ((s.tenant t).live = false ∨ (∃ l, l ∈ s.launches ∧ reaches l) → exec (.pageReassign page part other t) s = .next s)) ∧
    (s.up = true → partOk s part cfg = true →
      let old := s.part part
      let scratchClean (u : State) : Prop := ∀ c : CoreId, (old.cores ||| cfg.cores).getLsbD c.val = true →
        (u.core c).scratch = [] ∧ (u.core c).locks = Vector.replicate 32 0
      (cfg.cores ≠ 0 → (∀ l, l ∈ s.launches → l.part ≠ part) →
        ∃ u : State, exec (.partitionChange part cfg) s = .next u ∧ u.part part = ⟨cfg.cores, cfg.channels, cfg.groups, cfg.sparse⟩ ∧
          (∀ p, p ≠ part → u.part p = s.part p) ∧ (∀ w, u.hart w = s.hart w) ∧ scratchClean u ∧
          (∀ c : CoreId, (old.cores ||| cfg.cores).getLsbD c.val = false → u.core c = s.core c) ∧
          (cfg.channels = old.channels → cfg.groups = old.groups → u.mem = s.mem) ∧
          (s.Inv → (∀ l, l ∈ old.channels ++ old.groups → l.Nodup) →
            (∀ c, c ∈ s.mem → devKey part.toNat 0 ≤ c.1 → c.1 < devKey part.toNat (2 ^ 52) → old.owns (c.1 % 2 ^ 52) = true) →
            (∀ key, (key < devKey part.toNat 0 ∨ devKey part.toNat (2 ^ 52) ≤ key) → Memory.read u.mem key = Memory.read s.mem key) ∧
            (∀ hi x y, x < 2 ^ 41 → y < 2 ^ 41 → old.owns (hi * 2 ^ 41 + x) = true → (u.part part).owns (hi * 2 ^ 41 + y) = true →
              let list (p : Partition) : List Nat := if hi % 2 = 1 then p.groups.getD (hi / 2) [] else p.channels.getD (hi / 2) []
              let slice (p : Partition) (o : Nat) : Nat := (list p).getD (o / 256 % (list p).length) 0
              (slice old x = slice (u.part part) y → sliceByte (list old).length x = sliceByte (list (u.part part)).length y →
                Memory.read u.mem (devKey part.toNat (hi * 2 ^ 41 + y)) = Memory.read s.mem (devKey part.toNat (hi * 2 ^ 41 + x))) ∧
              (slice (u.part part) y ∉ list old → Memory.read u.mem (devKey part.toNat (hi * 2 ^ 41 + y)) = 0)))) ∧
      (cfg.cores ≠ 0 → (∃ l, l ∈ s.launches ∧ l.part = part) → exec (.partitionChange part cfg) s = .next s) ∧
      (cfg.cores = 0 → s.launches.Pairwise (fun l r => l.id ≠ r.id) → ∃ u : State, exec (.partitionChange part cfg) s = .next u ∧
        u.part part = ⟨0, cfg.channels, cfg.groups, cfg.sparse⟩ ∧ (∀ p, p ≠ part → u.part p = s.part p) ∧ scratchClean u ∧
        (∀ l q, l ∈ s.launches → q ∈ s.queues → q.part = part → l.queue = some q.num → l.status = 0 →
          ∀ l', l' ∈ u.launches → l'.id = l.id → l'.status = 7))) ∧
    (partOk s part cfg = false → exec (.partitionChange part cfg) s = .next s)

/-- R350, R351, R354: the SPDM requests in their order (log 23): each is answered while the device has power, one out of
order with an error; digests and measurements hold the device's (their values are free, log 69), the measurements in
index order; a signed answer takes the next index, and after the last one none is given. Nothing but Sage's state
changes. R267, R268, R270, R271: an aged packet is marked; a region where no kernel runs, on the regions that it
cuts neither, takes another mesh shape. A good flit in sequence is acknowledged and frees the copies it
acknowledges, another is rejected by number; a replay starts again from the rejected flit, of which a copy is kept,
and is counted until that flit is acknowledged; after 8 failed replays of one flit the port goes down, its flits
leaving by another. Nothing else changes. -/
def Obligations.AttestationMeshAndPorts : Prop :=
  (
    ∀ (s : State) (asym hash off len : BitVec 16) (nonce : BitVec 256),
      let g := s.sage
      let answers (i : Instr) (spdm : SpdmState) (index : Nat) (r : SpdmReply) : Prop := exec i s = .next { s with
        sage := { g with
          spdm := spdm
          nextIndex := index
          replies := g.replies ++ [r] } }
      (s.power = .d3cold → ∀ i, i ∈ [Instr.getVersion, .getCapabilities, .negotiateAlgorithms asym hash, .getDigests, .getCertificate off len,
        .challenge nonce, .getMeasurements nonce] → exec i s = .next s) ∧
      (s.power ≠ .d3cold →
      answers .getVersion .version g.nextIndex .version ∧
      (g.spdm = .version → answers .getCapabilities .capabilities g.nextIndex .capabilities) ∧
      (g.spdm ≠ .version → answers .getCapabilities g.spdm g.nextIndex .error) ∧
      (g.spdm = .capabilities → asym = Config.asymId → hash = Config.hashId →
        answers (.negotiateAlgorithms asym hash) .negotiated g.nextIndex .algorithms) ∧
      ((g.spdm ≠ .capabilities ∨ asym ≠ Config.asymId ∨ hash ≠ Config.hashId) → answers (.negotiateAlgorithms asym hash) g.spdm g.nextIndex .error) ∧
      (g.spdm = .negotiated → answers .getDigests .negotiated g.nextIndex (.digests (Config.deviceDigest 0)) ∧
        answers (.getCertificate off len) .negotiated g.nextIndex (.certificate off len) ∧
        (g.nextIndex < 2 ^ 40 → answers (.challenge nonce) .negotiated (g.nextIndex + 1) (.challengeAuth g.nextIndex nonce) ∧
          ∃ l, answers (.getMeasurements nonce) .negotiated (g.nextIndex + 1) (.measurements g.nextIndex nonce
            [(1, Config.deviceDigest 1), (2, Config.imageHash 0), (2, Config.imageHash 1), (2, Config.imageHash 2), (3, Config.deviceDigest 2),
              (4, Config.digestOf l)])) ∧
        (2 ^ 40 ≤ g.nextIndex → answers (.challenge nonce) .negotiated g.nextIndex .error ∧ answers (.getMeasurements nonce) .negotiated g.nextIndex .error)) ∧
      (g.spdm ≠ .negotiated → answers .getDigests g.spdm g.nextIndex .error ∧ answers (.getCertificate off len) g.spdm g.nextIndex .error ∧
        answers (.challenge nonce) g.spdm g.nextIndex .error ∧ answers (.getMeasurements nonce) g.spdm g.nextIndex .error))) ∧
  (
    ∀ (s : State) (packet : Nat) (cores : BitVec 64) (shape : MeshShape) (port : Fin 24) (flit : Flit) (seq : BitVec 12),
      let p := s.ports.get port
      let becomes (i : Instr) (p' : Port) : Prop := exec i s = .next { s with ports := s.ports.set port p' }
      (∃ aged, exec (.packetAgeEscalation packet) s = .next { s with aged := aged } ∧ ∀ x, x ∈ aged ↔ x = packet ∨ x ∈ s.aged) ∧
      let taken (w : Who) : Prop := cores.getLsbD w.core.val = true ∨ ∃ m, m ∈ s.mesh ∧ m.1 &&& cores ≠ 0 ∧ m.1.getLsbD w.core.val = true
      ((∀ w : Who, taken w → s.kernelRuns w = false) →
        ∃ mesh, exec (.meshRestitch cores shape) s = .next { s with mesh := mesh } ∧ (cores, shape) ∈ mesh ∧
          ∀ m, m ∈ mesh → m = (cores, shape) ∨ (m ∈ s.mesh ∧ m.1 &&& cores = 0)) ∧
      ((∃ w : Who, taken w ∧ s.kernelRuns w = true) → exec (.meshRestitch cores shape) s = .next s) ∧
      (p.up = true → flit.crcGood = true → flit.seq = p.rxNext →
        let left := p.unacked.filter (fun q => decide ((flit.acks - q).toNat ≥ 2048))
        ((∀ q, p.resent = some q → q ∈ left) → becomes (.lamefFlitReceive port flit) { p with
          rxNext := p.rxNext + 1
          rejected := none
          unacked := left }) ∧
        (∀ q, p.resent = some q → q ∉ left → becomes (.lamefFlitReceive port flit) { p with
          rxNext := p.rxNext + 1
          rejected := none
          unacked := left
          resent := none
          replays := 0 })) ∧
      (p.up = true → (flit.crcGood = false ∨ flit.seq ≠ p.rxNext) → becomes (.lamefFlitReceive port flit) { p with rejected := some p.rxNext }) ∧
      (p.up = true → seq ∈ p.unacked → p.resent = some seq → becomes (.lamefFlitReplay port seq) { p with replays := min 8 (p.replays + 1) }) ∧
      (p.up = true → seq ∈ p.unacked → p.resent ≠ some seq → becomes (.lamefFlitReplay port seq) { p with
        resent := some seq
        replays := 1 }) ∧
      (seq ∉ p.unacked → exec (.lamefFlitReplay port seq) s = .next s) ∧
      (p.up = false → exec (.lamefFlitReceive port flit) s = .next s ∧ exec (.lamefFlitReplay port seq) s = .next s) ∧
      (p.replays < 8 → exec (.lamefPortDown port) s = .next s) ∧
      (8 ≤ p.replays → ∃ u : State, exec (.lamefPortDown port) s = .next u ∧ (u.ports.get port).up = false ∧ (u.ports.get port).unacked = [] ∧
        u.mem = s.mem ∧ (∀ w, u.hart w = s.hart w) ∧ (∀ j : Fin 24, (s.ports.get j).up = false → j ≠ port → u.ports.get j = s.ports.get j)))

/-! ### The machine as a whole -/

/-- R35, R36, R53, R55, R82, R84: with nothing else due, a step executes the instruction that the word at the current
agent's PC decodes to: from the launch's code in memory for the scalar unit, from its quad's instruction buffer for
a lane thread. A word that does not decode, or that its gate keeps out, is a reserved one. The model's step counters
move beside it, and no load stands open that a store may overtake (log 26). -/
def Obligations.StepRunsTheDecodedInstruction : Prop :=
  ∀ (s : State) (w : Insn), s.agenda = [] → s.order.loads = [] → s.turn ≠ 0 → s.replay = none → s.pace = none → s.me.alive = true →
    let t : State := { s with
      turn := s.turn - 1
      idleTurns := 0 }
    let runs (t : State) : Prop :=
      (gated w s = false → ∀ i, decode w = .ok i → step s = exec i t) ∧
      (gated w s = true → step s = exec (.reservedWord w) t) ∧
      (∀ r, decode w = .error r → step s = exec (.reservedWord w) t)
    (∀ p, s.agent.lane = none → s.me.run = .running → s.me.stream = [] → s.me.late = [] → s.me.xpend = [] → s.me.hardNow = false →
      access t s.who .fetch 4 false s.me.pc = .ok p → (s.me.trap.priv = true ∨ s.inCode s.me s.me.pc.toNat = true) → s.badByte p.key = false →
      w = wordOfBytes (s.byte p.key) (s.byte (p.key + 1)) (s.byte (p.key + 2)) (s.byte (p.key + 3)) → runs (noteWalk s.who s.me.pc t)) ∧
    (∀ l, s.agent.lane = some l → s.me.laneRuns l = true → s.bad = [] → s.pcNow.toNat < 4096 → w = s.bufWord s.who l s.pcNow.toNat → runs t)

/-- R37 to R41, R51, R54, R55: words written out bit by bit from the encoding tables decode to what they stand for, and
words with a bit that must be zero, or with an operation code that no member has, do not decode. -/
def Obligations.DecodingOfWords : Prop :=
  decode 0b000001_00011_00001_00010_000000_00000 = .ok (.add 3 1 2) ∧
  decode 0b000010_00101_00110_1111111111111111 = .ok (.addi 5 6 0xFFFF) ∧
  decode 0b010110_00000000000000000000001000 = .ok (.j 8) ∧
  decode 0b011011_00000_00000_00000_000000_00010 = .ok .brk ∧
  decode 0b100010_00100_01000_01100_000_011_00000 = .ok (.vadd 4 8 12 0 3) ∧
  decode 0b111011_00000_00000_00000_000000_00000 = .ok .tret ∧
  (decode 0b000001_00011_00001_00010_000001_00000).toOption = none ∧ (decode 0).toOption = none

/-- R37, R39 to R41, R51, R54: the word of every well-formed instruction decodes to that instruction, with every operand
at every value that its field holds. -/
def Obligations.DecodeOfEncode : Prop :=
  ∀ (i : Instr) (w : Insn), i.wellFormed = true → encode i = some w → decode w = .ok i

/-- The invariant of a run is kept by every step, whatever the state (log 3, the model's form of memory). -/
def Obligations.StepKeepsTheInvariant : Prop :=
  ∀ (s t : State), s.Inv → step s = .next t → t.Inv

/-- R24, R310, R353: the device right after reset meets the invariant, with zeroed memory, nothing under way, and in D0;
that host and remote memory reads 0 too is the model's choice (log 3, DESIGN CHOICE). A hart that a launch starts
has its registers as R24 lists them, and GRANTCEIL.CTRL 32 (log 29, DEDUCED). -/
def Obligations.ResetAndHartStart : Prop :=
  State.reset.Inv ∧ (∀ k, Memory.read State.reset.mem k = 0) ∧ State.reset.power = .d0 ∧ State.reset.launches = [] ∧
  State.reset.queues = [] ∧ State.reset.stores = [] ∧ State.reset.bad = [] ∧ (∀ w, (State.reset.hart w).launch = none) ∧
  (∀ (l : Launch) (t : Tenant) (n segs : Nat),
    let h := l.hart t n segs
    h.pc = l.entry ∧ h.xu = (Vector.replicate 32 0).set 2 l.args ∧ h.v = Vector.replicate 32 0 ∧ h.m = Vector.replicate 8 0 ∧
    h.vtype = 0x8000000000000000 ∧ h.vl = 0 ∧ h.vstart = 0 ∧ h.kvstart = 0 ∧ h.fcr = 0x10 ∧ h.fflags = 0 ∧
    (∀ k, (h.loop k).cnt = 0) ∧ (∀ i, (h.win i).st = .unbound) ∧ (∀ i, (h.iter i).st = .free) ∧ (∀ c, (h.kv.get c).root = 0) ∧
    h.q0 = [] ∧ h.q1 = [] ∧ h.lq = [] ∧ h.tlre = 0 ∧ h.tlit = 0 ∧ h.tlkv = 0 ∧ h.tlxc = 0 ∧ h.tlln = 0 ∧ h.lanes = n ∧ h.avail = n ∧
    h.sup.ceilCtrl = 32 ∧ h.sup.ceilSup = 0xFFFF ∧ h.trap.priv = false)
end

