-- ==== Sys2Proof/Laws/State.lean ====
section
/-!
SUPPORT. One lemma for each field under each update of the state, a core and a hart, and the read of what an update
wrote, so that no proof unfolds a record update.
-/

namespace Sys2Proof.Machine

/-! ### Fields of the state under its updates -/

@[simp] theorem State.setCore_mem (s : State) (c : CoreId) (k : Core) : ((s).setCore c k).mem = s.mem := rfl
@[simp] theorem State.setCore_stores (s : State) (c : CoreId) (k : Core) : ((s).setCore c k).stores = s.stores := rfl
@[simp] theorem State.setCore_order (s : State) (c : CoreId) (k : Core) : ((s).setCore c k).order = s.order := rfl
@[simp] theorem State.setCore_mmio (s : State) (c : CoreId) (k : Core) : ((s).setCore c k).mmio = s.mmio := rfl
@[simp] theorem State.setCore_nextId (s : State) (c : CoreId) (k : Core) : ((s).setCore c k).nextId = s.nextId := rfl
@[simp] theorem State.setCore_owners (s : State) (c : CoreId) (k : Core) : ((s).setCore c k).owners = s.owners := rfl
@[simp] theorem State.setCore_parts (s : State) (c : CoreId) (k : Core) : ((s).setCore c k).parts = s.parts := rfl
@[simp] theorem State.setCore_tenants (s : State) (c : CoreId) (k : Core) : ((s).setCore c k).tenants = s.tenants := rfl
@[simp] theorem State.setCore_queues (s : State) (c : CoreId) (k : Core) : ((s).setCore c k).queues = s.queues := rfl
@[simp] theorem State.setCore_launches (s : State) (c : CoreId) (k : Core) : ((s).setCore c k).launches = s.launches := rfl
@[simp] theorem State.setCore_pool (s : State) (c : CoreId) (k : Core) : ((s).setCore c k).pool = s.pool := rfl
@[simp] theorem State.setCore_transfers (s : State) (c : CoreId) (k : Core) : ((s).setCore c k).transfers = s.transfers := rfl
@[simp] theorem State.setCore_saved (s : State) (c : CoreId) (k : Core) : ((s).setCore c k).saved = s.saved := rfl
@[simp] theorem State.setCore_pageReqs (s : State) (c : CoreId) (k : Core) : ((s).setCore c k).pageReqs = s.pageReqs := rfl
@[simp] theorem State.setCore_pageWait (s : State) (c : CoreId) (k : Core) : ((s).setCore c k).pageWait = s.pageWait := rfl
@[simp] theorem State.setCore_pageDrops (s : State) (c : CoreId) (k : Core) : ((s).setCore c k).pageDrops = s.pageDrops := rfl
@[simp] theorem State.setCore_pageFail (s : State) (c : CoreId) (k : Core) : ((s).setCore c k).pageFail = s.pageFail := rfl
@[simp] theorem State.setCore_refused (s : State) (c : CoreId) (k : Core) : ((s).setCore c k).refused = s.refused := rfl
@[simp] theorem State.setCore_grants (s : State) (c : CoreId) (k : Core) : ((s).setCore c k).grants = s.grants := rfl
@[simp] theorem State.setCore_atsCache (s : State) (c : CoreId) (k : Core) : ((s).setCore c k).atsCache = s.atsCache := rfl
@[simp] theorem State.setCore_msix (s : State) (c : CoreId) (k : Core) : ((s).setCore c k).msix = s.msix := rfl
@[simp] theorem State.setCore_ports (s : State) (c : CoreId) (k : Core) : ((s).setCore c k).ports = s.ports := rfl
@[simp] theorem State.setCore_ringMail (s : State) (c : CoreId) (k : Core) : ((s).setCore c k).ringMail = s.ringMail := rfl
@[simp] theorem State.setCore_aged (s : State) (c : CoreId) (k : Core) : ((s).setCore c k).aged = s.aged := rfl
@[simp] theorem State.setCore_mesh (s : State) (c : CoreId) (k : Core) : ((s).setCore c k).mesh = s.mesh := rfl
@[simp] theorem State.setCore_dev (s : State) (c : CoreId) (k : Core) : ((s).setCore c k).dev = s.dev := rfl
@[simp] theorem State.setCore_bad (s : State) (c : CoreId) (k : Core) : ((s).setCore c k).bad = s.bad := rfl
@[simp] theorem State.setCore_corrected (s : State) (c : CoreId) (k : Core) : ((s).setCore c k).corrected = s.corrected := rfl
@[simp] theorem State.setCore_sage (s : State) (c : CoreId) (k : Core) : ((s).setCore c k).sage = s.sage := rfl
@[simp] theorem State.setCore_power (s : State) (c : CoreId) (k : Core) : ((s).setCore c k).power = s.power := rfl
@[simp] theorem State.setCore_bar0 (s : State) (c : CoreId) (k : Core) : ((s).setCore c k).bar0 = s.bar0 := rfl
@[simp] theorem State.setCore_config (s : State) (c : CoreId) (k : Core) : ((s).setCore c k).config = s.config := rfl
@[simp] theorem State.setCore_powerCap (s : State) (c : CoreId) (k : Core) : ((s).setCore c k).powerCap = s.powerCap := rfl
@[simp] theorem State.setCore_agent (s : State) (c : CoreId) (k : Core) : ((s).setCore c k).agent = s.agent := rfl
@[simp] theorem State.setCore_agenda (s : State) (c : CoreId) (k : Core) : ((s).setCore c k).agenda = s.agenda := rfl
@[simp] theorem State.setCore_turn (s : State) (c : CoreId) (k : Core) : ((s).setCore c k).turn = s.turn := rfl
@[simp] theorem State.setCore_idleTurns (s : State) (c : CoreId) (k : Core) : ((s).setCore c k).idleTurns = s.idleTurns := rfl
@[simp] theorem State.setCore_replay (s : State) (c : CoreId) (k : Core) : ((s).setCore c k).replay = s.replay := rfl
@[simp] theorem State.setCore_pace (s : State) (c : CoreId) (k : Core) : ((s).setCore c k).pace = s.pace := rfl
@[simp] theorem State.setCore_cycle (s : State) (c : CoreId) (k : Core) : ((s).setCore c k).cycle = s.cycle := rfl
@[simp] theorem State.setCore_cycleBy (s : State) (c : CoreId) (k : Core) : ((s).setCore c k).cycleBy = s.cycleBy := rfl
@[simp] theorem State.setCore_fresh (s : State) (c : CoreId) (k : Core) : ((s).setCore c k).fresh = s.fresh := rfl
@[simp] theorem State.setHart_mem (s : State) (w : Who) (h : Hart) : ((s).setHart w h).mem = s.mem := rfl
@[simp] theorem State.setHart_stores (s : State) (w : Who) (h : Hart) : ((s).setHart w h).stores = s.stores := rfl
@[simp] theorem State.setHart_order (s : State) (w : Who) (h : Hart) : ((s).setHart w h).order = s.order := rfl
@[simp] theorem State.setHart_mmio (s : State) (w : Who) (h : Hart) : ((s).setHart w h).mmio = s.mmio := rfl
@[simp] theorem State.setHart_nextId (s : State) (w : Who) (h : Hart) : ((s).setHart w h).nextId = s.nextId := rfl
@[simp] theorem State.setHart_owners (s : State) (w : Who) (h : Hart) : ((s).setHart w h).owners = s.owners := rfl
@[simp] theorem State.setHart_parts (s : State) (w : Who) (h : Hart) : ((s).setHart w h).parts = s.parts := rfl
@[simp] theorem State.setHart_tenants (s : State) (w : Who) (h : Hart) : ((s).setHart w h).tenants = s.tenants := rfl
@[simp] theorem State.setHart_queues (s : State) (w : Who) (h : Hart) : ((s).setHart w h).queues = s.queues := rfl
@[simp] theorem State.setHart_launches (s : State) (w : Who) (h : Hart) : ((s).setHart w h).launches = s.launches := rfl
@[simp] theorem State.setHart_pool (s : State) (w : Who) (h : Hart) : ((s).setHart w h).pool = s.pool := rfl
@[simp] theorem State.setHart_transfers (s : State) (w : Who) (h : Hart) : ((s).setHart w h).transfers = s.transfers := rfl
@[simp] theorem State.setHart_saved (s : State) (w : Who) (h : Hart) : ((s).setHart w h).saved = s.saved := rfl
@[simp] theorem State.setHart_pageReqs (s : State) (w : Who) (h : Hart) : ((s).setHart w h).pageReqs = s.pageReqs := rfl
@[simp] theorem State.setHart_pageWait (s : State) (w : Who) (h : Hart) : ((s).setHart w h).pageWait = s.pageWait := rfl
@[simp] theorem State.setHart_pageDrops (s : State) (w : Who) (h : Hart) : ((s).setHart w h).pageDrops = s.pageDrops := rfl
@[simp] theorem State.setHart_pageFail (s : State) (w : Who) (h : Hart) : ((s).setHart w h).pageFail = s.pageFail := rfl
@[simp] theorem State.setHart_refused (s : State) (w : Who) (h : Hart) : ((s).setHart w h).refused = s.refused := rfl
@[simp] theorem State.setHart_grants (s : State) (w : Who) (h : Hart) : ((s).setHart w h).grants = s.grants := rfl
@[simp] theorem State.setHart_atsCache (s : State) (w : Who) (h : Hart) : ((s).setHart w h).atsCache = s.atsCache := rfl
@[simp] theorem State.setHart_msix (s : State) (w : Who) (h : Hart) : ((s).setHart w h).msix = s.msix := rfl
@[simp] theorem State.setHart_ports (s : State) (w : Who) (h : Hart) : ((s).setHart w h).ports = s.ports := rfl
@[simp] theorem State.setHart_ringMail (s : State) (w : Who) (h : Hart) : ((s).setHart w h).ringMail = s.ringMail := rfl
@[simp] theorem State.setHart_aged (s : State) (w : Who) (h : Hart) : ((s).setHart w h).aged = s.aged := rfl
@[simp] theorem State.setHart_mesh (s : State) (w : Who) (h : Hart) : ((s).setHart w h).mesh = s.mesh := rfl
@[simp] theorem State.setHart_dev (s : State) (w : Who) (h : Hart) : ((s).setHart w h).dev = s.dev := rfl
@[simp] theorem State.setHart_bad (s : State) (w : Who) (h : Hart) : ((s).setHart w h).bad = s.bad := rfl
@[simp] theorem State.setHart_corrected (s : State) (w : Who) (h : Hart) : ((s).setHart w h).corrected = s.corrected := rfl
@[simp] theorem State.setHart_sage (s : State) (w : Who) (h : Hart) : ((s).setHart w h).sage = s.sage := rfl
@[simp] theorem State.setHart_power (s : State) (w : Who) (h : Hart) : ((s).setHart w h).power = s.power := rfl
@[simp] theorem State.setHart_bar0 (s : State) (w : Who) (h : Hart) : ((s).setHart w h).bar0 = s.bar0 := rfl
@[simp] theorem State.setHart_config (s : State) (w : Who) (h : Hart) : ((s).setHart w h).config = s.config := rfl
@[simp] theorem State.setHart_powerCap (s : State) (w : Who) (h : Hart) : ((s).setHart w h).powerCap = s.powerCap := rfl
@[simp] theorem State.setHart_agent (s : State) (w : Who) (h : Hart) : ((s).setHart w h).agent = s.agent := rfl
@[simp] theorem State.setHart_agenda (s : State) (w : Who) (h : Hart) : ((s).setHart w h).agenda = s.agenda := rfl
@[simp] theorem State.setHart_turn (s : State) (w : Who) (h : Hart) : ((s).setHart w h).turn = s.turn := rfl
@[simp] theorem State.setHart_idleTurns (s : State) (w : Who) (h : Hart) : ((s).setHart w h).idleTurns = s.idleTurns := rfl
@[simp] theorem State.setHart_replay (s : State) (w : Who) (h : Hart) : ((s).setHart w h).replay = s.replay := rfl
@[simp] theorem State.setHart_pace (s : State) (w : Who) (h : Hart) : ((s).setHart w h).pace = s.pace := rfl
@[simp] theorem State.setHart_cycle (s : State) (w : Who) (h : Hart) : ((s).setHart w h).cycle = s.cycle := rfl
@[simp] theorem State.setHart_cycleBy (s : State) (w : Who) (h : Hart) : ((s).setHart w h).cycleBy = s.cycleBy := rfl
@[simp] theorem State.setHart_fresh (s : State) (w : Who) (h : Hart) : ((s).setHart w h).fresh = s.fresh := rfl
@[simp] theorem State.setMe_mem (s : State) (h : Hart) : ((s).setMe h).mem = s.mem := rfl
@[simp] theorem State.setMe_stores (s : State) (h : Hart) : ((s).setMe h).stores = s.stores := rfl
@[simp] theorem State.setMe_order (s : State) (h : Hart) : ((s).setMe h).order = s.order := rfl
@[simp] theorem State.setMe_mmio (s : State) (h : Hart) : ((s).setMe h).mmio = s.mmio := rfl
@[simp] theorem State.setMe_nextId (s : State) (h : Hart) : ((s).setMe h).nextId = s.nextId := rfl
@[simp] theorem State.setMe_owners (s : State) (h : Hart) : ((s).setMe h).owners = s.owners := rfl
@[simp] theorem State.setMe_parts (s : State) (h : Hart) : ((s).setMe h).parts = s.parts := rfl
@[simp] theorem State.setMe_tenants (s : State) (h : Hart) : ((s).setMe h).tenants = s.tenants := rfl
@[simp] theorem State.setMe_queues (s : State) (h : Hart) : ((s).setMe h).queues = s.queues := rfl
@[simp] theorem State.setMe_launches (s : State) (h : Hart) : ((s).setMe h).launches = s.launches := rfl
@[simp] theorem State.setMe_pool (s : State) (h : Hart) : ((s).setMe h).pool = s.pool := rfl
@[simp] theorem State.setMe_transfers (s : State) (h : Hart) : ((s).setMe h).transfers = s.transfers := rfl
@[simp] theorem State.setMe_saved (s : State) (h : Hart) : ((s).setMe h).saved = s.saved := rfl
@[simp] theorem State.setMe_pageReqs (s : State) (h : Hart) : ((s).setMe h).pageReqs = s.pageReqs := rfl
@[simp] theorem State.setMe_pageWait (s : State) (h : Hart) : ((s).setMe h).pageWait = s.pageWait := rfl
@[simp] theorem State.setMe_pageDrops (s : State) (h : Hart) : ((s).setMe h).pageDrops = s.pageDrops := rfl
@[simp] theorem State.setMe_pageFail (s : State) (h : Hart) : ((s).setMe h).pageFail = s.pageFail := rfl
@[simp] theorem State.setMe_refused (s : State) (h : Hart) : ((s).setMe h).refused = s.refused := rfl
@[simp] theorem State.setMe_grants (s : State) (h : Hart) : ((s).setMe h).grants = s.grants := rfl
@[simp] theorem State.setMe_atsCache (s : State) (h : Hart) : ((s).setMe h).atsCache = s.atsCache := rfl
@[simp] theorem State.setMe_msix (s : State) (h : Hart) : ((s).setMe h).msix = s.msix := rfl
@[simp] theorem State.setMe_ports (s : State) (h : Hart) : ((s).setMe h).ports = s.ports := rfl
@[simp] theorem State.setMe_ringMail (s : State) (h : Hart) : ((s).setMe h).ringMail = s.ringMail := rfl
@[simp] theorem State.setMe_aged (s : State) (h : Hart) : ((s).setMe h).aged = s.aged := rfl
@[simp] theorem State.setMe_mesh (s : State) (h : Hart) : ((s).setMe h).mesh = s.mesh := rfl
@[simp] theorem State.setMe_dev (s : State) (h : Hart) : ((s).setMe h).dev = s.dev := rfl
@[simp] theorem State.setMe_bad (s : State) (h : Hart) : ((s).setMe h).bad = s.bad := rfl
@[simp] theorem State.setMe_corrected (s : State) (h : Hart) : ((s).setMe h).corrected = s.corrected := rfl
@[simp] theorem State.setMe_sage (s : State) (h : Hart) : ((s).setMe h).sage = s.sage := rfl
@[simp] theorem State.setMe_power (s : State) (h : Hart) : ((s).setMe h).power = s.power := rfl
@[simp] theorem State.setMe_bar0 (s : State) (h : Hart) : ((s).setMe h).bar0 = s.bar0 := rfl
@[simp] theorem State.setMe_config (s : State) (h : Hart) : ((s).setMe h).config = s.config := rfl
@[simp] theorem State.setMe_powerCap (s : State) (h : Hart) : ((s).setMe h).powerCap = s.powerCap := rfl
@[simp] theorem State.setMe_agent (s : State) (h : Hart) : ((s).setMe h).agent = s.agent := rfl
@[simp] theorem State.setMe_agenda (s : State) (h : Hart) : ((s).setMe h).agenda = s.agenda := rfl
@[simp] theorem State.setMe_turn (s : State) (h : Hart) : ((s).setMe h).turn = s.turn := rfl
@[simp] theorem State.setMe_idleTurns (s : State) (h : Hart) : ((s).setMe h).idleTurns = s.idleTurns := rfl
@[simp] theorem State.setMe_replay (s : State) (h : Hart) : ((s).setMe h).replay = s.replay := rfl
@[simp] theorem State.setMe_pace (s : State) (h : Hart) : ((s).setMe h).pace = s.pace := rfl
@[simp] theorem State.setMe_cycle (s : State) (h : Hart) : ((s).setMe h).cycle = s.cycle := rfl
@[simp] theorem State.setMe_cycleBy (s : State) (h : Hart) : ((s).setMe h).cycleBy = s.cycleBy := rfl
@[simp] theorem State.setMe_fresh (s : State) (h : Hart) : ((s).setMe h).fresh = s.fresh := rfl
@[simp] theorem State.modHart_mem (s : State) (w : Who) (f : Hart → Hart) : ((s).modHart w f).mem = s.mem := rfl
@[simp] theorem State.modHart_stores (s : State) (w : Who) (f : Hart → Hart) : ((s).modHart w f).stores = s.stores := rfl
@[simp] theorem State.modHart_order (s : State) (w : Who) (f : Hart → Hart) : ((s).modHart w f).order = s.order := rfl
@[simp] theorem State.modHart_mmio (s : State) (w : Who) (f : Hart → Hart) : ((s).modHart w f).mmio = s.mmio := rfl
@[simp] theorem State.modHart_nextId (s : State) (w : Who) (f : Hart → Hart) : ((s).modHart w f).nextId = s.nextId := rfl
@[simp] theorem State.modHart_owners (s : State) (w : Who) (f : Hart → Hart) : ((s).modHart w f).owners = s.owners := rfl
@[simp] theorem State.modHart_parts (s : State) (w : Who) (f : Hart → Hart) : ((s).modHart w f).parts = s.parts := rfl
@[simp] theorem State.modHart_tenants (s : State) (w : Who) (f : Hart → Hart) : ((s).modHart w f).tenants = s.tenants := rfl
@[simp] theorem State.modHart_queues (s : State) (w : Who) (f : Hart → Hart) : ((s).modHart w f).queues = s.queues := rfl
@[simp] theorem State.modHart_launches (s : State) (w : Who) (f : Hart → Hart) : ((s).modHart w f).launches = s.launches := rfl
@[simp] theorem State.modHart_pool (s : State) (w : Who) (f : Hart → Hart) : ((s).modHart w f).pool = s.pool := rfl
@[simp] theorem State.modHart_transfers (s : State) (w : Who) (f : Hart → Hart) : ((s).modHart w f).transfers = s.transfers := rfl
@[simp] theorem State.modHart_saved (s : State) (w : Who) (f : Hart → Hart) : ((s).modHart w f).saved = s.saved := rfl
@[simp] theorem State.modHart_pageReqs (s : State) (w : Who) (f : Hart → Hart) : ((s).modHart w f).pageReqs = s.pageReqs := rfl
@[simp] theorem State.modHart_pageWait (s : State) (w : Who) (f : Hart → Hart) : ((s).modHart w f).pageWait = s.pageWait := rfl
@[simp] theorem State.modHart_pageDrops (s : State) (w : Who) (f : Hart → Hart) : ((s).modHart w f).pageDrops = s.pageDrops := rfl
@[simp] theorem State.modHart_pageFail (s : State) (w : Who) (f : Hart → Hart) : ((s).modHart w f).pageFail = s.pageFail := rfl
@[simp] theorem State.modHart_refused (s : State) (w : Who) (f : Hart → Hart) : ((s).modHart w f).refused = s.refused := rfl
@[simp] theorem State.modHart_grants (s : State) (w : Who) (f : Hart → Hart) : ((s).modHart w f).grants = s.grants := rfl
@[simp] theorem State.modHart_atsCache (s : State) (w : Who) (f : Hart → Hart) : ((s).modHart w f).atsCache = s.atsCache := rfl
@[simp] theorem State.modHart_msix (s : State) (w : Who) (f : Hart → Hart) : ((s).modHart w f).msix = s.msix := rfl
@[simp] theorem State.modHart_ports (s : State) (w : Who) (f : Hart → Hart) : ((s).modHart w f).ports = s.ports := rfl
@[simp] theorem State.modHart_ringMail (s : State) (w : Who) (f : Hart → Hart) : ((s).modHart w f).ringMail = s.ringMail := rfl
@[simp] theorem State.modHart_aged (s : State) (w : Who) (f : Hart → Hart) : ((s).modHart w f).aged = s.aged := rfl
@[simp] theorem State.modHart_mesh (s : State) (w : Who) (f : Hart → Hart) : ((s).modHart w f).mesh = s.mesh := rfl
@[simp] theorem State.modHart_dev (s : State) (w : Who) (f : Hart → Hart) : ((s).modHart w f).dev = s.dev := rfl
@[simp] theorem State.modHart_bad (s : State) (w : Who) (f : Hart → Hart) : ((s).modHart w f).bad = s.bad := rfl
@[simp] theorem State.modHart_corrected (s : State) (w : Who) (f : Hart → Hart) : ((s).modHart w f).corrected = s.corrected := rfl
@[simp] theorem State.modHart_sage (s : State) (w : Who) (f : Hart → Hart) : ((s).modHart w f).sage = s.sage := rfl
@[simp] theorem State.modHart_power (s : State) (w : Who) (f : Hart → Hart) : ((s).modHart w f).power = s.power := rfl
@[simp] theorem State.modHart_bar0 (s : State) (w : Who) (f : Hart → Hart) : ((s).modHart w f).bar0 = s.bar0 := rfl
@[simp] theorem State.modHart_config (s : State) (w : Who) (f : Hart → Hart) : ((s).modHart w f).config = s.config := rfl
@[simp] theorem State.modHart_powerCap (s : State) (w : Who) (f : Hart → Hart) : ((s).modHart w f).powerCap = s.powerCap := rfl
@[simp] theorem State.modHart_agent (s : State) (w : Who) (f : Hart → Hart) : ((s).modHart w f).agent = s.agent := rfl
@[simp] theorem State.modHart_agenda (s : State) (w : Who) (f : Hart → Hart) : ((s).modHart w f).agenda = s.agenda := rfl
@[simp] theorem State.modHart_turn (s : State) (w : Who) (f : Hart → Hart) : ((s).modHart w f).turn = s.turn := rfl
@[simp] theorem State.modHart_idleTurns (s : State) (w : Who) (f : Hart → Hart) : ((s).modHart w f).idleTurns = s.idleTurns := rfl
@[simp] theorem State.modHart_replay (s : State) (w : Who) (f : Hart → Hart) : ((s).modHart w f).replay = s.replay := rfl
@[simp] theorem State.modHart_pace (s : State) (w : Who) (f : Hart → Hart) : ((s).modHart w f).pace = s.pace := rfl
@[simp] theorem State.modHart_cycle (s : State) (w : Who) (f : Hart → Hart) : ((s).modHart w f).cycle = s.cycle := rfl
@[simp] theorem State.modHart_cycleBy (s : State) (w : Who) (f : Hart → Hart) : ((s).modHart w f).cycleBy = s.cycleBy := rfl
@[simp] theorem State.modHart_fresh (s : State) (w : Who) (f : Hart → Hart) : ((s).modHart w f).fresh = s.fresh := rfl
@[simp] theorem State.modMe_mem (s : State) (f : Hart → Hart) : ((s).modMe f).mem = s.mem := rfl
@[simp] theorem State.modMe_stores (s : State) (f : Hart → Hart) : ((s).modMe f).stores = s.stores := rfl
@[simp] theorem State.modMe_order (s : State) (f : Hart → Hart) : ((s).modMe f).order = s.order := rfl
@[simp] theorem State.modMe_mmio (s : State) (f : Hart → Hart) : ((s).modMe f).mmio = s.mmio := rfl
@[simp] theorem State.modMe_nextId (s : State) (f : Hart → Hart) : ((s).modMe f).nextId = s.nextId := rfl
@[simp] theorem State.modMe_owners (s : State) (f : Hart → Hart) : ((s).modMe f).owners = s.owners := rfl
@[simp] theorem State.modMe_parts (s : State) (f : Hart → Hart) : ((s).modMe f).parts = s.parts := rfl
@[simp] theorem State.modMe_tenants (s : State) (f : Hart → Hart) : ((s).modMe f).tenants = s.tenants := rfl
@[simp] theorem State.modMe_queues (s : State) (f : Hart → Hart) : ((s).modMe f).queues = s.queues := rfl
@[simp] theorem State.modMe_launches (s : State) (f : Hart → Hart) : ((s).modMe f).launches = s.launches := rfl
@[simp] theorem State.modMe_pool (s : State) (f : Hart → Hart) : ((s).modMe f).pool = s.pool := rfl
@[simp] theorem State.modMe_transfers (s : State) (f : Hart → Hart) : ((s).modMe f).transfers = s.transfers := rfl
@[simp] theorem State.modMe_saved (s : State) (f : Hart → Hart) : ((s).modMe f).saved = s.saved := rfl
@[simp] theorem State.modMe_pageReqs (s : State) (f : Hart → Hart) : ((s).modMe f).pageReqs = s.pageReqs := rfl
@[simp] theorem State.modMe_pageWait (s : State) (f : Hart → Hart) : ((s).modMe f).pageWait = s.pageWait := rfl
@[simp] theorem State.modMe_pageDrops (s : State) (f : Hart → Hart) : ((s).modMe f).pageDrops = s.pageDrops := rfl
@[simp] theorem State.modMe_pageFail (s : State) (f : Hart → Hart) : ((s).modMe f).pageFail = s.pageFail := rfl
@[simp] theorem State.modMe_refused (s : State) (f : Hart → Hart) : ((s).modMe f).refused = s.refused := rfl
@[simp] theorem State.modMe_grants (s : State) (f : Hart → Hart) : ((s).modMe f).grants = s.grants := rfl
@[simp] theorem State.modMe_atsCache (s : State) (f : Hart → Hart) : ((s).modMe f).atsCache = s.atsCache := rfl
@[simp] theorem State.modMe_msix (s : State) (f : Hart → Hart) : ((s).modMe f).msix = s.msix := rfl
@[simp] theorem State.modMe_ports (s : State) (f : Hart → Hart) : ((s).modMe f).ports = s.ports := rfl
@[simp] theorem State.modMe_ringMail (s : State) (f : Hart → Hart) : ((s).modMe f).ringMail = s.ringMail := rfl
@[simp] theorem State.modMe_aged (s : State) (f : Hart → Hart) : ((s).modMe f).aged = s.aged := rfl
@[simp] theorem State.modMe_mesh (s : State) (f : Hart → Hart) : ((s).modMe f).mesh = s.mesh := rfl
@[simp] theorem State.modMe_dev (s : State) (f : Hart → Hart) : ((s).modMe f).dev = s.dev := rfl
@[simp] theorem State.modMe_bad (s : State) (f : Hart → Hart) : ((s).modMe f).bad = s.bad := rfl
@[simp] theorem State.modMe_corrected (s : State) (f : Hart → Hart) : ((s).modMe f).corrected = s.corrected := rfl
@[simp] theorem State.modMe_sage (s : State) (f : Hart → Hart) : ((s).modMe f).sage = s.sage := rfl
@[simp] theorem State.modMe_power (s : State) (f : Hart → Hart) : ((s).modMe f).power = s.power := rfl
@[simp] theorem State.modMe_bar0 (s : State) (f : Hart → Hart) : ((s).modMe f).bar0 = s.bar0 := rfl
@[simp] theorem State.modMe_config (s : State) (f : Hart → Hart) : ((s).modMe f).config = s.config := rfl
@[simp] theorem State.modMe_powerCap (s : State) (f : Hart → Hart) : ((s).modMe f).powerCap = s.powerCap := rfl
@[simp] theorem State.modMe_agent (s : State) (f : Hart → Hart) : ((s).modMe f).agent = s.agent := rfl
@[simp] theorem State.modMe_agenda (s : State) (f : Hart → Hart) : ((s).modMe f).agenda = s.agenda := rfl
@[simp] theorem State.modMe_turn (s : State) (f : Hart → Hart) : ((s).modMe f).turn = s.turn := rfl
@[simp] theorem State.modMe_idleTurns (s : State) (f : Hart → Hart) : ((s).modMe f).idleTurns = s.idleTurns := rfl
@[simp] theorem State.modMe_replay (s : State) (f : Hart → Hart) : ((s).modMe f).replay = s.replay := rfl
@[simp] theorem State.modMe_pace (s : State) (f : Hart → Hart) : ((s).modMe f).pace = s.pace := rfl
@[simp] theorem State.modMe_cycle (s : State) (f : Hart → Hart) : ((s).modMe f).cycle = s.cycle := rfl
@[simp] theorem State.modMe_cycleBy (s : State) (f : Hart → Hart) : ((s).modMe f).cycleBy = s.cycleBy := rfl
@[simp] theorem State.modMe_fresh (s : State) (f : Hart → Hart) : ((s).modMe f).fresh = s.fresh := rfl
@[simp] theorem State.modCore_mem (s : State) (c : CoreId) (f : Core → Core) : ((s).modCore c f).mem = s.mem := rfl
@[simp] theorem State.modCore_stores (s : State) (c : CoreId) (f : Core → Core) : ((s).modCore c f).stores = s.stores := rfl
@[simp] theorem State.modCore_order (s : State) (c : CoreId) (f : Core → Core) : ((s).modCore c f).order = s.order := rfl
@[simp] theorem State.modCore_mmio (s : State) (c : CoreId) (f : Core → Core) : ((s).modCore c f).mmio = s.mmio := rfl
@[simp] theorem State.modCore_nextId (s : State) (c : CoreId) (f : Core → Core) : ((s).modCore c f).nextId = s.nextId := rfl
@[simp] theorem State.modCore_owners (s : State) (c : CoreId) (f : Core → Core) : ((s).modCore c f).owners = s.owners := rfl
@[simp] theorem State.modCore_parts (s : State) (c : CoreId) (f : Core → Core) : ((s).modCore c f).parts = s.parts := rfl
@[simp] theorem State.modCore_tenants (s : State) (c : CoreId) (f : Core → Core) : ((s).modCore c f).tenants = s.tenants := rfl
@[simp] theorem State.modCore_queues (s : State) (c : CoreId) (f : Core → Core) : ((s).modCore c f).queues = s.queues := rfl
@[simp] theorem State.modCore_launches (s : State) (c : CoreId) (f : Core → Core) : ((s).modCore c f).launches = s.launches := rfl
@[simp] theorem State.modCore_pool (s : State) (c : CoreId) (f : Core → Core) : ((s).modCore c f).pool = s.pool := rfl
@[simp] theorem State.modCore_transfers (s : State) (c : CoreId) (f : Core → Core) : ((s).modCore c f).transfers = s.transfers := rfl
@[simp] theorem State.modCore_saved (s : State) (c : CoreId) (f : Core → Core) : ((s).modCore c f).saved = s.saved := rfl
@[simp] theorem State.modCore_pageReqs (s : State) (c : CoreId) (f : Core → Core) : ((s).modCore c f).pageReqs = s.pageReqs := rfl
@[simp] theorem State.modCore_pageWait (s : State) (c : CoreId) (f : Core → Core) : ((s).modCore c f).pageWait = s.pageWait := rfl
@[simp] theorem State.modCore_pageDrops (s : State) (c : CoreId) (f : Core → Core) : ((s).modCore c f).pageDrops = s.pageDrops := rfl
@[simp] theorem State.modCore_pageFail (s : State) (c : CoreId) (f : Core → Core) : ((s).modCore c f).pageFail = s.pageFail := rfl
@[simp] theorem State.modCore_refused (s : State) (c : CoreId) (f : Core → Core) : ((s).modCore c f).refused = s.refused := rfl
@[simp] theorem State.modCore_grants (s : State) (c : CoreId) (f : Core → Core) : ((s).modCore c f).grants = s.grants := rfl
@[simp] theorem State.modCore_atsCache (s : State) (c : CoreId) (f : Core → Core) : ((s).modCore c f).atsCache = s.atsCache := rfl
@[simp] theorem State.modCore_msix (s : State) (c : CoreId) (f : Core → Core) : ((s).modCore c f).msix = s.msix := rfl
@[simp] theorem State.modCore_ports (s : State) (c : CoreId) (f : Core → Core) : ((s).modCore c f).ports = s.ports := rfl
@[simp] theorem State.modCore_ringMail (s : State) (c : CoreId) (f : Core → Core) : ((s).modCore c f).ringMail = s.ringMail := rfl
@[simp] theorem State.modCore_aged (s : State) (c : CoreId) (f : Core → Core) : ((s).modCore c f).aged = s.aged := rfl
@[simp] theorem State.modCore_mesh (s : State) (c : CoreId) (f : Core → Core) : ((s).modCore c f).mesh = s.mesh := rfl
@[simp] theorem State.modCore_dev (s : State) (c : CoreId) (f : Core → Core) : ((s).modCore c f).dev = s.dev := rfl
@[simp] theorem State.modCore_bad (s : State) (c : CoreId) (f : Core → Core) : ((s).modCore c f).bad = s.bad := rfl
@[simp] theorem State.modCore_corrected (s : State) (c : CoreId) (f : Core → Core) : ((s).modCore c f).corrected = s.corrected := rfl
@[simp] theorem State.modCore_sage (s : State) (c : CoreId) (f : Core → Core) : ((s).modCore c f).sage = s.sage := rfl
@[simp] theorem State.modCore_power (s : State) (c : CoreId) (f : Core → Core) : ((s).modCore c f).power = s.power := rfl
@[simp] theorem State.modCore_bar0 (s : State) (c : CoreId) (f : Core → Core) : ((s).modCore c f).bar0 = s.bar0 := rfl
@[simp] theorem State.modCore_config (s : State) (c : CoreId) (f : Core → Core) : ((s).modCore c f).config = s.config := rfl
@[simp] theorem State.modCore_powerCap (s : State) (c : CoreId) (f : Core → Core) : ((s).modCore c f).powerCap = s.powerCap := rfl
@[simp] theorem State.modCore_agent (s : State) (c : CoreId) (f : Core → Core) : ((s).modCore c f).agent = s.agent := rfl
@[simp] theorem State.modCore_agenda (s : State) (c : CoreId) (f : Core → Core) : ((s).modCore c f).agenda = s.agenda := rfl
@[simp] theorem State.modCore_turn (s : State) (c : CoreId) (f : Core → Core) : ((s).modCore c f).turn = s.turn := rfl
@[simp] theorem State.modCore_idleTurns (s : State) (c : CoreId) (f : Core → Core) : ((s).modCore c f).idleTurns = s.idleTurns := rfl
@[simp] theorem State.modCore_replay (s : State) (c : CoreId) (f : Core → Core) : ((s).modCore c f).replay = s.replay := rfl
@[simp] theorem State.modCore_pace (s : State) (c : CoreId) (f : Core → Core) : ((s).modCore c f).pace = s.pace := rfl
@[simp] theorem State.modCore_cycle (s : State) (c : CoreId) (f : Core → Core) : ((s).modCore c f).cycle = s.cycle := rfl
@[simp] theorem State.modCore_cycleBy (s : State) (c : CoreId) (f : Core → Core) : ((s).modCore c f).cycleBy = s.cycleBy := rfl
@[simp] theorem State.modCore_fresh (s : State) (c : CoreId) (f : Core → Core) : ((s).modCore c f).fresh = s.fresh := rfl

/-! ### Fields of a core under the update of a hart -/

@[simp] theorem Core.setHart_layout (k : Core) (n : HartNum) (h : Hart) : ((k).setHart n h).layout = k.layout := rfl
@[simp] theorem Core.setHart_scratchSize (k : Core) (n : HartNum) (h : Hart) : ((k).setHart n h).scratchSize = k.scratchSize := rfl
@[simp] theorem Core.setHart_scratch (k : Core) (n : HartNum) (h : Hart) : ((k).setHart n h).scratch = k.scratch := rfl
@[simp] theorem Core.setHart_locks (k : Core) (n : HartNum) (h : Hart) : ((k).setHart n h).locks = k.locks := rfl
@[simp] theorem Core.setHart_qbufs (k : Core) (n : HartNum) (h : Hart) : ((k).setHart n h).qbufs = k.qbufs := rfl
@[simp] theorem Core.setHart_matrix (k : Core) (n : HartNum) (h : Hart) : ((k).setHart n h).matrix = k.matrix := rfl
@[simp] theorem Core.setHart_harness (k : Core) (n : HartNum) (h : Hart) : ((k).setHart n h).harness = k.harness := rfl
@[simp] theorem Core.setHart_kvCache (k : Core) (n : HartNum) (h : Hart) : ((k).setHart n h).kvCache = k.kvCache := rfl
@[simp] theorem Core.setHart_ranges (k : Core) (n : HartNum) (h : Hart) : ((k).setHart n h).ranges = k.ranges := rfl
@[simp] theorem Core.setHart_walks (k : Core) (n : HartNum) (h : Hart) : ((k).setHart n h).walks = k.walks := rfl
@[simp] theorem Core.setHart_images (k : Core) (n : HartNum) (h : Hart) : ((k).setHart n h).images = k.images := rfl
@[simp] theorem Core.setHart_user (k : Core) (n : HartNum) (h : Hart) : ((k).setHart n h).user = k.user := rfl

/-! ### Fields of a hart under its updates -/

@[simp] theorem Hart.setVreg_run (h : Hart) (r : Nat) (b : VBits) : ((h).setVreg r b).run = h.run := rfl
@[simp] theorem Hart.setVreg_pc (h : Hart) (r : Nat) (b : VBits) : ((h).setVreg r b).pc = h.pc := rfl
@[simp] theorem Hart.setVreg_xu (h : Hart) (r : Nat) (b : VBits) : ((h).setVreg r b).xu = h.xu := rfl
@[simp] theorem Hart.setVreg_xs (h : Hart) (r : Nat) (b : VBits) : ((h).setVreg r b).xs = h.xs := rfl
@[simp] theorem Hart.setVreg_m (h : Hart) (r : Nat) (b : VBits) : ((h).setVreg r b).m = h.m := rfl
@[simp] theorem Hart.setVreg_vtype (h : Hart) (r : Nat) (b : VBits) : ((h).setVreg r b).vtype = h.vtype := rfl
@[simp] theorem Hart.setVreg_vl (h : Hart) (r : Nat) (b : VBits) : ((h).setVreg r b).vl = h.vl := rfl
@[simp] theorem Hart.setVreg_vstart (h : Hart) (r : Nat) (b : VBits) : ((h).setVreg r b).vstart = h.vstart := rfl
@[simp] theorem Hart.setVreg_epoch (h : Hart) (r : Nat) (b : VBits) : ((h).setVreg r b).epoch = h.epoch := rfl
@[simp] theorem Hart.setVreg_lanes (h : Hart) (r : Nat) (b : VBits) : ((h).setVreg r b).lanes = h.lanes := rfl
@[simp] theorem Hart.setVreg_avail (h : Hart) (r : Nat) (b : VBits) : ((h).setVreg r b).avail = h.avail := rfl
@[simp] theorem Hart.setVreg_segs (h : Hart) (r : Nat) (b : VBits) : ((h).setVreg r b).segs = h.segs := rfl
@[simp] theorem Hart.setVreg_gang (h : Hart) (r : Nat) (b : VBits) : ((h).setVreg r b).gang = h.gang := rfl
@[simp] theorem Hart.setVreg_fcr (h : Hart) (r : Nat) (b : VBits) : ((h).setVreg r b).fcr = h.fcr := rfl
@[simp] theorem Hart.setVreg_fflags (h : Hart) (r : Nat) (b : VBits) : ((h).setVreg r b).fflags = h.fflags := rfl
@[simp] theorem Hart.setVreg_kvstart (h : Hart) (r : Nat) (b : VBits) : ((h).setVreg r b).kvstart = h.kvstart := rfl
@[simp] theorem Hart.setVreg_loops (h : Hart) (r : Nat) (b : VBits) : ((h).setVreg r b).loops = h.loops := rfl
@[simp] theorem Hart.setVreg_active (h : Hart) (r : Nat) (b : VBits) : ((h).setVreg r b).active = h.active := rfl
@[simp] theorem Hart.setVreg_slices (h : Hart) (r : Nat) (b : VBits) : ((h).setVreg r b).slices = h.slices := rfl
@[simp] theorem Hart.setVreg_q0 (h : Hart) (r : Nat) (b : VBits) : ((h).setVreg r b).q0 = h.q0 := rfl
@[simp] theorem Hart.setVreg_owed (h : Hart) (r : Nat) (b : VBits) : ((h).setVreg r b).owed = h.owed := rfl
@[simp] theorem Hart.setVreg_q1 (h : Hart) (r : Nat) (b : VBits) : ((h).setVreg r b).q1 = h.q1 := rfl
@[simp] theorem Hart.setVreg_lq (h : Hart) (r : Nat) (b : VBits) : ((h).setVreg r b).lq = h.lq := rfl
@[simp] theorem Hart.setVreg_tlre (h : Hart) (r : Nat) (b : VBits) : ((h).setVreg r b).tlre = h.tlre := rfl
@[simp] theorem Hart.setVreg_tlit (h : Hart) (r : Nat) (b : VBits) : ((h).setVreg r b).tlit = h.tlit := rfl
@[simp] theorem Hart.setVreg_tlkv (h : Hart) (r : Nat) (b : VBits) : ((h).setVreg r b).tlkv = h.tlkv := rfl
@[simp] theorem Hart.setVreg_tlxc (h : Hart) (r : Nat) (b : VBits) : ((h).setVreg r b).tlxc = h.tlxc := rfl
@[simp] theorem Hart.setVreg_tlln (h : Hart) (r : Nat) (b : VBits) : ((h).setVreg r b).tlln = h.tlln := rfl
@[simp] theorem Hart.setVreg_instret (h : Hart) (r : Nat) (b : VBits) : ((h).setVreg r b).instret = h.instret := rfl
@[simp] theorem Hart.setVreg_capBase (h : Hart) (r : Nat) (b : VBits) : ((h).setVreg r b).capBase = h.capBase := rfl
@[simp] theorem Hart.setVreg_stream (h : Hart) (r : Nat) (b : VBits) : ((h).setVreg r b).stream = h.stream := rfl
@[simp] theorem Hart.setVreg_pulls (h : Hart) (r : Nat) (b : VBits) : ((h).setVreg r b).pulls = h.pulls := rfl
@[simp] theorem Hart.setVreg_late (h : Hart) (r : Nat) (b : VBits) : ((h).setVreg r b).late = h.late := rfl
@[simp] theorem Hart.setVreg_nextSeq (h : Hart) (r : Nat) (b : VBits) : ((h).setVreg r b).nextSeq = h.nextSeq := rfl
@[simp] theorem Hart.setVreg_wins (h : Hart) (r : Nat) (b : VBits) : ((h).setVreg r b).wins = h.wins := rfl
@[simp] theorem Hart.setVreg_reOps (h : Hart) (r : Nat) (b : VBits) : ((h).setVreg r b).reOps = h.reOps := rfl
@[simp] theorem Hart.setVreg_ahead (h : Hart) (r : Nat) (b : VBits) : ((h).setVreg r b).ahead = h.ahead := rfl
@[simp] theorem Hart.setVreg_iters (h : Hart) (r : Nat) (b : VBits) : ((h).setVreg r b).iters = h.iters := rfl
@[simp] theorem Hart.setVreg_itOps (h : Hart) (r : Nat) (b : VBits) : ((h).setVreg r b).itOps = h.itOps := rfl
@[simp] theorem Hart.setVreg_kv (h : Hart) (r : Nat) (b : VBits) : ((h).setVreg r b).kv = h.kv := rfl
@[simp] theorem Hart.setVreg_xops (h : Hart) (r : Nat) (b : VBits) : ((h).setVreg r b).xops = h.xops := rfl
@[simp] theorem Hart.setVreg_xst (h : Hart) (r : Nat) (b : VBits) : ((h).setVreg r b).xst = h.xst := rfl
@[simp] theorem Hart.setVreg_xbound (h : Hart) (r : Nat) (b : VBits) : ((h).setVreg r b).xbound = h.xbound := rfl
@[simp] theorem Hart.setVreg_xpend (h : Hart) (r : Nat) (b : VBits) : ((h).setVreg r b).xpend = h.xpend := rfl
@[simp] theorem Hart.setVreg_revDead (h : Hart) (r : Nat) (b : VBits) : ((h).setVreg r b).revDead = h.revDead := rfl
@[simp] theorem Hart.setVreg_ringDrops (h : Hart) (r : Nat) (b : VBits) : ((h).setVreg r b).ringDrops = h.ringDrops := rfl
@[simp] theorem Hart.setVreg_revDone (h : Hart) (r : Nat) (b : VBits) : ((h).setVreg r b).revDone = h.revDone := rfl
@[simp] theorem Hart.setVreg_slotsLn (h : Hart) (r : Nat) (b : VBits) : ((h).setVreg r b).slotsLn = h.slotsLn := rfl
@[simp] theorem Hart.setVreg_arming (h : Hart) (r : Nat) (b : VBits) : ((h).setVreg r b).arming = h.arming := rfl
@[simp] theorem Hart.setVreg_hbound (h : Hart) (r : Nat) (b : VBits) : ((h).setVreg r b).hbound = h.hbound := rfl
@[simp] theorem Hart.setVreg_mbound (h : Hart) (r : Nat) (b : VBits) : ((h).setVreg r b).mbound = h.mbound := rfl
@[simp] theorem Hart.setVreg_threads (h : Hart) (r : Nat) (b : VBits) : ((h).setVreg r b).threads = h.threads := rfl
@[simp] theorem Hart.setVreg_lib (h : Hart) (r : Nat) (b : VBits) : ((h).setVreg r b).lib = h.lib := rfl
@[simp] theorem Hart.setVreg_sup (h : Hart) (r : Nat) (b : VBits) : ((h).setVreg r b).sup = h.sup := rfl
@[simp] theorem Hart.setVreg_trap (h : Hart) (r : Nat) (b : VBits) : ((h).setVreg r b).trap = h.trap := rfl
@[simp] theorem Hart.setVreg_launch (h : Hart) (r : Nat) (b : VBits) : ((h).setVreg r b).launch = h.launch := rfl
@[simp] theorem Hart.setVreg_place (h : Hart) (r : Nat) (b : VBits) : ((h).setVreg r b).place = h.place := rfl
@[simp] theorem Hart.setVreg_depth (h : Hart) (r : Nat) (b : VBits) : ((h).setVreg r b).depth = h.depth := rfl
@[simp] theorem Hart.setVreg_pasid (h : Hart) (r : Nat) (b : VBits) : ((h).setVreg r b).pasid = h.pasid := rfl
@[simp] theorem Hart.setVreg_fn (h : Hart) (r : Nat) (b : VBits) : ((h).setVreg r b).fn = h.fn := rfl
@[simp] theorem Hart.setVreg_lost (h : Hart) (r : Nat) (b : VBits) : ((h).setVreg r b).lost = h.lost := rfl
@[simp] theorem Hart.setVreg_pageReq (h : Hart) (r : Nat) (b : VBits) : ((h).setVreg r b).pageReq = h.pageReq := rfl
@[simp] theorem Hart.setVreg_victim (h : Hart) (r : Nat) (b : VBits) : ((h).setVreg r b).victim = h.victim := rfl
@[simp] theorem Hart.setVreg_ending (h : Hart) (r : Nat) (b : VBits) : ((h).setVreg r b).ending = h.ending := rfl
@[simp] theorem Hart.setVreg_drawn (h : Hart) (r : Nat) (b : VBits) : ((h).setVreg r b).drawn = h.drawn := rfl
@[simp] theorem Hart.setMreg_run (h : Hart) (m : MReg) (b : VBits) : ((h).setMreg m b).run = h.run := rfl
@[simp] theorem Hart.setMreg_pc (h : Hart) (m : MReg) (b : VBits) : ((h).setMreg m b).pc = h.pc := rfl
@[simp] theorem Hart.setMreg_xu (h : Hart) (m : MReg) (b : VBits) : ((h).setMreg m b).xu = h.xu := rfl
@[simp] theorem Hart.setMreg_xs (h : Hart) (m : MReg) (b : VBits) : ((h).setMreg m b).xs = h.xs := rfl
@[simp] theorem Hart.setMreg_v (h : Hart) (m : MReg) (b : VBits) : ((h).setMreg m b).v = h.v := rfl
@[simp] theorem Hart.setMreg_vtype (h : Hart) (m : MReg) (b : VBits) : ((h).setMreg m b).vtype = h.vtype := rfl
@[simp] theorem Hart.setMreg_vl (h : Hart) (m : MReg) (b : VBits) : ((h).setMreg m b).vl = h.vl := rfl
@[simp] theorem Hart.setMreg_vstart (h : Hart) (m : MReg) (b : VBits) : ((h).setMreg m b).vstart = h.vstart := rfl
@[simp] theorem Hart.setMreg_epoch (h : Hart) (m : MReg) (b : VBits) : ((h).setMreg m b).epoch = h.epoch := rfl
@[simp] theorem Hart.setMreg_lanes (h : Hart) (m : MReg) (b : VBits) : ((h).setMreg m b).lanes = h.lanes := rfl
@[simp] theorem Hart.setMreg_avail (h : Hart) (m : MReg) (b : VBits) : ((h).setMreg m b).avail = h.avail := rfl
@[simp] theorem Hart.setMreg_segs (h : Hart) (m : MReg) (b : VBits) : ((h).setMreg m b).segs = h.segs := rfl
@[simp] theorem Hart.setMreg_gang (h : Hart) (m : MReg) (b : VBits) : ((h).setMreg m b).gang = h.gang := rfl
@[simp] theorem Hart.setMreg_fcr (h : Hart) (m : MReg) (b : VBits) : ((h).setMreg m b).fcr = h.fcr := rfl
@[simp] theorem Hart.setMreg_fflags (h : Hart) (m : MReg) (b : VBits) : ((h).setMreg m b).fflags = h.fflags := rfl
@[simp] theorem Hart.setMreg_kvstart (h : Hart) (m : MReg) (b : VBits) : ((h).setMreg m b).kvstart = h.kvstart := rfl
@[simp] theorem Hart.setMreg_loops (h : Hart) (m : MReg) (b : VBits) : ((h).setMreg m b).loops = h.loops := rfl
@[simp] theorem Hart.setMreg_active (h : Hart) (m : MReg) (b : VBits) : ((h).setMreg m b).active = h.active := rfl
@[simp] theorem Hart.setMreg_slices (h : Hart) (m : MReg) (b : VBits) : ((h).setMreg m b).slices = h.slices := rfl
@[simp] theorem Hart.setMreg_q0 (h : Hart) (m : MReg) (b : VBits) : ((h).setMreg m b).q0 = h.q0 := rfl
@[simp] theorem Hart.setMreg_owed (h : Hart) (m : MReg) (b : VBits) : ((h).setMreg m b).owed = h.owed := rfl
@[simp] theorem Hart.setMreg_q1 (h : Hart) (m : MReg) (b : VBits) : ((h).setMreg m b).q1 = h.q1 := rfl
@[simp] theorem Hart.setMreg_lq (h : Hart) (m : MReg) (b : VBits) : ((h).setMreg m b).lq = h.lq := rfl
@[simp] theorem Hart.setMreg_tlre (h : Hart) (m : MReg) (b : VBits) : ((h).setMreg m b).tlre = h.tlre := rfl
@[simp] theorem Hart.setMreg_tlit (h : Hart) (m : MReg) (b : VBits) : ((h).setMreg m b).tlit = h.tlit := rfl
@[simp] theorem Hart.setMreg_tlkv (h : Hart) (m : MReg) (b : VBits) : ((h).setMreg m b).tlkv = h.tlkv := rfl
@[simp] theorem Hart.setMreg_tlxc (h : Hart) (m : MReg) (b : VBits) : ((h).setMreg m b).tlxc = h.tlxc := rfl
@[simp] theorem Hart.setMreg_tlln (h : Hart) (m : MReg) (b : VBits) : ((h).setMreg m b).tlln = h.tlln := rfl
@[simp] theorem Hart.setMreg_instret (h : Hart) (m : MReg) (b : VBits) : ((h).setMreg m b).instret = h.instret := rfl
@[simp] theorem Hart.setMreg_capBase (h : Hart) (m : MReg) (b : VBits) : ((h).setMreg m b).capBase = h.capBase := rfl
@[simp] theorem Hart.setMreg_stream (h : Hart) (m : MReg) (b : VBits) : ((h).setMreg m b).stream = h.stream := rfl
@[simp] theorem Hart.setMreg_pulls (h : Hart) (m : MReg) (b : VBits) : ((h).setMreg m b).pulls = h.pulls := rfl
@[simp] theorem Hart.setMreg_late (h : Hart) (m : MReg) (b : VBits) : ((h).setMreg m b).late = h.late := rfl
@[simp] theorem Hart.setMreg_nextSeq (h : Hart) (m : MReg) (b : VBits) : ((h).setMreg m b).nextSeq = h.nextSeq := rfl
@[simp] theorem Hart.setMreg_wins (h : Hart) (m : MReg) (b : VBits) : ((h).setMreg m b).wins = h.wins := rfl
@[simp] theorem Hart.setMreg_reOps (h : Hart) (m : MReg) (b : VBits) : ((h).setMreg m b).reOps = h.reOps := rfl
@[simp] theorem Hart.setMreg_ahead (h : Hart) (m : MReg) (b : VBits) : ((h).setMreg m b).ahead = h.ahead := rfl
@[simp] theorem Hart.setMreg_iters (h : Hart) (m : MReg) (b : VBits) : ((h).setMreg m b).iters = h.iters := rfl
@[simp] theorem Hart.setMreg_itOps (h : Hart) (m : MReg) (b : VBits) : ((h).setMreg m b).itOps = h.itOps := rfl
@[simp] theorem Hart.setMreg_kv (h : Hart) (m : MReg) (b : VBits) : ((h).setMreg m b).kv = h.kv := rfl
@[simp] theorem Hart.setMreg_xops (h : Hart) (m : MReg) (b : VBits) : ((h).setMreg m b).xops = h.xops := rfl
@[simp] theorem Hart.setMreg_xst (h : Hart) (m : MReg) (b : VBits) : ((h).setMreg m b).xst = h.xst := rfl
@[simp] theorem Hart.setMreg_xbound (h : Hart) (m : MReg) (b : VBits) : ((h).setMreg m b).xbound = h.xbound := rfl
@[simp] theorem Hart.setMreg_xpend (h : Hart) (m : MReg) (b : VBits) : ((h).setMreg m b).xpend = h.xpend := rfl
@[simp] theorem Hart.setMreg_revDead (h : Hart) (m : MReg) (b : VBits) : ((h).setMreg m b).revDead = h.revDead := rfl
@[simp] theorem Hart.setMreg_ringDrops (h : Hart) (m : MReg) (b : VBits) : ((h).setMreg m b).ringDrops = h.ringDrops := rfl
@[simp] theorem Hart.setMreg_revDone (h : Hart) (m : MReg) (b : VBits) : ((h).setMreg m b).revDone = h.revDone := rfl
@[simp] theorem Hart.setMreg_slotsLn (h : Hart) (m : MReg) (b : VBits) : ((h).setMreg m b).slotsLn = h.slotsLn := rfl
@[simp] theorem Hart.setMreg_arming (h : Hart) (m : MReg) (b : VBits) : ((h).setMreg m b).arming = h.arming := rfl
@[simp] theorem Hart.setMreg_hbound (h : Hart) (m : MReg) (b : VBits) : ((h).setMreg m b).hbound = h.hbound := rfl
@[simp] theorem Hart.setMreg_mbound (h : Hart) (m : MReg) (b : VBits) : ((h).setMreg m b).mbound = h.mbound := rfl
@[simp] theorem Hart.setMreg_threads (h : Hart) (m : MReg) (b : VBits) : ((h).setMreg m b).threads = h.threads := rfl
@[simp] theorem Hart.setMreg_lib (h : Hart) (m : MReg) (b : VBits) : ((h).setMreg m b).lib = h.lib := rfl
@[simp] theorem Hart.setMreg_sup (h : Hart) (m : MReg) (b : VBits) : ((h).setMreg m b).sup = h.sup := rfl
@[simp] theorem Hart.setMreg_trap (h : Hart) (m : MReg) (b : VBits) : ((h).setMreg m b).trap = h.trap := rfl
@[simp] theorem Hart.setMreg_launch (h : Hart) (m : MReg) (b : VBits) : ((h).setMreg m b).launch = h.launch := rfl
@[simp] theorem Hart.setMreg_place (h : Hart) (m : MReg) (b : VBits) : ((h).setMreg m b).place = h.place := rfl
@[simp] theorem Hart.setMreg_depth (h : Hart) (m : MReg) (b : VBits) : ((h).setMreg m b).depth = h.depth := rfl
@[simp] theorem Hart.setMreg_pasid (h : Hart) (m : MReg) (b : VBits) : ((h).setMreg m b).pasid = h.pasid := rfl
@[simp] theorem Hart.setMreg_fn (h : Hart) (m : MReg) (b : VBits) : ((h).setMreg m b).fn = h.fn := rfl
@[simp] theorem Hart.setMreg_lost (h : Hart) (m : MReg) (b : VBits) : ((h).setMreg m b).lost = h.lost := rfl
@[simp] theorem Hart.setMreg_pageReq (h : Hart) (m : MReg) (b : VBits) : ((h).setMreg m b).pageReq = h.pageReq := rfl
@[simp] theorem Hart.setMreg_victim (h : Hart) (m : MReg) (b : VBits) : ((h).setMreg m b).victim = h.victim := rfl
@[simp] theorem Hart.setMreg_ending (h : Hart) (m : MReg) (b : VBits) : ((h).setMreg m b).ending = h.ending := rfl
@[simp] theorem Hart.setMreg_drawn (h : Hart) (m : MReg) (b : VBits) : ((h).setMreg m b).drawn = h.drawn := rfl
@[simp] theorem Hart.setElem_run (h : Hart) (r e w x : Nat) : ((h).setElem r e w x).run = h.run := rfl
@[simp] theorem Hart.setElem_pc (h : Hart) (r e w x : Nat) : ((h).setElem r e w x).pc = h.pc := rfl
@[simp] theorem Hart.setElem_xu (h : Hart) (r e w x : Nat) : ((h).setElem r e w x).xu = h.xu := rfl
@[simp] theorem Hart.setElem_xs (h : Hart) (r e w x : Nat) : ((h).setElem r e w x).xs = h.xs := rfl
@[simp] theorem Hart.setElem_m (h : Hart) (r e w x : Nat) : ((h).setElem r e w x).m = h.m := rfl
@[simp] theorem Hart.setElem_vtype (h : Hart) (r e w x : Nat) : ((h).setElem r e w x).vtype = h.vtype := rfl
@[simp] theorem Hart.setElem_vl (h : Hart) (r e w x : Nat) : ((h).setElem r e w x).vl = h.vl := rfl
@[simp] theorem Hart.setElem_vstart (h : Hart) (r e w x : Nat) : ((h).setElem r e w x).vstart = h.vstart := rfl
@[simp] theorem Hart.setElem_epoch (h : Hart) (r e w x : Nat) : ((h).setElem r e w x).epoch = h.epoch := rfl
@[simp] theorem Hart.setElem_lanes (h : Hart) (r e w x : Nat) : ((h).setElem r e w x).lanes = h.lanes := rfl
@[simp] theorem Hart.setElem_avail (h : Hart) (r e w x : Nat) : ((h).setElem r e w x).avail = h.avail := rfl
@[simp] theorem Hart.setElem_segs (h : Hart) (r e w x : Nat) : ((h).setElem r e w x).segs = h.segs := rfl
@[simp] theorem Hart.setElem_gang (h : Hart) (r e w x : Nat) : ((h).setElem r e w x).gang = h.gang := rfl
@[simp] theorem Hart.setElem_fcr (h : Hart) (r e w x : Nat) : ((h).setElem r e w x).fcr = h.fcr := rfl
@[simp] theorem Hart.setElem_fflags (h : Hart) (r e w x : Nat) : ((h).setElem r e w x).fflags = h.fflags := rfl
@[simp] theorem Hart.setElem_kvstart (h : Hart) (r e w x : Nat) : ((h).setElem r e w x).kvstart = h.kvstart := rfl
@[simp] theorem Hart.setElem_loops (h : Hart) (r e w x : Nat) : ((h).setElem r e w x).loops = h.loops := rfl
@[simp] theorem Hart.setElem_active (h : Hart) (r e w x : Nat) : ((h).setElem r e w x).active = h.active := rfl
@[simp] theorem Hart.setElem_slices (h : Hart) (r e w x : Nat) : ((h).setElem r e w x).slices = h.slices := rfl
@[simp] theorem Hart.setElem_q0 (h : Hart) (r e w x : Nat) : ((h).setElem r e w x).q0 = h.q0 := rfl
@[simp] theorem Hart.setElem_owed (h : Hart) (r e w x : Nat) : ((h).setElem r e w x).owed = h.owed := rfl
@[simp] theorem Hart.setElem_q1 (h : Hart) (r e w x : Nat) : ((h).setElem r e w x).q1 = h.q1 := rfl
@[simp] theorem Hart.setElem_lq (h : Hart) (r e w x : Nat) : ((h).setElem r e w x).lq = h.lq := rfl
@[simp] theorem Hart.setElem_tlre (h : Hart) (r e w x : Nat) : ((h).setElem r e w x).tlre = h.tlre := rfl
@[simp] theorem Hart.setElem_tlit (h : Hart) (r e w x : Nat) : ((h).setElem r e w x).tlit = h.tlit := rfl
@[simp] theorem Hart.setElem_tlkv (h : Hart) (r e w x : Nat) : ((h).setElem r e w x).tlkv = h.tlkv := rfl
@[simp] theorem Hart.setElem_tlxc (h : Hart) (r e w x : Nat) : ((h).setElem r e w x).tlxc = h.tlxc := rfl
@[simp] theorem Hart.setElem_tlln (h : Hart) (r e w x : Nat) : ((h).setElem r e w x).tlln = h.tlln := rfl
@[simp] theorem Hart.setElem_instret (h : Hart) (r e w x : Nat) : ((h).setElem r e w x).instret = h.instret := rfl
@[simp] theorem Hart.setElem_capBase (h : Hart) (r e w x : Nat) : ((h).setElem r e w x).capBase = h.capBase := rfl
@[simp] theorem Hart.setElem_stream (h : Hart) (r e w x : Nat) : ((h).setElem r e w x).stream = h.stream := rfl
@[simp] theorem Hart.setElem_pulls (h : Hart) (r e w x : Nat) : ((h).setElem r e w x).pulls = h.pulls := rfl
@[simp] theorem Hart.setElem_late (h : Hart) (r e w x : Nat) : ((h).setElem r e w x).late = h.late := rfl
@[simp] theorem Hart.setElem_nextSeq (h : Hart) (r e w x : Nat) : ((h).setElem r e w x).nextSeq = h.nextSeq := rfl
@[simp] theorem Hart.setElem_wins (h : Hart) (r e w x : Nat) : ((h).setElem r e w x).wins = h.wins := rfl
@[simp] theorem Hart.setElem_reOps (h : Hart) (r e w x : Nat) : ((h).setElem r e w x).reOps = h.reOps := rfl
@[simp] theorem Hart.setElem_ahead (h : Hart) (r e w x : Nat) : ((h).setElem r e w x).ahead = h.ahead := rfl
@[simp] theorem Hart.setElem_iters (h : Hart) (r e w x : Nat) : ((h).setElem r e w x).iters = h.iters := rfl
@[simp] theorem Hart.setElem_itOps (h : Hart) (r e w x : Nat) : ((h).setElem r e w x).itOps = h.itOps := rfl
@[simp] theorem Hart.setElem_kv (h : Hart) (r e w x : Nat) : ((h).setElem r e w x).kv = h.kv := rfl
@[simp] theorem Hart.setElem_xops (h : Hart) (r e w x : Nat) : ((h).setElem r e w x).xops = h.xops := rfl
@[simp] theorem Hart.setElem_xst (h : Hart) (r e w x : Nat) : ((h).setElem r e w x).xst = h.xst := rfl
@[simp] theorem Hart.setElem_xbound (h : Hart) (r e w x : Nat) : ((h).setElem r e w x).xbound = h.xbound := rfl
@[simp] theorem Hart.setElem_xpend (h : Hart) (r e w x : Nat) : ((h).setElem r e w x).xpend = h.xpend := rfl
@[simp] theorem Hart.setElem_revDead (h : Hart) (r e w x : Nat) : ((h).setElem r e w x).revDead = h.revDead := rfl
@[simp] theorem Hart.setElem_ringDrops (h : Hart) (r e w x : Nat) : ((h).setElem r e w x).ringDrops = h.ringDrops := rfl
@[simp] theorem Hart.setElem_revDone (h : Hart) (r e w x : Nat) : ((h).setElem r e w x).revDone = h.revDone := rfl
@[simp] theorem Hart.setElem_slotsLn (h : Hart) (r e w x : Nat) : ((h).setElem r e w x).slotsLn = h.slotsLn := rfl
@[simp] theorem Hart.setElem_arming (h : Hart) (r e w x : Nat) : ((h).setElem r e w x).arming = h.arming := rfl
@[simp] theorem Hart.setElem_hbound (h : Hart) (r e w x : Nat) : ((h).setElem r e w x).hbound = h.hbound := rfl
@[simp] theorem Hart.setElem_mbound (h : Hart) (r e w x : Nat) : ((h).setElem r e w x).mbound = h.mbound := rfl
@[simp] theorem Hart.setElem_threads (h : Hart) (r e w x : Nat) : ((h).setElem r e w x).threads = h.threads := rfl
@[simp] theorem Hart.setElem_lib (h : Hart) (r e w x : Nat) : ((h).setElem r e w x).lib = h.lib := rfl
@[simp] theorem Hart.setElem_sup (h : Hart) (r e w x : Nat) : ((h).setElem r e w x).sup = h.sup := rfl
@[simp] theorem Hart.setElem_trap (h : Hart) (r e w x : Nat) : ((h).setElem r e w x).trap = h.trap := rfl
@[simp] theorem Hart.setElem_launch (h : Hart) (r e w x : Nat) : ((h).setElem r e w x).launch = h.launch := rfl
@[simp] theorem Hart.setElem_place (h : Hart) (r e w x : Nat) : ((h).setElem r e w x).place = h.place := rfl
@[simp] theorem Hart.setElem_depth (h : Hart) (r e w x : Nat) : ((h).setElem r e w x).depth = h.depth := rfl
@[simp] theorem Hart.setElem_pasid (h : Hart) (r e w x : Nat) : ((h).setElem r e w x).pasid = h.pasid := rfl
@[simp] theorem Hart.setElem_fn (h : Hart) (r e w x : Nat) : ((h).setElem r e w x).fn = h.fn := rfl
@[simp] theorem Hart.setElem_lost (h : Hart) (r e w x : Nat) : ((h).setElem r e w x).lost = h.lost := rfl
@[simp] theorem Hart.setElem_pageReq (h : Hart) (r e w x : Nat) : ((h).setElem r e w x).pageReq = h.pageReq := rfl
@[simp] theorem Hart.setElem_victim (h : Hart) (r e w x : Nat) : ((h).setElem r e w x).victim = h.victim := rfl
@[simp] theorem Hart.setElem_ending (h : Hart) (r e w x : Nat) : ((h).setElem r e w x).ending = h.ending := rfl
@[simp] theorem Hart.setElem_drawn (h : Hart) (r e w x : Nat) : ((h).setElem r e w x).drawn = h.drawn := rfl
@[simp] theorem Hart.setMaskBit_run (h : Hart) (m : MReg) (e : Nat) (b : Bool) : ((h).setMaskBit m e b).run = h.run := rfl
@[simp] theorem Hart.setMaskBit_pc (h : Hart) (m : MReg) (e : Nat) (b : Bool) : ((h).setMaskBit m e b).pc = h.pc := rfl
@[simp] theorem Hart.setMaskBit_xu (h : Hart) (m : MReg) (e : Nat) (b : Bool) : ((h).setMaskBit m e b).xu = h.xu := rfl
@[simp] theorem Hart.setMaskBit_xs (h : Hart) (m : MReg) (e : Nat) (b : Bool) : ((h).setMaskBit m e b).xs = h.xs := rfl
@[simp] theorem Hart.setMaskBit_v (h : Hart) (m : MReg) (e : Nat) (b : Bool) : ((h).setMaskBit m e b).v = h.v := rfl
@[simp] theorem Hart.setMaskBit_vtype (h : Hart) (m : MReg) (e : Nat) (b : Bool) : ((h).setMaskBit m e b).vtype = h.vtype := rfl
@[simp] theorem Hart.setMaskBit_vl (h : Hart) (m : MReg) (e : Nat) (b : Bool) : ((h).setMaskBit m e b).vl = h.vl := rfl
@[simp] theorem Hart.setMaskBit_vstart (h : Hart) (m : MReg) (e : Nat) (b : Bool) : ((h).setMaskBit m e b).vstart = h.vstart := rfl
@[simp] theorem Hart.setMaskBit_epoch (h : Hart) (m : MReg) (e : Nat) (b : Bool) : ((h).setMaskBit m e b).epoch = h.epoch := rfl
@[simp] theorem Hart.setMaskBit_lanes (h : Hart) (m : MReg) (e : Nat) (b : Bool) : ((h).setMaskBit m e b).lanes = h.lanes := rfl
@[simp] theorem Hart.setMaskBit_avail (h : Hart) (m : MReg) (e : Nat) (b : Bool) : ((h).setMaskBit m e b).avail = h.avail := rfl
@[simp] theorem Hart.setMaskBit_segs (h : Hart) (m : MReg) (e : Nat) (b : Bool) : ((h).setMaskBit m e b).segs = h.segs := rfl
@[simp] theorem Hart.setMaskBit_gang (h : Hart) (m : MReg) (e : Nat) (b : Bool) : ((h).setMaskBit m e b).gang = h.gang := rfl
@[simp] theorem Hart.setMaskBit_fcr (h : Hart) (m : MReg) (e : Nat) (b : Bool) : ((h).setMaskBit m e b).fcr = h.fcr := rfl
@[simp] theorem Hart.setMaskBit_fflags (h : Hart) (m : MReg) (e : Nat) (b : Bool) : ((h).setMaskBit m e b).fflags = h.fflags := rfl
@[simp] theorem Hart.setMaskBit_kvstart (h : Hart) (m : MReg) (e : Nat) (b : Bool) : ((h).setMaskBit m e b).kvstart = h.kvstart := rfl
@[simp] theorem Hart.setMaskBit_loops (h : Hart) (m : MReg) (e : Nat) (b : Bool) : ((h).setMaskBit m e b).loops = h.loops := rfl
@[simp] theorem Hart.setMaskBit_active (h : Hart) (m : MReg) (e : Nat) (b : Bool) : ((h).setMaskBit m e b).active = h.active := rfl
@[simp] theorem Hart.setMaskBit_slices (h : Hart) (m : MReg) (e : Nat) (b : Bool) : ((h).setMaskBit m e b).slices = h.slices := rfl
@[simp] theorem Hart.setMaskBit_q0 (h : Hart) (m : MReg) (e : Nat) (b : Bool) : ((h).setMaskBit m e b).q0 = h.q0 := rfl
@[simp] theorem Hart.setMaskBit_owed (h : Hart) (m : MReg) (e : Nat) (b : Bool) : ((h).setMaskBit m e b).owed = h.owed := rfl
@[simp] theorem Hart.setMaskBit_q1 (h : Hart) (m : MReg) (e : Nat) (b : Bool) : ((h).setMaskBit m e b).q1 = h.q1 := rfl
@[simp] theorem Hart.setMaskBit_lq (h : Hart) (m : MReg) (e : Nat) (b : Bool) : ((h).setMaskBit m e b).lq = h.lq := rfl
@[simp] theorem Hart.setMaskBit_tlre (h : Hart) (m : MReg) (e : Nat) (b : Bool) : ((h).setMaskBit m e b).tlre = h.tlre := rfl
@[simp] theorem Hart.setMaskBit_tlit (h : Hart) (m : MReg) (e : Nat) (b : Bool) : ((h).setMaskBit m e b).tlit = h.tlit := rfl
@[simp] theorem Hart.setMaskBit_tlkv (h : Hart) (m : MReg) (e : Nat) (b : Bool) : ((h).setMaskBit m e b).tlkv = h.tlkv := rfl
@[simp] theorem Hart.setMaskBit_tlxc (h : Hart) (m : MReg) (e : Nat) (b : Bool) : ((h).setMaskBit m e b).tlxc = h.tlxc := rfl
@[simp] theorem Hart.setMaskBit_tlln (h : Hart) (m : MReg) (e : Nat) (b : Bool) : ((h).setMaskBit m e b).tlln = h.tlln := rfl
@[simp] theorem Hart.setMaskBit_instret (h : Hart) (m : MReg) (e : Nat) (b : Bool) : ((h).setMaskBit m e b).instret = h.instret := rfl
@[simp] theorem Hart.setMaskBit_capBase (h : Hart) (m : MReg) (e : Nat) (b : Bool) : ((h).setMaskBit m e b).capBase = h.capBase := rfl
@[simp] theorem Hart.setMaskBit_stream (h : Hart) (m : MReg) (e : Nat) (b : Bool) : ((h).setMaskBit m e b).stream = h.stream := rfl
@[simp] theorem Hart.setMaskBit_pulls (h : Hart) (m : MReg) (e : Nat) (b : Bool) : ((h).setMaskBit m e b).pulls = h.pulls := rfl
@[simp] theorem Hart.setMaskBit_late (h : Hart) (m : MReg) (e : Nat) (b : Bool) : ((h).setMaskBit m e b).late = h.late := rfl
@[simp] theorem Hart.setMaskBit_nextSeq (h : Hart) (m : MReg) (e : Nat) (b : Bool) : ((h).setMaskBit m e b).nextSeq = h.nextSeq := rfl
@[simp] theorem Hart.setMaskBit_wins (h : Hart) (m : MReg) (e : Nat) (b : Bool) : ((h).setMaskBit m e b).wins = h.wins := rfl
@[simp] theorem Hart.setMaskBit_reOps (h : Hart) (m : MReg) (e : Nat) (b : Bool) : ((h).setMaskBit m e b).reOps = h.reOps := rfl
@[simp] theorem Hart.setMaskBit_ahead (h : Hart) (m : MReg) (e : Nat) (b : Bool) : ((h).setMaskBit m e b).ahead = h.ahead := rfl
@[simp] theorem Hart.setMaskBit_iters (h : Hart) (m : MReg) (e : Nat) (b : Bool) : ((h).setMaskBit m e b).iters = h.iters := rfl
@[simp] theorem Hart.setMaskBit_itOps (h : Hart) (m : MReg) (e : Nat) (b : Bool) : ((h).setMaskBit m e b).itOps = h.itOps := rfl
@[simp] theorem Hart.setMaskBit_kv (h : Hart) (m : MReg) (e : Nat) (b : Bool) : ((h).setMaskBit m e b).kv = h.kv := rfl
@[simp] theorem Hart.setMaskBit_xops (h : Hart) (m : MReg) (e : Nat) (b : Bool) : ((h).setMaskBit m e b).xops = h.xops := rfl
@[simp] theorem Hart.setMaskBit_xst (h : Hart) (m : MReg) (e : Nat) (b : Bool) : ((h).setMaskBit m e b).xst = h.xst := rfl
@[simp] theorem Hart.setMaskBit_xbound (h : Hart) (m : MReg) (e : Nat) (b : Bool) : ((h).setMaskBit m e b).xbound = h.xbound := rfl
@[simp] theorem Hart.setMaskBit_xpend (h : Hart) (m : MReg) (e : Nat) (b : Bool) : ((h).setMaskBit m e b).xpend = h.xpend := rfl
@[simp] theorem Hart.setMaskBit_revDead (h : Hart) (m : MReg) (e : Nat) (b : Bool) : ((h).setMaskBit m e b).revDead = h.revDead := rfl
@[simp] theorem Hart.setMaskBit_ringDrops (h : Hart) (m : MReg) (e : Nat) (b : Bool) : ((h).setMaskBit m e b).ringDrops = h.ringDrops := rfl
@[simp] theorem Hart.setMaskBit_revDone (h : Hart) (m : MReg) (e : Nat) (b : Bool) : ((h).setMaskBit m e b).revDone = h.revDone := rfl
@[simp] theorem Hart.setMaskBit_slotsLn (h : Hart) (m : MReg) (e : Nat) (b : Bool) : ((h).setMaskBit m e b).slotsLn = h.slotsLn := rfl
@[simp] theorem Hart.setMaskBit_arming (h : Hart) (m : MReg) (e : Nat) (b : Bool) : ((h).setMaskBit m e b).arming = h.arming := rfl
@[simp] theorem Hart.setMaskBit_hbound (h : Hart) (m : MReg) (e : Nat) (b : Bool) : ((h).setMaskBit m e b).hbound = h.hbound := rfl
@[simp] theorem Hart.setMaskBit_mbound (h : Hart) (m : MReg) (e : Nat) (b : Bool) : ((h).setMaskBit m e b).mbound = h.mbound := rfl
@[simp] theorem Hart.setMaskBit_threads (h : Hart) (m : MReg) (e : Nat) (b : Bool) : ((h).setMaskBit m e b).threads = h.threads := rfl
@[simp] theorem Hart.setMaskBit_lib (h : Hart) (m : MReg) (e : Nat) (b : Bool) : ((h).setMaskBit m e b).lib = h.lib := rfl
@[simp] theorem Hart.setMaskBit_sup (h : Hart) (m : MReg) (e : Nat) (b : Bool) : ((h).setMaskBit m e b).sup = h.sup := rfl
@[simp] theorem Hart.setMaskBit_trap (h : Hart) (m : MReg) (e : Nat) (b : Bool) : ((h).setMaskBit m e b).trap = h.trap := rfl
@[simp] theorem Hart.setMaskBit_launch (h : Hart) (m : MReg) (e : Nat) (b : Bool) : ((h).setMaskBit m e b).launch = h.launch := rfl
@[simp] theorem Hart.setMaskBit_place (h : Hart) (m : MReg) (e : Nat) (b : Bool) : ((h).setMaskBit m e b).place = h.place := rfl
@[simp] theorem Hart.setMaskBit_depth (h : Hart) (m : MReg) (e : Nat) (b : Bool) : ((h).setMaskBit m e b).depth = h.depth := rfl
@[simp] theorem Hart.setMaskBit_pasid (h : Hart) (m : MReg) (e : Nat) (b : Bool) : ((h).setMaskBit m e b).pasid = h.pasid := rfl
@[simp] theorem Hart.setMaskBit_fn (h : Hart) (m : MReg) (e : Nat) (b : Bool) : ((h).setMaskBit m e b).fn = h.fn := rfl
@[simp] theorem Hart.setMaskBit_lost (h : Hart) (m : MReg) (e : Nat) (b : Bool) : ((h).setMaskBit m e b).lost = h.lost := rfl
@[simp] theorem Hart.setMaskBit_pageReq (h : Hart) (m : MReg) (e : Nat) (b : Bool) : ((h).setMaskBit m e b).pageReq = h.pageReq := rfl
@[simp] theorem Hart.setMaskBit_victim (h : Hart) (m : MReg) (e : Nat) (b : Bool) : ((h).setMaskBit m e b).victim = h.victim := rfl
@[simp] theorem Hart.setMaskBit_ending (h : Hart) (m : MReg) (e : Nat) (b : Bool) : ((h).setMaskBit m e b).ending = h.ending := rfl
@[simp] theorem Hart.setMaskBit_drawn (h : Hart) (m : MReg) (e : Nat) (b : Bool) : ((h).setMaskBit m e b).drawn = h.drawn := rfl
@[simp] theorem Hart.setGranule_run (h : Hart) (r g x : Nat) : ((h).setGranule r g x).run = h.run := rfl
@[simp] theorem Hart.setGranule_pc (h : Hart) (r g x : Nat) : ((h).setGranule r g x).pc = h.pc := rfl
@[simp] theorem Hart.setGranule_xu (h : Hart) (r g x : Nat) : ((h).setGranule r g x).xu = h.xu := rfl
@[simp] theorem Hart.setGranule_xs (h : Hart) (r g x : Nat) : ((h).setGranule r g x).xs = h.xs := rfl
@[simp] theorem Hart.setGranule_m (h : Hart) (r g x : Nat) : ((h).setGranule r g x).m = h.m := rfl
@[simp] theorem Hart.setGranule_vtype (h : Hart) (r g x : Nat) : ((h).setGranule r g x).vtype = h.vtype := rfl
@[simp] theorem Hart.setGranule_vl (h : Hart) (r g x : Nat) : ((h).setGranule r g x).vl = h.vl := rfl
@[simp] theorem Hart.setGranule_vstart (h : Hart) (r g x : Nat) : ((h).setGranule r g x).vstart = h.vstart := rfl
@[simp] theorem Hart.setGranule_epoch (h : Hart) (r g x : Nat) : ((h).setGranule r g x).epoch = h.epoch := rfl
@[simp] theorem Hart.setGranule_lanes (h : Hart) (r g x : Nat) : ((h).setGranule r g x).lanes = h.lanes := rfl
@[simp] theorem Hart.setGranule_avail (h : Hart) (r g x : Nat) : ((h).setGranule r g x).avail = h.avail := rfl
@[simp] theorem Hart.setGranule_segs (h : Hart) (r g x : Nat) : ((h).setGranule r g x).segs = h.segs := rfl
@[simp] theorem Hart.setGranule_gang (h : Hart) (r g x : Nat) : ((h).setGranule r g x).gang = h.gang := rfl
@[simp] theorem Hart.setGranule_fcr (h : Hart) (r g x : Nat) : ((h).setGranule r g x).fcr = h.fcr := rfl
@[simp] theorem Hart.setGranule_fflags (h : Hart) (r g x : Nat) : ((h).setGranule r g x).fflags = h.fflags := rfl
@[simp] theorem Hart.setGranule_kvstart (h : Hart) (r g x : Nat) : ((h).setGranule r g x).kvstart = h.kvstart := rfl
@[simp] theorem Hart.setGranule_loops (h : Hart) (r g x : Nat) : ((h).setGranule r g x).loops = h.loops := rfl
@[simp] theorem Hart.setGranule_active (h : Hart) (r g x : Nat) : ((h).setGranule r g x).active = h.active := rfl
@[simp] theorem Hart.setGranule_slices (h : Hart) (r g x : Nat) : ((h).setGranule r g x).slices = h.slices := rfl
@[simp] theorem Hart.setGranule_q0 (h : Hart) (r g x : Nat) : ((h).setGranule r g x).q0 = h.q0 := rfl
@[simp] theorem Hart.setGranule_owed (h : Hart) (r g x : Nat) : ((h).setGranule r g x).owed = h.owed := rfl
@[simp] theorem Hart.setGranule_q1 (h : Hart) (r g x : Nat) : ((h).setGranule r g x).q1 = h.q1 := rfl
@[simp] theorem Hart.setGranule_lq (h : Hart) (r g x : Nat) : ((h).setGranule r g x).lq = h.lq := rfl
@[simp] theorem Hart.setGranule_tlre (h : Hart) (r g x : Nat) : ((h).setGranule r g x).tlre = h.tlre := rfl
@[simp] theorem Hart.setGranule_tlit (h : Hart) (r g x : Nat) : ((h).setGranule r g x).tlit = h.tlit := rfl
@[simp] theorem Hart.setGranule_tlkv (h : Hart) (r g x : Nat) : ((h).setGranule r g x).tlkv = h.tlkv := rfl
@[simp] theorem Hart.setGranule_tlxc (h : Hart) (r g x : Nat) : ((h).setGranule r g x).tlxc = h.tlxc := rfl
@[simp] theorem Hart.setGranule_tlln (h : Hart) (r g x : Nat) : ((h).setGranule r g x).tlln = h.tlln := rfl
@[simp] theorem Hart.setGranule_instret (h : Hart) (r g x : Nat) : ((h).setGranule r g x).instret = h.instret := rfl
@[simp] theorem Hart.setGranule_capBase (h : Hart) (r g x : Nat) : ((h).setGranule r g x).capBase = h.capBase := rfl
@[simp] theorem Hart.setGranule_stream (h : Hart) (r g x : Nat) : ((h).setGranule r g x).stream = h.stream := rfl
@[simp] theorem Hart.setGranule_pulls (h : Hart) (r g x : Nat) : ((h).setGranule r g x).pulls = h.pulls := rfl
@[simp] theorem Hart.setGranule_late (h : Hart) (r g x : Nat) : ((h).setGranule r g x).late = h.late := rfl
@[simp] theorem Hart.setGranule_nextSeq (h : Hart) (r g x : Nat) : ((h).setGranule r g x).nextSeq = h.nextSeq := rfl
@[simp] theorem Hart.setGranule_wins (h : Hart) (r g x : Nat) : ((h).setGranule r g x).wins = h.wins := rfl
@[simp] theorem Hart.setGranule_reOps (h : Hart) (r g x : Nat) : ((h).setGranule r g x).reOps = h.reOps := rfl
@[simp] theorem Hart.setGranule_ahead (h : Hart) (r g x : Nat) : ((h).setGranule r g x).ahead = h.ahead := rfl
@[simp] theorem Hart.setGranule_iters (h : Hart) (r g x : Nat) : ((h).setGranule r g x).iters = h.iters := rfl
@[simp] theorem Hart.setGranule_itOps (h : Hart) (r g x : Nat) : ((h).setGranule r g x).itOps = h.itOps := rfl
@[simp] theorem Hart.setGranule_kv (h : Hart) (r g x : Nat) : ((h).setGranule r g x).kv = h.kv := rfl
@[simp] theorem Hart.setGranule_xops (h : Hart) (r g x : Nat) : ((h).setGranule r g x).xops = h.xops := rfl
@[simp] theorem Hart.setGranule_xst (h : Hart) (r g x : Nat) : ((h).setGranule r g x).xst = h.xst := rfl
@[simp] theorem Hart.setGranule_xbound (h : Hart) (r g x : Nat) : ((h).setGranule r g x).xbound = h.xbound := rfl
@[simp] theorem Hart.setGranule_xpend (h : Hart) (r g x : Nat) : ((h).setGranule r g x).xpend = h.xpend := rfl
@[simp] theorem Hart.setGranule_revDead (h : Hart) (r g x : Nat) : ((h).setGranule r g x).revDead = h.revDead := rfl
@[simp] theorem Hart.setGranule_ringDrops (h : Hart) (r g x : Nat) : ((h).setGranule r g x).ringDrops = h.ringDrops := rfl
@[simp] theorem Hart.setGranule_revDone (h : Hart) (r g x : Nat) : ((h).setGranule r g x).revDone = h.revDone := rfl
@[simp] theorem Hart.setGranule_slotsLn (h : Hart) (r g x : Nat) : ((h).setGranule r g x).slotsLn = h.slotsLn := rfl
@[simp] theorem Hart.setGranule_arming (h : Hart) (r g x : Nat) : ((h).setGranule r g x).arming = h.arming := rfl
@[simp] theorem Hart.setGranule_hbound (h : Hart) (r g x : Nat) : ((h).setGranule r g x).hbound = h.hbound := rfl
@[simp] theorem Hart.setGranule_mbound (h : Hart) (r g x : Nat) : ((h).setGranule r g x).mbound = h.mbound := rfl
@[simp] theorem Hart.setGranule_threads (h : Hart) (r g x : Nat) : ((h).setGranule r g x).threads = h.threads := rfl
@[simp] theorem Hart.setGranule_lib (h : Hart) (r g x : Nat) : ((h).setGranule r g x).lib = h.lib := rfl
@[simp] theorem Hart.setGranule_sup (h : Hart) (r g x : Nat) : ((h).setGranule r g x).sup = h.sup := rfl
@[simp] theorem Hart.setGranule_trap (h : Hart) (r g x : Nat) : ((h).setGranule r g x).trap = h.trap := rfl
@[simp] theorem Hart.setGranule_launch (h : Hart) (r g x : Nat) : ((h).setGranule r g x).launch = h.launch := rfl
@[simp] theorem Hart.setGranule_place (h : Hart) (r g x : Nat) : ((h).setGranule r g x).place = h.place := rfl
@[simp] theorem Hart.setGranule_depth (h : Hart) (r g x : Nat) : ((h).setGranule r g x).depth = h.depth := rfl
@[simp] theorem Hart.setGranule_pasid (h : Hart) (r g x : Nat) : ((h).setGranule r g x).pasid = h.pasid := rfl
@[simp] theorem Hart.setGranule_fn (h : Hart) (r g x : Nat) : ((h).setGranule r g x).fn = h.fn := rfl
@[simp] theorem Hart.setGranule_lost (h : Hart) (r g x : Nat) : ((h).setGranule r g x).lost = h.lost := rfl
@[simp] theorem Hart.setGranule_pageReq (h : Hart) (r g x : Nat) : ((h).setGranule r g x).pageReq = h.pageReq := rfl
@[simp] theorem Hart.setGranule_victim (h : Hart) (r g x : Nat) : ((h).setGranule r g x).victim = h.victim := rfl
@[simp] theorem Hart.setGranule_ending (h : Hart) (r g x : Nat) : ((h).setGranule r g x).ending = h.ending := rfl
@[simp] theorem Hart.setGranule_drawn (h : Hart) (r g x : Nat) : ((h).setGranule r g x).drawn = h.drawn := rfl
@[simp] theorem Hart.setWin_run (h : Hart) (w : WinNum) (v : Window) : ((h).setWin w v).run = h.run := rfl
@[simp] theorem Hart.setWin_pc (h : Hart) (w : WinNum) (v : Window) : ((h).setWin w v).pc = h.pc := rfl
@[simp] theorem Hart.setWin_xu (h : Hart) (w : WinNum) (v : Window) : ((h).setWin w v).xu = h.xu := rfl
@[simp] theorem Hart.setWin_xs (h : Hart) (w : WinNum) (v : Window) : ((h).setWin w v).xs = h.xs := rfl
@[simp] theorem Hart.setWin_v (h : Hart) (w : WinNum) (v : Window) : ((h).setWin w v).v = h.v := rfl
@[simp] theorem Hart.setWin_m (h : Hart) (w : WinNum) (v : Window) : ((h).setWin w v).m = h.m := rfl
@[simp] theorem Hart.setWin_vtype (h : Hart) (w : WinNum) (v : Window) : ((h).setWin w v).vtype = h.vtype := rfl
@[simp] theorem Hart.setWin_vl (h : Hart) (w : WinNum) (v : Window) : ((h).setWin w v).vl = h.vl := rfl
@[simp] theorem Hart.setWin_vstart (h : Hart) (w : WinNum) (v : Window) : ((h).setWin w v).vstart = h.vstart := rfl
@[simp] theorem Hart.setWin_epoch (h : Hart) (w : WinNum) (v : Window) : ((h).setWin w v).epoch = h.epoch := rfl
@[simp] theorem Hart.setWin_lanes (h : Hart) (w : WinNum) (v : Window) : ((h).setWin w v).lanes = h.lanes := rfl
@[simp] theorem Hart.setWin_avail (h : Hart) (w : WinNum) (v : Window) : ((h).setWin w v).avail = h.avail := rfl
@[simp] theorem Hart.setWin_segs (h : Hart) (w : WinNum) (v : Window) : ((h).setWin w v).segs = h.segs := rfl
@[simp] theorem Hart.setWin_gang (h : Hart) (w : WinNum) (v : Window) : ((h).setWin w v).gang = h.gang := rfl
@[simp] theorem Hart.setWin_fcr (h : Hart) (w : WinNum) (v : Window) : ((h).setWin w v).fcr = h.fcr := rfl
@[simp] theorem Hart.setWin_fflags (h : Hart) (w : WinNum) (v : Window) : ((h).setWin w v).fflags = h.fflags := rfl
@[simp] theorem Hart.setWin_kvstart (h : Hart) (w : WinNum) (v : Window) : ((h).setWin w v).kvstart = h.kvstart := rfl
@[simp] theorem Hart.setWin_loops (h : Hart) (w : WinNum) (v : Window) : ((h).setWin w v).loops = h.loops := rfl
@[simp] theorem Hart.setWin_active (h : Hart) (w : WinNum) (v : Window) : ((h).setWin w v).active = h.active := rfl
@[simp] theorem Hart.setWin_slices (h : Hart) (w : WinNum) (v : Window) : ((h).setWin w v).slices = h.slices := rfl
@[simp] theorem Hart.setWin_q0 (h : Hart) (w : WinNum) (v : Window) : ((h).setWin w v).q0 = h.q0 := rfl
@[simp] theorem Hart.setWin_owed (h : Hart) (w : WinNum) (v : Window) : ((h).setWin w v).owed = h.owed := rfl
@[simp] theorem Hart.setWin_q1 (h : Hart) (w : WinNum) (v : Window) : ((h).setWin w v).q1 = h.q1 := rfl
@[simp] theorem Hart.setWin_lq (h : Hart) (w : WinNum) (v : Window) : ((h).setWin w v).lq = h.lq := rfl
@[simp] theorem Hart.setWin_tlre (h : Hart) (w : WinNum) (v : Window) : ((h).setWin w v).tlre = h.tlre := rfl
@[simp] theorem Hart.setWin_tlit (h : Hart) (w : WinNum) (v : Window) : ((h).setWin w v).tlit = h.tlit := rfl
@[simp] theorem Hart.setWin_tlkv (h : Hart) (w : WinNum) (v : Window) : ((h).setWin w v).tlkv = h.tlkv := rfl
@[simp] theorem Hart.setWin_tlxc (h : Hart) (w : WinNum) (v : Window) : ((h).setWin w v).tlxc = h.tlxc := rfl
@[simp] theorem Hart.setWin_tlln (h : Hart) (w : WinNum) (v : Window) : ((h).setWin w v).tlln = h.tlln := rfl
@[simp] theorem Hart.setWin_instret (h : Hart) (w : WinNum) (v : Window) : ((h).setWin w v).instret = h.instret := rfl
@[simp] theorem Hart.setWin_capBase (h : Hart) (w : WinNum) (v : Window) : ((h).setWin w v).capBase = h.capBase := rfl
@[simp] theorem Hart.setWin_stream (h : Hart) (w : WinNum) (v : Window) : ((h).setWin w v).stream = h.stream := rfl
@[simp] theorem Hart.setWin_pulls (h : Hart) (w : WinNum) (v : Window) : ((h).setWin w v).pulls = h.pulls := rfl
@[simp] theorem Hart.setWin_late (h : Hart) (w : WinNum) (v : Window) : ((h).setWin w v).late = h.late := rfl
@[simp] theorem Hart.setWin_nextSeq (h : Hart) (w : WinNum) (v : Window) : ((h).setWin w v).nextSeq = h.nextSeq := rfl
@[simp] theorem Hart.setWin_reOps (h : Hart) (w : WinNum) (v : Window) : ((h).setWin w v).reOps = h.reOps := rfl
@[simp] theorem Hart.setWin_ahead (h : Hart) (w : WinNum) (v : Window) : ((h).setWin w v).ahead = h.ahead := rfl
@[simp] theorem Hart.setWin_iters (h : Hart) (w : WinNum) (v : Window) : ((h).setWin w v).iters = h.iters := rfl
@[simp] theorem Hart.setWin_itOps (h : Hart) (w : WinNum) (v : Window) : ((h).setWin w v).itOps = h.itOps := rfl
@[simp] theorem Hart.setWin_kv (h : Hart) (w : WinNum) (v : Window) : ((h).setWin w v).kv = h.kv := rfl
@[simp] theorem Hart.setWin_xops (h : Hart) (w : WinNum) (v : Window) : ((h).setWin w v).xops = h.xops := rfl
@[simp] theorem Hart.setWin_xst (h : Hart) (w : WinNum) (v : Window) : ((h).setWin w v).xst = h.xst := rfl
@[simp] theorem Hart.setWin_xbound (h : Hart) (w : WinNum) (v : Window) : ((h).setWin w v).xbound = h.xbound := rfl
@[simp] theorem Hart.setWin_xpend (h : Hart) (w : WinNum) (v : Window) : ((h).setWin w v).xpend = h.xpend := rfl
@[simp] theorem Hart.setWin_revDead (h : Hart) (w : WinNum) (v : Window) : ((h).setWin w v).revDead = h.revDead := rfl
@[simp] theorem Hart.setWin_ringDrops (h : Hart) (w : WinNum) (v : Window) : ((h).setWin w v).ringDrops = h.ringDrops := rfl
@[simp] theorem Hart.setWin_revDone (h : Hart) (w : WinNum) (v : Window) : ((h).setWin w v).revDone = h.revDone := rfl
@[simp] theorem Hart.setWin_slotsLn (h : Hart) (w : WinNum) (v : Window) : ((h).setWin w v).slotsLn = h.slotsLn := rfl
@[simp] theorem Hart.setWin_arming (h : Hart) (w : WinNum) (v : Window) : ((h).setWin w v).arming = h.arming := rfl
@[simp] theorem Hart.setWin_hbound (h : Hart) (w : WinNum) (v : Window) : ((h).setWin w v).hbound = h.hbound := rfl
@[simp] theorem Hart.setWin_mbound (h : Hart) (w : WinNum) (v : Window) : ((h).setWin w v).mbound = h.mbound := rfl
@[simp] theorem Hart.setWin_threads (h : Hart) (w : WinNum) (v : Window) : ((h).setWin w v).threads = h.threads := rfl
@[simp] theorem Hart.setWin_lib (h : Hart) (w : WinNum) (v : Window) : ((h).setWin w v).lib = h.lib := rfl
@[simp] theorem Hart.setWin_sup (h : Hart) (w : WinNum) (v : Window) : ((h).setWin w v).sup = h.sup := rfl
@[simp] theorem Hart.setWin_trap (h : Hart) (w : WinNum) (v : Window) : ((h).setWin w v).trap = h.trap := rfl
@[simp] theorem Hart.setWin_launch (h : Hart) (w : WinNum) (v : Window) : ((h).setWin w v).launch = h.launch := rfl
@[simp] theorem Hart.setWin_place (h : Hart) (w : WinNum) (v : Window) : ((h).setWin w v).place = h.place := rfl
@[simp] theorem Hart.setWin_depth (h : Hart) (w : WinNum) (v : Window) : ((h).setWin w v).depth = h.depth := rfl
@[simp] theorem Hart.setWin_pasid (h : Hart) (w : WinNum) (v : Window) : ((h).setWin w v).pasid = h.pasid := rfl
@[simp] theorem Hart.setWin_fn (h : Hart) (w : WinNum) (v : Window) : ((h).setWin w v).fn = h.fn := rfl
@[simp] theorem Hart.setWin_lost (h : Hart) (w : WinNum) (v : Window) : ((h).setWin w v).lost = h.lost := rfl
@[simp] theorem Hart.setWin_pageReq (h : Hart) (w : WinNum) (v : Window) : ((h).setWin w v).pageReq = h.pageReq := rfl
@[simp] theorem Hart.setWin_victim (h : Hart) (w : WinNum) (v : Window) : ((h).setWin w v).victim = h.victim := rfl
@[simp] theorem Hart.setWin_ending (h : Hart) (w : WinNum) (v : Window) : ((h).setWin w v).ending = h.ending := rfl
@[simp] theorem Hart.setWin_drawn (h : Hart) (w : WinNum) (v : Window) : ((h).setWin w v).drawn = h.drawn := rfl
@[simp] theorem Hart.setIter_run (h : Hart) (i : StackNum) (v : IStack) : ((h).setIter i v).run = h.run := rfl
@[simp] theorem Hart.setIter_pc (h : Hart) (i : StackNum) (v : IStack) : ((h).setIter i v).pc = h.pc := rfl
@[simp] theorem Hart.setIter_xu (h : Hart) (i : StackNum) (v : IStack) : ((h).setIter i v).xu = h.xu := rfl
@[simp] theorem Hart.setIter_xs (h : Hart) (i : StackNum) (v : IStack) : ((h).setIter i v).xs = h.xs := rfl
@[simp] theorem Hart.setIter_v (h : Hart) (i : StackNum) (v : IStack) : ((h).setIter i v).v = h.v := rfl
@[simp] theorem Hart.setIter_m (h : Hart) (i : StackNum) (v : IStack) : ((h).setIter i v).m = h.m := rfl
@[simp] theorem Hart.setIter_vtype (h : Hart) (i : StackNum) (v : IStack) : ((h).setIter i v).vtype = h.vtype := rfl
@[simp] theorem Hart.setIter_vl (h : Hart) (i : StackNum) (v : IStack) : ((h).setIter i v).vl = h.vl := rfl
@[simp] theorem Hart.setIter_vstart (h : Hart) (i : StackNum) (v : IStack) : ((h).setIter i v).vstart = h.vstart := rfl
@[simp] theorem Hart.setIter_epoch (h : Hart) (i : StackNum) (v : IStack) : ((h).setIter i v).epoch = h.epoch := rfl
@[simp] theorem Hart.setIter_lanes (h : Hart) (i : StackNum) (v : IStack) : ((h).setIter i v).lanes = h.lanes := rfl
@[simp] theorem Hart.setIter_avail (h : Hart) (i : StackNum) (v : IStack) : ((h).setIter i v).avail = h.avail := rfl
@[simp] theorem Hart.setIter_segs (h : Hart) (i : StackNum) (v : IStack) : ((h).setIter i v).segs = h.segs := rfl
@[simp] theorem Hart.setIter_gang (h : Hart) (i : StackNum) (v : IStack) : ((h).setIter i v).gang = h.gang := rfl
@[simp] theorem Hart.setIter_fcr (h : Hart) (i : StackNum) (v : IStack) : ((h).setIter i v).fcr = h.fcr := rfl
@[simp] theorem Hart.setIter_fflags (h : Hart) (i : StackNum) (v : IStack) : ((h).setIter i v).fflags = h.fflags := rfl
@[simp] theorem Hart.setIter_kvstart (h : Hart) (i : StackNum) (v : IStack) : ((h).setIter i v).kvstart = h.kvstart := rfl
@[simp] theorem Hart.setIter_loops (h : Hart) (i : StackNum) (v : IStack) : ((h).setIter i v).loops = h.loops := rfl
@[simp] theorem Hart.setIter_active (h : Hart) (i : StackNum) (v : IStack) : ((h).setIter i v).active = h.active := rfl
@[simp] theorem Hart.setIter_slices (h : Hart) (i : StackNum) (v : IStack) : ((h).setIter i v).slices = h.slices := rfl
@[simp] theorem Hart.setIter_q0 (h : Hart) (i : StackNum) (v : IStack) : ((h).setIter i v).q0 = h.q0 := rfl
@[simp] theorem Hart.setIter_owed (h : Hart) (i : StackNum) (v : IStack) : ((h).setIter i v).owed = h.owed := rfl
@[simp] theorem Hart.setIter_q1 (h : Hart) (i : StackNum) (v : IStack) : ((h).setIter i v).q1 = h.q1 := rfl
@[simp] theorem Hart.setIter_lq (h : Hart) (i : StackNum) (v : IStack) : ((h).setIter i v).lq = h.lq := rfl
@[simp] theorem Hart.setIter_tlre (h : Hart) (i : StackNum) (v : IStack) : ((h).setIter i v).tlre = h.tlre := rfl
@[simp] theorem Hart.setIter_tlit (h : Hart) (i : StackNum) (v : IStack) : ((h).setIter i v).tlit = h.tlit := rfl
@[simp] theorem Hart.setIter_tlkv (h : Hart) (i : StackNum) (v : IStack) : ((h).setIter i v).tlkv = h.tlkv := rfl
@[simp] theorem Hart.setIter_tlxc (h : Hart) (i : StackNum) (v : IStack) : ((h).setIter i v).tlxc = h.tlxc := rfl
@[simp] theorem Hart.setIter_tlln (h : Hart) (i : StackNum) (v : IStack) : ((h).setIter i v).tlln = h.tlln := rfl
@[simp] theorem Hart.setIter_instret (h : Hart) (i : StackNum) (v : IStack) : ((h).setIter i v).instret = h.instret := rfl
@[simp] theorem Hart.setIter_capBase (h : Hart) (i : StackNum) (v : IStack) : ((h).setIter i v).capBase = h.capBase := rfl
@[simp] theorem Hart.setIter_stream (h : Hart) (i : StackNum) (v : IStack) : ((h).setIter i v).stream = h.stream := rfl
@[simp] theorem Hart.setIter_pulls (h : Hart) (i : StackNum) (v : IStack) : ((h).setIter i v).pulls = h.pulls := rfl
@[simp] theorem Hart.setIter_late (h : Hart) (i : StackNum) (v : IStack) : ((h).setIter i v).late = h.late := rfl
@[simp] theorem Hart.setIter_nextSeq (h : Hart) (i : StackNum) (v : IStack) : ((h).setIter i v).nextSeq = h.nextSeq := rfl
@[simp] theorem Hart.setIter_wins (h : Hart) (i : StackNum) (v : IStack) : ((h).setIter i v).wins = h.wins := rfl
@[simp] theorem Hart.setIter_reOps (h : Hart) (i : StackNum) (v : IStack) : ((h).setIter i v).reOps = h.reOps := rfl
@[simp] theorem Hart.setIter_ahead (h : Hart) (i : StackNum) (v : IStack) : ((h).setIter i v).ahead = h.ahead := rfl
@[simp] theorem Hart.setIter_itOps (h : Hart) (i : StackNum) (v : IStack) : ((h).setIter i v).itOps = h.itOps := rfl
@[simp] theorem Hart.setIter_kv (h : Hart) (i : StackNum) (v : IStack) : ((h).setIter i v).kv = h.kv := rfl
@[simp] theorem Hart.setIter_xops (h : Hart) (i : StackNum) (v : IStack) : ((h).setIter i v).xops = h.xops := rfl
@[simp] theorem Hart.setIter_xst (h : Hart) (i : StackNum) (v : IStack) : ((h).setIter i v).xst = h.xst := rfl
@[simp] theorem Hart.setIter_xbound (h : Hart) (i : StackNum) (v : IStack) : ((h).setIter i v).xbound = h.xbound := rfl
@[simp] theorem Hart.setIter_xpend (h : Hart) (i : StackNum) (v : IStack) : ((h).setIter i v).xpend = h.xpend := rfl
@[simp] theorem Hart.setIter_revDead (h : Hart) (i : StackNum) (v : IStack) : ((h).setIter i v).revDead = h.revDead := rfl
@[simp] theorem Hart.setIter_ringDrops (h : Hart) (i : StackNum) (v : IStack) : ((h).setIter i v).ringDrops = h.ringDrops := rfl
@[simp] theorem Hart.setIter_revDone (h : Hart) (i : StackNum) (v : IStack) : ((h).setIter i v).revDone = h.revDone := rfl
@[simp] theorem Hart.setIter_slotsLn (h : Hart) (i : StackNum) (v : IStack) : ((h).setIter i v).slotsLn = h.slotsLn := rfl
@[simp] theorem Hart.setIter_arming (h : Hart) (i : StackNum) (v : IStack) : ((h).setIter i v).arming = h.arming := rfl
@[simp] theorem Hart.setIter_hbound (h : Hart) (i : StackNum) (v : IStack) : ((h).setIter i v).hbound = h.hbound := rfl
@[simp] theorem Hart.setIter_mbound (h : Hart) (i : StackNum) (v : IStack) : ((h).setIter i v).mbound = h.mbound := rfl
@[simp] theorem Hart.setIter_threads (h : Hart) (i : StackNum) (v : IStack) : ((h).setIter i v).threads = h.threads := rfl
@[simp] theorem Hart.setIter_lib (h : Hart) (i : StackNum) (v : IStack) : ((h).setIter i v).lib = h.lib := rfl
@[simp] theorem Hart.setIter_sup (h : Hart) (i : StackNum) (v : IStack) : ((h).setIter i v).sup = h.sup := rfl
@[simp] theorem Hart.setIter_trap (h : Hart) (i : StackNum) (v : IStack) : ((h).setIter i v).trap = h.trap := rfl
@[simp] theorem Hart.setIter_launch (h : Hart) (i : StackNum) (v : IStack) : ((h).setIter i v).launch = h.launch := rfl
@[simp] theorem Hart.setIter_place (h : Hart) (i : StackNum) (v : IStack) : ((h).setIter i v).place = h.place := rfl
@[simp] theorem Hart.setIter_depth (h : Hart) (i : StackNum) (v : IStack) : ((h).setIter i v).depth = h.depth := rfl
@[simp] theorem Hart.setIter_pasid (h : Hart) (i : StackNum) (v : IStack) : ((h).setIter i v).pasid = h.pasid := rfl
@[simp] theorem Hart.setIter_fn (h : Hart) (i : StackNum) (v : IStack) : ((h).setIter i v).fn = h.fn := rfl
@[simp] theorem Hart.setIter_lost (h : Hart) (i : StackNum) (v : IStack) : ((h).setIter i v).lost = h.lost := rfl
@[simp] theorem Hart.setIter_pageReq (h : Hart) (i : StackNum) (v : IStack) : ((h).setIter i v).pageReq = h.pageReq := rfl
@[simp] theorem Hart.setIter_victim (h : Hart) (i : StackNum) (v : IStack) : ((h).setIter i v).victim = h.victim := rfl
@[simp] theorem Hart.setIter_ending (h : Hart) (i : StackNum) (v : IStack) : ((h).setIter i v).ending = h.ending := rfl
@[simp] theorem Hart.setIter_drawn (h : Hart) (i : StackNum) (v : IStack) : ((h).setIter i v).drawn = h.drawn := rfl
@[simp] theorem Hart.setLoop_run (h : Hart) (k : CtrNum) (v : LoopCtr) : ((h).setLoop k v).run = h.run := rfl
@[simp] theorem Hart.setLoop_pc (h : Hart) (k : CtrNum) (v : LoopCtr) : ((h).setLoop k v).pc = h.pc := rfl
@[simp] theorem Hart.setLoop_xu (h : Hart) (k : CtrNum) (v : LoopCtr) : ((h).setLoop k v).xu = h.xu := rfl
@[simp] theorem Hart.setLoop_xs (h : Hart) (k : CtrNum) (v : LoopCtr) : ((h).setLoop k v).xs = h.xs := rfl
@[simp] theorem Hart.setLoop_v (h : Hart) (k : CtrNum) (v : LoopCtr) : ((h).setLoop k v).v = h.v := rfl
@[simp] theorem Hart.setLoop_m (h : Hart) (k : CtrNum) (v : LoopCtr) : ((h).setLoop k v).m = h.m := rfl
@[simp] theorem Hart.setLoop_vtype (h : Hart) (k : CtrNum) (v : LoopCtr) : ((h).setLoop k v).vtype = h.vtype := rfl
@[simp] theorem Hart.setLoop_vl (h : Hart) (k : CtrNum) (v : LoopCtr) : ((h).setLoop k v).vl = h.vl := rfl
@[simp] theorem Hart.setLoop_vstart (h : Hart) (k : CtrNum) (v : LoopCtr) : ((h).setLoop k v).vstart = h.vstart := rfl
@[simp] theorem Hart.setLoop_epoch (h : Hart) (k : CtrNum) (v : LoopCtr) : ((h).setLoop k v).epoch = h.epoch := rfl
@[simp] theorem Hart.setLoop_lanes (h : Hart) (k : CtrNum) (v : LoopCtr) : ((h).setLoop k v).lanes = h.lanes := rfl
@[simp] theorem Hart.setLoop_avail (h : Hart) (k : CtrNum) (v : LoopCtr) : ((h).setLoop k v).avail = h.avail := rfl
@[simp] theorem Hart.setLoop_segs (h : Hart) (k : CtrNum) (v : LoopCtr) : ((h).setLoop k v).segs = h.segs := rfl
@[simp] theorem Hart.setLoop_gang (h : Hart) (k : CtrNum) (v : LoopCtr) : ((h).setLoop k v).gang = h.gang := rfl
@[simp] theorem Hart.setLoop_fcr (h : Hart) (k : CtrNum) (v : LoopCtr) : ((h).setLoop k v).fcr = h.fcr := rfl
@[simp] theorem Hart.setLoop_fflags (h : Hart) (k : CtrNum) (v : LoopCtr) : ((h).setLoop k v).fflags = h.fflags := rfl
@[simp] theorem Hart.setLoop_kvstart (h : Hart) (k : CtrNum) (v : LoopCtr) : ((h).setLoop k v).kvstart = h.kvstart := rfl
@[simp] theorem Hart.setLoop_active (h : Hart) (k : CtrNum) (v : LoopCtr) : ((h).setLoop k v).active = h.active := rfl
@[simp] theorem Hart.setLoop_slices (h : Hart) (k : CtrNum) (v : LoopCtr) : ((h).setLoop k v).slices = h.slices := rfl
@[simp] theorem Hart.setLoop_q0 (h : Hart) (k : CtrNum) (v : LoopCtr) : ((h).setLoop k v).q0 = h.q0 := rfl
@[simp] theorem Hart.setLoop_owed (h : Hart) (k : CtrNum) (v : LoopCtr) : ((h).setLoop k v).owed = h.owed := rfl
@[simp] theorem Hart.setLoop_q1 (h : Hart) (k : CtrNum) (v : LoopCtr) : ((h).setLoop k v).q1 = h.q1 := rfl
@[simp] theorem Hart.setLoop_lq (h : Hart) (k : CtrNum) (v : LoopCtr) : ((h).setLoop k v).lq = h.lq := rfl
@[simp] theorem Hart.setLoop_tlre (h : Hart) (k : CtrNum) (v : LoopCtr) : ((h).setLoop k v).tlre = h.tlre := rfl
@[simp] theorem Hart.setLoop_tlit (h : Hart) (k : CtrNum) (v : LoopCtr) : ((h).setLoop k v).tlit = h.tlit := rfl
@[simp] theorem Hart.setLoop_tlkv (h : Hart) (k : CtrNum) (v : LoopCtr) : ((h).setLoop k v).tlkv = h.tlkv := rfl
@[simp] theorem Hart.setLoop_tlxc (h : Hart) (k : CtrNum) (v : LoopCtr) : ((h).setLoop k v).tlxc = h.tlxc := rfl
@[simp] theorem Hart.setLoop_tlln (h : Hart) (k : CtrNum) (v : LoopCtr) : ((h).setLoop k v).tlln = h.tlln := rfl
@[simp] theorem Hart.setLoop_instret (h : Hart) (k : CtrNum) (v : LoopCtr) : ((h).setLoop k v).instret = h.instret := rfl
@[simp] theorem Hart.setLoop_capBase (h : Hart) (k : CtrNum) (v : LoopCtr) : ((h).setLoop k v).capBase = h.capBase := rfl
@[simp] theorem Hart.setLoop_stream (h : Hart) (k : CtrNum) (v : LoopCtr) : ((h).setLoop k v).stream = h.stream := rfl
@[simp] theorem Hart.setLoop_pulls (h : Hart) (k : CtrNum) (v : LoopCtr) : ((h).setLoop k v).pulls = h.pulls := rfl
@[simp] theorem Hart.setLoop_late (h : Hart) (k : CtrNum) (v : LoopCtr) : ((h).setLoop k v).late = h.late := rfl
@[simp] theorem Hart.setLoop_nextSeq (h : Hart) (k : CtrNum) (v : LoopCtr) : ((h).setLoop k v).nextSeq = h.nextSeq := rfl
@[simp] theorem Hart.setLoop_wins (h : Hart) (k : CtrNum) (v : LoopCtr) : ((h).setLoop k v).wins = h.wins := rfl
@[simp] theorem Hart.setLoop_reOps (h : Hart) (k : CtrNum) (v : LoopCtr) : ((h).setLoop k v).reOps = h.reOps := rfl
@[simp] theorem Hart.setLoop_ahead (h : Hart) (k : CtrNum) (v : LoopCtr) : ((h).setLoop k v).ahead = h.ahead := rfl
@[simp] theorem Hart.setLoop_iters (h : Hart) (k : CtrNum) (v : LoopCtr) : ((h).setLoop k v).iters = h.iters := rfl
@[simp] theorem Hart.setLoop_itOps (h : Hart) (k : CtrNum) (v : LoopCtr) : ((h).setLoop k v).itOps = h.itOps := rfl
@[simp] theorem Hart.setLoop_kv (h : Hart) (k : CtrNum) (v : LoopCtr) : ((h).setLoop k v).kv = h.kv := rfl
@[simp] theorem Hart.setLoop_xops (h : Hart) (k : CtrNum) (v : LoopCtr) : ((h).setLoop k v).xops = h.xops := rfl
@[simp] theorem Hart.setLoop_xst (h : Hart) (k : CtrNum) (v : LoopCtr) : ((h).setLoop k v).xst = h.xst := rfl
@[simp] theorem Hart.setLoop_xbound (h : Hart) (k : CtrNum) (v : LoopCtr) : ((h).setLoop k v).xbound = h.xbound := rfl
@[simp] theorem Hart.setLoop_xpend (h : Hart) (k : CtrNum) (v : LoopCtr) : ((h).setLoop k v).xpend = h.xpend := rfl
@[simp] theorem Hart.setLoop_revDead (h : Hart) (k : CtrNum) (v : LoopCtr) : ((h).setLoop k v).revDead = h.revDead := rfl
@[simp] theorem Hart.setLoop_ringDrops (h : Hart) (k : CtrNum) (v : LoopCtr) : ((h).setLoop k v).ringDrops = h.ringDrops := rfl
@[simp] theorem Hart.setLoop_revDone (h : Hart) (k : CtrNum) (v : LoopCtr) : ((h).setLoop k v).revDone = h.revDone := rfl
@[simp] theorem Hart.setLoop_slotsLn (h : Hart) (k : CtrNum) (v : LoopCtr) : ((h).setLoop k v).slotsLn = h.slotsLn := rfl
@[simp] theorem Hart.setLoop_arming (h : Hart) (k : CtrNum) (v : LoopCtr) : ((h).setLoop k v).arming = h.arming := rfl
@[simp] theorem Hart.setLoop_hbound (h : Hart) (k : CtrNum) (v : LoopCtr) : ((h).setLoop k v).hbound = h.hbound := rfl
@[simp] theorem Hart.setLoop_mbound (h : Hart) (k : CtrNum) (v : LoopCtr) : ((h).setLoop k v).mbound = h.mbound := rfl
@[simp] theorem Hart.setLoop_threads (h : Hart) (k : CtrNum) (v : LoopCtr) : ((h).setLoop k v).threads = h.threads := rfl
@[simp] theorem Hart.setLoop_lib (h : Hart) (k : CtrNum) (v : LoopCtr) : ((h).setLoop k v).lib = h.lib := rfl
@[simp] theorem Hart.setLoop_sup (h : Hart) (k : CtrNum) (v : LoopCtr) : ((h).setLoop k v).sup = h.sup := rfl
@[simp] theorem Hart.setLoop_trap (h : Hart) (k : CtrNum) (v : LoopCtr) : ((h).setLoop k v).trap = h.trap := rfl
@[simp] theorem Hart.setLoop_launch (h : Hart) (k : CtrNum) (v : LoopCtr) : ((h).setLoop k v).launch = h.launch := rfl
@[simp] theorem Hart.setLoop_place (h : Hart) (k : CtrNum) (v : LoopCtr) : ((h).setLoop k v).place = h.place := rfl
@[simp] theorem Hart.setLoop_depth (h : Hart) (k : CtrNum) (v : LoopCtr) : ((h).setLoop k v).depth = h.depth := rfl
@[simp] theorem Hart.setLoop_pasid (h : Hart) (k : CtrNum) (v : LoopCtr) : ((h).setLoop k v).pasid = h.pasid := rfl
@[simp] theorem Hart.setLoop_fn (h : Hart) (k : CtrNum) (v : LoopCtr) : ((h).setLoop k v).fn = h.fn := rfl
@[simp] theorem Hart.setLoop_lost (h : Hart) (k : CtrNum) (v : LoopCtr) : ((h).setLoop k v).lost = h.lost := rfl
@[simp] theorem Hart.setLoop_pageReq (h : Hart) (k : CtrNum) (v : LoopCtr) : ((h).setLoop k v).pageReq = h.pageReq := rfl
@[simp] theorem Hart.setLoop_victim (h : Hart) (k : CtrNum) (v : LoopCtr) : ((h).setLoop k v).victim = h.victim := rfl
@[simp] theorem Hart.setLoop_ending (h : Hart) (k : CtrNum) (v : LoopCtr) : ((h).setLoop k v).ending = h.ending := rfl
@[simp] theorem Hart.setLoop_drawn (h : Hart) (k : CtrNum) (v : LoopCtr) : ((h).setLoop k v).drawn = h.drawn := rfl

/-! ### Reading what an update wrote -/

@[simp] theorem State.core_setCore (s : State) (c : CoreId) (k : Core) : (s.setCore c k).core c = k := by
  simp [State.core, State.setCore, Vector.get_eq_getElem]

theorem State.core_setCore_ne (s : State) (c d : CoreId) (k : Core) (h : d ≠ c) :
    (s.setCore c k).core d = s.core d := by
  have : c.val ≠ d.val := fun e => h (Fin.ext e.symm)
  simp [State.core, State.setCore, Vector.get_eq_getElem, Vector.getElem_set_ne, this]

@[simp] theorem Core.hart_setHart (k : Core) (n : HartNum) (h : Hart) : (k.setHart n h).hart n = h := by
  simp [Core.hart, Core.setHart, Vector.get_eq_getElem]

theorem Core.hart_setHart_ne (k : Core) (n m : HartNum) (h : Hart) (hn : m ≠ n) :
    (k.setHart n h).hart m = k.hart m := by
  have : n.val ≠ m.val := fun e => hn (Fin.ext e.symm)
  simp [Core.hart, Core.setHart, Vector.get_eq_getElem, Vector.getElem_set_ne, this]

@[simp] theorem State.hart_setHart (s : State) (w : Who) (h : Hart) : (s.setHart w h).hart w = h := by
  simp [State.hart, State.setHart]

theorem State.hart_setHart_ne (s : State) (w v : Who) (h : Hart) (hv : v ≠ w) : (s.setHart w h).hart v = s.hart v := by
  by_cases hc : v.core = w.core
  · have hh : v.hart ≠ w.hart := fun e => hv (by cases v; cases w; simp_all)
    simp [State.hart, State.setHart, hc, Core.hart_setHart_ne _ _ _ _ hh]
  · simp [State.hart, State.setHart, State.core_setCore_ne _ _ _ _ hc]

@[simp] theorem State.who_setMe (s : State) (h : Hart) : (s.setMe h).who = s.who := rfl
@[simp] theorem State.who_modMe (s : State) (f : Hart → Hart) : (s.modMe f).who = s.who := rfl

@[simp] theorem State.me_setMe (s : State) (h : Hart) : (s.setMe h).me = h := State.hart_setHart s s.who h

@[simp] theorem State.me_modMe (s : State) (f : Hart → Hart) : (s.modMe f).me = f s.me := by simp [State.modMe]

theorem State.hart_setMe_ne (s : State) (w : Who) (h : Hart) (hw : w ≠ s.who) : (s.setMe h).hart w = s.hart w :=
  State.hart_setHart_ne s s.who w h hw

/-- An update of a hart leaves what else the cores hold: the scratch, the layout, the unit and the Harness. -/
theorem State.core_setHart (s : State) (w : Who) (h : Hart) (c : CoreId) :
    (s.setHart w h).core c = if c = w.core then (s.core c).setHart w.hart h else s.core c := by
  by_cases hc : c = w.core
  · subst hc; simp [State.setHart]
  · simp [State.setHart, hc, State.core_setCore_ne _ _ _ _ hc]

@[simp] theorem State.scratch_setHart (s : State) (w : Who) (h : Hart) (c : CoreId) :
    ((s.setHart w h).core c).scratch = (s.core c).scratch := by
  rw [State.core_setHart]; split <;> simp

@[simp] theorem State.scratch_setMe (s : State) (h : Hart) (c : CoreId) :
    ((s.setMe h).core c).scratch = (s.core c).scratch := State.scratch_setHart s s.who h c

@[simp] theorem Hart.win_setWin (h : Hart) (w : WinNum) (v : Window) : (h.setWin w v).win w = v := by
  simp [Hart.win, Hart.setWin, Vector.get_eq_getElem]

@[simp] theorem Hart.iter_setIter (h : Hart) (i : StackNum) (v : IStack) : (h.setIter i v).iter i = v := by
  simp [Hart.iter, Hart.setIter, Vector.get_eq_getElem]

@[simp] theorem Hart.loop_setLoop (h : Hart) (k : CtrNum) (v : LoopCtr) : (h.setLoop k v).loop k = v := by
  simp [Hart.loop, Hart.setLoop, Vector.get_eq_getElem]

theorem Hart.win_setWin_ne (h : Hart) (w u : WinNum) (v : Window) (hu : u ≠ w) : (h.setWin w v).win u = h.win u := by
  have : w.toNat ≠ u.toNat := fun e => hu (BitVec.eq_of_toNat_eq e.symm)
  simp [Hart.win, Hart.setWin, Vector.get_eq_getElem, Vector.getElem_set_ne, this]

theorem Hart.iter_setIter_ne (h : Hart) (i j : StackNum) (v : IStack) (hj : j ≠ i) : (h.setIter i v).iter j = h.iter j := by
  have : i.toNat ≠ j.toNat := fun e => hj (BitVec.eq_of_toNat_eq e.symm)
  simp [Hart.iter, Hart.setIter, Vector.get_eq_getElem, Vector.getElem_set_ne, this]

theorem Hart.loop_setLoop_ne (h : Hart) (k j : CtrNum) (v : LoopCtr) (hj : j ≠ k) : (h.setLoop k v).loop j = h.loop j := by
  have : k.toNat ≠ j.toNat := fun e => hj (BitVec.eq_of_toNat_eq e.symm)
  simp [Hart.loop, Hart.setLoop, Vector.get_eq_getElem, Vector.getElem_set_ne, this]

@[simp] theorem Hart.mreg_setMreg (h : Hart) (m : MReg) (b : VBits) : (h.setMreg m b).mreg m = b := by
  simp [Hart.mreg, Hart.setMreg, Vector.get_eq_getElem]

theorem Hart.mreg_setMreg_ne (h : Hart) (m j : MReg) (b : VBits) (hj : j ≠ m) : (h.setMreg m b).mreg j = h.mreg j := by
  have : m.toNat ≠ j.toNat := fun e => hj (BitVec.eq_of_toNat_eq e.symm)
  simp [Hart.mreg, Hart.setMreg, Vector.get_eq_getElem, Vector.getElem_set_ne, this]

theorem Hart.vreg_setVreg (h : Hart) (r j : Nat) (b : VBits) :
    (h.setVreg r b).vreg j = if j = r ∧ r < 32 then b else h.vreg j := by
  generalize hv : (0 : VBits) = z
  simp only [Hart.vreg, Hart.setVreg, Vector.toList_setIfInBounds, List.getD_eq_getElem?_getD, List.getElem?_set]
  by_cases hj : r = j
  · subst hj
    by_cases hr : r < 32 <;> simp [hr]
  · simp [hj, show ¬j = r from fun e => hj e.symm]

/-! ### Scalar registers of a hart (R19, R309) -/

@[simp] theorem Hart.x_zero (h : Hart) : h.x 0 = 0 := rfl
@[simp] theorem Hart.setX_zero (h : Hart) (v : Word) : h.setX 0 v = h := rfl

/-- A write of a register of a hart changes the bank that it names, and nothing else of the hart. -/
theorem Hart.setX_banks (h : Hart) (r : XReg) (v : Word) : ∃ a b, h.setX r v = { h with xu := a, xs := b } := by
  unfold Hart.setX
  split
  · exact ⟨h.xu, h.xs, rfl⟩
  · split
    · exact ⟨h.xu, _, rfl⟩
    · exact ⟨_, h.xs, rfl⟩

theorem State.x_scalar (s : State) (r : XReg) (h : s.agent.lane = none) : s.x r = s.me.x r := by simp [State.x, h]

theorem State.setX_scalar (s : State) (r : XReg) (v : Word) (h : s.agent.lane = none) :
    s.setX r v = s.setMe (s.me.setX r v) := by simp [State.setX, h]

/-- A register write, by the scalar unit or by a lane thread, leaves memory, the store queues and the agent. -/
theorem State.setX_frame (s : State) (r : XReg) (v : Word) :
    (s.setX r v).mem = s.mem ∧ (s.setX r v).stores = s.stores ∧ (s.setX r v).agent = s.agent ∧
      (s.setX r v).replay = s.replay ∧ (s.setX r v).nextId = s.nextId := by
  unfold State.setX
  split
  · simp
  · split <;> simp

end Sys2Proof.Machine
end

