-- ==== Sys2Proof/Laws/Elements.lean ====
section
/-!
SUPPORT. Bits and elements of vector registers under their updates, and what the element loop can do.
-/

namespace Sys2Proof.Machine

/-! ### Bits -/

theorem testBit_getBits (v : VBits) (pos w j : Nat) : (getBits v pos w).testBit j = (decide (j < w) && v.getLsbD (pos + j)) := by
  simp [getBits, Nat.testBit_mod_two_pow, Nat.testBit_div_two_pow, BitVec.getLsbD, Nat.add_comm]

theorem getLsbD_ofNat' {n : Nat} (x i : Nat) : (BitVec.ofNat n x).getLsbD i = (decide (i < n) && x.testBit i) := by
  simp [BitVec.getLsbD_ofNat]

/-- An update of a bit field changes its bits alone. -/
theorem getLsbD_setBits (v : VBits) (pos w x i : Nat) :
    (setBits v pos w x).getLsbD i =
      if pos ≤ i ∧ i < pos + w ∧ i < 2097152 then x.testBit (i - pos) else v.getLsbD i := by
  unfold setBits
  rw [BitVec.getLsbD_xor, getLsbD_ofNat', Nat.testBit_shiftLeft, Nat.testBit_xor, testBit_getBits, Nat.testBit_mod_two_pow]
  by_cases h1 : pos ≤ i
  · by_cases h2 : i < pos + w
    · by_cases h3 : i < 2097152
      · have h4 : i - pos < w := by omega
        have h5 : pos + (i - pos) = i := by omega
        simp [h1, h2, h3, h4, h5]
      · simp [h3]
    · have h4 : ¬ i - pos < w := by omega
      simp [h2, h4]
  · simp [h1]

theorem getBits_ext {a : Nat} {v : VBits} {pos w : Nat} (ha : a < 2 ^ w)
    (h : ∀ j, j < w → v.getLsbD (pos + j) = a.testBit j) : getBits v pos w = a := by
  apply Nat.eq_of_testBit_eq
  intro j
  rw [testBit_getBits]
  by_cases hj : j < w
  · simp [hj, h j hj]
  · have : a.testBit j = false := Nat.testBit_lt_two_pow (Nat.lt_of_lt_of_le ha (Nat.pow_le_pow_right (by decide) (by omega)))
    simp [hj, this]

/-- A bit field reads back as it was written. -/
theorem getBits_setBits_same (v : VBits) (pos w x : Nat) (h : pos + w ≤ 2097152) :
    getBits (setBits v pos w x) pos w = x % 2 ^ w := by
  refine getBits_ext (Nat.mod_lt _ (by positivity)) fun j hj => ?_
  rw [getLsbD_setBits, if_pos (by omega), Nat.testBit_mod_two_pow]
  simp [hj]

/-- Fields that do not meet a written field stay. -/
theorem getBits_setBits_ne (v : VBits) (pos w x pos' w' : Nat) (h : pos' + w' ≤ pos ∨ pos + w ≤ pos') :
    getBits (setBits v pos w x) pos' w' = getBits v pos' w' := by
  apply Nat.eq_of_testBit_eq
  intro j
  rw [testBit_getBits, testBit_getBits]
  by_cases hj : j < w'
  · rw [getLsbD_setBits, if_neg (by omega)]
  · simp [hj]

/-! ### Elements -/

/-- Element e of width w lies wholly inside one register of the group (R47, R50). -/
theorem elem_inside {b R w : Nat} (hd : w ∣ R) (hR : 0 < R) (hb : w ∣ b) : b % R + w ≤ R := by
  obtain ⟨k, hk⟩ := hd
  obtain ⟨c, hc⟩ := hb
  subst hk hc
  rw [Nat.mul_mod_mul_left]
  have hkp : 0 < k := Nat.pos_of_mul_pos_left hR |> fun _ => by
    rcases Nat.eq_zero_or_pos k with h | h
    · subst h; simp at hR
    · exact h
  have : c % k + 1 ≤ k := Nat.mod_lt _ hkp
  calc w * (c % k) + w = w * (c % k + 1) := by ring
    _ ≤ w * k := Nat.mul_le_mul_left _ this

/-- An element reads back as it was written; every other element of the same width of the group stays. -/
theorem Hart.elem_setElem (h : Hart) (r e e' w x : Nat) (hd : w ∣ h.regBits) (hR : 0 < h.regBits)
    (hR' : h.regBits ≤ 2097152) (hr : r + e * w / h.regBits < 32) :
    (h.setElem r e w x).elem r e' w = if e' = e then x % 2 ^ w else h.elem r e' w := by
  have hregs : (h.setElem r e w x).regBits = h.regBits := rfl
  have in1 := elem_inside hd hR ⟨e, Nat.mul_comm e w⟩
  have in2 := elem_inside hd hR ⟨e', Nat.mul_comm e' w⟩
  simp only [Hart.elem, hregs]
  simp only [Hart.setElem, Hart.vreg_setVreg]
  by_cases he : e' = e
  · subst he
    rw [if_pos ⟨rfl, hr⟩, if_pos rfl, getBits_setBits_same _ _ _ _ (by omega)]
  · rw [if_neg he]
    by_cases hj : r + e' * w / h.regBits = r + e * w / h.regBits
    · rw [if_pos ⟨hj, hr⟩, hj, getBits_setBits_ne]
      have hq : e' * w / h.regBits = e * w / h.regBits := by omega
      have h1 := Nat.div_add_mod (e' * w) h.regBits
      have h2 := Nat.div_add_mod (e * w) h.regBits
      rw [hq] at h1
      rcases Nat.lt_or_gt_of_ne he with hlt | hgt
      · left
        have : e' * w + w ≤ e * w := by
          calc e' * w + w = (e' + 1) * w := by ring
            _ ≤ e * w := Nat.mul_le_mul_right _ hlt
        omega
      · right
        have : e * w + w ≤ e' * w := by
          calc e * w + w = (e + 1) * w := by ring
            _ ≤ e' * w := Nat.mul_le_mul_right _ hgt
        omega
    · rw [if_neg (fun c => hj c.1)]

/-- A register that holds no part of a written element stays. -/
theorem Hart.vreg_setElem (h : Hart) (r e w x j : Nat) (hj : j ≠ r + e * w / h.regBits) :
    (h.setElem r e w x).vreg j = h.vreg j := by
  simp only [Hart.setElem, Hart.vreg_setVreg]
  rw [if_neg (fun c => hj c.1)]

/-! ### The element loop (R48, R50, R99) -/

/-- The hart may differ from h in vector registers of the group of n at d, but for element e, and in its flags. -/
def Hart.Alike (d n w e : Nat) (h h' : Hart) : Prop :=
  (∃ v fl, h' = { h with v := v, fflags := fl }) ∧ h'.elem d e w = h.elem d e w ∧
    ∀ r, (r < d ∨ d + n ≤ r) → h'.vreg r = h.vreg r

/-- What the loop leaves where no element traps: each active element has its function's result, a masked-off one zero
under MA, every other element and register what it had; the flags of the active elements accrue. The function may
read the destination group at its own element only. -/
theorem elemLoop_runs {f : Hart → Nat → Nat × Flags} {g : Nat → Nat × Flags} {k : MReg} {d n w : Nat} {ma : Bool}
    {es : List Nat} {h : Hart} (hd : w ∣ h.regBits) (hR : 0 < h.regBits) (hR' : h.regBits ≤ 2097152)
    (hn : d + n ≤ 32) (hes : es.Nodup) (hin : ∀ e, e ∈ es → e * w / h.regBits < n)
    (hf : ∀ h' e, e ∈ es → Hart.Alike d n w e h h' → f h' e = g e)
    (ht : ∀ e, e ∈ es → h.isActive k e = true → h.traps (g e).2 = false) :
    ∃ v, elemLoop f k d w ma es h =
        ({ h with v := v, fflags := (es.filter (h.isActive k)).foldl (fun a e => a ||| (g e).2) h.fflags }, none) ∧
      (∀ e, Hart.elem { h with v := v } d e w =
        if e ∈ es then (if h.isActive k e then (g e).1 % 2 ^ w else if ma then 0 else h.elem d e w) else h.elem d e w) ∧
      (∀ r, (r < d ∨ d + n ≤ r) → Hart.vreg { h with v := v } r = h.vreg r) := by
  induction es generalizing h with
  | nil => exact ⟨h.v, rfl, fun e => by simp, fun r _ => rfl⟩
  | cons e es ih =>
    obtain ⟨hne, hes⟩ := List.nodup_cons.1 hes
    have hlt := hin e (List.mem_cons_self ..)
    have hself : f h e = g e := hf h e (List.mem_cons_self ..) ⟨⟨h.v, h.fflags, rfl⟩, rfl, fun _ _ => rfl⟩
    -- one element, whatever is written to it, then the rest
    have step : ∀ (x : Nat) (fl : Flags),
        let h1 : Hart := { h.setElem d e w x with fflags := fl }
        ∃ v, elemLoop f k d w ma es h1 =
            ({ h with v := v, fflags := (es.filter (h.isActive k)).foldl (fun a e => a ||| (g e).2) fl }, none) ∧
          (∀ e', Hart.elem { h with v := v } d e' w =
            if e' ∈ es then (if h.isActive k e' then (g e').1 % 2 ^ w else if ma then 0 else h.elem d e' w)
            else if e' = e then x % 2 ^ w else h.elem d e' w) ∧
          (∀ r, (r < d ∨ d + n ≤ r) → Hart.vreg { h with v := v } r = h.vreg r) := by
      intro x fl h1
      have hel : ∀ e', h1.elem d e' w = if e' = e then x % 2 ^ w else h.elem d e' w :=
        fun e' => Hart.elem_setElem h d e e' w x hd hR hR' (by omega)
      have hreg : ∀ r, (r < d ∨ d + n ≤ r) → h1.vreg r = h.vreg r :=
        fun r hr => Hart.vreg_setElem h d e w x r (by
          generalize e * w / h.regBits = q at hlt ⊢
          omega)
      have hf1 : ∀ h' e', e' ∈ es → Hart.Alike d n w e' h1 h' → f h' e' = g e' := by
        rintro h' e' he' ⟨⟨v, fl', rfl⟩, ha, hb⟩
        refine hf _ e' (List.mem_cons_of_mem _ he') ⟨⟨v, fl', rfl⟩, ?_, fun r hr => ?_⟩
        · have : e' ≠ e := fun c => hne (c ▸ he')
          rw [ha, hel, if_neg this]
        · rw [hb r hr, hreg r hr]
      obtain ⟨v, h2, h3, h4⟩ := ih (h := h1) hd hR hR' hes (fun e' he' => hin e' (List.mem_cons_of_mem _ he')) hf1
        (fun e' he' ha => ht e' (List.mem_cons_of_mem _ he') ha)
      refine ⟨v, h2, fun e' => ?_, fun r hr => ?_⟩
      · rw [show Hart.elem { h with v := v } d e' w = Hart.elem { h1 with v := v } d e' w from rfl, h3 e', hel e']
        by_cases he' : e' ∈ es
        · have : e' ≠ e := fun c => hne (c ▸ he')
          simp only [he', if_true, this, if_false]
          rfl
        · simp only [he', if_false]
      · rw [show Hart.vreg { h with v := v } r = Hart.vreg { h1 with v := v } r from rfl, h4 r hr, hreg r hr]
    have same : Hart.elem h d e w % 2 ^ w = Hart.elem h d e w := by
      simp only [Hart.elem, getBits]
      exact Nat.mod_mod _ _
    by_cases ha : h.isActive k e = true
    · have hnt : h.traps (f h e).2 = false := by rw [hself]; exact ht e (List.mem_cons_self ..) ha
      obtain ⟨v, h2, h3, h4⟩ := step (f h e).1 (h.fflags ||| (f h e).2)
      refine ⟨v, ?_, fun e' => ?_, h4⟩
      · rw [elemLoop, if_pos ha]
        simp only [hnt, Bool.false_eq_true, if_false, List.filter_cons, ha, if_true, List.foldl_cons]
        rw [← hself]
        exact h2
      · rw [h3 e']
        by_cases h5 : e' = e
        · subst h5; simp [hne, ha, hself]
        · simp [h5]
    · by_cases hm : ma = true
      · obtain ⟨v, h2, h3, h4⟩ := step 0 h.fflags
        refine ⟨v, ?_, fun e' => ?_, h4⟩
        · rw [elemLoop, if_neg ha, if_pos hm]
          simp only [List.filter_cons, ha]
          exact h2
        · rw [h3 e']
          by_cases h5 : e' = e
          · subst h5; simp [hne, ha, hm]
          · simp [h5]
      · obtain ⟨v, h2, h3, h4⟩ := ih (h := h) hd hR hR' hes (fun e' he' => hin e' (List.mem_cons_of_mem _ he'))
          (fun h' e' he' hal => hf h' e' (List.mem_cons_of_mem _ he') hal) (fun e' he' ha => ht e' (List.mem_cons_of_mem _ he') ha)
        refine ⟨v, ?_, fun e' => ?_, h4⟩
        · rw [elemLoop, if_neg ha, if_neg hm]
          simp only [List.filter_cons, ha]
          exact h2
        · rw [h3 e']
          by_cases h5 : e' = e
          · subst h5; simp [hne, ha, hm]
          · simp [h5]

end Sys2Proof.Machine
end

