-- ==== Sys2Proof/Laws/Ops.lean ====
section
/-!
SUPPORT. What the shared operations of control can do: raising a trap, completing, the back-edge check, the advance of
windows, waiting, and the register transfer of the scalar members.
-/

namespace Sys2Proof.Machine

/-! ### Register transfers -/

/-- A register write leaves the executing agent's place: the address of its instruction, its hart and its lane. -/
theorem State.setX_place (s : State) (r : XReg) (v : Word) :
    (s.setX r v).who = s.who ∧ (s.setX r v).agent = s.agent ∧ (s.setX r v).replay = s.replay := by
  obtain ⟨-, -, ha, hr, -⟩ := s.setX_frame r v
  exact ⟨by simp [State.who, ha], ha, hr⟩

/-! ### Waiting -/

theorem stall_eq (w : Wait) (s : State) : stall w s = .next (s.setMe { s.me with run := .waiting w }) := rfl

/-! ### Traps -/

/-- Raising a trap waits until the vector instructions before it have completed, on the scalar unit, and otherwise enters the
trap. -/
theorem raise_cases (t : Trap) (s : State) :
    (s.replay = none ∧ s.agent.lane = none ∧ s.me.allDone = false ∧
      raise t s = .next (s.setMe { s.me with run := .waiting .stream })) ∨
    ((s.replay = none → s.agent.lane = none → s.me.allDone = true) ∧
      raise t s = .next (trapAt t t.cause.squash s.pcNow s)) := by
  unfold raise
  split
  · rename_i h
    simp only [Bool.and_eq_true, Option.isNone_iff_eq_none, Bool.not_eq_true'] at h
    exact .inl ⟨h.1.1, h.1.2, h.2, stall_eq _ _⟩
  · rename_i h
    refine .inr ⟨fun h1 h2 => ?_, rfl⟩
    simpa [h1, h2] using h

/-- With no vector instruction outstanding and every pull formed, everything has retired. -/
theorem settled_of_empty {h : Hart} (q : Nat) (hs : h.stream = []) (hp : h.pulls.all (·.formed) = true) : h.settled q = true := by
  simp only [List.all_eq_true] at hp
  simp only [Hart.settled, hs, List.all_nil, Bool.true_and, List.all_eq_true, Bool.or_eq_true]
  exact fun p h => .inl (hp p h)

theorem allDone_of_empty {h : Hart} (hs : h.stream = []) (hp : h.pulls.all (·.formed) = true) : h.allDone = true := by
  rw [Hart.allDone, settled_of_empty _ hs hp, hs]; rfl

theorem raise_of_quiet {t : Trap} {s : State} (h : s.Quiet) : raise t s = .next (trapAt t t.cause.squash s.pcNow s) := by
  rcases raise_cases t s with ⟨-, -, h1, -⟩ | ⟨-, h2⟩
  · rw [allDone_of_empty h.2.1 h.2.2.1] at h1; cases h1
  · exact h2

theorem raise_of_lane {t : Trap} {s : State} {l : Nat} (h : s.agent.lane = some l) :
    raise t s = .next (trapAt t t.cause.squash s.pcNow s) := by
  rcases raise_cases t s with ⟨-, h1, -⟩ | ⟨-, h2⟩
  · rw [h] at h1; cases h1
  · exact h2

/-- Raising a trap always gives a next state. -/
theorem raise_next (t : Trap) (s : State) : ∃ u, raise t s = .next u := by
  rcases raise_cases t s with ⟨-, -, -, h⟩ | ⟨-, h⟩ <;> exact ⟨_, h⟩

theorem pcNow_of_scalar {s : State} (h : s.OnScalar) : s.pcNow = s.me.pc := by
  simp [State.pcNow, h.1, h.2.1]

/-- The entry of a trap of the scalar unit: the trap registers, STATUS, the PC, and nothing else. -/
theorem trapAt_scalar {s : State} (h : s.OnScalar) (t : Trap) (sq : Bool) (pc : Word) :
    trapAt t sq pc s = s.setMe (s.me.enterTrap t pc sq false) := by
  simp [trapAt, h.1, h.2.1, State.modMe]

/-- That of a lane thread: the trap is its hart's, and the scalar unit executes next. -/
theorem trapAt_lane {s : State} {l : Nat} (hr : s.replay = none) (h : s.agent.lane = some l) (t : Trap) (sq : Bool) (pc : Word) :
    trapAt t sq pc s = { s.setMe (s.me.enterTrap { t with elem := l } pc sq true) with agent := ⟨s.who, none⟩ } := by
  simp [trapAt, hr, h, State.modMe]

theorem State.discardAfter_mem (s : State) (w : Who) (q : Nat) : (s.discardAfter w q).mem = s.mem := rfl

theorem setQbufs_mem (l : List ((CoreId × Fin 8) × List Host.Cell)) (s : State) :
    (l.foldl (fun s b => s.setQbuf b.1 b.2) s).mem = s.mem := by
  induction l generalizing s with
  | nil => rfl
  | cons b l ih => rw [List.foldl_cons, ih]; rfl

theorem State.restoreSnap_mem (s : State) (e : Issued) : (s.restoreSnap e).mem = s.mem := setQbufs_mem _ _

/-- The entry of any trap leaves memory. -/
theorem trapAt_mem (t : Trap) (sq : Bool) (pc : Word) (s : State) : (trapAt t sq pc s).mem = s.mem := by
  unfold trapAt
  split
  · rw [State.modMe_mem, State.restoreSnap_mem, State.discardAfter_mem]
  · split <;> simp

/-! ### The back-edge check and completion -/

theorem goTo_mem (s : State) (p : Word) : (s.goTo p).mem = s.mem := rfl

/-- The memory that the advances of a counter change leave. -/
def AdvRes.memIs (m : List Host.Cell) : AdvRes → Prop
  | .done s => s.mem = m
  | .full s => s.mem = m
  | .fail _ _ => True

theorem advanceAll_mem (k : Nat) (old new : Nat → Int) (q : Nat) (s : State) (ws : List WinNum) :
    (advanceAll k old new q s ws).memIs s.mem := by
  induction ws generalizing s with
  | nil => exact State.modMe_mem _ _
  | cons w ws ih =>
    unfold advanceAll
    simp only
    split
    · exact ih s
    · split
      · trivial
      · split
        · rfl
        · exact ih _

theorem setCounter_mem (k : CtrNum) (v p : Word) (wrap : Bool) (s : State) : (setCounter k v p wrap s).memIs s.mem := by
  have ha := advanceAll_mem k.toNat s.me.ctr (s.me.putCtr k v).ctr s.seqNow s allWins
  unfold setCounter
  split
  · rfl
  · split
    · rename_i s' h
      rw [h] at ha
      exact (State.modMe_mem _ _).trans ha
    · exact ha

/-- The check moves a hart along its loops: memory stays. -/
theorem backEdge_mem (p : Word) (s : State) (ks : List CtrNum) : (backEdge p s ks).mem = s.mem := by
  induction ks generalizing s with
  | nil => rfl
  | cons k ks ih =>
    simp only [backEdge]
    split
    · split
      · rw [ih]; rfl
      · have hc := setCounter_mem k ((s.me.loop k).cnt + 1) p true s
        split
        · rename_i s' h
          rw [h] at hc
          exact (State.modMe_mem _ _).trans hc
        · rw [trapAt_mem]; rfl
        · rename_i s' h
          rw [h] at hc
          rw [goTo_mem, State.modMe_mem]
          exact hc
    · exact ih s

@[simp] theorem arrive_mem (p : Word) (s : State) : (arrive p s).mem = s.mem := backEdge_mem p s _

@[simp] theorem complete_mem (p : Word) (s : State) : (complete p s).mem = s.mem := by
  unfold complete
  split
  · rfl
  · rw [arrive_mem]; rfl

@[simp] theorem finish_mem (s : State) : (finish s).mem = s.mem := complete_mem _ _

theorem arrive_of_no_loop {s : State} (p : Word) (h : s.me.active = []) : arrive p s = s.goTo p := by
  simp [arrive, h, backEdge]

theorem complete_lane {s : State} {l : Nat} (p : Word) (h : s.agent.lane = some l) : complete p s = s.setThreadPc l p := by
  simp [complete, h]

theorem complete_scalar {s : State} (p : Word) (h : s.agent.lane = none) :
    complete p s = arrive p (s.modMe (fun h => { h with instret := h.instret + 1 })) := by
  simp [complete, h]

theorem done_eq (s : State) : done s = .next (finish s) := rfl

end Sys2Proof.Machine
end

