-- ==== Sys2Proof/Laws/Issue.lean ====
section
/-!
SUPPORT. What the issue of a vector member can do (R20, R56, R312, R324), in one case analysis.
-/

namespace Sys2Proof.Machine

/-- With no fenced store left there is none to perform. -/
theorem fencedDone_of_none {s : State} (h : s.stores.all (fun t => t.who != s.who || !t.fenced) = true) : s.fencedDone = s := by
  have : s.stores.filter (fun t => t.who == s.who && t.fenced && s.me.settled t.seq) = [] := by
    rw [List.filter_eq_nil_iff]
    intro t ht
    have := List.all_eq_true.1 h t ht
    simp only [Bool.or_eq_true, bne_iff_ne, ne_eq, Bool.not_eq_true'] at this
    rcases this with h1 | h1 <;> simp [h1]
  rw [State.fencedDone, this, List.foldl_nil]

/-- Where every pull has its group, nothing is to be put back. -/
theorem noteBehind_formed {s : State} (s' : State) (h : s.me.pulls.all (·.formed) = true) : noteBehind s s' = s' := by
  simp [noteBehind, h]

/-- What the head of the stream captures when it issues to an empty stream. -/
def State.captureNow (s : State) (w : Insn) (caps : State → List Word) : Capture :=
  { s.capture (caps s) with arm := if isEngine w then s.me.arming else none }

/-- With no fenced store left, a vector member is executed again from the head of the stream; or it fails a check; or it runs at once; or it waits for
room; or it enters the stream, behind others or because it is only to issue. -/
theorem vissue_cases (w : Insn) (check : State → Option Cause) (caps : State → List Word) (body : Capture → State → VRes)
    (s : State) (hf : s.fencedDone = s) :
    (∃ e, s.replay = some e ∧
      vissue w check caps body s =
        .next (endReplay e s (if s.me.outBusy w e.cap.vtype then .block else paced w body e.cap s (body e.cap s)))) ∨
    (∃ c, s.replay = none ∧ check s = some c ∧ vissue w check caps body s = raiseWord c w s) ∨
    (s.replay = none ∧ check s = none ∧ s.me.stream = [] ∧ s.pace = none ∧
      vissue w check caps body s =
        match (if s.me.outBusy w s.me.vtype then .block else body (s.captureNow w caps) s) with
        | .done s' => .next (finish ((noteBehind s s').disarm w))
        | .block => .next (finish ((s.enqueue w (s.captureNow w caps) none s.snap).disarm w))
        | .wait cap' held s' => .next (finish ((s'.enqueue w cap' held s.snap).disarm w))
        | .trap t s' => .next (streamTrap t t.cause.squash s.pcNow s')
        | .squash t s' => .next (streamTrap t true s.pcNow s')) ∨
    (s.replay = none ∧ check s = none ∧ ¬(s.me.stream = [] ∧ s.pace = none) ∧ 32 ≤ s.me.outstanding ∧
      vissue w check caps body s = .next (s.setMe { s.me with run := .waiting .stream })) ∨
    (s.replay = none ∧ check s = none ∧ ¬(s.me.stream = [] ∧ s.pace = none) ∧ s.me.outstanding < 32 ∧
      vissue w check caps body s = .next (finish ((s.enqueue w (s.captureNow w caps) none s.snap).disarm w))) := by
  unfold vissue
  rw [hf]
  cases hr : s.replay with
  | some e => exact .inl ⟨e, rfl, by simp only [hr]⟩
  | none =>
    right
    cases hc : check s with
    | some c => exact .inl ⟨c, rfl, rfl, by simp only [hr, hc]⟩
    | none =>
      right
      by_cases he : s.me.stream = [] ∧ s.pace = none
      · left
        refine ⟨rfl, rfl, he.1, he.2, ?_⟩
        simp only [hr, hc, he.1, he.2, List.isEmpty_nil, Option.isNone_none, Bool.and_self, if_true]
        rfl
      · right
        have he' : (s.me.stream.isEmpty && s.pace.isNone) = false := by
          cases hp : s.pace with
          | some _ => simp
          | none =>
            have : s.me.stream ≠ [] := fun h => he ⟨h, hp⟩
            simpa [List.isEmpty_iff] using this
        by_cases hl : 32 ≤ s.me.outstanding
        · left
          refine ⟨rfl, rfl, he, hl, ?_⟩
          simp only [hr, hc, he', Bool.false_eq_true, if_false, ge_iff_le, hl, if_true]
          rfl
        · right
          refine ⟨rfl, rfl, he, by omega, ?_⟩
          simp only [hr, hc, he', Bool.false_eq_true, if_false, ge_iff_le, hl]
          rfl

/-- With nothing outstanding a member that passes its check runs at once. -/
theorem vissue_now {w : Insn} {check : State → Option Cause} {caps : State → List Word} {body : Capture → State → VRes}
    {s : State} (hq : s.Quiet) (hc : check s = none) (hb : s.me.outBusy w s.me.vtype = false) :
    vissue w check caps body s =
      match body (s.captureNow w caps) s with
      | .done s' => .next (finish (s'.disarm w))
      | .block => .next (finish ((s.enqueue w (s.captureNow w caps) none s.snap).disarm w))
      | .wait cap' held s' => .next (finish ((s'.enqueue w cap' held s.snap).disarm w))
      | .trap t s' => .next (streamTrap t t.cause.squash s.pcNow s')
      | .squash t s' => .next (streamTrap t true s.pcNow s') := by
  obtain ⟨⟨hr, -, hp⟩, hs, hl, hf⟩ := hq
  rcases vissue_cases w check caps body s (fencedDone_of_none hf) with ⟨e, h1, -⟩ | ⟨c, -, h1, -⟩ | ⟨-, -, -, -, h1⟩ | ⟨-, -, h1, -⟩ | ⟨-, -, h1, -⟩
  · simp [hr] at h1
  · simp [hc] at h1
  · rw [h1, hb]
    simp only [Bool.false_eq_true, if_false, noteBehind_formed _ hl]
  · exact absurd ⟨hs, hp⟩ h1
  · exact absurd ⟨hs, hp⟩ h1

/-- A member whose check passes and whose body completes, with nothing outstanding, completes. -/
theorem vissue_completes {w : Insn} {check : State → Option Cause} {caps : State → List Word} {body : Capture → State → VRes}
    {s u : State} (hq : s.Quiet) (hc : check s = none) (hb : s.me.outBusy w s.me.vtype = false)
    (h : body (s.captureNow w caps) s = .done u) : vissue w check caps body s = .next (finish (u.disarm w)) := by
  rw [vissue_now hq hc hb, h]

/-- One whose body traps, with nothing outstanding, traps there. -/
theorem vissue_traps {w : Insn} {check : State → Option Cause} {caps : State → List Word} {body : Capture → State → VRes}
    {s u : State} {t : Trap} (hq : s.Quiet) (hc : check s = none) (hb : s.me.outBusy w s.me.vtype = false)
    (h : body (s.captureNow w caps) s = .trap t u) :
    vissue w check caps body s = .next (streamTrap t t.cause.squash s.pcNow u) := by
  rw [vissue_now hq hc hb, h]

/-- A member with no XRECV and no pull outstanding waits for none. -/
theorem outBusy_of_none {h : Hart} (w : Insn) (t : Word) (hp : h.pulls = []) (hx : h.xops.all (fun o => o.kind != .recv) = true) :
    h.outBusy w t = false := by
  have hr : h.xops.any (fun o => o.kind == .recv &&
      (vecReads w t ++ vecWrites w t).any (fun g => overlaps o.vd.toNat (emulOf o.vtype (sewOf o.vtype)) g.1 g.2)) = false := by
    rw [List.any_eq_false]
    intro o ho
    have := List.all_eq_true.1 hx o ho
    simp only [bne_iff_ne, ne_eq] at this
    simp [this]
  unfold Hart.outBusy
  rw [hp]
  simpa only [List.any_nil, List.isEmpty_nil, Bool.not_true, Bool.and_false, Bool.or_false] using hr

/-- Only an engine command takes the arming of HARM. -/
theorem disarm_of_plain {w : Insn} (h : isEngine w = false) (s : State) : s.disarm w = s := by simp [State.disarm, h]

end Sys2Proof.Machine
end

