-- ==== Sys2Proof/Laws/Memory.lean ====
section
/-!
SUPPORT. Memory as a list of cells: what a write does to a read, and that every operation over memory keeps the one
form. Memory is written by `Memory.write` and `Memory.writeAll`, and cut by filters over its cells; nothing else makes
a memory.
-/

namespace Sys2Proof.Machine

/-! ### The one form -/

/-- The one form, said of a list and of a cell that would stand before it. -/
def Memory.From (lo : Nat) : List Host.Cell → Prop
  | [] => True
  | c :: m => lo ≤ c.1 ∧ c.2 ≠ Memory.dflt ∧ Memory.From (c.1 + 1) m

theorem Memory.from_mono {lo lo' : Nat} {m : List Host.Cell} (h : Memory.From lo' m) (hl : lo ≤ lo') : Memory.From lo m := by
  cases m with
  | nil => trivial
  | cons c m => exact ⟨Nat.le_trans hl h.1, h.2⟩

theorem Memory.wf_iff (m : List Host.Cell) : Memory.wf m = true ↔ Memory.From 0 m := by
  have key : ∀ (c : Host.Cell) (m : List Host.Cell),
      Memory.rising (c :: m) = true ↔ c.2 ≠ Memory.dflt ∧ Memory.From (c.1 + 1) m := by
    intro c m
    induction m generalizing c with
    | nil => simp [Memory.rising, Memory.From]
    | cons d m ih =>
      rw [Memory.rising, Memory.From]
      simp only [Bool.and_eq_true, decide_eq_true_eq, bne_iff_ne, ih d, Nat.succ_le_iff]
      tauto
  cases m with
  | nil => simp [Memory.wf, Memory.rising, Memory.From]
  | cons c m => simp [Memory.wf, key, Memory.From]

theorem Memory.from_write {lo : Nat} {m : List Host.Cell} {a : Nat} {v : Byte} (h : Memory.From lo m) (ha : lo ≤ a) :
    Memory.From lo (Memory.write m a v) := by
  induction m generalizing lo with
  | nil =>
    by_cases hv : v = Memory.dflt
    · simp [Memory.write, hv, Memory.From]
    · simp [Memory.write, hv, Memory.From, ha]
  | cons c m ih =>
    obtain ⟨k, b⟩ := c
    obtain ⟨h1, h2, h3⟩ := h
    by_cases hv : v = Memory.dflt <;> by_cases hlt : a < k <;> by_cases heq : a = k
    all_goals simp only [Memory.write, hv, hlt, heq, beq_iff_eq, if_true, if_false, beq_self_eq_true, lt_irrefl]
    all_goals first
      | exact ⟨h1, h2, h3⟩
      | exact Memory.from_mono h3 (by simp only at h1; omega)
      | exact ⟨ha, hv, by simp only at h1; omega, h2, h3⟩
      | exact ⟨h1, hv, h3⟩
      | exact ⟨h1, h2, by simpa [hv] using ih h3 (by simp only; omega)⟩

/-- A write keeps the one form. -/
theorem Memory.write_wf {m : List Host.Cell} (a : Nat) (v : Byte) (h : Memory.wf m = true) :
    Memory.wf (Memory.write m a v) = true :=
  (Memory.wf_iff _).2 (Memory.from_write ((Memory.wf_iff m).1 h) (Nat.zero_le a))

/-- Writes of any cells keep the one form. -/
theorem Memory.writeAll_wf {m : List Host.Cell} (cs : List Host.Cell) (h : Memory.wf m = true) :
    Memory.wf (Memory.writeAll m cs) = true := by
  induction cs generalizing m with
  | nil => exact h
  | cons c cs ih => exact ih (Memory.write_wf c.1 c.2 h)

theorem Memory.from_filter {lo : Nat} {m : List Host.Cell} (p : Host.Cell → Bool) (h : Memory.From lo m) :
    Memory.From lo (m.filter p) := by
  induction m generalizing lo with
  | nil => trivial
  | cons c m ih =>
    obtain ⟨h1, h2, h3⟩ := h
    rw [List.filter_cons]
    split
    · exact ⟨h1, h2, ih h3⟩
    · exact Memory.from_mono (ih h3) (by omega)

/-- Dropping cells keeps the one form. -/
theorem Memory.filter_wf {m : List Host.Cell} (p : Host.Cell → Bool) (h : Memory.wf m = true) :
    Memory.wf (m.filter p) = true :=
  (Memory.wf_iff _).2 (Memory.from_filter p ((Memory.wf_iff m).1 h))

@[simp] theorem Memory.nil_wf : Memory.wf [] = true := rfl

/-! ### Reads after writes -/

theorem Memory.read_below {lo : Nat} {m : List Host.Cell} {a : Nat} (h : Memory.From lo m) (ha : a < lo) :
    Memory.read m a = Memory.dflt := by
  induction m generalizing lo with
  | nil => rfl
  | cons c m ih =>
    obtain ⟨h1, h2, h3⟩ := h
    have : a ≠ c.1 := by omega
    simp [Memory.read, this, ih h3 (by omega)]

/-- A read after a write of one byte. -/
theorem Memory.read_write {m : List Host.Cell} (a b : Nat) (v : Byte) (h : Memory.wf m = true) :
    Memory.read (Memory.write m a v) b = if b = a then v else Memory.read m b := by
  have key : ∀ (lo : Nat) (m : List Host.Cell), Memory.From lo m →
      Memory.read (Memory.write m a v) b = if b = a then v else Memory.read m b := by
    intro lo m h
    induction m generalizing lo with
    | nil =>
      by_cases hv : v = Memory.dflt
      · simp only [Memory.write, hv, beq_self_eq_true, if_true, Memory.read]; split <;> rfl
      · simp [Memory.write, hv, Memory.read]
    | cons c m ih =>
      obtain ⟨k, x⟩ := c
      obtain ⟨h1, h2, h3⟩ := h
      have hr := ih _ h3
      have hb : ∀ n, n ≤ k → Memory.read m n = Memory.dflt := fun n hn => Memory.read_below h3 (by simp only; omega)
      rcases Nat.lt_trichotomy a k with hlt | heq | hgt
      · by_cases hv : v = Memory.dflt
        · simp only [Memory.write, hlt, if_true, hv, beq_self_eq_true]
          by_cases hba : b = a
          · simp [Memory.read, hba, hb a (by omega), show a ≠ k by omega]
          · simp [hba]
        · simp [Memory.write, hlt, hv, Memory.read]
      · subst heq
        by_cases hv : v = Memory.dflt
        · simp only [Memory.write, lt_irrefl, if_false, beq_self_eq_true, if_true, hv]
          by_cases hba : b = a
          · simp [hba, hb a (by omega)]
          · simp [Memory.read, hba]
        · simp only [Memory.write, lt_irrefl, if_false, beq_self_eq_true, if_true, beq_iff_eq, hv, Memory.read]
          split <;> rfl
      · have h1' : ¬ a < k := by omega
        have h2' : a ≠ k := by omega
        simp only [Memory.write, h1', h2', if_false, beq_iff_eq, Memory.read, hr]
        by_cases hbk : b = k
        · have : b ≠ a := by omega
          simp [hbk, show k ≠ a by omega]
        · simp [hbk]
  exact key 0 m ((Memory.wf_iff m).1 h)

/-- A read outside the cells that are written. -/
theorem Memory.read_writeAll_ne {m : List Host.Cell} (cs : List Host.Cell) (b : Nat) (h : Memory.wf m = true)
    (hb : ∀ c, c ∈ cs → c.1 ≠ b) : Memory.read (Memory.writeAll m cs) b = Memory.read m b := by
  induction cs generalizing m with
  | nil => rfl
  | cons c cs ih =>
    have h1 := ih (Memory.write_wf c.1 c.2 h) (fun d hd => hb d (List.mem_cons_of_mem _ hd))
    have h2 : b ≠ c.1 := fun e => hb c (List.mem_cons_self ..) e.symm
    rw [show Memory.writeAll m (c :: cs) = Memory.writeAll (Memory.write m c.1 c.2) cs from rfl, h1,
      Memory.read_write c.1 b c.2 h, if_neg h2]

/-! ### Operations over the memory of the state -/

theorem State.writeCells_wf (s : State) (cs : List Host.Cell) (h : Memory.wf s.mem = true) :
    Memory.wf (s.writeCells cs).mem = true := Memory.writeAll_wf cs h

theorem State.writeN_wf (s : State) (key n v : Nat) (h : Memory.wf s.mem = true) : Memory.wf (s.writeN key n v).mem = true :=
  State.writeCells_wf s _ h

/-- Where no write lags, every observer sees memory as it is. -/
theorem Order.shown_idle {o : Order} (h : o.lag = []) : o.shown = o := by simp [Order.shown, h]

theorem Order.seen_idle {o : Order} (h : o.lag = []) (b : Observer) (k : Nat) (v : Byte) : o.seen b k v = v := by
  simp [Order.seen, h]

theorem State.allSee_idle {s : State} (h : s.order.lag = []) : s.allSee = s := by
  rw [State.allSee, Order.shown_idle h]

theorem State.fenceAt_idle {s : State} (h : s.order.lag = []) (scope : Nat) : s.fenceAt scope = s := by
  simp [State.fenceAt, h]

theorem State.sawBytes_idle {s : State} (h : s.order.lag = []) (w : Who) (ks : List Nat) : s.sawBytes w ks = s := by
  simp [State.sawBytes, h]

/-- A byte that its agent has no queued store to is what memory holds. -/
theorem State.ownByte_idle {s : State} (h : s.order.lag = []) (w : Who) (u : Unit') (k : Nat)
    (hs : s.stores.all (fun t => !(t.who == w && t.by' == u && t.cells.any (fun c => c.1 == k))) = true) :
    s.ownByte w u k = s.byte k := by
  have : s.stores.reverse.find? (fun t => t.who == w && t.by' == u && t.cells.any (fun c => c.1 == k)) = none := by
    rw [List.find?_eq_none]
    intro t ht
    have := List.all_eq_true.1 hs t (List.mem_reverse.1 ht)
    simp only [Bool.not_eq_true'] at this
    simp [this]
  rw [State.ownByte, this, Order.seen_idle h]

/-- A write of cells changes memory, the marks of its granules and who sees what alone. -/
theorem State.writeCells_frame (s : State) (cs : List Host.Cell) :
    (s.writeCells cs) = { s with mem := Memory.writeAll s.mem cs, bad := clearMarks s.bad cs, order := s.order.shown } := rfl

/-- So does a write of a hart. -/
theorem State.writeBy_frame (s : State) (w : Who) (own : Option Unit') (sl : List Nat) (cs : List Host.Cell) :
    ∃ o, s.writeBy w own sl cs = { s with mem := Memory.writeAll s.mem cs, bad := clearMarks s.bad cs, order := o } :=
  ⟨_, rfl⟩

theorem State.writeBy_wf (s : State) (w : Who) (own : Option Unit') (sl : List Nat) (cs : List Host.Cell)
    (h : Memory.wf s.mem = true) : Memory.wf (s.writeBy w own sl cs).mem = true := Memory.writeAll_wf cs h

@[simp] theorem State.writeCells_cores (s : State) (cs : List Host.Cell) : (s.writeCells cs).cores = s.cores := rfl

/-- A queued store leaves memory and every hart as they are. -/
theorem State.queueStore_frame (s : State) (u : Unit') (va : Word) (cs : List Host.Cell) :
    (s.queueStore u va cs).mem = s.mem ∧ (s.queueStore u va cs).cores = s.cores ∧
      (s.queueStore u va cs).agent = s.agent ∧ ∃ l, (s.queueStore u va cs).stores = s.stores ++ l := by
  unfold State.queueStore
  cases cs with
  | nil => simp
  | cons c cs => exact ⟨rfl, rfl, rfl, _, rfl⟩

theorem State.modPort_mem (s : State) (i : Nat) (f : Port → Port) : (s.modPort i f).mem = s.mem := rfl

theorem State.sendFlits_mem (s : State) (n : Nat) : (s.sendFlits n).mem = s.mem := by
  unfold State.sendFlits; split <;> rfl

/-- Performing a store keeps the one form. -/
theorem State.performStore_wf (s : State) (t : PStore) (h : Memory.wf s.mem = true) :
    Memory.wf (s.performStore t).mem = true := by
  unfold State.performStore
  simp only
  split
  · simpa using h
  · split
    · exact State.writeBy_wf _ _ _ _ _ (by rw [State.sendFlits_mem]; exact h)
    · exact State.writeBy_wf _ _ _ _ _ h

theorem foldl_keeps {α β : Type} (P : α → Prop) (f : α → β → α) (hf : ∀ a b, P a → P (f a b)) (l : List β) (a : α)
    (h : P a) : P (l.foldl f a) := by
  induction l generalizing a with
  | nil => exact h
  | cons b l ih => exact ih _ (hf a b h)

/-- Performing the stores that a fence waits for keeps the one form. -/
theorem State.fencedDone_wf (s : State) (h : Memory.wf s.mem = true) : Memory.wf s.fencedDone.mem = true :=
  foldl_keeps (fun s : State => Memory.wf s.mem = true) (fun s t => s.performStore t) (fun s t => s.performStore_wf t) _ s h

/-- A write of the scratch of a lane keeps the one form of the scratch of every core. -/
theorem State.setScratchN_wf (s : State) (w : Who) (l off n v : Nat) (h : ∀ c, Memory.wf (s.core c).scratch = true) :
    ∀ c, Memory.wf ((s.setScratchN w l off n v).core c).scratch = true := by
  intro c
  have core (u : State) : ({ u with bad := u.bad.filter (· != ErrorSite.scratch (s.laneCore w l).1 (s.laneCore w l).2 off) } : State).core c
      = u.core c := rfl
  have key : Memory.wf ((s.modCore (s.laneCore w l).1 (fun k =>
      { k with scratch := Memory.writeAll k.scratch (cellsAt (scratchKey (s.laneCore w l).2 off) (bytesOf n v)) })).core c).scratch
        = true := by
    by_cases hc : c = (s.laneCore w l).1
    · subst hc
      rw [State.modCore, State.core_setCore]
      exact Memory.writeAll_wf _ (h _)
    · rw [State.modCore, State.core_setCore_ne _ _ _ _ hc]
      exact h c
  unfold State.setScratchN
  simp only
  split
  · rw [core]; exact key
  · exact key

theorem State.requestPage_mem (s : State) (h : Hart) (a : Ask) : (s.requestPage h a).1.mem = s.mem := by
  unfold State.requestPage
  split
  · rfl
  · simp only
    split <;> rfl

/-- The link changes no memory. -/
theorem State.linkTo_mem (s : State) (key n : Nat) : (s.linkTo key n).mem = s.mem := by
  unfold State.linkTo
  split
  · exact s.sendFlits_mem n
  · rfl

/-- A byte that a transfer moves is written, or the transfer fails there: either way the one form is kept. -/
theorem transferByte_wf {p q : State} {t : Transfer} (h : Memory.wf p.mem = true) (hq : transferByte p t = .ok q) :
    Memory.wf q.mem = true := by
  unfold transferByte at hq
  simp only at hq
  split at hq
  · cases hq
  · cases hq
  · split_ifs at hq <;>
    · injection hq with hq
      rw [← hq]
      exact State.writeCells_wf _ _ (by simpa only [State.linkTo_mem] using h)

theorem moveBytes_wf (n : Nat) (p : State) (t : Transfer) (h : Memory.wf p.mem = true) :
    Memory.wf (moveBytes n p t).1.mem = true := by
  induction n generalizing p t with
  | zero => exact h
  | succ n ih =>
    rw [moveBytes]
    split
    · exact h
    · exact ih _ _ (transferByte_wf h ‹_›)

/-- Asking for a host page first changes no memory. -/
theorem pageFirst_mem {s u : State} {h : Hart} {asked l : List Nat} {e : MemErr} (hp : pageFirst s h asked e = some (u, l)) :
    u.mem = s.mem := by
  unfold pageFirst at hp
  split at hp
  · cases hp
  · split_ifs at hp
    · cases hp; rfl
    · cases hp; exact State.requestPage_mem _ _ _

/-- Carrying a transfer on keeps the one form. -/
theorem runTransfer_wf (q : VQueue) (t : Transfer) (s : State) (h : Memory.wf (s.queueProbe q).mem = true) :
    Memory.wf (runTransfer q t s).mem = true := by
  have hm := moveBytes_wf (t.len - t.pos) (s.queueProbe q) t h
  unfold runTransfer
  simp only
  split
  · exact hm
  · split
    · rename_i s2 l h2
      have := pageFirst_mem h2
      simpa [this] using hm
    · exact hm

/-- The memory of the device after reset, and the scratch of every core, have the one form. -/
theorem reset_mem_wf : Memory.wf State.reset.mem = true := rfl

theorem reset_scratch_wf (c : CoreId) : Memory.wf (State.reset.core c).scratch = true := by
  have : (State.reset.core c).scratch = [] := by
    simp [State.core, State.reset, Vector.get_eq_getElem, Core.reset]
  rw [this]; rfl

end Sys2Proof.Machine
end

