-- ==== Sys2Proof/Tests/Slice0.lean ====
section
/-!
SUPPORT. Tests: ill-formed terms that the checks refuse, words of every row of the opcode table decoded, a witness for
the hypotheses of every statement, and single steps. Expected values come from the spec's tables or are worked out by
hand from its rules.
-/

open Sys2Proof Sys2Proof.Machine

namespace Sys2Proof.Tests

set_option Elab.async false

/-! ### Small states -/

/-- The instruction answers a next state that has a property. -/
noncomputable def gives (i : Instr) (s : State) (p : State → Bool) : Bool :=
  match exec i s with
  | .next t => p t
  | _ => false

/-- The next state of an instruction that has one. -/
noncomputable def after (i : Instr) (s : State) : State :=
  match exec i s with
  | .next t => t
  | _ => s

/-- It completes at the next word with a property. -/
noncomputable def does (i : Instr) (s : State) (p : State → Bool) : Bool :=
  gives i s (fun t => p t && t.me.trap.cause == s.me.trap.cause && t.pcNow == s.pcNow + 4 && t.me.run == .running)

/-- It raises this trap at itself. -/
noncomputable def traps (i : Instr) (t : Trap) (s : State) : Bool :=
  gives i s (fun u => u.me.trap.cause == t.cause.code && u.me.trap.val == t.val && u.me.trap.pc == s.pcNow && u.me.trap.priv)

/-- The only hart of a launch that runs on partition 0, at the code page, with four pages to read and write. -/
noncomputable def base : State :=
  let s := State.reset.withFetchWord 32 0x6C000000
  s.modCore 0 (fun k => { k with ranges := [fetchRange, [0x4001, 0x7000, 0x4018, 0]], scratchSize := 1024 })

/-- It with a change to its hart. -/
noncomputable def with' (f : Hart → Hart) : State := base.modMe f

/-- Lane thread 3 of it. -/
noncomputable def lane3 : State :=
  { with' (fun h => { h with threads := some (Vector.replicate 32 ⟨8, false⟩) }) with agent := ⟨⟨0, 0⟩, some 3⟩ }

/-- In supervisor mode. -/
noncomputable def sup : State := with' (fun h => { h with trap := { h.trap with priv := true } })

/-- In vector type SEW 32, LMUL 1, EK integer, with a length of 4. -/
noncomputable def vec : State := with' (fun h => { h with vtype := 2, vl := 4 })

/-- In vector type SEW 32, LMUL 1, EK float, with a length of 4. -/
noncomputable def flt : State := with' (fun h => { h with vtype := 10, vl := 4 })

/-- Loop counter 1 runs, its end behind the instruction at the code page. -/
noncomputable def looping (rem : Word) : State :=
  with' (fun h => { h.setLoop 1 ⟨0, rem, 0x1000000001000, h.pc + 4, 0⟩ with active := [1] })

/-! ### Witnesses: scalar registers, arithmetic and control -/

theorem test_witness_register : (∀ l, lane3.agent.lane = some l → l < 32) ∧ (lane3.setX 5 7).x 5 = 7 ∧
    (lane3.setX 5 7).x 6 = lane3.x 6 := by decide +kernel

theorem test_witness_bitfields : (0 : BitVec 6).toNat + ((63 : BitVec 6).toNat + 1) ≤ 64 ∧
    (63 : BitVec 6).toNat + ((0 : BitVec 6).toNat + 1) ≤ 64 ∧
    does (.bfx 1 2 63 0) (base.setX 2 9) (fun t => t.x 1 == 9) ∧
    does (.bfxS 1 2 0 63) (base.setX 2 0x8000000000000000) (fun t => t.x 1 == -1) := by decide +kernel

theorem test_witness_completion : base.OnScalar ∧ base.me.active = [] ∧ lane3.replay = none ∧ lane3.agent.lane = some 3 ∧
    (finish lane3).pcNow = 12 ∧ (finish base).me.pc = base.me.pc + 4 := by decide +kernel

theorem test_witness_back_edge_end : (looping 0).Quiet ∧ (looping 0).me.active = [1] ∧
    ((looping 0).me.loop 1).endAddr = (looping 0).me.pc + 4 ∧ (∀ w, ((looping 0).me.win w).tied 1 = 0) ∧
    ((looping 0).me.loop 1).rem = 0 ∧ (finish (looping 0)).me.active = [] := by decide +kernel

theorem test_witness_back_edge_wrap : (looping 1).Quiet ∧ (looping 1).me.active = [1] ∧
    ((looping 1).me.loop 1).endAddr = (looping 1).me.pc + 4 ∧ (∀ w, ((looping 1).me.win w).tied 1 = 0) ∧
    ((looping 1).me.loop 1).rem ≠ 0 ∧ (finish (looping 1)).me.pc = 0x1000 ∧ ((finish (looping 1)).me.loop 1).cnt = 1 := by
  decide +kernel

theorem test_witness_branch : base.x 1 = base.x 2 ∧
    gives (.beq 1 2 0xFFFF) base (fun t => t.me.pc == base.me.pc - 4) ∧
    ¬ base.x 1 ≠ base.x 2 ∧ does (.bne 1 2 5) base (fun _ => true) := by decide +kernel

theorem test_witness_jalr : (base.setX 2 8).x 2 = 8 ∧
    ((base.setX 2 8).x 2 + BitVec.ofInt 64 (0xFFFC : BitVec 16).toInt).toNat % 4 = 0 ∧
    gives (.jalr 2 2 0xFFFC) (base.setX 2 8) (fun t => t.me.pc == 4 && t.x 2 == base.me.pc + 4) ∧
    (base.x 2 + BitVec.ofInt 64 (1 : BitVec 16).toInt).toNat % 4 ≠ 0 ∧ base.Quiet ∧
    traps (.jalr 2 2 1) ⟨.misalign, 1, 0⟩ base := by decide +kernel

theorem test_witness_loops : base.Quiet ∧ (∀ w, (base.me.win w).tied 7 = 0) ∧ base.x 3 = 0 ∧
    gives (.loop 7 3 5) base (fun t => t.me.pc == base.me.pc + 24 && t.me.active == []) ∧
    ((with' (fun h => { h with slices := h.slices.set 7 (some (3, 9)) })).me.slices.get 7) = some (3, 9) := by
  decide +kernel

theorem test_witness_loop_slice : base.Quiet ∧ base.me.slices.get 7 = none ∧
    decode 0x67A00005 = .ok (.loopS 7 5) := by decide +kernel

/-- A hart whose four doublewords at 4000H hold 8081828384858687H upwards, to load from. -/
noncomputable def stocked : State := (base.writeN 0x4000 8 0x8081828384858687).modMe (fun h => h.setX 2 0x4008)

/-- A vector instruction, VADD, outstanding with issue number 6, and a store behind it. -/
noncomputable def queued : State :=
  let s := with' (fun h => { h with nextSeq := 6 })
  let s1 := s.enqueue 0x88010000 (s.capture []) none s.snap
  (s1.modMe (fun h => h.setX 9 5)).queueStore .scalar 0x4000 [(0x4000, 1)]

/-! ### Witnesses: queues and traps -/

theorem test_witness_queues : base.agent.lane = none ∧ base.me.q0.length < 16 ∧
    does (.qput 3) (base.setX 3 8) (fun t => t.me.q0 == [8]) ∧
    16 ≤ (with' (fun h => { h with q0 := List.replicate 16 1 })).me.q0.length ∧
    (with' (fun h => { h with q1 := [4, 5] })).me.q1 = [4, 5] ∧
    does (.qget 0) (with' (fun h => { h with q1 := [4, 5] })) (fun t => t.me.q1 == [5] && t.x 0 == 0) ∧ base.me.q1 = [] ∧
    gives (.qget 1) base (fun t => t.me.run == .waiting .queue) := by decide +kernel

theorem test_witness_break : base.Quiet ∧ traps .brk ⟨.brk, 0x6C000002, 0⟩ base ∧ traps .scall ⟨.scall, 0x6C000003, 0⟩ base ∧
    gives .brk base (fun t => !t.me.trap.sq && t.me.trap.seq == 1 && t.me.pc == 0) := by decide +kernel

theorem test_witness_trap_entry : base.replay = none ∧ lane3.replay = none ∧
    (trapAt ⟨.misalign, 9, 0⟩ true 8 lane3).me.trap.elem = 3 ∧ (trapAt ⟨.misalign, 9, 0⟩ true 8 lane3).agent.lane = none := by
  decide +kernel

theorem test_witness_stream_trap : ∃ e, queued.me.stream = [e] ∧
    (let s : State := { queued with replay := some e }
     s.replay = some e ∧ (trapAt ⟨.fp, 1, 2⟩ false e.cap.pc s).me.x 9 = 0 ∧ (trapAt ⟨.fp, 1, 2⟩ false e.cap.pc s).stores = [] ∧
     (trapAt ⟨.fp, 1, 2⟩ false e.cap.pc s).me.trap.elem = 2) :=
  ⟨queued.me.stream.headD ⟨0, base.capture [], 0, none, 0, base.snap, none⟩, by decide +kernel⟩

/-! ### Witnesses: scalar memory and lane threads -/

theorem test_witness_load : (Instr.ldb 1 2 0x1FF8, 1, true) ∈ [(Instr.ldb 1 2 0x1FF8, 1, true), (.ldh 1 2 0x1FF8, 2, true),
      (.ldw 1 2 0x1FF8, 4, true), (.ldd 1 2 0x1FF8, 8, true), (.ldbn 1 2 0x1FF8, 1, false), (.ldhn 1 2 0x1FF8, 2, false),
      (.ldwn 1 2 0x1FF8, 4, false)] ∧ stocked.agent.lane = none ∧
    stocked.x 2 + BitVec.ofInt 64 (0x1FF8 : BitVec 13).toInt = 0x4000 ∧
    access stocked stocked.who .load 1 true 0x4000 = .ok ⟨.device, 0x4000, false, 0, 0, 0x4000⟩ ∧
    stocked.badByte 0x4000 = false ∧
    does (.ldb 1 2 0x1FF8) stocked (fun t => t.x 1 == 0xFFFFFFFFFFFFFF87) ∧
    does (.ldhn 1 2 0x1FF8) stocked (fun t => t.x 1 == 0x8687) := by decide +kernel

theorem test_witness_store : (base.setX 2 0x4000).agent.lane = none ∧
    access (base.setX 2 0x4000) base.who .store 2 true 0x4002 = .ok ⟨.device, 0x4002, false, 0, 2, 0x4000⟩ ∧
    does (.sth 2 2 2) (base.setX 2 0x4000) (fun t => t.ownByte t.who .scalar 0x4003 == 0x40 && t.byte 0x4003 == 0) := by
  decide +kernel

theorem test_witness_lane_scratch : lane3.agent.lane = some 3 ∧ 8 ∈ [1, 2, 4, 8] ∧
    (lane3.setX 2 1016).x 2 + BitVec.ofInt 64 (0 : BitVec 13).toInt = 1016 ∧ 1016 % 8 = 0 ∧ 1016 + 8 ≤ lane3.myCore.scratchSize ∧
    lane3.bad = [] ∧ lane3.Inv ∧
    does (.std 2 2 0) (lane3.setX 2 1016) (fun t => t.scratchN t.who 3 1016 8 == 1016 && t.scratchN t.who 2 1016 8 == 0) := by
  decide +kernel

theorem test_witness_failed_access : base.Quiet ∧
    access base base.who .load 4 true (base.x 2 + BitVec.ofInt 64 (2 : BitVec 13).toInt) = .error ⟨.misalign, 2, none, false⟩ ∧
    traps (.ldw 1 2 2) ⟨.misalign, 2, 0⟩ base ∧
    access base base.who .store 4 true 0x3FFC = .error ⟨.notPresent, 0x3FFC, none, true⟩ := by decide +kernel

theorem test_witness_access_order : 8 ∈ [1, 2, 4, 8] ∧ (0xFFFFFFFFFFFFFFFF : Word).toNat % 8 ≠ 0 ∧
    access base base.who .load 8 true 0xFFFFFFFFFFFFFFFF = .error ⟨.misalign, 0xFFFFFFFFFFFFFFFF, none, false⟩ ∧
    (0x0100000000000000 : Word).toNat % 8 = 0 ∧ 2 ^ 56 ≤ (0x0100000000000000 : Word).toNat ∧
    access base base.who .load 8 true 0x0100000000000000 = .error ⟨.perm, 0x0100000000000000, none, false⟩ := by decide +kernel

/-- Code to fetch into the lane instruction buffer: two words at 1000H. -/
theorem test_witness_libld : base.replay = none ∧ base.agent.lane = none ∧
    (let s := (base.setX 1 0x1000).setX 2 4
     (s.x 2).toNat % 4 = 0 ∧ 4 ≤ (s.x 2).toNat ∧ (s.x 2).toNat ≤ 4096 ∧ (s.x 1).toNat % 4 = 0 ∧
     libCheck s (s.x 1) (s.x 2).toNat = .ok [0, 0, 0, 0x6C] ∧
     does (.libld 1 2) s (fun t => t.me.lib == some (0x1000, 4) && Memory.read (t.qbuf (t.quadOf t.who 28)) 3 == 0x6C)) := by decide +kernel

theorem test_witness_lane_threads : base.Quiet ∧ base.me.vecDone = true ∧ base.me.threads = none ∧ base.me.gang = none ∧ (base.x 0).toNat % 4 = 0 ∧
    (base.x 0).toNat < 4096 ∧
    does (.lfork 0) base (fun t => t.me.threads == some (Vector.replicate 32 ⟨0, false⟩)) ∧
    (with' (fun h => { h with threads := some (Vector.replicate 32 ⟨8, true⟩) })).me.threads = some (Vector.replicate 32 ⟨8, true⟩) ∧
    does .ljoin (with' (fun h => { h with threads := some (Vector.replicate 32 ⟨8, true⟩) })) (fun t => t.me.threads == none) ∧
    (Vector.replicate 32 (⟨8, false⟩ : Thread)).get 31 = ⟨8, false⟩ ∧
    lane3.me.threads = some (Vector.replicate 32 ⟨8, false⟩) ∧
    gives .lexit lane3 (fun t => t.me.threads == some ((Vector.replicate 32 ⟨8, false⟩).set 3 ⟨8, true⟩)) ∧
    does (.lvput 1 2) ((lane3.setX 1 77).setX 2 (32 * 5 + 4)) (fun t => t.me.granule 4 (5 * 32 + 3) == 77) := by decide +kernel

/-! ### Witnesses: system registers, privilege, type and length -/

theorem test_witness_movs : base.Quiet ∧ base.me.vecDone = true ∧ does (.movs 1 0x027) base (fun t => t.x 1 == (base.me.loop 7).body) ∧ sup.Quiet ∧
    sup.me.trap.priv = true ∧ does (.movs 1 0x100) sup (fun t => t.x 1 == 1) ∧ sup.me.sup.soft = false ∧
    does (.movs 1 0x111) sup (fun t => t.x 1 == 0) := by decide +kernel

theorem test_witness_sets : base.Quiet ∧ (base.setX 1 4).x 1 = 4 ∧
    does (.sets 1 0x004) (base.setX 1 4) (fun t => t.me.fcr == 4) ∧
    traps (.sets 1 0x004) ⟨.illegalInsn, 0x74010004, 0⟩ (base.setX 1 5) ∧ (∀ w, (base.me.win w).tied 7 = 0) ∧
    does (.sets 1 0x017) (base.setX 1 5) (fun t => (t.me.loop 7).cnt == 5) ∧ sup.me.trap.priv = true ∧
    does (.sets 1 0x101) (sup.setX 1 0x1003) (fun t => t.me.sup.trapVec == 0x1000) := by decide +kernel

theorem test_witness_no_register : base.replay = none ∧ base.agent.lane = none ∧ base.me.stream = [] ∧
    (0xFFF : BitVec 12).toNat ∈ [0x008, 0x033, 0x036, 0x037, 0x039, 0x046, 0x051, 0x0B0, 0x107, 0x10C, 0x113, 0xFFF] ∧
    traps (.movs 1 0xFFF) ⟨.illegalInsn, 0x70200FFF, 0⟩ base ∧ traps (.sets 1 0x113) ⟨.illegalInsn, 0x74010113, 0⟩ base ∧
    lane3.agent.lane.isSome = true ∧ traps (.movs 1 0x035) ⟨.illegalInsn, 0x70200035, 0⟩ lane3 ∧
    does (.movs 1 0x007) lane3 (fun t => t.x 1 == 3) := by decide +kernel

theorem test_witness_privilege : base.Quiet ∧ base.me.trap.priv = false ∧ traps .halt ⟨.priv, 0xEC000006, 0⟩ base ∧
    traps (.sets 1 0x112) ⟨.priv, 0x74010112, 0⟩ base := by decide +kernel

/-- In supervisor mode, to return to 2000H; in the second a lane thread trapped. -/
noncomputable def handler (lt pp : Bool) : State :=
  with' (fun h => { h with
    trap := { h.trap with priv := true, pp := pp, pc := 0x2000, point := 0x2000, stop := 0x3000, lt := lt, elem := 31 }
    threads := if lt then some (Vector.replicate 32 ⟨8, false⟩) else none })

theorem test_witness_return : (handler false false).Quiet ∧ (handler false false).me.trap.priv = true ∧
    (handler false false).me.trap.redeliver = [] ∧ (handler false false).me.drawn = none ∧ (handler false false).myCore.scoreboard ≤ 64 ∧
    (handler false false).me.threads = none ∧ (handler false false).me.trap.pc = (handler false false).me.trap.point ∧
    gives .tret (handler false false) (fun t => t.me.pc == 0x2000 && !t.me.trap.priv && t.me.instret == 1) ∧
    (handler true true).Quiet ∧ (handler true true).me.drawn = none ∧  (handler true true).me.trap.redeliver = [] ∧ (handler true true).me.trap.lt = true ∧
    (handler true true).me.threads = some (Vector.replicate 32 ⟨8, false⟩) ∧
    gives .tret (handler true true) (fun t => t.me.pc == 0x3000 &&
      t.me.threads == some ((Vector.replicate 32 ⟨8, false⟩).set 31 ⟨0x2000, false⟩)) := by decide +kernel

/-- A soft pre-emption is pending. -/
noncomputable def soft : State := with' (fun h => { h with sup := { h.sup with soft := true, left := 9, why := 1 } })

theorem test_witness_requests : sup.me.trap.priv = true ∧ gives .preemptReqWrite sup (fun t => t.me.sup.hardReq && t.me.hardNow) ∧
    (soft.hart soft.who).sup.soft = true ∧
    gives (.preemptLeftExpiry ⟨0, 0⟩) soft (fun t => t.me.sup.hard && !t.me.sup.soft && t.me.sup.why == 0) ∧
    (base.hart ⟨0, 0⟩).sup.soft = false := by decide +kernel

/-- The hart waits in WFE. -/
noncomputable def inWfe (woken : Bool) (n : Nat) : State := with' (fun h => { h with run := .waiting (.event woken n) })

theorem test_witness_yield : base.Quiet ∧ base.me.hardNow = false ∧ base.me.sup.soft = false ∧
    does .yield base (fun _ => true) ∧ (inWfe true 0).me.run = .waiting (.event true 0) ∧
    does .wfe (inWfe true 0) (fun _ => true) ∧ base.me.run = .running ∧
    gives .wfe base (fun t => t.me.run == .waiting (.event false 0)) := by decide +kernel

theorem test_witness_yield_pending : soft.Quiet ∧ soft.me.trap.priv = false ∧ soft.me.sup.soft = true ∧
    does .yield soft (fun t => t.me.sup.hard) ∧
    (let s := with' (fun h => { h with sup := { h.sup with hard := true } })
     s.Quiet ∧ s.me.trap.priv = false ∧ s.me.hardNow = true ∧ s.me.sup.soft = false ∧ does .wfe s (fun _ => true)) := by
  decide +kernel

theorem test_witness_wait_limit : (inWfe false 0).Quiet ∧ ((inWfe false 0).hart ⟨0, 0⟩).run = .waiting (.event false 0) ∧
    does (.wfeTimeout ⟨0, 0⟩) (inWfe false 0) (fun _ => true) ∧ (base.x 2).toNat % 8 = 0 ∧
    ((base.setX 2 4).x 2).toNat % 8 ≠ 0 ∧ traps (.caprd 1 2) ⟨.misalign, 4, 0⟩ (base.setX 2 4) := by decide +kernel

theorem test_witness_set_length : base.OnScalar ∧ base.me.grant = base.me.lanes ∧ typeLegal 0x32 = true ∧
    does (.vsetvl 1 2 3) ((base.setX 2 5000).setX 3 0x32) (fun t => t.x 1 == 5000 && t.me.vl == 5000 && t.me.vtype == 0x32) ∧
    does (.vsetvl 1 2 3) ((base.setX 2 9000).setX 3 0x32) (fun t => t.x 1 == 8192) ∧ typeLegal 0x09 = true ∧ typeLegal 0x08 = false ∧
    does (.vsetvli 1 2 0x08) (base.setX 2 5) (fun t => t.x 1 == 0 && t.me.vtype == villType) ∧
    (with' (fun h => { h with lq := [7, 8] })).me.lq = [7, 8] ∧ base.me.lq = [] := by decide +kernel

/-- Core 0 has two harts, the other one parked at RDV. -/
noncomputable def twoHarts : State := base.modCore 0 (fun k =>
  { k.setHart 1 { k.hart 1 with run := .parked, launch := some 0 } with layout := 2 })

theorem test_witness_layout : base.OnScalar ∧ base.who.hart = 0 ∧ base.me.gang = none ∧ ((base.setX 1 8).x 1).toNat ∈ [1, 2, 4, 8] ∧
    (∀ k : HartNum, k.val < base.myCore.layout ∨ k = 0 → base.CalmAt ⟨base.who.core, k⟩) ∧ base.myCore.othersParked = true ∧
    does (.lpart 1) (base.setX 1 8) (fun t => t.me.avail == 4 && (t.hart ⟨0, 7⟩).avail == 4 && t.me.vtype == villType) := by
  decide +kernel

theorem test_witness_no_layout : base.Quiet ∧ ((base.setX 1 3).x 1).toNat ∉ [1, 2, 4, 8] ∧
    traps (.lpart 1) ⟨.config, 0x80010002, 0⟩ (base.setX 1 3) ∧ (base.x 1).toNat % 256 ∉ [2, 4, 8, 16, 32, 64] ∧
    traps (.gang 1) ⟨.config, 0x80010003, 0⟩ base ∧ base.me.gang = none ∧ traps .ungang ⟨.config, 0x80000004, 0⟩ base := by
  decide +kernel

/-- The launch has cores 0 and 1. -/
noncomputable def twoCores : State :=
  { base.setX 1 2 with launches := base.launches.map (fun l => { l with places := [⟨[0, 1], true⟩] }) }

/-- Cores 0 and 1 wait in GANG for a gang of two. -/
noncomputable def ganging : State :=
  (base.setHart ⟨1, 0⟩ base.me).modHart ⟨1, 0⟩ (fun h => { h with run := .waiting (.gang 2) }) |>.modMe
    (fun h => { h with run := .waiting (.gang 2) })

theorem test_witness_gang : twoCores.OnScalar ∧ twoCores.CalmAt twoCores.who ∧
    gangBad twoCores ((twoCores.x 1).toNat % 256) = false ∧ gives (.gang 1) twoCores (fun t => t.me.run == .waiting (.gang 2)) ∧ 2 % 256 ∈ [2, 4, 8, 16, 32, 64] ∧
    (0 : CoreId).val % (2 % 256) = 0 ∧
    (∀ c : CoreId, (0 : CoreId).val ≤ c.val → c.val < (0 : CoreId).val + 2 % 256 → (ganging.hart ⟨c, 0⟩).run = .waiting (.gang 2)) ∧
    gives (.gangFormed 0) ganging (fun t => t.me.gang == some (2, 0) && t.me.lanes == 64 && t.me.segs == 1 &&
      (t.hart ⟨1, 0⟩).run == .gangParked) := by decide +kernel

theorem test_witness_ungang :
    (let s := after (.gangFormed 0) ganging
     s.OnScalar ∧ s.CalmAt s.who ∧ s.me.gang = some (2, 0) ∧ s.me.run ≠ .gangParked ∧
     does .ungang s (fun t => t.me.lanes == 32 && t.me.gang == none && (t.hart ⟨1, 0⟩).run == .running)) := by decide +kernel

/-! ### Witnesses: stores, fences, barriers, timelines, the Harness -/

/-- Two stores of the scalar unit to one slice, the older to 4000H. -/
noncomputable def stores2 : State :=
  (base.queueStore .scalar 0x4000 [(0x4000, 7), (0x4001, 9)]).queueStore .scalar 0x4008 [(0x4008, 5)]

/-- The older of them. -/
noncomputable def older : PStore := stores2.stores.headD ⟨0, ⟨0, 0⟩, .scalar, 0, 0, 0, false, []⟩

theorem test_witness_performed : stores2.Inv ∧ stores2.stores.find? (fun u => u.id == older.id && u.who == older.who) = some older ∧
    stores2.storeReady older = true ∧ (∀ c, c ∈ older.cells → c.1 < 2 ^ 61) ∧
    older.cells.Pairwise (fun a b => a.1 ≠ b.1) ∧
    gives (.accessPerformed older.who older.id) stores2 (fun t => t.byte 0x4001 == 9 && t.byte 0x4008 == 0 && t.stores.length == 1) := by
  decide +kernel

theorem test_witness_younger : ∃ n t x pre post, stores2.stores.find? (fun u => u.id == n && u.who == ⟨0, 0⟩) = some t ∧
    stores2.stores = pre ++ x :: post ∧ (∀ y, y ∈ pre → ¬ (y.who = ⟨0, 0⟩ ∧ y.by' = t.by' ∧ y.slice = t.slice)) ∧
    x.who = ⟨0, 0⟩ ∧ x.by' = t.by' ∧ x.slice = t.slice ∧ x.id ≠ n ∧
    gives (.accessPerformed ⟨0, 0⟩ n) stores2 (fun u => u.byte 0x4008 == 0) = true :=
  ⟨2, stores2.stores.getD 1 older, older, [], stores2.stores.drop 1, by decide +kernel⟩

theorem test_witness_store_behind : ∃ t e, queued.stores.find? (fun u => u.id == t.id && u.who == ⟨0, 0⟩) = some t ∧
    e ∈ (queued.hart ⟨0, 0⟩).stream ∧ e.seq < t.seq :=
  ⟨queued.stores.headD older, queued.me.stream.headD ⟨0, base.capture [], 0, none, 0, base.snap, none⟩, by decide +kernel⟩

theorem test_witness_fences : stores2.Quiet ∧ stores2.me.lost = none ∧ stores2.Inv ∧ (stores2.stores.map (fun t => t.id)).Nodup ∧
    (∀ t, t ∈ stores2.stores → ∀ c, c ∈ t.cells → c.1 < 2 ^ 61) ∧ scopeOf stores2.me.vtype = 0 ∧
    does .vfence stores2 (fun t => t.byte 0x4008 == 5 && t.stores == []) = true ∧
    stores2.me.vecDone = true ∧ (let s := stores2.modMe (fun h => { h with vtype := 0x100 })
     scopeOf s.me.vtype ≠ 0 ∧ does .fence s (fun t => t.byte 0x4000 == 7 && t.stores == []) = true) := by decide +kernel

/-- A barrier word at 4000H: phase 5, one of two arrived. -/
noncomputable def barrier : State := ((base.writeN 0x4000 8 0x0000000500010002).setX 1 0x4000).setX 2 6

theorem test_witness_barrier : barrier.Quiet ∧ barrier.me.vecDone = true ∧ barrier.storesOf barrier.who = [] ∧ barrier.me.lost = none ∧ barrier.bad = [] ∧
    barrier.Inv ∧ 0x4000 + 8 ≤ 2 ^ 57 ∧ barrierAccess barrier true (barrier.x 1) = .ok ⟨.device, 0x4000, false, 0, 0, 0x4000⟩ ∧
    does (.barrive 1) barrier (fun t => t.readN 0x4000 8 == 0x0000000600000002) ∧
    barrierAccess barrier false (barrier.x 1) = .ok ⟨.device, 0x4000, false, 0, 0, 0x4000⟩ ∧
    2 ^ 31 ≤ (barrier.ownN barrier.who .scalar 0x4000 8 / 2 ^ 32 + 2 ^ 32 - (barrier.x 2).toNat % 2 ^ 32) % 2 ^ 32 ∧
    gives (.bwait 1 2) barrier (fun t => t.me.run == .waiting (.barrier 0x4000 6)) ∧
    (let s := barrier.setX 2 5
     (s.ownN s.who .scalar 0x4000 8 / 2 ^ 32 + 2 ^ 32 - (s.x 2).toNat % 2 ^ 32) % 2 ^ 32 < 2 ^ 31 ∧
       does (.bwait 1 2) s (fun _ => true)) := by decide +kernel

/-- The hart waits there for a phase. -/
noncomputable def atBarrier (t : BitVec 32) : State := barrier.modMe (fun h => { h with run := .waiting (.barrier 0x4000 t) })

theorem test_witness_barrier_return : (atBarrier 5).agent = ⟨⟨0, 0⟩, none⟩ ∧ (atBarrier 5).replay = none ∧
    (atBarrier 5).me.run = .waiting (.barrier 0x4000 5) ∧ (atBarrier 5).storesOf ⟨0, 0⟩ = [] ∧
    barrierAccess (atBarrier 5) false 0x4000 = .ok ⟨.device, 0x4000, false, 0, 0, 0x4000⟩ ∧
    does (.bwaitReturn ⟨0, 0⟩) (atBarrier 5) (fun _ => true) ∧
    2 ^ 31 ≤ (BitVec.ofNat 32 ((atBarrier 6).ownN ⟨0, 0⟩ .scalar 0x4000 8 / 2 ^ 32) - 6).toNat ∧
    gives (.bwaitReturn ⟨0, 0⟩) (atBarrier 6) (fun t => t.me.run == .waiting (.barrier 0x4000 6)) := by decide +kernel

/-- RE operation 1 is outstanding, the counter at 1. -/
noncomputable def reBusy : State := with' (fun h => h.pushRe none 0 0 0 .deliver [] [] [] none)

theorem test_witness_timeline : reBusy.Quiet ∧ reBusy.failure reBusy.who 0 (reBusy.x 0).toNat = none ∧
    (0 : BitVec 5) ∈ [0, 1, 3, 4, 5] ∧ (∀ k, k ∈ reBusy.pending reBusy.who 0 → (reBusy.x 0).toNat < k) ∧
    (reBusy.x 0).toNat ≤ (reBusy.me.counter 0).toNat ∧ does (.tlwait 0 0) reBusy (fun _ => true) ∧
    1 ∈ (reBusy.setX 1 1).pending reBusy.who 0 ∧ 1 ≤ ((reBusy.setX 1 1).x 1).toNat ∧
    gives (.tlwait 0 1) (reBusy.setX 1 1) (fun t => t.me.run == .waiting (.timeline 0 1)) := by decide +kernel

/-- The hart's launch owns the Harness of its core. -/
noncomputable def owner (f : Harness → Harness) : State := base.modCore 0 (fun k => { k with harness := f { k.harness with owner := some 0 } })

theorem test_witness_harness : (owner id).Quiet ∧ (owner id).myCore.harness.owner = (owner id).me.launch ∧
    (owner id).myCore.harness.pulses = [] ∧
    does (.hevt 1) ((owner id).setX 1 7) (fun t => t.myCore.harness.pulses == [55]) ∧
    does (.sets 1 0x08F) ((owner id).setX 1 (-1)) (fun t => t.myCore.harness.hcnt.get 15 == 0xC03FFFFFFFFFFFFF) ∧
    base.myCore.harness.owner ≠ base.me.launch ∧ traps (.hevt 1) ⟨.config, 0xE0010007, 0⟩ base := by decide +kernel

/-- Counter 2 counts input 5, and is one short of its last value. -/
noncomputable def counting : State :=
  owner (fun h => { h with pulses := [5, 6], hcnt := h.hcnt.set 2 0x80050000FFFFFFFE })

/-- Output 1 is enabled and free, with one term of counter 2, whose threshold of 3 it has reached and which consumes. -/
noncomputable def firing : State :=
  owner (fun h => { h with
    hcnt := h.hcnt.set 2 0xC005000300000004, hterm := h.hterm.set 4 0x4, hout := h.hout.set 1 0xC004000000000009 })

theorem test_witness_harness_cycle : (counting.core 0).harness.pulses = [5, 6] ∧
    (∀ o : Fin 16, ((counting.core 0).harness.hout.get o).getLsbD 63 = false) ∧
    gives (.harnessCycle ⟨0, 1⟩) counting (fun t => (t.core 0).harness.pulses == [6] &&
      (t.core 0).harness.hcnt.get 2 == 0x80050000FFFFFFFF) ∧
    (let h := (firing.core 0).harness
     h.pulses = [] ∧ (∀ j : Fin 16, j.val ≠ (1 : Fin 8).val → (h.hout.get j).getLsbD 63 = false) ∧ (h.hout.get 1).getLsbD 63 = true ∧
     (h.hout.get 1).getLsbD 62 = true ∧ firing.heldOn 0 (BitVec.ofNat 4 1) = [] ∧ firing.waiters 0 (BitVec.ofNat 4 1) = [] ∧
     (h.hterm.get ((h.hout.get 1).extractLsb' 48 4).toFin).toNat % 2 ^ 16 ≠ 0 ∧
     (∀ i : Fin 16, ((h.hterm.get ((h.hout.get 1).extractLsb' 48 4).toFin).toNat % 2 ^ 16).testBit i.val = true →
       (h.hcnt.get i).getLsbD 63 = true ∧ (h.hcnt.get i).toNat / 2 ^ 32 % 2 ^ 16 ≤ (h.hcnt.get i).toNat % 2 ^ 32) ∧
     gives (.harnessCycle ⟨0, 1⟩) firing (fun t => ((t.core 0).harness.hout.get 1).toNat % 2 ^ 32 == 10 &&
       (t.core 0).harness.hcnt.get 2 == 0xC005000300000001)) := by decide +kernel

/-! ### Witnesses: vector members -/

/-- Elements 0 to 3 of v1 and v2 of `vec` are 7, -1, 2^31, 100 and 2, 0, -1, 33. -/
noncomputable def operands (s : State) : State :=
  s.modMe (fun h =>
    let a := (((h.setElem 1 0 32 7).setElem 1 1 32 0xFFFFFFFF).setElem 1 2 32 0x80000000).setElem 1 3 32 100
    (((a.setElem 2 0 32 2).setElem 2 1 32 0).setElem 2 2 32 0xFFFFFFFF).setElem 2 3 32 33)

noncomputable def ints : State := operands vec

/-- The first four elements of v3. -/
noncomputable def got (t : State) : List Nat := (List.range 4).map (fun e => t.me.elem 3 e 32)

theorem test_witness_integers : ints.Ready ∧ ints.me.Shaped ∧ ints.me.vill = false ∧ groupOk ints.me.vtype 31 32 = true ∧
    does (.vdiv 3 1 2 0 0) ints (fun t => got t == [3, 0xFFFFFFFF, 0x80000000, 3]) ∧
    does (.vsra 3 1 2 0 0) ints (fun t => got t == [1, 0xFFFFFFFF, 0xFFFFFFFF, 50]) ∧
    does (.vrsubi 3 1 0xFF 0) ints (fun t => got t == [0xFFFFFFF8, 0, 0x7FFFFFFF, 0xFFFFFF9B]) := by decide +kernel

theorem test_witness_replicate : 4 ≤ (6 : MReg).toNat ∧ (3 : MReg).toNat < 4 ∧ (2 : VReg) ≠ 3 ∧
    does (.vadd 3 1 2 5 0) ints (fun t => got t == [9, 0xFFFFFFFF, 0x80000002, 100]) ∧
    does (.vadd 1 1 1 4 0) ints (fun t => t.me.elem 1 1 32 == 13) := by decide +kernel

theorem test_witness_carry : ints.Ready ∧ ints.me.Shaped ∧ ints.me.vill = false ∧ groupOk ints.me.vtype 3 32 = true ∧
    (0 : MReg).toNat < 4 ∧
    (let s := ints.modMe (fun h => h.setMaskBit 7 1 true)
     does (.vaddc 3 1 2 0 7) s (fun t => got t == [9, 0, 0x7FFFFFFF, 133] && t.me.maskBit 7 1 && t.me.maskBit 7 2 && !t.me.maskBit 7 0) ∧
     does (.vmerge 3 1 2 0 7) s (fun t => got t == [7, 0, 0x80000000, 100])) := by decide +kernel

theorem test_witness_compare : ints.Ready ∧ ints.me.Shaped ∧ ints.me.vill = false ∧ groupOk ints.me.vtype 2 32 = true ∧
    does (.vslt 5 1 2 0 0) ints (fun t => (List.range 5).map (t.me.maskBit 5) == [false, true, true, false, false]) ∧
    ekOf flt.me.vtype = true ∧ flt.FpQuiet ∧
    does (.vfeq 5 1 2 0 0) flt (fun t => (List.range 5).map (t.me.maskBit 5) == [true, true, true, true, false]) := by decide +kernel

/-- 1.0, 2.0 and a signalling NaN in v1, with 3.0, 0.0 and 1.0 in v2. -/
noncomputable def floats : State := flt.modMe (fun h =>
  let a := ((h.setElem 1 0 32 0x3F800000).setElem 1 1 32 0x40000000).setElem 1 2 32 0x7F800001
  ((a.setElem 2 0 32 0x40400000).setElem 2 1 32 0).setElem 2 2 32 0x3F800000)

theorem test_witness_floats : floats.Ready ∧ floats.me.Shaped ∧ floats.me.vill = false ∧ ekOf floats.me.vtype = true ∧ floats.FpQuiet ∧
    groupOk floats.me.vtype 3 32 = true ∧
    does (.vfadd 3 1 2 0 0) floats (fun t => got t == [0x40800000, 0x40000000, 0x7FC00000, 0] && t.me.fflags == fNV) := by
  decide +kernel

theorem test_witness_float_widths :
    (let s := flt.modMe (fun h => { h with vtype := 9 })
     s.Ready ∧ s.me.Shaped ∧ s.me.vill = false ∧ ekOf s.me.vtype = true ∧ sewOf s.me.vtype = 16 ∧ groupOk s.me.vtype 2 32 = true ∧
     overlapOk s.me.vtype 1 16 2 32 = true ∧
     does (.vfnarrow 1 2 0) (s.modMe (fun h => h.setElem 2 1 32 0x3F800000)) (fun t => t.me.elem 1 1 16 == 0x3F80)) ∧
    sewOf floats.me.vtype = 32 ∧ groupOk floats.me.vtype 2 16 = true ∧ overlapOk floats.me.vtype 1 32 2 16 = true ∧
    does (.vfwiden 3 1 0) (flt.modMe (fun h => h.setElem 1 1 16 0x3F80)) (fun t => t.me.elem 3 1 32 == 0x3F800000) := by
  decide +kernel

theorem test_witness_float_trap :
    (let s := floats.modMe (fun h => { h with fcr := 0x3F0 })
     let r (i : Nat) : Nat × Flags := vfAdd s.me.rm 32 (s.me.elem 1 i 32) (s.me.elem 2 i 32) 0
     s.Ready ∧ s.me.Shaped ∧ s.me.vill = false ∧ ekOf s.me.vtype = true ∧ s.me.vstart ≤ 2 ∧ 2 < s.me.vl ∧
     (r 2).2 &&& s.me.enables ≠ 0 ∧ (r 0).2 &&& s.me.enables = 0 ∧ (r 1).2 &&& s.me.enables = 0 ∧
     gives (.vfadd 3 1 2 0 0) s (fun t => t.me.trap.cause == 0x0B && t.me.trap.elem == 2 && t.me.trap.val == fNV.zeroExtend 64 &&
       t.me.vstart == 2 && got t == [0x40800000, 0x40000000, 0, 0])) := by decide +kernel

theorem test_witness_reductions : ints.Ready ∧ ints.me.Shaped ∧ ints.me.vill = false ∧ ints.me.vstart = 0 ∧ 0 < ints.me.vl ∧
    does (.vredmin 3 1 2 0) ints (fun t => got t == [0x80000000, 0, 0, 0]) ∧
    (let s := ints.modMe (fun h => { h with vl := 0 })
     s.me.Shaped ∧ s.me.vl = 0 ∧ does (.vredsum 1 1 2 0) s (fun t => t.me.elem 1 0 32 == 7)) ∧
    floats.me.vstart = 0 ∧ 0 < floats.me.vl ∧
    does (.vfredsum 3 1 2 0) (floats.modMe (fun h => { h with vl := 0 })) (fun t => t.me.elem 3 0 32 == t.me.elem 2 0 32) ∧
    does (.vfredsum 3 1 2 0) (floats.modMe (fun h => { h with vl := 2 })) (fun t => t.me.elem 3 0 32 == 0x40C00000) := by
  decide +kernel

/-- Mask register 5 has bits 1 and 3. -/
noncomputable def masks : State := ints.modMe (fun h => (h.setMaskBit 5 1 true).setMaskBit 5 3 true)

theorem test_witness_pushes : masks.Ready ∧ masks.me.vill = false ∧ masks.me.vstart = 0 ∧ masks.me.q1.length < 16 ∧
    does (.vpopc 5 0) masks (fun t => t.me.q1 == [2]) ∧ does (.vfirst 5 0) masks (fun t => t.me.q1 == [1]) ∧
    groupOk masks.me.vtype 1 (sewOf masks.me.vtype) = true ∧ does (.vmvvx 1) masks (fun t => t.me.q1 == [7]) ∧ masks.me.lq.length < 8 ∧
    does (.vpopq 5 0) masks (fun t => t.me.lq == [2]) ∧
    (let s := masks.modMe (fun h => { h with q1 := List.replicate 16 0 })
     s.Ready ∧ 16 ≤ s.me.q1.length ∧ does (.vpopc 5 0) s (fun t => t.me.stream.length == 1 && t.me.q1.length == 16)) := by decide +kernel

theorem test_witness_masks : masks.Ready ∧ masks.me.Shaped ∧ masks.me.vill = false ∧ masks.me.vstart = 0 ∧
    does (.viota 3 5 0) masks (fun t => got t == [0, 0, 1, 1]) ∧ does (.vid 3 5) masks (fun t => got t == [0, 1, 0, 3]) ∧
    does (.mslide1 4 5) masks (fun t => (List.range 5).map (t.me.maskBit 4) == [false, false, true, false, false]) ∧
    does (.msbf 4 5) masks (fun t => (List.range 5).map (t.me.maskBit 4) == [true, false, false, false, false]) := by decide +kernel

theorem test_witness_permutes : masks.Ready ∧ masks.me.Shaped ∧ masks.me.vill = false ∧ masks.me.vstart = 0 ∧ (3 : VReg) ≠ 1 ∧ (3 : VReg) ≠ 2 ∧
    groupOk masks.me.vtype 3 32 = true ∧
    does (.vslideup 3 1 4 0) (masks.setX 4 1) (fun t => got t == [0, 7, 0xFFFFFFFF, 0x80000000]) ∧
    does (.vrev 3 1 0) masks (fun t => got t == [100, 0x80000000, 0xFFFFFFFF, 7]) ∧
    does (.vexpand 3 1 5 0) masks (fun t => got t == [0, 7, 0, 0xFFFFFFFF]) ∧
    does (.vcompress 3 1 5) masks (fun t => got t == [0xFFFFFFFF, 100, 0, 0]) := by decide +kernel

theorem test_witness_scalar_moves :
    (let s := masks.modMe (fun h => { h with q0 := [9, 8] })
     s.Ready ∧ s.me.Shaped ∧ s.me.q0 = [9, 8] ∧ does (.vslide1up 3 1 0 0) s (fun t => got t == [9, 7, 0xFFFFFFFF, 0x80000000] && t.me.q0 == [8]) ∧
     does (.vmvxv 3 0 0) s (fun t => got t == [9, 0, 0, 0] && t.me.q0 == [8])) ∧ (4 : XReg) ≠ 0 ∧ masks.me.q0 = [] ∧
    does (.vslide1dn 3 1 0 0) masks (fun t => t.me.stream.length == 1) ∧ 0 < masks.me.vl ∧
    does (.vmvxv 3 4 0) (masks.setX 4 6) (fun t => got t == [6, 0, 0, 0]) := by decide +kernel

/-! ### Witnesses: vector memory, scratch, atomics -/

/-- x2 is 4000H, where the bytes 1, 2, 128, 4 stand; the length is 4, elements are 32 bits wide. -/
noncomputable def bytes4 : State := (operands (vec.setX 2 0x4000)).writeN 0x4000 8 0x0000000004800201

/-- The accesses of a unit-stride load of INT8. -/
noncomputable def loadPhase (s : State) : List VAcc × Option (MemErr × Nat) :=
  addressPhase s .load .unit 18 (s.x 2) 0 ((List.range' s.me.vstart (s.me.vl - s.me.vstart)).filter (s.me.isActive 0))

theorem test_witness_vector_load : bytes4.Ready ∧ bytes4.me.Shaped ∧ bytes4.me.vill = false ∧
    fmtLegal 18 (ekOf bytes4.me.vtype) (sewOf bytes4.me.vtype) true = true ∧ segOk bytes4.me.vtype 3 1 = true ∧
    (loadPhase bytes4).2 = none ∧ (loadPhase bytes4).1.map (fun a => (a.e, a.f)) = [(0, 0), (1, 0), (2, 0), (3, 0)] ∧
    (∀ a, a ∈ (loadPhase bytes4).1 → ∀ key, key ∈ a.keys → key < 2 ^ 61) ∧
    [1, 2, 128, 4].all (fun c => (widen 18 false 32 c 0).isSome) = true ∧
    does (.vld 3 2 0 18) bytes4 (fun t => got t == [1, 2, 0xFFFFFF80, 4]) = true ∧
    does (.vldS 3 2 5 0 18) (bytes4.setX 5 2) (fun t => got t == [1, 0xFFFFFF80, 0, 0]) = true ∧
    does (.vldG 3 2 1 0 18) bytes4 (fun t => got t == [1, 0xFFFFFF80, 0, 0] && t.me.elem 4 0 32 == 2) = true := by decide +kernel

/-- The last two of the four bytes lie beyond the pages. -/
noncomputable def atEnd : State := (bytes4.setX 2 0x7FFE).modMe (fun h => { h with fcr := 0 })

/-- The address phase of VLD.FF of all four elements of INT8. -/
noncomputable def ffPhase (s : State) : List VAcc × Option (MemErr × Nat) :=
  addressPhase s .load .ff 18 (s.x 2) 0 ((List.range' 0 4).filter (s.me.isActive 0))

theorem test_witness_fault_only_first : atEnd.Ready ∧ atEnd.me.Shaped ∧ atEnd.me.rct = false ∧ fmtScaled 18 = false ∧
    (ffPhase atEnd).2 = some (⟨.notPresent, 0x8000, none, false⟩, 2) ∧ (∀ a, a ∈ (ffPhase atEnd).1 → ∀ key, key ∈ a.keys → key < 2 ^ 61) ∧
    ((List.range' 0 4).filter (atEnd.me.isActive 0)).headD 0 < 2 ∧
    does (.vldFf 3 2 0 18) atEnd (fun t => t.me.vl == 2) = true ∧
    (let s := bytes4.setX 2 0x8000
     (ffPhase s).2 = some (⟨.notPresent, 0x8000, none, false⟩, 0) ∧
     gives (.vldFf 3 2 0 18) s (fun t => t.me.trap.cause == 0x05 && t.me.trap.val == 0x8000 && t.me.vl == 4) = true) ∧
    (ffPhase bytes4).2 = none ∧ does (.vldFf 3 2 0 18) bytes4 (fun t => t.me.vl == 4 && got t == [1, 2, 0xFFFFFF80, 4]) = true := by decide +kernel

theorem test_witness_vector_trap : atEnd.Ready ∧ atEnd.me.vill = false ∧ segOk atEnd.me.vtype 3 1 = true ∧
    (loadPhase atEnd).2 = some (⟨.notPresent, 0x8000, none, false⟩, 2) ∧
    gives (.vld 3 2 0 18) atEnd (fun t => t.me.trap.cause == 0x05 && t.me.trap.elem == 2 && t.me.trap.val == 0x8000 && got t == [0, 0, 0, 0]) ∧
    (addressPhase atEnd .store .unit 18 (atEnd.x 2) 0 (List.range' 0 4)).2 = some (⟨.notPresent, 0x8000, none, true⟩, 2) ∧
    gives (.vst 3 2 0 18) atEnd (fun t => t.me.trap.elem == 2 && t.stores == []) := by decide +kernel

theorem test_witness_vector_store : bytes4.Ready ∧ bytes4.me.Shaped ∧ bytes4.me.vill = false ∧
    (addressPhase bytes4 .store .unit 26 (bytes4.x 2) 0 ((List.range' 0 4).filter (bytes4.me.isActive 0))).2 = none ∧
    fmtLegal 26 false 32 true = true ∧ fmtWhole 26 = true ∧
    does (.vst 1 2 0 26) bytes4 (fun t => t.ownN t.who (.group (groupOf t.me 32 3)) 0x400C 4 == 100 && t.readN 0x400C 4 == 0) := by
  decide +kernel

/-- v4 holds the scratch offsets 0, 8, 16 and 1020. -/
noncomputable def offsets : State := bytes4.modMe (fun h =>
  (({ h with fcr := 0 }.setElem 4 1 32 8).setElem 4 2 32 16).setElem 4 3 32 1020)

/-- No two elements touch one place of the scratch. -/
noncomputable def apart (s : State) (n : Nat) : Bool :=
  let off (e : Nat) : Nat := (s.x 0 + BitVec.ofNat 64 (s.me.elem 4 e 32)).toNat
  let lane (e : Nat) : Nat := e * 32 / 64 % s.me.lanes
  (List.range 4).all (fun e => off e % n == 0 && off e + n ≤ s.myCore.scratchSize && (s.laneCore s.who (lane e)).2 < 32 &&
    (List.range 4).all (fun e' => e == e' || lane e != lane e' || off e + n ≤ off e' || off e' + n ≤ off e))

theorem test_witness_lane_members : offsets.Ready ∧ offsets.me.Shaped ∧ offsets.me.vill = false ∧ offsets.Inv ∧
    offsets.myCore.scratchSize ≤ 2 ^ 17 ∧ groupOk offsets.me.vtype 4 32 = true ∧ fmtLegal 26 (ekOf offsets.me.vtype) 32 false = true ∧
    apart offsets 4 = true ∧ (1 : VReg) ≠ 4 ∧ offsets.me.rct = false ∧
    does (.vstI 1 0 4 0 26) offsets (fun t => t.scratchN t.who 1 1020 4 == 100 && t.scratchN t.who 0 8 4 == 0xFFFFFFFF) ∧
    ekOf offsets.me.vtype = false ∧
    (let s := after (.vstI 1 0 4 0 26) offsets
     s.Ready ∧ does (.vldI 3 0 4 0 26) s (fun t => got t == [7, 0xFFFFFFFF, 0x80000000, 100]) ∧
     does (.vsamoMaxn 2 0 4 0) s (fun t => t.me.elem 2 3 32 == 100 && t.scratchN t.who 1 16 4 == 0xFFFFFFFF)) := by decide +kernel

theorem test_witness_locks :
    (let s := offsets.modMe (fun h => (((h.setMaskBit 7 0 true).setMaskBit 7 1 true).setMaskBit 7 2 true).setMaskBit 7 3 true)
     (7 : MReg) ≠ 0 ∧ s.Ready ∧ apart s 4 = true ∧
     (List.range 4).all (fun e => (List.range 4).all (fun e' => e == e' || e * 32 / 64 != e' * 32 / 64 ||
       lockBit (s.me.elem 4 e 32) != lockBit (s.me.elem 4 e' 32))) ∧
     does (.vsldl 3 0 4 7) s (fun t => t.me.maskBit 7 3 && t.lockOf 1 1020) ∧
     does (.vsstu 1 0 4 7) (after (.vsldl 3 0 4 7) s) (fun t => !t.lockOf 1 1020 && t.scratchN t.who 1 1020 4 == 100)) := by
  decide +kernel

theorem test_witness_amo : bytes4.Quiet ∧ bytes4.Inv ∧ bytes4.scalarStores bytes4.who = [] ∧
    access bytes4 bytes4.who .amo 4 false (bytes4.x 2) = .ok ⟨.device, 0x4000, false, 0, 0, 0x4000⟩ ∧ bytes4.badByte 0x4000 = false ∧
    0x4000 + 8 ≤ 2 ^ 57 ∧
    does (.amoadd 1 2 2 0) bytes4 (fun t => t.x 1 == 0x04800201 && t.readN 0x4000 4 == 0x04804201) ∧
    does (.amocas 1 2 2 1) bytes4 (fun t => t.x 1 == 0x04800201 && t.readN 0x4000 8 == 0x04800201) := by decide +kernel

/-- A page of host memory at 8000H that the host grants. -/
noncomputable def hosted : State :=
  { base.modCore 0 (fun k => { k with ranges := k.ranges ++ [[0x8001, 0x8000, 0x9018 ||| 0x200, 0]] }) with
    grants := [⟨0, 0, 9, true⟩] }

theorem test_witness_host_atomic : hosted.Quiet ∧ hosted.Inv ∧
    access hosted hosted.who .amo 4 false ((hosted.setX 2 0x8000).x 2) = .ok ⟨.host, 2 ^ 60 + 0x9000, false, 0, 0, 0x9000⟩ ∧
    does (.amoswap 1 2 2 0) (hosted.setX 2 0x8000) (fun t => t.readN (2 ^ 60 + 0x9000) 4 == 0x8000) ∧
    traps (.amoand 1 2 2 0) ⟨.perm, 0x8000, 0⟩ (hosted.setX 2 0x8000) := by decide +kernel

/-- v8 holds the addresses 4000H, 4004H, 4008H and 400CH. -/
noncomputable def places : State := bytes4.modMe (fun h =>
  (((h.setElem 8 0 64 0x4000).setElem 8 1 64 0x4004).setElem 8 2 64 0x4008).setElem 8 3 64 0x400C)

theorem test_witness_vamo : places.Ready ∧ places.me.Shaped ∧ places.Inv ∧ places.storesOf places.who = [] ∧
    ekOf places.me.vtype = false ∧ 32 ≤ sewOf places.me.vtype ∧ groupOk places.me.vtype 8 64 = true ∧
    overlapOk places.me.vtype 3 32 8 64 = true ∧
    vamoPhase places (places.capture []) true 8 ((List.range' 0 4).filter (places.me.isActive 0)) =
      .ok [(0, 0x4000, 0x4000), (1, 0x4004, 0x4004), (2, 0x4008, 0x4008), (3, 0x400C, 0x400C)] ∧
    does (.vamoadd 3 8 1 0) places (fun t => got t == [0x04800201, 0, 0, 0] && t.readN 0x400C 4 == 100 && t.readN 0x4000 4 == 0x04800208) := by
  decide +kernel

/-! ### Witnesses: residency windows -/

/-- SEW 64; v8 describes one dimension of stride 1 and extent 4, v9 a form that covers it, with origin 0 in v10. -/
noncomputable def binding : State := with' (fun h =>
  ({ h with vtype := 3, vl := 1 }.setElem 8 0 64 0x100000004).setElem 9 0 64 0xF000000000003000) |>.setX 2 0x4000

/-- Window 7, bound to four INT32 elements at 4000H, read and written. -/
noncomputable def bound : State := binding.modMe (fun h => h.setWin 7 { Window.clear with
  st := .bound, base := 0x4000, dims := [0x100000004], mode := 0x1007A, forms := [0xF000000000003000], origins := [0], formVl := 1 })

theorem test_witness_bind : binding.Ready ∧ (binding.me.win 7).isOpen = false ∧ binding.me.vill = false ∧ sewOf binding.me.vtype = 64 ∧
    ekOf binding.me.vtype = false ∧ binding.me.vstart = 0 ∧ groupOk binding.me.vtype 8 64 = true ∧ groupOk binding.me.vtype 9 64 = true ∧
    1 ≤ binding.me.vl ∧ binding.me.vl ≤ 16 ∧ (∀ e, e < binding.me.vl → binding.me.elem 8 e 64 % 2 ^ 32 ≠ 0) ∧
    does (.wbind 7 8 2) binding (fun t => (t.me.win 7).dims == [0x100000004] && (t.me.win 7).st == .bound) ∧
    does (.wform 7 9 10) binding (fun t => (t.me.win 7).forms == [0xF000000000003000] && (t.me.win 7).formVl == 1) ∧
    (binding.me.elem 10 0 64 % 2 ^ 32 = 0) ∧ gives (.wbind 7 10 2) binding (fun t => t.me.trap.cause == 0x0F && t.me.trap.val == 0x702) ∧
    (let s := binding.modMe (fun h => { h with vl := 17 })
     16 < s.me.vl ∧ gives (.wbind 7 8 2) s (fun t => t.me.trap.val == 0x701)) := by decide +kernel

/-- Stack 3 is sealed, the length is 2. -/
noncomputable def gatherable : State := binding.modMe (fun h =>
  ({ h with vl := 2 }.setElem 8 1 64 0x100000004).setIter 3 { IStack.clear with st := .sealed, slots := [⟨.irange, false, 0, 0, 1, 0⟩] })

theorem test_witness_bind_gather : gatherable.Ready ∧ gatherable.me.vl = 2 ∧ (gatherable.me.win 7).gather = false ∧
    (gatherable.me.iter 3).st = .sealed ∧ (∀ e, e < gatherable.me.vl → gatherable.me.elem 8 e 64 % 2 ^ 32 ≠ 0) ∧
    does (.wbindi 3 7 8 2) gatherable (fun t => (t.me.win 7).gather && (t.me.iter 3).win == some 7) := by decide +kernel

/-- It is open, the delivery under way. -/
noncomputable def opened : State := after (.wopen 7) bound

/-- Its four elements have landed: 5, 6, 7 and 8. -/
noncomputable def landed : State :=
  after (.slabLanded ⟨0, 0⟩ 1 0) ((opened.writeN 0x4000 8 0x0000000600000005).writeN 0x4008 8 0x0000000800000007)

theorem test_witness_open : bound.Ready ∧ bound.me.arming = none ∧ (openReason bound (bound.me.win 7)).toOption = some 0 ∧
    freeRun (bound.unitsUsed bound.who true) bound.myCore.scratchSize (bound.me.win 7).alloc = some 0 ∧ bound.myCore.scoreboard < 64 ∧
    does (.wopen 7) bound (fun t => (t.me.win 7).isOpen && t.me.tlre == 1 && t.me.reOps.length == 1) := by decide +kernel

theorem test_witness_close : (bound.me.win 7).isOpen = false ∧ (bound.me.win 7).gather = false ∧
    does (.wclose 7) bound (fun t => (t.me.win 7).st == .unbound && t.me.tlre == 1) ∧ does (.wflush 7) bound (fun t => (t.me.win 7).st == .bound) ∧
    landed.Ready ∧ (landed.me.win 7).isOpen = true ∧ (landed.me.win 7).strm = false ∧ winBusy landed 7 = false ∧
    (landed.me.win 7).held = none ∧ landed.me.arming = none ∧
    landed.myCore.matrix.ops.all (fun m => m.who != landed.who || m.kind != .rowStream || m.win != 7) = true ∧ does (.wdrop 7) landed (fun t => t.me.tlre == 2 && (t.me.win 7).st == .unbound) ∧
    (openReason binding (binding.me.win 7)).isOk = false ∧
    gives (.wopen 7) binding (fun t => t.me.trap.cause == 0x0F && t.me.trap.val == 0x70B) := by decide +kernel

theorem test_witness_open_reasons : (binding.me.win 7).st ≠ .bound ∧ (bound.me.win 7).st = .bound ∧
    (bound.me.win 7).formVl = (bound.me.win 7).dims.length ∧
    (let w := { bound.me.win 7 with dims := [0x100000000] }
     w.st = .bound ∧ w.formVl = w.dims.length ∧ w.extent 0 = 0 ∧ (openReason bound w).isOk = false) ∧
    (let w := { bound.me.win 7 with dims := [0x100000004, 0x100000004] }
     w.st = .bound ∧ w.formVl ≠ w.dims.length) := by decide +kernel

theorem test_witness_slab : opened.Inv ∧ (∃ o, (opened.hart ⟨0, 0⟩).reOp o.tag.num = some o ∧ opened.reReady ⟨0, 0⟩ o = true ∧ o.out = [] ∧
      o.kind ≠ .redeliver ∧ o.slabs[0]? = some [(0, 3)]) ∧ (opened.me.win 7).strm = false ∧
    (List.range 4).map (fun (i : Nat) => ((landed.me.win 7).slot? [(i : Int)]).map (·.val)) = [some 5, some 6, some 7, some 8] :=
  ⟨by decide +kernel, ⟨opened.me.reOps.headD ⟨⟨0, 0, none, 0⟩, 0, .drop, [], [], [], none, none, 0, false⟩, by decide +kernel⟩,
    by decide +kernel, by decide +kernel⟩

/-- To read and write the window with elements of 32 bits: v1 holds the operands of `ints`, x5 the offset 0. -/
noncomputable def near : State := operands (landed.modMe (fun h => { h with vtype := 2, vl := 4 }))

/-- The accesses of a unit-stride access of window 7. -/
noncomputable def nearAccs (s : State) : List WAcc × Option Trap :=
  accsOf (s.me.win 7) 7 .unit (s.capture (s.x 0 :: captureCtrs s)) s.me 0 0 (s.capture []).elems

theorem test_witness_window_access : near.Ready ∧ near.me.Shaped ∧ near.me.vill = false ∧ modeOk (near.me.win 7) near.me.vtype = true ∧
    segOk near.me.vtype 3 1 = true ∧ (nearAccs near).2 = none ∧ (nearAccs near).1.length = 4 ∧
    (∀ a, a ∈ (nearAccs near).1 → near.me.reOps.all (fun o => o.win != 7 || !o.slabs.any (fun b => inBox b a.p)) = true ∧
      ((near.me.win 7).slot? a.p).bind (·.tag) = none) ∧
    does (.wld 3 7 0 0) near (fun t => got t == [5, 6, 7, 8]) = true ∧ (near.me.win 7).acc ≠ 1 ∧
    near.myCore.matrix.ops.all (fun o => o.who != near.who) = true ∧
    does (.wst 1 7 0 0) near (fun t => ((t.me.win 7).slot? [3]) == some ⟨100, true, none⟩) = true := by decide +kernel

theorem test_witness_window_outside :
    (let s := near.modMe (fun h => { h with vl := 6 })
     s.Ready ∧ s.me.Shaped ∧ (nearAccs s).2 = some ⟨.residency, 0x7000000000000004, 4⟩ ∧
     gives (.wld 3 7 0 0) s (fun t => t.me.trap.cause == 0x08 && t.me.trap.val == 0x7000000000000004 && t.me.trap.elem == 4 &&
       t.me.vstart == 4)) := by decide +kernel

theorem test_witness_window_tag :
    (let s := near.modMe (fun h => h.setWin 7 ((h.win 7).putSlot [0] ⟨0, false, some ⟨.perm, 0x4000, 0⟩⟩))
     s.Ready ∧ (nearAccs s).2 = none ∧ (nearAccs s).1.head?.map (fun a => (a.e, a.p)) = some (0, [0]) ∧
     ((s.me.win 7).slot? [0]).map (·.tag) = some (some ⟨.perm, 0x4000, 0⟩) ∧ Cause.squash .perm = true ∧
     gives (.wld 3 7 0 0) s (fun t => t.me.trap.cause == 0x04 && t.me.trap.sq && t.me.trap.elem == 0)) := by decide +kernel

/-- WST has written the window, and WCLOSE has taken it. -/
noncomputable def closing : State := after (.wclose 7) (after (.wst 1 7 0 0) near)

theorem test_witness_writeback : closing.Inv ∧ closing.bad = [] ∧
    (let o := closing.me.reOps.headD ⟨⟨0, 0, none, 0⟩, 0, .drop, [], [], [], none, none, 0, false⟩
     (closing.hart ⟨0, 0⟩).reOp o.tag.num = some o ∧ closing.reReady ⟨0, 0⟩ o = true ∧ o.out = [[(0, 3)]] ∧ outBehind closing ⟨0, 0⟩ o = false ∧
     (writeBackCells closing ⟨0, 0⟩ (o.save.getD (closing.me.win o.win)) [(0, 3)]).isOk = true) ∧
    gives (.writebackPerformed ⟨0, 0⟩ 2) closing (fun t => t.readN 0x4000 4 == 7 && t.readN 0x400C 4 == 100) = true := by decide +kernel

/-- A stream window of two rows of two BF16 elements at 4000H, open. -/
noncomputable def streaming : State := after (.wopen 7) (bound.modMe (fun h => h.setWin 7 { h.win 7 with
  dims := [0x100000002, 0x200000002], mode := 0x00C21, forms := [0xF000000000001000, 0xF000000000001000], origins := [0, 0], formVl := 2 }))

theorem test_witness_stream_row : (streaming.me.win 7).isOpen = true ∧ (streaming.me.win 7).strm = true ∧ (streaming.me.win 7).held = none ∧
    (streaming.core 0).matrix.queue.length < 32 ∧
    (let b : Box := [(0, 1), (0, 1)]
     let o := streaming.me.reOps.headD ⟨⟨0, 0, none, 0⟩, 0, .drop, [], [], [], none, none, 0, false⟩
     let r := (rowsOf (streaming.me.win 7) b).headD []
     (streaming.hart ⟨0, 0⟩).reOp o.tag.num = some o ∧ streaming.reReady ⟨0, 0⟩ o = true ∧ o.slabs = [b] ∧ o.rowsIn = 0 ∧
     (rowsOf (streaming.me.win 7) b)[0]? = some r ∧ (buildRow streaming ⟨0, 0⟩ (streaming.me.win 7) b r).isOk = true) ∧
    gives (.streamRowEnter ⟨0, 0⟩ 1) streaming (fun t => (t.core 0).matrix.queue.length == 1 && (t.me.win 7).rowsSent == 1) = true := by
  decide +kernel

/-- A gather window on the sealed stack 3, which counts 0, 1, 2; tiles of one element. -/
noncomputable def gather : State := after (.slabLanded ⟨0, 0⟩ 1 0) (after (.wopen 7) (after (.wbindi 3 7 8 2) (gatherable.modMe (fun h =>
  (h.setIter 3 { h.iter 3 with slots := [⟨.irange, false, 0, 0, 3, 0⟩] }).setWin 7 { h.win 7 with
    mode := 0x1003A, forms := [0xF000000000000000, 0xF000000000000000], origins := [0, 0], formVl := 2 }))))

/-- What the stack gives to a pull of at most two elements. -/
noncomputable def pulled : Taken × Hart :=
  pullGroup (gather.setMe { gather.me with tlre := gather.me.tlre + 1 }) gather.who (gather.capture (pullCaps gather)).pullCtr
    (gather.me.win 7).stack (min gather.me.vl ((gather.me.win 7).tileCap gather.me.lanes))

/-- A pull that formed a group of n elements. -/
noncomputable def group (n : Nat) (r : Taken × Hart) : Bool :=
  match r.1 with
  | .group es => es.length == n
  | _ => false

theorem test_witness_tiles : gather.Ready ∧ gather.me.q1.length < 16 ∧ (gather.me.win 7).isOpen = true ∧ (gather.me.win 7).gather = true ∧
    gather.me.lq.length < 8 ∧ gather.myCore.scoreboard < 64 ∧
    gather.me.reOps.all (fun o => o.win != 7 && o.tag.held.isNone) = true ∧ gather.me.itOps = [] ∧ gather.me.arming = none ∧
    (gather.me.iter (gather.me.win 7).stack).st = .bound ∧ (gather.me.iter (gather.me.win 7).stack).win = some 7 ∧ group 2 pulled = true ∧
    does (.wnext 7) gather (fun t => t.me.lq == [2] && (t.me.win 7).tiles == [(0, 0), (1, 0)]) = true ∧
    does (.wstat 7) gather (fun t => t.me.q1 == [0xC100000000000000]) = true := by decide +kernel

/-- Its stack has been ended; then another one has been built at its number. -/
theorem test_witness_tiles_ended :
    (let s := after (.ienough 3) gather
     s.Ready ∧ (s.me.iter (s.me.win 7).stack).st ≠ .bound ∧ s.me.itOps = [] ∧ s.me.reOps.all (fun o => o.win != 7 && o.tag.held.isNone) = true ∧
     does (.wnext 7) s (fun t => t.me.lq == [0] && (t.me.win 7).tiles == [])) ∧
    (let s := after (.iseal 3) (after (.irange 3 0 1) (after (.ibegin 3) (after (.ienough 3) (gather.setX 1 9))))
     s.Ready ∧ (s.me.iter (s.me.win 7).stack).st = .sealed ∧ (s.me.iter (s.me.win 7).stack).win ≠ some 7 ∧
     does (.wnext 7) s (fun t => t.me.lq == [0] && (t.me.win 7).tiles == [])) := by decide +kernel

/-! ### Witnesses: iterator iters -/

/-- Stack 1 is free, 2 builds with nothing in it, 3 builds with one slot, 0 is sealed. -/
noncomputable def iters : State := (vec.setX 1 0x4000).modMe (fun h =>
  ((h.setIter 2 { IStack.clear with st := .building }).setIter 3 { IStack.clear with st := .building, slots := [⟨.irange, false, 0, 5, 9, 0⟩] }).setIter 0
    { IStack.clear with st := .sealed, slots := [⟨.irange, false, 0, 5, 9, 0⟩] })

/-- Stack 3 with so many slots. -/
noncomputable def sized (n : Nat) : State := iters.modMe (fun h =>
  h.setIter 3 { h.iter 3 with slots := List.replicate n ⟨.irange, false, 0, 5, 9, 0⟩ })

theorem test_witness_build : iters.Ready ∧ iters.me.itOps = [] ∧ (iters.me.iter 1).st = .free ∧
    does (.ibegin 1) iters (fun t => (t.me.iter 1).st == .building) ∧ (iters.me.iter 0).st = .sealed ∧
    does (.ibegin 0) iters (fun t => (t.me.iter 0).st == .building && (t.me.iter 0).slots == []) ∧
    (iters.me.iter 2).st = .building ∧ (iters.me.iter 2).slots = [] ∧ (iters.x 1).toNat % 4 = 0 ∧
    does (.ilist 2 1 1) iters (fun t => (t.me.iter 2).slots == [⟨.ilist, false, 0, 0x4000, 0x4000, 0⟩]) ∧
    ((iters.setX 1 2).x 1).toNat % 4 ≠ 0 ∧ gives (.ilist 2 1 1) (iters.setX 1 2) (fun t => t.me.trap.val == 0x20A) ∧
    gives (.imap 2 1 1) iters (fun t => t.me.trap.cause == 0x10 && t.me.trap.val == 0x202) ∧
    gives (.irange 1 1 1) iters (fun t => t.me.trap.val == 0x101) := by decide +kernel

theorem test_witness_build_more : (iters.me.iter 3).st = .building ∧ (iters.me.iter 3).slots ≠ [] ∧ (iters.me.iter 3).slots.length < 8 ∧
    (sized 7).Ready ∧ ((sized 7).me.iter 3).slots.length < 8 ∧ (iters.me.iter 3).two = false ∧ (3 : StackNum) ≠ 0 ∧
    does (.imap 3 1 1) (sized 7) (fun t => (t.me.iter 3).slots.length == 8) ∧ does (.iflat 3 1) iters (fun t => (t.me.iter 3).two) ∧
    does (.izip 3 0) iters (fun t => (t.me.iter 3).two && (t.me.iter 0).absorber == some 3) ∧ (iters.me.iter 0).two = false ∧
    does (.ichain 3 0) iters (fun t => !(t.me.iter 3).two && (t.me.iter 0).st == .absorbed) ∧ 8 ≤ ((sized 8).me.iter 3).slots.length ∧
    gives (.imap 3 1 1) (sized 8) (fun t => t.me.trap.val == 0x303) ∧
    (let s := after (.iflat 3 1) iters
     s.Ready ∧ (s.me.iter 3).two = true ∧ gives (.iflat 3 1) s (fun t => t.me.trap.val == 0x304)) := by decide +kernel

theorem test_witness_seal : iters.Ready ∧ iters.me.itOps = [] ∧ iters.me.arming = none ∧ iters.me.run = .running ∧
    (iters.me.iter 3).st = .building ∧ (iters.me.iter 3).slots ≠ [] ∧
    does (.iseal 3) iters (fun t => t.me.tlit == 1 && (t.me.iter 3).st == .sealed) ∧ (iters.me.iter 0).st = .sealed ∧
    does (.ienough 0) iters (fun t => (t.me.iter 0).st == .ended) ∧ iters.me.q1.length < 16 ∧
    does (.istat 1) iters (fun t => t.me.q1.length == 1) ∧
    (let s := after (.izip 3 0) iters
     s.Ready ∧ (s.me.iter 0).st = .absorbed ∧ gives (.ienough 0) s (fun t => t.me.trap.val == 1)) := by decide +kernel

/-- What stack 0 gives to a pull of at most four. -/
noncomputable def taken : Taken × Hart :=
  pullGroup (iters.setMe { iters.me with tlit := iters.me.tlit + 1 }) iters.who
    (iters.capture (pullCaps iters)).pullCtr 0 iters.me.vl

theorem test_witness_pull : iters.Ready ∧ iters.me.Shaped ∧ iters.me.vill = false ∧ ekOf iters.me.vtype = false ∧
    32 ≤ sewOf iters.me.vtype ∧ iters.me.vstart = 0 ∧ groupOk iters.me.vtype 3 32 = true ∧ iters.me.arming = none ∧
    iters.me.itOps = [] ∧ (iters.me.iter 0).st = .sealed ∧ (iters.me.iter 0).two = false ∧ iters.me.lq.length < 8 ∧ group 4 taken = true ∧
    does (.inext 0 3) iters (fun t => got t == [5, 6, 7, 8] && t.me.lq == [4] && t.me.maskBit 0 3 && !t.me.maskBit 0 4) = true := by
  decide +kernel

theorem test_witness_prefetch : (iters.hart ⟨0, 0⟩).itOps = [] ∧ (iters.hart ⟨0, 0⟩).pulls = [] ∧
    gives (.iteratorTableRead ⟨0, 0⟩ 0) iters (fun t => 0 < (t.me.iter 0).buf.length && (t.me.iter 0).st == .sealed) := by decide +kernel

/-! ### Witnesses: vector stream, matrix unit -/

theorem test_witness_stream : queued.OnScalar ∧ queued.me.stream ≠ [] ∧
    (let s := queued.modMe (fun h => { h with vtype := 2, vl := 4 })
     s.OnScalar ∧ s.me.stream ≠ [] ∧ s.me.vill = false ∧ groupOk s.me.vtype 3 32 = true ∧ s.me.outstanding < 32 ∧ s.me.vstartNow = 0 ∧
     (Instr.vaddX 3 1 2 0, [s.x 2]) ∈ [(Instr.vadd 3 1 1 0 0, []), (.vaddX 3 1 2 0, [s.x 2])] ∧
     does (.vaddX 3 1 2 0) s (fun t => t.me.stream.length == 2 && t.me.nextSeq == 8 && got t == [0, 0, 0, 0])) ∧
    (let s := queued.modMe (fun h => { h with vtype := 2, vl := 4, stream := (List.replicate 32 h.stream).flatten })
     32 ≤ s.me.outstanding ∧ gives (.vaddX 3 1 2 0) s (fun t => t.me.run == .waiting .stream)) := by decide +kernel

/-- SEW 16, EK float, a length of 1; 2.0 in v1, the active plane has 3.0 in column 0 of row 0. -/
noncomputable def matrix : State :=
  let s := with' (fun h => { h with vtype := 9, vl := 1 }.setElem 1 0 16 0x4000)
  s.modCore 0 (fun k => { k with matrix := { k.matrix with owner := some 0, active := k.matrix.active.set 0 0x4040 } })

theorem test_witness_matrix : matrix.Ready ∧ matrix.me.arming = none ∧ matrix.me.vstart = 0 ∧ matrix.matrixConfig = false ∧
    matrix.mxFull = false ∧ matrix.me.vill = false ∧ sewOf matrix.me.vtype = 16 ∧ ekOf matrix.me.vtype = true ∧
    groupOk matrix.me.vtype 2 32 = true ∧ groupOk matrix.me.vtype 1 16 = true ∧ overlapOk matrix.me.vtype 2 32 1 16 = true ∧
    matrix.mxMine.all (fun o => !o.writesReg 1 (lmulOf matrix.me.vtype)) = true ∧
    does (.mrow 2 1) matrix (fun t => t.myCore.matrix.counter == 1 && t.myCore.matrix.ops.length == 1) ∧
    does (.mldsv 1 2) (matrix.setX 2 511) (fun t => t.myCore.matrix.ops.map (·.k) == [255]) ∧
    does .mwait matrix (fun t => t.me.stream.length == 1) ∧ base.matrixConfig = false ∧
    (let s := matrix.modMe (fun h => { h with lanes := 2 })
     s.matrixConfig = true ∧ traps .mzero ⟨.config, 0xD8000003, 0⟩ s) := by decide +kernel

theorem test_witness_matrix_windows :
    (let s := streaming.modMe (fun h => { h with vtype := 9, vl := 1 })
     s.Ready ∧ (s.me.win 7).isOpen = true ∧ (s.me.win 7).strm = true ∧ does (.mroww 2 7) s (fun t => t.myCore.matrix.ops.length == 1)) := by
  decide +kernel

/-- A window of one row of two BF16 elements at 4000H, landed. -/
noncomputable def plane : State := after (.slabLanded ⟨0, 0⟩ 1 0) (after (.wopen 7) (bound.modMe (fun h => h.setWin 7 { h.win 7 with
  dims := [0x100000002, 0x200000001], mode := 0x10421, forms := [0xF000000000001000, 0xF000000000000000], origins := [0, 0], formVl := 2 })))

theorem test_witness_shadow_load : plane.Ready ∧ plane.matrixConfig = false ∧ plane.mxFull = false ∧ mldsWindowOk (plane.me.win 7) = true ∧
    plane.me.arming = none ∧ plane.me.vstart = 0 := by decide +kernel

theorem test_witness_shadow_points : ∀ e, e < 65536 → (plane.me.win 7).inTensor (mldsPoint [0, 0] e) = true →
    inBox ((plane.me.win 7).current plane.me.ctr) (mldsPoint [0, 0] e) = true ∧ covered plane 7 (mldsPoint [0, 0] e) = false ∧
      ((plane.me.win 7).slot? (mldsPoint [0, 0] e)).bind (·.tag) = none := by
  have small : ∀ e, e < 2 → inBox ((plane.me.win 7).current plane.me.ctr) (mldsPoint [0, 0] e) = true ∧
      covered plane 7 (mldsPoint [0, 0] e) = false ∧ ((plane.me.win 7).slot? (mldsPoint [0, 0] e)).bind (·.tag) = none := by decide +kernel
  have dims : (plane.me.win 7).dims = [0x100000002, 0x200000001] := by decide +kernel
  intro e _ ht
  refine small e ?_
  generalize plane.me.win 7 = win at dims ht
  simp only [Window.inTensor, Window.d, Window.extent, dims, mldsPoint, bitsOf, List.length_cons, List.length_nil, List.range_succ, List.range_zero,
    List.nil_append, List.cons_append, List.all_cons, List.all_nil] at ht
  simp at ht
  omega
/-- MROW has issued, and has started. -/
noncomputable def rowIssued : State := after (.mrow 2 1) matrix
noncomputable def rowStarted : State := after (.matrixOpStart 0) rowIssued

theorem test_witness_matrix_start : (∃ o, (rowIssued.core 0).matrix.ops.find? (fun p => !p.started) = some o ∧ o.tag.held = none ∧
      (rowIssued.hart o.who).settled o.tag.seq = true ∧ (rowIssued.core 0).matrix.mayStart o = true ∧ o.who.core = 0 ∧ o.kind = .row) ∧
    gives (.matrixOpStart 0) rowIssued (fun t => (t.core 0).matrix.ops.all (·.started)) = true ∧
    (matrix.core 0).matrix.ops.find? (fun p => !p.started) = none :=
  ⟨⟨(rowIssued.core 0).matrix.ops.headD (MxOp.plain .zero 0 ⟨0, 0⟩), by decide +kernel⟩, by decide +kernel, by decide +kernel⟩

theorem test_witness_matrix_row :
    (let o := (rowStarted.core 0).matrix.ops.headD (MxOp.plain .zero 0 ⟨0, 0⟩)
     o.tag.num = 1 ∧ o.started = true ∧ o.who.core = 0 ∧ o.kind = .row ∧ (rowStarted.hart o.who).lanes * 16 * 2 * o.lmul ≥ 128 ∧
     o.vd.toNat + 2 * o.lmul ≤ 32 ∧ 4 ≤ (rowStarted.hart o.who).lanes ∧
     columnSum o.row o.mask matrix.myCore.matrix.active 0 = 0x40C00000) := by decide +kernel

/-- An operation of each other kind, started. -/
noncomputable def started (i : Instr) : State := after (.matrixOpStart 0) (after i matrix)

theorem test_witness_planes : gives (.matrixOpComplete 0 1) (started .mswap) (fun t => t.myCore.matrix.shadow.get 0 == 0x4040) ∧
    gives (.matrixOpComplete 0 1) (started (.mldsv 1 0)) (fun t => t.myCore.matrix.shadow.get 0 == 0x4000) ∧
    gives (.matrixOpComplete 0 1) (started .mzero) (fun t => t.myCore.matrix.shadow.get 0 == 0 && t.myCore.matrix.active.get 0 == 0x4040) := by
  decide +kernel

/-- MROWW has issued, and a row of its window stands in the elastic queue. -/
noncomputable def rowQueued : State := after (.streamRowEnter ⟨0, 0⟩ 1) (after (.mroww 2 7) (streaming.modMe (fun h => { h with vtype := 9, vl := 1 })))

theorem test_witness_stream_start : (∃ o r q, (rowQueued.core 0).matrix.ops.find? (fun p => !p.started) = some o ∧ o.tag.held = none ∧
      (rowQueued.hart o.who).settled o.tag.seq = true ∧ (rowQueued.core 0).matrix.mayStart o = true ∧ o.who.core = 0 ∧ o.kind = .rowStream ∧
      takeRow o.who o.win (rowQueued.core 0).matrix.queue = some (r, q)) ∧
    gives (.matrixOpStart 0) rowQueued (fun t => (t.core 0).matrix.queue == [] && (t.core 0).matrix.ops.all (·.started)) = true :=
  ⟨⟨(rowQueued.core 0).matrix.ops.headD (MxOp.plain .zero 0 ⟨0, 0⟩),
    ((takeRow ⟨0, 0⟩ 7 (rowQueued.core 0).matrix.queue).getD (0, [])).1, ((takeRow ⟨0, 0⟩ 7 (rowQueued.core 0).matrix.queue).getD (0, [])).2,
    by decide +kernel⟩, by decide +kernel⟩

/-! ### Witnesses: KV members -/

/-- Context 1 at root 4000H: sequence 0 of one block of 16 positions of 16 BF16 elements, at address 5000H, of which two
positions are valid; the block's first key and value are 1.0 in element 0. -/
noncomputable def kv : State :=
  let s := ((base.writeN 0x4000 8 0x6001).writeN 0x6000 8 0x7001).writeN 0x7000 8 0x0000000200000000
  let s1 := ((s.writeN 0x7008 8 0x0000000100040000).writeN 0x7010 8 0x7100).writeN 0x7018 8 0x3F800000
  let s2 := ((s1.writeN 0x7100 8 0x5003).writeN 0x5000 2 0x3F80).writeN 0x5200 2 0x3F80
  { s2.modMe (fun h => { h with kv := h.kv.set 1 ⟨0x4000, 0, 0xFFFFFFFF⟩ }) with owners := [(5, 0)] }

/-- In the type of the attention members. -/
noncomputable def attn : State := kv.modMe (fun h => { h with vtype := 9, vl := 1 })

/-- In that of KVXLAT, and for one token. -/
noncomputable def xlat : State := kv.modMe (fun h => { h with vtype := 3, vl := 1 })

theorem test_witness_kv : kv.Ready ∧ kv.me.arming = none ∧ kv.me.run = .running ∧ kv.me.gang = none ∧ (kv.x 0).toNat % 8192 = 0 ∧
    does (.kvset 2 0) (kv.setX 2 0x6000) (fun t => (t.me.kv.get 0).root == 0x6000 && t.me.tlkv == 1) ∧ ((kv.setX 2 8).x 2).toNat % 8192 ≠ 0 ∧
    gives (.kvset 2 0) (kv.setX 2 8) (fun t => t.me.trap.cause == 3 && t.me.tlkv == 1) ∧ kv.me.q1.length < 16 ∧
    (kv.me.kv.get 1).root ≠ 0 ∧ does (.kvstat 1) kv (fun t => t.me.q1 == [0x80000000FFFFFFFF]) ∧ (kv.me.kv.get 0).root = 0 ∧
    does (.kvinv 2 1) kv (fun t => t.me.tlkv == 1) := by decide +kernel

theorem test_witness_kv_stand : xlat.Ready ∧ xlat.me.vill = false ∧ xlat.me.vstart = 0 ∧ sewOf xlat.me.vtype = 64 ∧ ekOf xlat.me.vtype = false ∧
    groupOk xlat.me.vtype 3 64 = true ∧ (3 : VReg) ≠ 4 ∧ does (.kvxlat 3 4 0 1 5) xlat (fun t => t.me.stream.length == 1 && t.me.tlkv == 1) ∧
    attn.Ready ∧ sewOf attn.me.vtype = 16 ∧ ekOf attn.me.vtype = true ∧ groupOk attn.me.vtype 2 32 = true ∧ groupOk attn.me.vtype 1 16 = true ∧
    1 * 16 + 2 * 1 + 2 ≤ 64 * attn.me.lanes * lmulOf attn.me.vtype ∧
    overlaps 2 (emulOf attn.me.vtype 32) 1 (emulOf attn.me.vtype 16) = false ∧
    does (.attnc 2 1 4 1) attn (fun t => t.me.stream.length == 1) ∧ does (.kvapp 2 1 4 1) attn (fun t => t.me.stream.length == 1) := by
  decide +kernel

theorem test_witness_kv_gang :
    (let s := after (.gangFormed 0) ganging
     s.Ready ∧ s.me.arming = none ∧ s.me.run = .running ∧ s.me.gang ≠ none ∧ traps (.kvstat 1) ⟨.config, 0xDC000107, 0⟩ s) := by decide +kernel

/-- The members at the head of the stream. -/
noncomputable def xlatHead : State := after (.kvxlat 3 4 0 1 5) xlat
noncomputable def attnHead : State := after (.attn 2 1 0 1) (attn.modMe (fun h => h.setElem 1 0 16 0x3F80))
noncomputable def appHead : State := after (.kvapp 2 1 4 1) ((attn.modMe (fun h => (h.setElem 1 0 16 0x4000).setElem 2 0 16 0x4040)).setX 5 2)

/-- The head, and the state in which the event executes it. -/
noncomputable def head (s : State) : Issued := s.me.stream.headD ⟨0, base.capture [], 0, none, 0, base.snap, none⟩
noncomputable def inReplay (s : State) : State :=
  { s.modHart ⟨0, 0⟩ (fun h => { h with stream := [] }) with agent := ⟨⟨0, 0⟩, none⟩, replay := some (head s) }

theorem walked {α : Type} {r : Walk α} (h : r.2.isOk = true) : ∃ s a, r = (s, .ok a) := by
  rcases r with ⟨s, _ | a⟩
  · cases h
  · exact ⟨s, a, rfl⟩

theorem test_witness_kv_heads : (xlatHead.hart ⟨0, 0⟩).stream = [head xlatHead] ∧ (head xlatHead).held = none ∧ (head xlatHead).cap.num = some 1 ∧
    xlatHead.bad = [] ∧ xlatHead.stores = [] ∧ xlatHead.me.Shaped ∧ (head xlatHead).word = encodeWord (.kvxlat 3 4 0 1 5) ∧
    (head attnHead).word = encodeWord (.attn 2 1 0 1) ∧ attnHead.me.Shaped ∧ (head attnHead).cap.num = some 1 ∧ attnHead.me.kvstart = 0 ∧
    (head appHead).word = encodeWord (.kvapp 2 1 4 1) ∧ appHead.me.Shaped ∧ (head appHead).cap.xs.length = 2 ∧ queued.me.Shaped ∧
    majorOf (head queued).word ≠ 0x37 := by decide +kernel

theorem test_witness_kvxlat : (∃ s1 desc, walkDesc 1 0 0 0 (fun _ => 0) (inReplay xlatHead) = (s1, .ok desc)) ∧
    (head xlatHead).cap.vl ≤ vlmaxOf 32 3 ∧
    gives (.kvWalkerReadReturn ⟨0, 0⟩) (xlatHead.modMe (fun h => (h.setMaskBit 5 0 true).setElem 4 0 64 15)) (fun t =>
      t.me.elem 3 0 64 == 0x51E0 && !t.me.maskBit 5 0 && t.me.stream == []) = true :=
  ⟨walked (by decide +kernel), by decide +kernel, by decide +kernel⟩

theorem test_witness_attn : (∃ s1 desc, walkDesc 1 0 16 (BitVec.ofNat 32 0) (fun _ => BitVec.ofNat 32 0) (inReplay attnHead) = (s1, .ok desc)) ∧
    gives (.attnBlock ⟨0, 0⟩) attnHead (fun t => t.me.stream == [] && t.me.kvstart == 0 && 0 < t.me.elem 2 0 32) = true :=
  ⟨walked (by decide +kernel), by decide +kernel⟩

theorem test_witness_kvapp : (∃ s1 desc, walkDesc 1 0 16 (Config.kvIndex 2) (fun y => BitVec.ofNat 32 (2 / y.bs)) (inReplay appHead) = (s1, .ok desc)) ∧
    gives (.kvWalkerReadReturn ⟨0, 0⟩) appHead (fun t => t.readN 0x5040 2 == 0x4000 && t.readN 0x5240 2 == 0x4040 && t.readN 0x7004 4 == 2) = true ∧
    (let s := after (.kvWalkerReadReturn ⟨0, 0⟩) appHead
     s.Inv ∧ (head s).cap.xs[2]? = some 0x7004 ∧ lenAccess (inReplay s) 0x7004 = .ok ⟨.device, 0x7004, false, 0, 0x3004, 0x4000⟩ ∧ 2 + 1 < 2 ^ 32 ∧
     gives (.kvWalkerReadReturn ⟨0, 0⟩) s (fun t => t.readN 0x7004 4 == 3 && t.me.stream == [])) :=
  ⟨walked (by decide +kernel), by decide +kernel, by decide +kernel⟩

/-! ### Witnesses: exchange -/

theorem test_witness_span : ints.Ready ∧ ints.me.Shaped ∧ ints.me.vill = false ∧ ints.me.vstart = 0 ∧ groupOk ints.me.vtype 3 32 = true ∧
    (3 : VReg) ≠ 1 ∧ ekOf ints.me.vtype = false ∧ does (.xstep 3 1 2 0) ints (fun t => got t == [7, 0xFFFFFFFF, 0x80000000, 100]) ∧
    does (.xbcast 3 1 2 0) (ints.setX 2 3) (fun t => got t == [100, 100, 100, 100]) ∧
    does (.xredsum 3 1 0) ints (fun t => got t == [0x8000006A, 0, 0, 0]) ∧
    does (.xredmax 3 1 0) ints (fun t => got t == [100, 0, 0, 0]) ∧ floats.Ready ∧ floats.me.Shaped ∧ floats.FpQuiet ∧
    ekOf floats.me.vtype = true := by decide +kernel

/-- Sends to hart 0 of core 1, tag 5. -/
noncomputable def sender : State := (operands vec).setX 2 0x40000005

theorem test_witness_exchange : sender.Ready ∧ sender.me.arming = none ∧ sender.me.vill = false ∧ sender.me.vstart = 0 ∧ sender.me.gang = none ∧
    groupOk sender.me.vtype 1 32 = true ∧ (sender.x 2).toNat / 2 ^ 16 % 2 ^ 11 = 0 ∧
    does (.xsend 1 2) sender (fun t => t.me.tlxc == 1 && (t.me.xops.map (fun o => o.bytes.take 8)) == [[7, 0, 0, 0, 255, 255, 255, 255]]) ∧
    does (.xrecv 1 2) sender (fun t => t.me.xops.map (fun o => (o.tag.num, o.vl)) == [(1, 4)]) ∧ sender.me.xops = [] ∧
    does (.xstat 1) sender (fun t => t.x 1 == 0) := by decide +kernel

theorem test_witness_exchange_waits :
    (let s := after (.xsend 1 2) (after (.xsend 1 2) (after (.xsend 1 2) (after (.xsend 1 2) sender)))
     s.Quiet ∧ s.bad = [] ∧ s.me.pulls = [] ∧ s.order.lag = [] ∧ (s.me.xops.filter (fun o => o.kind == .send)).length = 4 ∧ s.me.xops ≠ [] ∧
     does (.xsend 1 2) s (fun t => t.me.stream.length == 1 && t.me.tlxc == 4) ∧ gives (.xstat 1) s (fun t => t.me.run == .waiting .stream)) ∧
    (let s := after (.xrecv 7 2) (after (.xrecv 6 2) (after (.xrecv 5 2) (after (.xrecv 4 2) sender)))
     s.Quiet ∧ s.bad = [] ∧ s.me.pulls = [] ∧ s.order.lag = [] ∧ (s.me.xops.filter (fun o => o.kind == .recv)).length = 4 ∧
     does (.xrecv 3 2) s (fun t => t.me.stream.length == 1 && t.me.tlxc == 4) ∧
     s.me.xops.any (fun o => overlaps o.vd.toNat (emulOf o.vtype (sewOf o.vtype)) 6 1) = true ∧
     does (.xsend 6 2) s (fun t => t.me.stream.length == 1 && t.me.tlxc == 4) ∧ does (.xsend 3 2) s (fun t => t.me.stream == [] && t.me.tlxc == 5)) ∧
    (let s := sender.setX 2 0x00010005
     s.Ready ∧ (s.x 2).toNat / 2 ^ 16 % 2 ^ 11 ≠ 0 ∧ gives (.xsend 1 2) s (fun t => t.me.trap.cause == 0x13 && t.me.trap.val == 0x0300000000000000)) ∧
    (let s := (after (.gangFormed 0) ganging).modMe (fun h => { h with vtype := 2, vl := 4 })
     s.Ready ∧ s.me.arming = none ∧ s.me.vill = false ∧ s.me.gang ≠ none ∧ groupOk s.me.vtype 1 32 = true) := by decide +kernel

/-- Cores 0 and 1 of one launch; the ring descriptor at 4000H names core 1 both ways: revolution 9, step 0, of n members. -/
noncomputable def ringing (n : Nat) : State :=
  let s := (operands (vec.setX 2 0x4000)).writeN 0x4000 8 0x40000000
  let s1 := ((s.writeN 0x4008 8 0x40000000).writeN 0x4010 8 0x900000000).writeN 0x4018 8 n
  (s1.setHart ⟨1, 0⟩ base.me)

theorem test_witness_ring :
    (let s := ringing 3
     let counted : State := s.setMe { s.me with
       tlxc := s.me.tlxc + 1
       xbound := true }
     s.Ready ∧ s.me.arming = none ∧ s.me.gang = none ∧ ringDesc counted (s.x 2) = .ok (0x4010, [0x40000000, 0x40000000, 0x900000000, 3]) ∧
     ringBad [0x40000000, 0x40000000, 0x900000000, 3] = false ∧ s.me.revDead.contains 9 = false ∧ chanDev 0x40000000 = s.dev.toNat ∧
     s.groupOfHart s.who = some 0 ∧ s.foreign s.who (chanWho 0x40000000) = false ∧
     does (.xring 3 1 2) s (fun t => t.me.stream.length == 1 && t.ringMail.map (fun x => (x.1, x.2.1, x.2.2.src, x.2.2.rev, x.2.2.step,
       x.2.2.bytes.length)) == [(⟨1, 0⟩, 0, ⟨0, 0⟩, 9, 0, 16)]) ∧
     (let s1 := s.setHart ⟨1, 0⟩ Hart.reset
      s1.groupOfHart (chanWho 0x40000000) = none ∧ does (.xring 3 1 2) s1 (fun t => t.ringMail.length == 1))) := by decide +kernel

/-- Hart 0 of core 0 has sent, and hart 0 of core 1 receives vl elements. -/
noncomputable def paired (vl : Nat) : State :=
  let s := (after (.xsend 1 2) sender).setHart ⟨1, 0⟩ { sender.me with vl := vl, xu := sender.me.xu.set 2 5 }
  after (.xrecv 3 2) { s with agent := ⟨⟨1, 0⟩, none⟩ }

/-- The operation of a hart. -/
noncomputable def xop (s : State) (w : Who) : XOp := (s.hart w).xops.headD (XOp.plain .send 0 0 (base.capture []))

theorem test_witness_pair : (0 : CoreId) ≠ 1 ∧ (paired 4).oldest ⟨0, 0⟩ .send 0 ⟨1, 0⟩ 5 = some (xop (paired 4) ⟨0, 0⟩) ∧
    (paired 4).oldest ⟨1, 0⟩ .recv 0 ⟨0, 0⟩ 5 = some (xop (paired 4) ⟨1, 0⟩) ∧ (paired 4).xFree ⟨0, 0⟩ (xop (paired 4) ⟨0, 0⟩) = true ∧
    (paired 4).xFree ⟨1, 0⟩ (xop (paired 4) ⟨1, 0⟩) = true ∧ (paired 4).sameGroup ⟨0, 0⟩ ⟨1, 0⟩ = true ∧
    (xop (paired 4) ⟨0, 0⟩).bytes.length = 4 * (sewOf (xop (paired 4) ⟨1, 0⟩).vtype / 8) ∧ (xop (paired 4) ⟨1, 0⟩).vl = 4 ∧
    gives (.exchangePairTransfer ⟨0, 0⟩ ⟨1, 0⟩ ⟨5, none⟩) (paired 4) (fun t => (t.hart ⟨1, 0⟩).elem 3 1 32 == 0xFFFFFFFF && t.me.xops == []) = true ∧
    (xop (paired 3) ⟨0, 0⟩).bytes.length ≠ (xop (paired 3) ⟨1, 0⟩).vl * (sewOf (xop (paired 3) ⟨1, 0⟩).vtype / 8) ∧
    gives (.exchangePairTransfer ⟨0, 0⟩ ⟨1, 0⟩ ⟨5, none⟩) (paired 3) (fun t => t.me.xpend.map (·.val) == [0x0200000000000001]) = true ∧
    base.oldest ⟨0, 0⟩ .send 0 ⟨1, 0⟩ 5 = none := by decide +kernel

theorem test_witness_refused :
    (let s := after (.xsend 1 2) sender
     let o := xop s ⟨0, 0⟩
     s.me.xops.find? (fun p => p.tag.num == 1 && p.kind != .ring) = some o ∧ o.tag.num = 1 ∧ s.xFree ⟨0, 0⟩ o = true ∧
     chanDev o.chan = s.dev.toNat ∧ s.foreign ⟨0, 0⟩ (chanWho o.chan) = true ∧ o.wdog = 0 ∧
     gives (.exchangeRefused ⟨0, 0⟩ 1 false) s (fun t => t.me.xpend.map (·.val) == [0x0300000000000001]) = true) ∧
    (paired 4).sameGroup ⟨0, 0⟩ (chanWho (xop (paired 4) ⟨0, 0⟩).chan) = true ∧
    (let x : Saved := ⟨9, ⟨1, 0⟩, 0, 0, none, none, base.me, [], false, [], 0, []⟩
     let s := { after (.xsend 1 2) sender with saved := [x] }
     s.groupOfHart ⟨0, 0⟩ = some 0 ∧ x.home = chanWho (xop s ⟨0, 0⟩).chan ∧ s.groupOf x.frame = some 0 ∧
     gives (.exchangeRefused ⟨0, 0⟩ 1 false) s (fun t => t.me.xops.length == 1 && t.me.xpend == []) = true) ∧
    (let s := { after (.xsend 1 2) (sender.setX 2 0x0001001000000000) with ports := Vector.replicate 24 { Port.reset with up := false } }
     let o := xop s ⟨0, 0⟩
     s.me.xops.find? (fun p => p.tag.num == 1) = some o ∧ chanDev o.chan ≠ s.dev.toNat ∧ s.noPath = true ∧ o.wdog ≠ 0 ∧ o.tag.held = none ∧
     o.kind ≠ .ring ∧ gives (.exchangeRefused ⟨0, 0⟩ 1 true) s (fun t => t.me.xpend.map (·.val) == [0x0500000000000001]) = true ∧
     gives (.exchangeWatchdogExpiry ⟨0, 0⟩ 1) s (fun t => t.me.xpend.map (·.val) == [0x0100000000000001]) = true) := by decide +kernel

/-- XRING stands at the head of the stream, and hart 0 of core 1 has sent messages. -/
noncomputable def ringHead (n : Nat) (l : List RingMsg) : State :=
  { after (.xring 3 1 2) (ringing n) with ringMail := l.map (fun m => (⟨0, 0⟩, 0, m)) }

theorem test_witness_ring_message :
    (let s := ringHead 3 [⟨0, ⟨1, 0⟩, 9, 0, List.replicate 16 1⟩, ⟨0, ⟨1, 0⟩, 8, 5, []⟩]
     let o := xop s ⟨0, 0⟩
     s.me.stream = [head s] ∧ (head s).held = none ∧ (head s).cap.num = some 1 ∧ majorOf (head s).word = 0x39 ∧ fnOf (head s).word = 6 ∧
     s.me.xops.find? (fun p => p.kind == .ring && some p.tag.num == (head s).cap.num) = some o ∧ s.stores = [] ∧ s.Inv ∧
     groupOk o.vtype o.vd.toNat (sewOf o.vtype) = true ∧ o.vl ≤ vlmaxOf s.me.lanes o.vtype ∧ o.key + 8 ≤ 2 ^ 57 ∧ s.me.lanes ≤ 2048 ∧ chanWho o.pred ≠ ⟨2, 0⟩ ∧
     ⟨0, ⟨1, 0⟩, o.rev, o.step, List.replicate 16 1⟩ ∈ s.mailOf ⟨0, 0⟩ ∧ chanDev o.pred = 0 ∧ chanWho o.pred = ⟨1, 0⟩ ∧ o.arrived = none ∧ o.step.toNat + 2 < o.mem ∧ olderRev 8 o.rev = true ∧
     gives (.ringStepMessage ⟨0, 0⟩ ⟨0, ⟨1, 0⟩⟩ ⟨9, 0⟩ (List.replicate 16 1)) s (fun t => t.me.stream == [] && t.me.elem 3 3 32 == 0x01010101 &&
       t.readN 0x4010 8 == 0x900000001) = true ∧
     gives (.ringStepMessage ⟨0, 0⟩ ⟨0, ⟨1, 0⟩⟩ ⟨8, 5⟩ []) s (fun t => t.me.ringDrops == 1 && t.me.stream.length == 1) = true) := by decide +kernel

/-- A ring of two in its last step: both have their messages. -/
noncomputable def ringFull : State :=
  let s := after (.ringStepMessage ⟨0, 0⟩ ⟨0, ⟨1, 0⟩⟩ ⟨9, 0⟩ (List.replicate 16 1)) (ringHead 2 [⟨0, ⟨1, 0⟩, 9, 0, List.replicate 16 1⟩])
  s.modHart ⟨1, 0⟩ (fun h => { h with xops := [{ xop s ⟨0, 0⟩ with succ := 0, pred := 0 }] })

/-- Of each, in its group. -/
theorem anyIs {α β : Type} {f : α → Option β} {p : β → Bool} {l : List α} (h : l.all (fun k => (f k).any p) = true) :
    ∀ k, k ∈ l → ∃ m, f k = some m ∧ p m = true := by
  intro k hk
  have := List.all_eq_true.mp h k hk
  rcases hf : f k with _ | m
  · simp [hf] at this
  · exact ⟨m, rfl, by simpa [hf] using this⟩

theorem test_witness_ring_members : ∀ k, k ∈ (ringRound ringFull ⟨0, 0⟩ 9).1 → ∃ m, ringFull.memberOf ⟨0, 0⟩ k = some m ∧
    (m.drawn.isNone && m.ringReady 9) = true := anyIs (by decide +kernel)

/-- The other member has not its message yet; or the ring goes to device 1 and comes from hart 0 of core 1, which has seen the
marker. -/
theorem test_witness_ring_marker :
    (let s := ringFull.modHart ⟨1, 0⟩ (fun h => { h with xops := h.xops.map (fun o => { o with arrived := none }) })
     (⟨1, 0⟩ : Who) ∈ (ringRound s ⟨0, 0⟩ 9).1 ∧ (s.memberOf ⟨0, 0⟩ ⟨1, 0⟩).any (fun m => m.ringReady 9) = false ∧ (9 : BitVec 32) ∉ s.me.revDone ∧
     gives (.ringCommit ⟨0, 0⟩) s (fun t => t.me.stream.length == 1 && t.me.revDone == [])) ∧
    (let s := (ringFull.modHart ⟨0, 0⟩ (fun h => { h with xops := h.xops.map (fun o => { o with succ := 0x1000000000 }) })).modHart ⟨1, 0⟩
       (fun h => { h with revDone := [9] })
     (ringRound s ⟨0, 0⟩ 9).2 = true ∧ chanDev (xop s ⟨0, 0⟩).pred = s.dev.toNat ∧
     (s.memberOf ⟨0, 0⟩ (chanWho (xop s ⟨0, 0⟩).pred)).map (·.revDone) = some [9] ∧
     gives (.ringCommit ⟨0, 0⟩) s (fun t => t.me.stream == [] && t.me.revDone == [9])) := by decide +kernel

theorem test_witness_ring_commit : ringFull.me.stream = [head ringFull] ∧ (xop ringFull ⟨0, 0⟩).arrived = some (List.replicate 16 1) ∧
    (xop ringFull ⟨0, 0⟩).step.toNat + 2 = (xop ringFull ⟨0, 0⟩).mem ∧ ringFull.Inv ∧ ringFull.stores = [] ∧
    (ringRound ringFull ⟨0, 0⟩ 9).2 = false ∧ (ringRound ringFull ⟨0, 0⟩ 9).1 = [⟨0, 0⟩, ⟨1, 0⟩, ⟨0, 0⟩, ⟨1, 0⟩] ∧
    gives (.ringCommit ⟨0, 0⟩) ringFull (fun t => t.me.stream == [] && t.me.revDone == [9] && t.readN 0x4010 8 == 0xA00000000) = true := by
  decide +kernel

theorem test_witness_ring_abort :
    (let s := ringFull.modHart ⟨1, 0⟩ (fun h => { h with revDead := [9] })
     ringCommitted s ⟨0, 0⟩ 9 = false ∧
     ringCause s ⟨0, 0⟩ 9 = true ∧ (9 : BitVec 32) ∉ s.me.revDead ∧ (9 : BitVec 32) ∉ s.me.revDone ∧
     gives (.ringAbortNotice ⟨0, 0⟩ 9) s (fun t => t.me.xst.aborts == 1 && t.me.xst.last == 1 && t.me.stream == []) = true) := by decide +kernel

/-! ### Witnesses: harts, children, queues, launches, transfers -/

theorem test_witness_exit : base.Quiet ∧ base.me.vecDone = true ∧ base.CalmAt base.who ∧ base.me.gang = none ∧ base.me.ending = false ∧ base.myCore.layout = 1 ∧
    gives .exit (base.setX 5 88) (fun t => t.me.run == .exited && t.me.launch == some 0 && t.x 5 == 88) ∧ does .rdv base (fun _ => true) ∧
    (let s := with' (fun h => { h with ending := true })
     s.Quiet ∧ s.CalmAt s.who ∧ s.me.ending = true ∧ gives .rdv s (fun t => t.me.run == .exited)) := by decide +kernel

theorem test_witness_rdv : twoHarts.Quiet ∧ twoHarts.me.vecDone = true ∧ twoHarts.storesOf twoHarts.who = [] ∧ twoHarts.me.lost = none ∧ 1 < twoHarts.myCore.layout ∧
    twoHarts.who.hart = 0 ∧ twoHarts.myCore.othersParked = true ∧ does .rdv twoHarts (fun _ => true) ∧
    gives .exit twoHarts (fun t => (t.hart ⟨0, 1⟩).ending && (t.hart ⟨0, 1⟩).run == .running) ∧
    (let s := twoHarts.modHart ⟨0, 1⟩ (fun h => { h with run := .running })
     s.myCore.othersParked = false ∧ gives .rdv s (fun t => t.me.run == .waiting .harts) ∧
     (let s1 : State := { s with agent := ⟨⟨0, 1⟩, none⟩ }
      s1.Quiet ∧ s1.who.hart ≠ 0 ∧ s1.me.ending = false ∧ s1.me.gang = none ∧ gives .rdv s1 (fun t => t.me.run == .parked) ∧
      gives (.fork 1) s1 (fun t => t.me.trap.cause == 0x15))) := by decide +kernel

theorem test_witness_fork : (twoHarts.x 1).toNat % 4 = 0 ∧ twoHarts.who.hart = 0 ∧
    gives (.fork 1) (twoHarts.setX 1 8) (fun t => (t.hart ⟨0, 1⟩).run == .running && (t.hart ⟨0, 1⟩).pc == 8) ∧
    ((twoHarts.setX 1 6).x 1).toNat % 4 ≠ 0 ∧ gives (.fork 1) (twoHarts.setX 1 6) (fun t => t.me.trap.cause == 3 && t.me.trap.val == 6) ∧
    (let s := twoHarts.modHart ⟨0, 1⟩ (fun h => { h with run := .exited, xu := h.xu.set 7 7 })
     (s.hart ⟨0, 1⟩).run = .exited ∧ s.launchOf s.me = some (s.launches.headD (Launch.blank 9 0 0 0 0)) ∧
     gives (.fork 1) s (fun t => (t.hart ⟨0, 1⟩).run == .running && (t.hart ⟨0, 1⟩).xu.get 7 == 0 && (t.hart ⟨0, 1⟩).lanes == 16)) := by
  decide +kernel

/-- The range table of the tenants at 10000H maps the pages 4000H to 7000H; a packet at 4000H names the image at 6000H, whose
code is one word. -/
noncomputable def imaged (dw0 dw5 : Nat) (s : State) : State :=
  let s1 := ((s.writeN 0x10000 8 0x4001).writeN 0x10008 8 0x7000).writeN 0x10010 8 0x4018
  let s2 := ((s1.writeN 0x4000 8 dw0).writeN 0x4008 8 0x6000).writeN 0x4028 8 dw5
  { (s2.writeN 0x6000 8 0x14B525831).writeN 0x6008 8 0x400000040 with
    parts := s.parts.set 0 ⟨15, [[0], [0], [0], [0]], [[], [], [], []], true⟩, tenants := [(0, ⟨true, 0, 0, 0x10000, 0, 0⟩)] }

/-- A kernel for one core of die 0, with NOTIFY. -/
def kernel : Nat := 0x11000801

/-- Hart 0 of core 0 can launch it as a child. -/
noncomputable def parent : State := imaged kernel 0 (base.setX 1 0x4000)

/-- Its pool is full of other children of depth 1. -/
noncomputable def crowded : State :=
  { parent with pool := List.replicate 512 ⟨7, ⟨5, 0⟩, 0, 0, 0, ⟨0, 0, none, 0⟩, 1, [], none, none, false, [], none⟩ }

theorem test_witness_launch : (∃ p, access parent parent.who .load 64 false (parent.x 1) = .ok p ∧ p.key < 2 ^ 60) ∧ parent.Quiet ∧ parent.bad = [] ∧
    parent.me.gang = none ∧ parent.me.depth ≠ 8 ∧ ¬ 512 ≤ (parent.pool.filter (fun c => c.depth == parent.me.depth + 1)).length ∧
    512 ≤ (crowded.pool.filter (fun c => c.depth == crowded.me.depth + 1)).length ∧
    does (.launch 1) parent (fun t => t.me.tlln == 1 && t.pool.map (fun c => (c.num, c.packet.headD 0)) == [(1, 0x11000801)]) ∧
    does (.launcht 3 1) crowded (fun t => t.x 3 == 0) ∧ gives (.launch 1) crowded (fun t => t.me.run == .waiting (.quota (0x11000801 :: 0x6000 :: List.replicate 6 0))) ∧
    (let s := parent.modMe (fun h => { h with depth := 8 })
     does (.launcht 3 1) s (fun t => t.x 3 == BitVec.allOnes 64) ∧ gives (.launch 1) s (fun t => t.me.trap.cause == 0x15)) :=
  ⟨⟨⟨.device, 0x4000, false, 0, 0, 0x4000⟩, by decide +kernel⟩, by decide +kernel⟩

theorem test_witness_lwait :
    (let s := with' (fun h => { h with tlln := 66, slotsLn := h.slotsLn.set 2 (66, 3) })
     does (.lwait 1 2) (s.setX 2 0) (fun t => t.x 1 == 0xFE) ∧ does (.lwait 1 2) (s.setX 2 67) (fun t => t.x 1 == 0xFE) ∧
     does (.lwait 1 2) (s.setX 2 66) (fun t => t.x 1 == 3) ∧ does (.lwait 1 2) (s.setX 2 2) (fun t => t.x 1 == 0xFF) ∧
     gives (.lwait 1 2) (s.setX 2 65) (fun t => t.me.run == .waiting (.child 65)) ∧
     (let g := after (.gangFormed 0) ganging
      g.me.gang ≠ none ∧ g.Quiet ∧ g.storesOf g.who = [] ∧ gives (.lwait 1 2) g (fun t => t.me.trap.cause == 0x15))) := by decide +kernel

/-- Queue 6 of function 2, both rings of 16 entries, in tenant 0 and partition 0. -/
def queueDesc : List Word := [0x4000, 0x5000, 0xC0000404, 0, 5, 0, 0, 0]

noncomputable def q0 (s : State) : VQueue := s.queues.headD ⟨0, 0, [], 0, 0, 0, 0, 0, false, 0, none, none, none, false, [], [], []⟩

/-- The queue is made; a packet is submitted; the queue has a slot and its packet is ready. -/
noncomputable def made (dw0 dw5 : Nat) : State := after (.queueCreate 6 2 queueDesc) (imaged dw0 dw5 State.reset)
noncomputable def belled (dw0 dw5 : Nat) : State := after (.doorbell 2 6 1) (made dw0 dw5)
noncomputable def readied (dw0 dw5 : Nat) : State := after (.queueSwapIn 6) (belled dw0 dw5)

theorem test_witness_queue : (imaged kernel 0 State.reset).queue? 6 = none ∧ descOk (imaged kernel 0 State.reset) queueDesc = true ∧
    State.reset.sage.failed = none ∧ queueDesc.getD 4 0 ≠ 0 ∧ descOk (imaged kernel 0 State.reset) [0x4000, 0x5000, 0xC0000404, 0, 0, 0, 0, 0] = true ∧ descOk State.reset queueDesc = false ∧
    (made kernel 0).queue? 6 = some (q0 (made kernel 0)) ∧ (q0 (made kernel 0)).fn = 2 ∧ (q0 (belled kernel 0)).wants = some 0 ∧
    (q0 (belled kernel 0)).tail = 1 ∧ (belled kernel 0).queues = [q0 (belled kernel 0)] ∧ (q0 (readied kernel 0)).ready ≠ none ∧
    (q0 (made kernel 0)).ready = none ∧ (readied kernel 0).launches.length = 0 ∧ (readied kernel 0).transfers.length = 0 ∧
    gives (.queueReset 6) (readied kernel 0) (fun t => (q0 t).records.map (fun r => (r.seqNo, r.status)) == [(5, 7)]) = true ∧
    gives (.completionHead 2 6 1) (made kernel 0) (fun t => (q0 t).cHead == 0) = true := by decide +kernel

/-- A packet that stands ready already is not noted again. -/
theorem noted_queue {s : State} {q : VQueue} (hq : s.queues = [q]) (hh : headReady s q = true) (hr : q.ready.isSome = true)
    (hp : s.pool = []) (hs : s.saved = []) : noteReady s = s := by
  simp [noteReady, hq, hp, hs, hh, hr]

/-- A child that stands ready already is not noted again. -/
theorem noted_child {s : State} {c : Child} (hq : s.queues = []) (hp : s.pool = [c]) (hr : c.ready.isSome = true)
    (hs : s.saved = []) : noteReady s = s := by
  have hn : c.ready ≠ none := by intro h; simp [h] at hr
  simp [noteReady, hq, hp, hs, hn]

theorem planned {r : Except PlanErr Plan} {p : Plan → Bool}
    (h : (match r with
      | .ok x => p x
      | .error _ => false) = true) : ∃ x, r = .ok x ∧ p x = true := by
  rcases r with _ | x
  · cases h
  · exact ⟨x, rfl, h⟩

/-- The launch that the packet of queue 6 would be. -/
noncomputable def asked (s : State) : Launch :=
  let q := q0 s
  { Launch.blank s.nextId q.part q.aspace q.pasid q.fn with
    queue := some 6, seqNo := q.nextNo, prio := Packet.prio (q.pkt.getD []), pmax := q.pmax }

/-- What PACKET_DISPATCH asks of the packet at the head. -/
noncomputable def heads (s : State) : Bool :=
  s.queues == [q0 s] && headReady s (q0 s) && (q0 s).ready.isSome && s.pool == [] && s.saved == [] && s.queue? 6 == some (q0 s) &&
  (match (q0 s).pkt with
    | some pk => pk.length == 8
    | none => false)

theorem heads_noted {s : State} (h : heads s = true) : noteReady s = s := by
  simp only [heads, Bool.and_eq_true, beq_iff_eq] at h
  exact noted_queue h.1.1.1.1.1.1 h.1.1.1.1.1.2 h.1.1.1.1.2 h.1.1.1.2 h.1.1.2

theorem test_witness_dispatch : noteReady (readied kernel 0) = readied kernel 0 ∧
    (∃ plan, planLaunch (readied kernel 0) (asked (readied kernel 0)) ((q0 (readied kernel 0)).pkt.getD []) = .ok plan ∧
      (choosePlaces (fun c => ((readied kernel 0).part plan.launch.part).hasCore c && ((readied kernel 0).core c).isFree) plan.m plan.cpd plan.groups ==
        some [[0]]) = true) :=
  ⟨heads_noted (by decide +kernel), planned (by decide +kernel)⟩

theorem test_witness_dispatch_next : isNext (readied kernel 0) 0 (.queue 6) = true ∧ (q0 (readied kernel 0)).slot = true ∧
    (Packet.waits ((q0 (readied kernel 0)).pkt.getD [])).any (waitBad (readied kernel 0) (q0 (readied kernel 0))) = false := by decide +kernel

/-- A wait that names no queue, and a packet with priority 3 above PMAX. -/
theorem test_witness_dispatch_refused : noteReady (readied kernel 0x4007) = readied kernel 0x4007 ∧
    (Packet.waits ((q0 (readied kernel 0x4007)).pkt.getD [])).any (waitBad (readied kernel 0x4007) (q0 (readied kernel 0x4007))) = true ∧
    gives (.packetDispatch 6 []) (readied kernel 0x4007) (fun t => (q0 t).records.map (·.status) == [4]) = true ∧
    noteReady (readied 1 0) = readied 1 0 ∧
    gives (.packetDispatch 6 []) (readied 1 0) (fun t => (q0 t).records.map (·.status) == [1]) = true :=
  ⟨heads_noted (by decide +kernel), by decide +kernel, by decide +kernel, heads_noted (by decide +kernel), by decide +kernel⟩

/-- A child has been submitted and is ready. -/
noncomputable def submitted : State := noteReady (after (.launch 1) parent)
noncomputable def child : Child := submitted.pool.headD ⟨0, ⟨0, 0⟩, 0, 0, 0, ⟨0, 0, none, 0⟩, 0, [], none, none, false, [], none⟩
noncomputable def itsLaunch (s : State) : Launch := s.launches.headD (Launch.blank 9 0 0 0 0)

theorem test_witness_child : noteReady submitted = submitted ∧
    (∃ plan, planLaunch submitted { Launch.blank submitted.nextId (itsLaunch submitted).part (itsLaunch submitted).aspace (itsLaunch submitted).pasid
        (itsLaunch submitted).fn with depth := child.depth, prio := (itsLaunch submitted).prio, pmax := (itsLaunch submitted).pmax } child.packet = .ok plan ∧
      (choosePlaces (fun c => (submitted.part plan.launch.part).hasCore c && (submitted.core c).isFree) plan.m plan.cpd plan.groups == some [[1]]) = true) :=
  ⟨noted_child (by decide +kernel) (c := child) (by decide +kernel) (by decide +kernel) (by decide +kernel), planned (by decide +kernel)⟩

theorem test_witness_child_next : submitted.pool.find? (fun x => x.id == child.id) = some child ∧
    submitted.launches.find? (fun x => x.id == child.parentLaunch) = some (itsLaunch submitted) ∧ child.launch = none ∧
    childReady submitted child = true ∧ childWaitBad submitted child = false ∧
    isNext submitted (itsLaunch submitted).part (.child child.id) = true := by decide +kernel

/-- The packet is dispatched; its hart starts. -/
noncomputable def dispatched : State := after (.packetDispatch 6 []) (readied kernel 0)
noncomputable def placeBegun : State := after (.placeStart 2 0) dispatched

theorem test_witness_place_start : dispatched.launches.find? (fun x => x.id == (itsLaunch dispatched).id) = some (itsLaunch dispatched) ∧
    (itsLaunch dispatched).id = 2 ∧ (itsLaunch dispatched).places[0]? = some ⟨[0], false⟩ ∧ (itsLaunch dispatched).status = 0 ∧
    (∀ k : HartNum, ((dispatched.core 0).hart k).launch = some 2 → landedHart (dispatched.core 0) ((dispatched.core 0).hart k) = true) ∧
    (dispatched.hart ⟨0, 0⟩).run = .idle ∧ (placeBegun.hart ⟨0, 0⟩).run = .running ∧ (placeBegun.hart ⟨0, 0⟩).pc = 0x6040 := by decide +kernel

/-- Its only hart has ended. -/
noncomputable def ended : State :=
  { (made kernel 0).modHart ⟨0, 0⟩ (fun h => { h with run := .exited, launch := some 2 }) with
    launches := [{ Launch.blank 2 0 0 0 2 with queue := some 6, seqNo := 5, notify := true, places := [⟨[0], true⟩] }] }

theorem test_witness_retire : ended.launches.find? (fun x => x.id == (itsLaunch ended).id) = some (itsLaunch ended) ∧
    launchOver ended (itsLaunch ended) = true ∧ (itsLaunch ended).queue = some 6 ∧ ended.queue? 6 = some (q0 ended) := by decide +kernel

/-- Its hart runs still when its queue is reset. -/
theorem test_witness_queue_reset_running :
    (let s := ended.modHart ⟨0, 0⟩ (fun h => { h with run := .running })
     s.launches.Pairwise (fun l r => l.id ≠ r.id) ∧ (itsLaunch s) ∈ s.launches ∧ (itsLaunch s).queue = some 6 ∧ (itsLaunch s).status = 0 ∧
     (s.hart ⟨0, 0⟩).launch = some (itsLaunch s).id ∧ (s.hart ⟨0, 0⟩).alive = true) := by decide +kernel

/-- A record is to be written to the completion ring of the queue. -/
noncomputable def recorded : State :=
  (made kernel 0).setQueue { q0 (made kernel 0) with records := [⟨5, 6, 0, 0, 0, 0, 9, true⟩], open' := [5] }

theorem stored {α β : Type} {r : Except α β} (h : r.isOk = true) : ∃ x, r = .ok x := by
  rcases r with _ | x
  · cases h
  · exact ⟨x, rfl⟩

theorem test_witness_record : (∃ cs, storeBytes (recorded.queueProbe (q0 recorded)) proxy ((q0 recorded).dw 1 + wn (32 * (q0 recorded).cWrite))
      ((Record.words ⟨5, 6, 0, 0, 0, 0, 9, true⟩).flatMap (fun w => bytesOf 8 w.toNat)) = .ok cs) :=
  stored (by decide +kernel)

theorem test_witness_record_written : recorded.queue? 6 = some (q0 recorded) ∧
    ((q0 recorded).cWrite + 2 ^ (q0 recorded).clog - (q0 recorded).cHead) % 2 ^ (q0 recorded).clog < 2 ^ (q0 recorded).clog - 1 ∧
    gives (.completionRecordWrite 6) recorded (fun t => t.readN 0x5000 8 == 5 && t.readN 0x5008 8 == 6 && t.readN 0x5010 8 == 9 &&
      t.msix.sent == [(2, 0)] && (q0 t).records == []) = true := by decide +kernel

/-- A transfer of n bytes from 6000H to 7000H is the packet at the head. -/
noncomputable def moving (n : Nat) : State := after (.queueSwapIn 6) (after (.doorbell 2 6 1) (after (.queueCreate 6 2 queueDesc)
  (((imaged 2 0 State.reset).writeN 0x4010 8 0x7000).writeN 0x4038 8 n)))

noncomputable def moved (s : State) : Transfer :=
  let pk := (q0 s).pkt.getD []
  { id := s.nextId, queue := 6, seqNo := (q0 s).nextNo, utag := pk.getD 6 0, notify := Packet.notify pk, src := pk.getD 1 0
    dst := pk.getD 2 0, len := (pk.getD 7 0).toNat % 2 ^ 40, pos := 0, asked := [], zero := decide ((pk.getD 7 0).toNat / 2 ^ 40 % 4 = 1)
    status := 0, cause := 0 }

theorem allMoved {r : State × Transfer × Option MemErr} (h : r.2.2.isNone = true) : ∃ p t, r = (p, t, none) := by
  rcases r with ⟨p, t, _ | _⟩
  · exact ⟨p, t, rfl⟩
  · cases h

theorem test_witness_transfer : noteReady (moving 8) = moving 8 ∧ transferOk ((q0 (moving 8)).pkt.getD []) = true ∧
    (∃ p t', moveBytes (moved (moving 8)).len ({ (moving 8).setQueue (q0 (moving 8)).take with
        nextId := (moving 8).nextId + 1
        transfers := (moving 8).transfers ++ [moved (moving 8)] }.queueProbe (q0 (moving 8))) (moved (moving 8)) = (p, t', none)) ∧
    gives (.transferDispatch 6) (moving 8) (fun t => t.readN 0x7000 8 == 0x14B525831 && t.transfers.map (·.pos) == [8]) = true ∧
    noteReady (moving 0) = moving 0 ∧ transferOk ((q0 (moving 0)).pkt.getD []) = false ∧
    gives (.transferDispatch 6) (moving 0) (fun t => (q0 t).records.map (·.status) == [1]) = true :=
  ⟨heads_noted (by decide +kernel), by decide +kernel, allMoved (by decide +kernel), by decide +kernel, heads_noted (by decide +kernel),
    by decide +kernel, by decide +kernel⟩

theorem test_witness_transfer_retire :
    (let s := after (.transferDispatch 6) (moving 8)
     let t := s.transfers.headD (moved s)
     t.queue = 6 ∧ s.transfers.find? (fun x => x.id == t.id) = some t ∧ t.len ≤ t.pos ∧ s.queue? 6 = some (q0 s) ∧
     gives (.transferRetire t.id) s (fun u => u.transfers == [] && (q0 u).records.map (·.status) == [0]) = true) := by decide +kernel

/-! ### Witnesses: contexts -/

/-- A hart of one lane in supervisor mode, x1 at a private area at 8000H. -/
noncomputable def oneLane : State := (sup.modMe (fun h => { h.setX 1 0x8000 with lanes := 1, avail := 1 })).modCore 0 (fun k =>
  { k with ranges := [fetchRange, [0x8001, 0xB000, 0x8118, 0]] })

/-- An image at 8000H: one lane, user code at pc, VTYPE t, VL 4, x1 = 77. -/
noncomputable def imageAt (pc t : Nat) : State :=
  let s := (oneLane.writeN 0x8000 8 0x4B43585400010000).writeN 0x8008 8 13824
  let s1 := ((s.writeN 0x8010 8 0x0001000111000000).writeN 0x8020 8 pc).writeN 0x8028 8 t
  (s1.writeN 0x8030 8 4).writeN 0x8100 8 77

theorem test_witness_image : oneLane.me.q0.length ≤ 16 ∧ oneLane.me.recorded.length ≤ 32 ∧ oneLane.bad = [] ∧ oneLane.me.drawn = none ∧ oneLane.me.lost = none ∧ (∀ i : StackNum, (oneLane.me.iter i).slots.length ≤ 8) ∧
    oneLane.Quiet ∧ oneLane.me.trap.priv = true ∧ oneLane.storesOf oneLane.who = [] ∧ mxStarted oneLane oneLane.who = false ∧ oneLane.me.reOps = [] ∧
    (∀ i, (oneLane.me.win i).isOpen = false) ∧
    (imageWords (oneLane.modMe Hart.saveThreads) oneLane.who oneLane.me.savePc).length = 1728 ∧
    areaErr oneLane oneLane.who (oneLane.x 1) (8 * 1728) = none ∧
    (areaErr oneLane oneLane.who (oneLane.x 2) (8 * 1728)).map (fun e => (e.cause, e.page)) = some (.notPresent, none) ∧
    (match readImageAt oneLane oneLane.who (oneLane.x 1) with
      | .bad => true
      | _ => false) = true := by decide +kernel

theorem imageRead {r : ReadImage} {p : List Word → Bool} (h : (match r with
      | .ok ws => p ws
      | _ => false) = true) : ∃ ws, r = .ok ws ∧ p ws = true := by
  rcases r with ws | _ | _
  · exact ⟨ws, rfl, h⟩
  · cases h
  · cases h

/-- An image that is taken, and its lane buffers are as they were. -/
noncomputable def takes (s : State) (ws : List Word) : Bool :=
  match loadImage s.who ws none (s.modMe Hart.discard) with
  | .ok t => (reloadBuf s.who t).isOk && loadRoom s s.who ws
  | .error _ => false

theorem test_witness_image_taken : ∃ ws, readImageAt (imageAt 8 2) (imageAt 8 2).who ((imageAt 8 2).x 1) = .ok ws ∧ takes (imageAt 8 2) ws = true :=
  imageRead (by decide +kernel)

/-- One of 33 elements where a lane holds 32. -/
theorem test_witness_image_refused : ∃ ws, readImageAt ((imageAt 8 2).writeN 0x8030 8 33) (imageAt 8 2).who ((imageAt 8 2).x 1) = .ok ws ∧
    (match loadImage (imageAt 8 2).who ws none (((imageAt 8 2).writeN 0x8030 8 33).modMe Hart.discard) with
      | .error r => r == 2
      | .ok _ => false) = true :=
  imageRead (by decide +kernel)

/-- The hart in user mode, a hard pre-emption due, its area at 8000H. -/
noncomputable def due : State := oneLane.modMe (fun h => { h with
  trap := { h.trap with priv := false }, sup := { h.sup with hard := true, ctxPtr := 0x8000 } })

/-- Its context has been saved and is ready to go on. -/
noncomputable def away : State :=
  { ((imageAt 8 2).setHart ⟨0, 0⟩ { Hart.reset with run := .saved, launch := some 0, lanes := 1, avail := 1 }).modCore 0 (fun k =>
      { k with user := some 0 }) with
    saved := [⟨9, ⟨0, 0⟩, 0x8000, 1, none, some 0, due.me, [], false, [], 0, []⟩] }

theorem savedIs {r : SaveRes} (h : (match r with
      | .saved _ => true
      | _ => false) = true) : ∃ u, r = .saved u := by
  cases r <;> first | exact ⟨_, rfl⟩ | cases h

theorem isThere {α : Type} {o : Option α} (h : o.isSome = true) : ∃ u, o = some u := by
  cases o <;> first | exact ⟨_, rfl⟩ | cases h

theorem test_witness_preemption : due.me.alive = true ∧ due.me.hardNow = true ∧ due.me.trap.priv = false ∧ due.me.run ≠ .idle ∧
    due.me.run ≠ .gangParked ∧ base.me.hardNow = false ∧ base.me.run = .running := by decide +kernel

theorem test_witness_saved : ∃ u, saveContext ⟨0, 0⟩ due.me.pc due = .saved u := savedIs (by decide +kernel)

/-- A parent that waits for a child of one core, in a partition of one core, which the parent has. -/
noncomputable def stalled : State :=
  { (imaged kernel 0 (due.modMe (fun h => { h with run := .waiting (.child 1), sup := { h.sup with hard := false } }))) with
    parts := base.parts.set 0 ⟨1, [[0], [0], [0], [0]], [[], [], [], []], true⟩
    pool := [⟨4, ⟨0, 0⟩, 0, 0, 1, ⟨1, 0, none, 0⟩, 1, 0x11000801 :: 0x6000 :: List.replicate 6 0, none, none, false, [], none⟩] }

/-- The state that a save leaves. -/
noncomputable def kept (r : SaveRes) (s : State) : State :=
  match r with
  | .saved u => u
  | _ => s

/-- The parent saved with WHY 2. -/
noncomputable def parentSaved : State :=
  kept (saveContext ⟨0, 0⟩ stalled.me.pc (stalled.setHart ⟨0, 0⟩ { stalled.me with sup := { stalled.me.sup with
    hard := true
    why := 2 } })) stalled

theorem test_witness_parent : stalled.me.alive = true ∧ stalled.me.run = .waiting (.child 1) ∧ stalled.me.trap.priv = false ∧
    stalled.launchOf stalled.me = some (itsLaunch stalled) ∧
    (stalled.pool.find? (fun c => c.parentLaunch == (itsLaunch stalled).id && childReady stalled c && childBlocked stalled (itsLaunch stalled) c)).map
      (·.id) = some 4 := by decide +kernel

theorem test_witness_parent_saved : parentSaved.me.run = .saved := by decide +kernel

theorem test_witness_parent_child : (parentSaved.pool.find? (fun x => x.id == 4)).map (·.launch) = some none := by decide +kernel

/-- The saved context. -/
noncomputable def sv : Saved := away.saved.headD ⟨0, ⟨0, 0⟩, 0, 0, none, none, base.me, [], false, [], 0, []⟩

theorem test_witness_restore : away.saved.find? (fun x => x.id == sv.id) = some sv ∧
    away.launches.find? (fun x => sv.frame.launch == some x.id) = some (itsLaunch away) ∧ sv.ready = some 0 ∧ isNext away (itsLaunch away).part (.context sv.id) = true ∧ sv.home = ⟨0, 0⟩ ∧
    sv.frame.gang = none ∧ (away.part (itsLaunch away).part).hasCore 0 = true ∧ (away.core 0).isFree = true ∧
    (∀ c : CoreId, ∀ k : HartNum, (away.hart ⟨c, k⟩).alive = false) := by decide +kernel

/-- Hart 1 of the place runs on the core; and another context that is ready longer. -/
theorem test_witness_restore_beside :
    (let s := away.modHart ⟨0, 1⟩ (fun _ => { Hart.reset with run := .running, launch := some 0 })
     (s.core 0).isFree = false ∧ (∀ k : HartNum, ((s.core 0).hart k).alive = true → k ≠ 0 ∧ ((s.core 0).hart k).launch = some 0 ∧
       ((s.core 0).hart k).place = sv.frame.place)) ∧
    (let s := { away with saved := [{ sv with ready := some 5 }, { sv with id := 8 }] }
     isNext s (itsLaunch away).part (.context 9) = false ∧
     gives (.contextRestore 9 ⟨0, 0⟩) s (fun t => t.me.run == .saved && t.saved.length == 2)) := by decide +kernel

theorem test_witness_resumed_beside :
    ∃ u, resumeAt sv (itsLaunch away) ⟨0, 0⟩ (away.modHart ⟨0, 1⟩ (fun _ => { Hart.reset with run := .running, launch := some 0 })) = some u :=
  isThere (by decide +kernel)

theorem test_witness_resumed : ∃ u, resumeAt sv (itsLaunch away) ⟨0, 0⟩ away = some u := isThere (by decide +kernel)

theorem test_witness_halt : (itsLaunch sup) ∈ sup.launches ∧ (itsLaunch sup).id = 0 ∧ (itsLaunch sup).status = 0 ∧ sup.me.launch = some 0 ∧ sup.Quiet ∧
    sup.me.trap.priv = true ∧
    (let s := sup.modMe (fun h => { h with sup := { h.sup with hard := true } })
     s.me.alive = true ∧ s.me.hardNow = true) ∧
    base.me.hardNow = false := by decide +kernel

theorem test_witness_walks :
    (let s := sup.modCore 0 (fun k => { k with walks := [(0, 5, 1), (0, 6, 1), (3, 5, 1)] })
     s.Quiet ∧ s.me.trap.priv = true ∧ s.storesOf s.who = [] ∧ s.me.lost = none ∧ (s.part (s.partOf s.me)).hasCore 0 = true ∧
     does (.xlinv 1 2) (s.modMe (fun h => { h with xs := h.xs.set 1 0x5008 })) (fun t => (t.core 0).walks.map (fun x => (x.1, x.2.1)) == [(0, 6), (3, 5)]) ∧
     does .xlinva s (fun t => (t.core 0).walks == [])) := by decide +kernel

/-- Window 7 follows counter 1; the hart stopped at the end of its loop. -/
noncomputable def following : State := opened.modMe (fun h => { h with reOps := [] })
noncomputable def atLoop : State := (looping 1).modMe (fun h => { h with run := .atLoopEnd, pc := h.pc + 4 })

theorem counted {r : AdvRes} {p : State → Bool} (h : (match r with
      | .done u => p u
      | _ => false) = true) : ∃ u, r = .done u ∧ p u = true := by
  cases r <;> first | exact ⟨_, rfl, h⟩ | cases h

theorem test_witness_set_counter : ∃ u, setCounter 1 5 base.pcNow false base = .done u ∧ ((u.me.loop 1).cnt == 5) = true := counted (by decide +kernel)

theorem stopped {r : AdvRes} {p : State → Bool} (h : (match r with
      | .full u => p u
      | _ => false) = true) : ∃ u, r = .full u ∧ p u = true := by
  cases r <;> first | exact ⟨_, rfl, h⟩ | cases h

/-- Window 7 follows counter 1 and has advanced to 5 already; or the scoreboard is full. -/
noncomputable def ahead : State := following.modMe (fun h => { h.setWin 7 { h.win 7 with forms := [0x1000000000003000] } with
  ahead := [(7, 1, 5)] })

theorem test_witness_ahead : (∃ u, setCounter 1 5 ahead.pcNow false ahead = .done u ∧ (u.me.reOps.isEmpty && u.me.ahead == []) = true) ∧
    (ahead.me.win 7).tied 1 ≠ 0 ∧
    (∃ u, setCounter 1 6 ahead.pcNow false ahead = .done u ∧ (u.me.reOps.map (·.win) == [7]) = true) ∧
    (∃ u, setCounter 1 6 ahead.pcNow false (ahead.modMe (fun h => h.pushRe none 0 0 0 .deliver [] (List.replicate 64 []) [] none)) = .full u ∧
      ((u.me.loop 1).cnt == 0) = true) :=
  ⟨counted (by decide +kernel), by decide +kernel, counted (by decide +kernel), stopped (by decide +kernel)⟩

theorem test_witness_counters : base.Quiet ∧ (∀ w, (base.me.win w).tied 1 = 0) ∧
    gives (.lcntWrite 1 5) base (fun t => (t.me.loop 1).cnt == 5) ∧ atLoop.me.stream = [] ∧ atLoop.me.active = [1] ∧
    atLoop.me.pc = (atLoop.me.loop 1).endAddr ∧ (atLoop.me.loop 1).rem ≠ 0 ∧ (∀ i, (atLoop.me.win i).tied 1 = 0) ∧ atLoop.me.run = .atLoopEnd ∧
    gives (.loopWrap ⟨0, 0⟩) atLoop (fun t => t.me.pc == 0x1000 && t.me.run == .running && (t.me.loop 1).cnt == 1) ∧ base.me.run ≠ .atLoopEnd ∧
    traps (.reservedWord 7) ⟨.illegalInsn, 7, 0⟩ base := by decide +kernel

/-! ### Witnesses: the host's side, tenants, Sage, Lamef, power -/

/-- A page request of function 1 in group 0, a saved context that waits for it, and one in group 1 that is quarantined. -/
noncomputable def asking : State :=
  { State.reset with
    pageReqs := [⟨3, 1, 0, 2, 0x55, true, false⟩, ⟨4, 1, 1, 2, 0x66, true, true⟩]
    saved := [⟨9, ⟨0, 0⟩, 0x8000, 1, some 3, none, Hart.reset, [], false, [], 0, []⟩], grants := [⟨1, 2, 0x77, true⟩], atsCache := [⟨1, 2, 0x77, true⟩] }

theorem test_witness_pages : asking.pageReqs.find? (fun r => r.fn == 1 && r.group == 0) = some ⟨3, 1, 0, 2, 0x55, true, false⟩ ∧
    asking.pageReqs.find? (fun r => r.fn == 1 && r.group == 1) = some ⟨4, 1, 1, 2, 0x66, true, true⟩ ∧ asking.pageWait.length = 0 ∧
    asking.pageReqs.find? (fun r => r.fn == 1 && r.group == 2) = none ∧
    gives (.pageResponse 1 0 .success) asking (fun t => t.saved.map (·.ready) == [some 0] && t.grants.length == 2 && t.pageReqs.length == 1) = true ∧
    gives (.pageResponse 1 0 .invalidRequest) asking (fun t => t.refused == [(1, 0x55)] && t.saved.map (·.ready) == [some 0]) = true ∧
    gives (.pageResponse 1 0 .responseFailure) asking (fun t => t.pageFail == [1]) = true ∧
    gives (.pageResponse 1 1 .success) asking (fun t => t.pageDrops == [(1, 1)] && t.grants.length == 1) = true ∧
    asking.stores.length = 0 ∧ gives (.atsInvalidation 1 2 0x77) asking (fun t => t.grants == [] && t.atsCache == []) = true := by decide +kernel

/-- The page has been refused before: the launch of the context that waits for it ends with the cause of its trap. -/
theorem test_witness_page_twice :
    (let s : State := { asking with
       refused := [(1, 0x55)]
       launches := [Launch.blank 7 0 0 0 1]
       saved := [⟨9, ⟨0, 0⟩, 0x8000, 1, some 3, none, { Hart.reset with launch := some 7 }, [], false, [], 0, []⟩] }
     (s.saved.filter (fun x => x.request == some 3)).length = 1 ∧ ((1 : BitVec 6), 0x55) ∈ s.refused ∧
     s.saved.map (fun x => x.frame.launch) = [some 7] ∧ s.launches.map (fun l => (l.id, l.status)) = [(7, 0)]) := by decide +kernel

theorem test_witness_registers : State.reset.power ≠ .d3cold ∧ State.reset.sage.failed = none ∧ (1 : BitVec 6) ≠ 0 ∧
    gives (.configRequest 3 4) State.reset (fun t => t.config.map (fun r => (r.fn, r.offset)) == [(3, 4)]) = true ∧
    (let s := { State.reset with power := .d3cold }
     s.power = .d3cold ∧ gives (.configRequest 3 4) s (fun t => t.config == []) = true) := by decide +kernel

/-- DROPPED of function 1 is cleared through its own event and through BAR0; BAR2 takes the doorbell of queue 6. -/
theorem test_witness_register_writes :
    (let s := { State.reset with pageDrops := [(1, 3), (2, 4)], pageReqs := [⟨4, 1, 1, 2, 0x66, true, true⟩] }
     gives (.priqWrite 1) s (fun t => t.pageDrops == [(2, 4)]) = true ∧ (s.pageDrops.lookup 1).getD 0 < 2 ^ 32 ∧
     (0x408 : BitVec 26).toNat = 0x400 + 8 * (1 : BitVec 6).toNat ∧ s.power ≠ .d3cold ∧
     gives (.registerWrite 0 .bar0 0x408 0) s (fun t => t.pageDrops == [(2, 4)] && t.bar0 == []) = true ∧
     gives (.registerWrite 0 .bar0 0x40C 0) s (fun t => t.pageDrops == [(1, 3), (2, 4)]) = true ∧
     s.barRead 0 .bar0 0x408 = 3 ∧ s.barRead 0 .bar0 0x40C = 1 ∧ s.barRead 0 .bar2 0x6000 = 0 ∧ (0x3FC : BitVec 26).toNat < 0x400 ∧
     gives (.registerWrite 1 .bar0 0x3FC 9) s (fun t => t.bar0 == []) = true) ∧
    (let s := made kernel 0
     (0x6000 : BitVec 26).toNat % 4096 = 0 ∧ gives (.registerWrite 2 .bar2 0x6000 1) s (fun t => (q0 t).tail == 1) = true ∧
     (0x6008 : BitVec 26).toNat % 4096 = 8 ∧ gives (.registerWrite 2 .bar2 0x6004 1) s (fun t => (q0 t).tail == 0) = true ∧
     (let s1 := s.setQueue { q0 s with cWrite := 2 }
      gives (.registerWrite 2 .bar2 0x6008 1) s1 (fun t => (q0 t).cHead == 1) = true)) := by decide +kernel

/-- In D3cold, and with a launch. -/
theorem test_witness_power : State.reset.power = .d0 ∧ State.reset.launches.length = 0 ∧ State.reset.transfers.length = 0 ∧ base.launches.length ≠ 0 ∧
    gives (.powerStateChange .d3hot) State.reset (fun t => t.power == .d3hot) = true ∧
    gives (.powerStateChange .d3hot) base (fun t => t.power == .d0) = true ∧
    gives (.powerStateChange .d3cold) stocked (fun t => t.power == .d3cold && t.mem == []) = true ∧
    (let s := { base with power := .d3cold }
     s.power = .d3cold ∧ gives .hotReset s (fun t => t.launches.length == 1) = true ∧ gives .getVersion s (fun t => t.sage.spdm == .start) = true) ∧
    gives (.functionLevelReset 1) asking (fun t => t.pageReqs.all (·.quarantined) && t.atsCache == []) = true := by decide +kernel

/-- Tenant 3 lives in partition 1 and owns page 5 of it, in which a byte is set. -/
noncomputable def housed : State :=
  { State.reset.writeN (devKey 1 0x5000) 1 9 with
    tenants := [(3, ⟨true, 1, 0x100000, 0x200000, 0, 0⟩)], owners := [(devKey 1 0x5000 / 4096, 3)], parts := State.reset.parts.set 1 ⟨3, [[1], [], [], []], [[1], [], [], []], true⟩ }

theorem test_witness_tenants : State.reset.up = true ∧ (State.reset.tenant 3).live = false ∧ housed.up = true ∧ (housed.tenant 3).live = true ∧
    housed.Inv ∧ housed.launches.length = 0 ∧ (housed.tenant 4).live = false ∧
    gives (.tenantCreate 3 1 0x100000 0x800 7 0) State.reset (fun t => t.tenant 3 == ⟨true, 1, 0x100000, 0x800, 4, 0⟩) = true ∧
    gives (.tenantTeardown 3) housed (fun t => !(t.tenant 3).live) = true ∧
    (let s := { housed with launches := [{ Launch.blank 1 1 3 0 0 with places := [] }] }
     (∃ l, l ∈ s.launches ∧ l.aspace = 3) ∧ gives (.tenantTeardown 3) s (fun t => (t.tenant 3).live) = true ∧
     tenantHas s 3 (devKey 1 0x5000 / 4096) = true ∧ gives (.pageReassign 5 1 1 3) s (fun t => t.byte (devKey 1 0x5000) == 9) = true) ∧
    ((devKey 1 0x5000 / 4096, 3) ∈ housed.owners) ∧ (devKey 1 0x6000 / 4096, 3) ∉ housed.owners ∧ tenantHas housed 3 (devKey 1 0x6000 / 4096) = false ∧
    devKey 1 0x5000 ≠ devKey 2 0x5000 ∧ gives (.pageReassign 5 1 1 3) housed (fun t => t.byte (devKey 1 0x5000) == 0) = true := by decide +kernel

theorem test_witness_partition : partOk housed 2 ⟨0x30, [[2], [0], [0], [0]], [[2], [], [], []], true⟩ = true ∧
    partOk housed 2 ⟨0x31, [[2], [0], [0], [0]], [[2], [], [], []], true⟩ = false ∧ (0x30 : BitVec 64) ≠ 0 ∧
    (∀ c : CoreId, ((housed.part 2).cores ||| 0x30).getLsbD c.val = true ↔ c = 4 ∨ c = 5) := by decide +kernel

/-- Partition 1 grows from channel 1 to channels 1 and 3 of die 0: unit 1 of its memory is unit 2 then. It is torn down. -/
theorem test_witness_partition_moves :
    (let s := housed.writeN (devKey 1 0x100) 1 7
     let cfg : PartConfig := ⟨3, [[1, 3], [5], [5], [5]], [[1], [], [], []], true⟩
     partOk s 1 cfg = true ∧ s.Inv ∧ (∀ l, l ∈ (s.part 1).channels ++ (s.part 1).groups → l.Nodup) ∧
     s.mem.all (fun c => !(decide (devKey 1 0 ≤ c.1) && decide (c.1 < devKey 1 (2 ^ 52))) || (s.part 1).owns (c.1 % 2 ^ 52)) = true ∧
     (s.part 1).owns 0x100 = true ∧
     gives (.partitionChange 1 cfg) s (fun t => t.byte (devKey 1 0x200) == 7 && t.byte (devKey 1 0x100) == 0 && (t.part 1).owns 0x200) = true ∧
     partOk s 1 ⟨0, [], [], false⟩ = true ∧
     gives (.partitionChange 1 ⟨0, [], [], false⟩) s (fun t => (t.part 1).cores == 0 && t.byte (devKey 1 0x100) == 0) = true ∧
     (let r := { s with launches := [Launch.blank 1 1 3 0 0] }
      (∃ l, l ∈ r.launches ∧ l.part = 1) ∧ gives (.partitionChange 1 cfg) r (fun t => t.byte (devKey 1 0x100) == 7) = true)) := by decide +kernel

theorem test_witness_attestation : State.reset.sage.spdm = .start ∧
    (let s := after .getVersion State.reset
     s.sage.spdm = .version ∧ (after .getCapabilities s).sage.spdm = .capabilities ∧
     (let n := { s with sage := { s.sage with spdm := .negotiated } }
      n.sage.spdm = .negotiated ∧ n.power ≠ .d3cold ∧ gives (.getMeasurements 5) n (fun t => t.sage.replies.length == 2) = true ∧ n.sage.nextIndex < 2 ^ 40 ∧ gives (.challenge 5) n (fun t => t.sage.nextIndex == 1) = true ∧
      gives (.challenge 5) { n with sage := { n.sage with nextIndex := 2 ^ 40 } } (fun t => t.sage.nextIndex == 2 ^ 40) = true)) := by decide +kernel

theorem test_witness_lamef : (State.reset.ports.get 3).up = true ∧ (⟨true, 0, 5⟩ : Flit).crcGood = true ∧ (State.reset.ports.get 3).rxNext = 0 ∧
    gives (.lamefFlitReceive 3 ⟨true, 0, 5⟩) State.reset (fun t => (t.ports.get 3).rxNext == 1) = true ∧
    gives (.lamefFlitReceive 3 ⟨true, 1, 5⟩) State.reset (fun t => (t.ports.get 3).rejected == some 0) = true ∧ (State.reset.ports.get 3).replays < 8 ∧
    (let s := { State.reset with ports := State.reset.ports.set 3 ⟨true, 0, 2, [0, 1], 8, some 0, none⟩ }
     8 ≤ (s.ports.get 3).replays ∧ gives (.lamefPortDown 3) s (fun t => !(t.ports.get 3).up) = true) ∧
    (let s := { State.reset with ports := State.reset.ports.set 3 ⟨false, 0, 0, [], 0, none, none⟩ }
     (s.ports.get 3).up = false ∧ gives (.lamefFlitReplay 3 7) s (fun t => (t.ports.get 3).txNext == 0) = true) ∧
    (∀ c : CoreId, ∀ k : HartNum, (State.reset.hart ⟨c, k⟩).launch = none) ∧ (3 : BitVec 64).getLsbD 0 = true ∧ base.kernelRuns ⟨0, 0⟩ = true ∧
    (let s := { base with mesh := [(3, .torus)] }
     gives (.meshRestitch 2 .torus) s (fun t => t.mesh.length == 1) = true ∧ gives (.meshRestitch 4 .torus) s (fun t => t.mesh.length == 2) = true) := by
  decide +kernel

/-! ### Witnesses: steps, encoding, memory -/

theorem test_witness_step : base.agenda = [] ∧ base.order.loads = [] ∧ base.turn ≠ 0 ∧ base.replay = none ∧ base.me.alive = true ∧ base.agent.lane = none ∧
    base.me.run = .running ∧ base.me.stream = [] ∧ base.me.xpend = [] ∧ base.pace = none ∧ base.me.late = [] ∧ base.me.hardNow = false ∧
    base.inCode base.me base.me.pc.toNat = true ∧
    access { base with turn := base.turn - 1, idleTurns := 0 } base.who .fetch 4 false base.me.pc = .ok ⟨.device, 0x1000, false, 0, 0, 0x1000⟩ ∧
    base.badByte 0x1000 = false ∧ wordOfBytes (base.byte 0x1000) (base.byte 0x1001) (base.byte 0x1002) (base.byte 0x1003) = 0x6C000000 ∧
    gated 0x6C000000 base = false ∧ decode 0x6C000000 = .ok .nop := by decide +kernel

theorem test_witness_lane_step : lane3.agent.lane = some 3 ∧ lane3.me.laneRuns 3 = true ∧ lane3.bad = [] ∧ lane3.pcNow.toNat < 4096 ∧
    lane3.pace = none ∧ lane3.bufWord lane3.who 3 lane3.pcNow.toNat = 0 ∧ lane3.agenda = [] ∧ lane3.turn ≠ 0 ∧ lane3.replay = none ∧ lane3.me.alive = true := by decide +kernel

theorem test_witness_encode : (Instr.bfx 1 2 63 0).wellFormed = true ∧ encode (.bfx 1 2 63 0) = some 0x28220FC0 ∧
    (Instr.add 3 1 2).wellFormed = true ∧ encode (.add 3 1 2) = some 0x04611000 := by decide +kernel

theorem test_witness_invariant : base.Inv ∧ State.reset.Inv ∧
    (match step base with
      | .next t => t.me.pc == base.me.pc + 4
      | _ => false) = true := by decide +kernel

theorem test_witness_memory : Memory.wf [(4, 1), (9, 2)] = true ∧ Memory.write [(4, 1), (9, 2)] 4 0 = [(9, 2)] ∧
    (State.reset.writeN 0x1FFFFFFFFFFFFF0 16 0x0102).readN 0x1FFFFFFFFFFFFF0 16 = 0x0102 ∧ 0x1FFFFFFFFFFFFF0 + 16 ≤ 2 ^ 57 := by decide +kernel

/-! ### Witnesses: clauses at the edges of their ranges -/

/-- Three pulses of an input whose counter is one short of its last value, in one cycle. -/
theorem test_witness_harness_pulses :
    (let s := owner (fun h => { h with pulses := [5, 5, 5, 6], hcnt := h.hcnt.set 2 0x80050000FFFFFFFE })
     gives (.harnessCycle ⟨0, 3⟩) s (fun t => (t.core 0).harness.pulses == [6] && (t.core 0).harness.hcnt.get 2 == 0x80050000FFFFFFFF)) := by
  decide +kernel

/-- Behind MWAIT, which leaves VSTART, a member starts at VSTART. -/
theorem test_witness_stream_start_index :
    (let s := (after .mwait matrix).modMe (fun h => { h with vtype := 2, vl := 8, vstart := 5 })
     s.OnScalar ∧ s.me.stream ≠ [] ∧ s.me.vill = false ∧ s.me.vstartNow = 5 ∧ s.me.settled s.me.nextSeq = true ∧
     acceptsStart (encodeWord (.vadd 3 1 2 0 0)) = true ∧
     gives (.vadd 3 1 2 0 0) s (fun t => t.me.stream.map (·.cap.start) == [0, 5]) ∧
     gives (.vredsum 3 1 2 0) s (fun t => t.me.run == .waiting .stream)) ∧
    (let s := ints.modMe (fun h => { h with vstart := 5 })
     s.OnScalar ∧ s.me.stream = [] ∧ s.me.vstartNow = 5 ∧
     traps (.vredsum 3 1 2 0) ⟨.illegalInsn, (encodeWord (.vredsum 3 1 2 0)).zeroExtend 64, 0⟩ s) := by decide +kernel

/-- The unit of the launch had been swapped out with 7 operations counted. -/
theorem test_witness_matrix_swapped :
    (let s := base.modCore 0 (fun k => { k with
       images := [⟨0, some (Vector.replicate 256 0, Vector.replicate 256 0, 7, []), none⟩] })
     s.Ready ∧ s.myCore.matrix.owner = none ∧ s.matrixConfig = false ∧ s.mxFull = false ∧
     does .mzero s (fun t => t.myCore.matrix.counter == 8 && t.myCore.matrix.owner == some 0)) := by decide +kernel

theorem test_witness_shadow_refused : matrix.Ready ∧ mldsWindowOk (matrix.me.win 7) = false ∧
    gives (.mlds 7 0) matrix (fun t => t.me.trap.cause == Cause.code .illegalInsn && t.me.trap.priv) ∧
    (let s := plane.modMe (fun h => { h with lanes := 2 })
     s.Ready ∧ mldsWindowOk (s.me.win 7) = true ∧ s.matrixConfig = true ∧ gives (.mlds 7 0) s (fun t => t.me.trap.cause == 0x15)) := by
  decide +kernel

/-- The window of MROWW closed before a row came. -/
noncomputable def rowClosed : State := after (.wclose 7) (after (.mroww 2 7) (streaming.modMe (fun h => { h with vtype := 9, vl := 1 })))

theorem test_witness_closed_start :
    (let o := (rowClosed.core 0).matrix.ops.headD (MxOp.plain .zero 0 ⟨0, 0⟩)
     (rowClosed.core 0).matrix.ops.find? (fun p => !p.started && !p.away) = some o ∧ o.tag.held = none ∧
     (rowClosed.hart o.who).settled o.tag.seq = true ∧ (rowClosed.core 0).matrix.mayStart o = true ∧ o.who.core = 0 ∧ o.kind = .rowStream ∧
     o.closed = true ∧ takeRow o.who o.win (rowClosed.core 0).matrix.queue = none ∧
     gives (.matrixOpStart 0) rowClosed (fun t => (t.core 0).matrix.ops.all (·.started))) := by decide +kernel

/-- A channel to hart 0 of core 0 of device 1, with a watchdog. -/
noncomputable def farChannel : State := sender.setX 2 0x0001001000000000

theorem test_witness_far_pair : (0 : BitVec 12) = base.dev ∧ base.noPath = false ∧
    (let s := after (.xsend 1 2) farChannel
     s.oldest ⟨0, 0⟩ .send 1 ⟨0, 0⟩ 0 = some (xop s ⟨0, 0⟩) ∧ s.xFree ⟨0, 0⟩ (xop s ⟨0, 0⟩) = true ∧ (xop s ⟨0, 0⟩).bytes.length = 16 ∧
     gives (.exchangePairTransfer ⟨0, 0⟩ ⟨0, 0⟩ ⟨0, some ⟨1, false, List.replicate 16 0⟩⟩) s (fun t => t.me.xops == [] && t.me.xpend == []) ∧
     gives (.exchangePairTransfer ⟨0, 0⟩ ⟨0, 0⟩ ⟨0, some ⟨1, false, List.replicate 12 0⟩⟩) s (fun t =>
       t.me.xpend.map (·.val) == [0x0200000000000001])) ∧
    (let s := after (.xrecv 3 2) farChannel
     s.oldest ⟨0, 0⟩ .recv 1 ⟨0, 0⟩ 0 = some (xop s ⟨0, 0⟩) ∧ s.xFree ⟨0, 0⟩ (xop s ⟨0, 0⟩) = true ∧
     (xop s ⟨0, 0⟩).vl * (sewOf (xop s ⟨0, 0⟩).vtype / 8) = 16 ∧
     gives (.exchangePairTransfer ⟨0, 0⟩ ⟨0, 0⟩ ⟨0, some ⟨1, true, List.replicate 16 2⟩⟩) s (fun t =>
       t.me.xops == [] && t.me.elem 3 3 32 == 0x02020202)) := by decide +kernel

/-- A message of the XRING's step from another device, which is not the predecessor, and one of an older revolution. -/
theorem test_witness_ring_far :
    (let s := ringHead 3 []
     (1 : BitVec 12) ≠ s.dev ∧ s.noPath = false ∧ chanDev (xop s ⟨0, 0⟩).pred ≠ 1 ∧
     gives (.ringStepMessage ⟨0, 0⟩ ⟨1, ⟨1, 0⟩⟩ ⟨9, 0⟩ (List.replicate 16 1)) s (fun t => t.me.stream.length == 1 && t.me.xops == s.me.xops) ∧
     olderRev 8 (xop s ⟨0, 0⟩).rev = true ∧ gives (.ringStepMessage ⟨0, 0⟩ ⟨1, ⟨1, 0⟩⟩ ⟨8, 0⟩ []) s (fun t => t.me.ringDrops == 1)) := by decide +kernel

/-- LAUNCH waits on the quota with its packet; the pool has a free entry then. -/
theorem test_witness_quota :
    (let q : List Word := 0x11000801 :: 0x6000 :: List.replicate 6 0
     let s := after (.launch 1) crowded
     s.Quiet ∧ s.me.vecDone = true ∧ s.me.run = .waiting (.quota q) ∧ s.me.depth ≠ 8 ∧
     gives (.launch 1) s (fun t => t.me.run == .waiting (.quota q)) ∧
     gives (.launch 1) { s with pool := [] } (fun t => t.me.tlln == 1 && t.pool.map (·.packet) == [q])) := by decide +kernel

/-- A doorbell of a queue with a slot reads the packet at the head. -/
theorem test_witness_doorbell_reads :
    (let s := (made kernel 0).setQueue { q0 (made kernel 0) with slot := true }
     s.queue? 6 = some (q0 s) ∧ (q0 s).slot = true ∧ (q0 s).pkt = none ∧ (q0 s).head = 0 ∧
     gives (.doorbell 2 6 1) s (fun t => (q0 t).head == 1 && ((q0 t).pkt.getD []).headD 0 == 0x11000801) ∧
     gives (.priorityPromotion (.queue 6)) (readied kernel 0) (fun t => (q0 t).promoted) ∧
     gives (.priorityPromotion (.child child.id)) submitted (fun t => t.pool.map (·.promoted) == [true])) := by decide +kernel

/-- A WOPEN stands in the vector stream: the advances of a counter change stand behind it. -/
theorem test_witness_counter_behind : ∃ u, setCounter 1 5 base.pcNow false (base.enqueue (encodeWord (.wopen 7)) (base.capture []) none base.snap) =
      .done u ∧
    (u.me.stream.map (·.adv) == [none, some false] && (u.me.loop 1).cnt == 5 && (u.me.loop 1).changes == 1) = true := counted (by decide +kernel)

theorem test_witness_pending : base.me.winPending = false ∧
    (base.enqueue (encodeWord (.wopen 7)) (base.capture []) none base.snap).me.winPending = true := by decide +kernel

/-- Port 3 has sent flits 0 and 1, and 1 has been replayed three times. -/
noncomputable def replaying : State := { State.reset with ports := State.reset.ports.set 3 ⟨true, 0, 2, [0, 1], 3, some 1, none⟩ }

theorem test_witness_replays :
    gives (.lamefFlitReceive 3 ⟨true, 0, 0⟩) replaying (fun t => t.ports.get 3 == ⟨true, 1, 2, [1], 3, some 1, none⟩) ∧
    gives (.lamefFlitReceive 3 ⟨true, 0, 1⟩) replaying (fun t => t.ports.get 3 == ⟨true, 1, 2, [], 0, none, none⟩) ∧
    gives (.lamefFlitReplay 3 1) replaying (fun t => (t.ports.get 3).replays == 4) ∧
    gives (.lamefFlitReplay 3 0) replaying (fun t => (t.ports.get 3).replays == 1 && (t.ports.get 3).resent == some 0) ∧
    gives (.lamefFlitReplay 3 9) replaying (fun t => (t.ports.get 3).replays == 3) := by decide +kernel

/-! ### Witnesses: further forms -/

/-- A device page at 8000H. -/
noncomputable def paged : State :=
  base.modCore 0 (fun k => { k with ranges := k.ranges ++ [[0x8001, 0x8000, 0x9018 ||| 0x600, 0]] }) |>.setX 2 0x8000

theorem test_witness_device_page : paged.Quiet ∧
    access paged paged.who .load 4 true (paged.x 2 + BitVec.ofInt 64 (0 : BitVec 13).toInt) = .ok ⟨.mmio, 0x9000, false, 0, 0, 0x9000⟩ ∧
    does (.ldw 1 2 0) paged (fun t => t.mmio == [⟨⟨0, 0⟩, 0x9000, 4, none⟩] && t.fresh == paged.fresh + 1) ∧
    access paged paged.who .store 2 true (paged.x 2 + BitVec.ofInt 64 (6 : BitVec 13).toInt) = .ok ⟨.mmio, 0x9006, false, 0, 6, 0x9000⟩ ∧
    does (.sth 2 2 6) paged (fun t => t.mmio == [⟨⟨0, 0⟩, 0x9006, 2, some 0x8000⟩] && t.stores == []) := by decide +kernel

/-- The entry of one QPUT was popped before a trap discarded it. -/
theorem test_witness_owed :
    (let s := with' (fun h => { h with owed := 1 })
     s.agent.lane = none ∧ s.me.owed ≠ 0 ∧ s.me.trap.priv = false ∧
     does (.qput 2) s (fun t => t.me.q0 == [] && t.me.owed == 0)) := by decide +kernel

theorem test_witness_victim :
    (let s := with' (fun h => { h with victim := true })
     (s.hart ⟨0, 0⟩).victim = true ∧ (s.hart ⟨0, 0⟩).alive = true ∧
     gives (.preemptLeftExpiry ⟨0, 0⟩) s (fun t => t.me.sup.hard)) := by decide +kernel

theorem test_witness_not_retired : ∃ e, e ∈ (queued.hart ⟨0, 0⟩).stream ∧ (queued.hart ⟨0, 0⟩).retired e = false :=
  ⟨queued.me.stream.headD ⟨0, base.capture [], 0, none, 0, base.snap, none⟩, by decide +kernel⟩

theorem test_witness_matrix_timeline :
    (let s := matrix.setX 1 1
     s.Quiet ∧ s.failure s.who 2 1 = none ∧ s.ownsMatrix = true ∧ s.tlmx.toNat < 1 ∧
     gives (.tlwait 2 1) s (fun t => t.me.run == .waiting (.timeline 2 1)) ∧ (∀ k, k ∈ s.pending s.who 2 → 0 < k) ∧
     does (.tlwait 2 0) s (fun _ => true)) ∧
    base.ownsMatrix = false ∧ does (.tlwait 2 1) (base.setX 1 1) (fun _ => true) ∧
    does (.tlwait 0 1) (base.setX 1 9) (fun _ => true) := by decide +kernel

/-- Codes of 1.0, of -0, of 2^128 - 2^104 and of the infinity. -/
theorem test_witness_float_codes : 32 ∈ [16, 32] ∧ [0x3F800000, 0x80000000, 0x7F7FFFFF].all (fun c => decide (c < 2 ^ 32 ∧ c % f32.signBit < f32.infCode)) ∧
    0x7F800000 % f32.signBit = f32.infCode ∧ f32.infCode < 0xFF800001 % f32.signBit ∧ 0xFF800001 % 2 ^ f32.mb < 2 ^ (f32.mb - 1) ∧
    vfAdd 0 32 0x7F7FFFFF 0x73800000 0 = (0x7F800000, fOF ||| fNX) ∧ vfAdd 1 32 0x7F7FFFFF 0x73800000 0 = (0x7F7FFFFF, fOF ||| fNX) ∧
    vfDiv 0 32 0x3F800000 0x80000000 0 = (0xFF800000, fDZ) ∧ vfMul 0 32 0x00800000 0x3F000001 0 = (0x00400000, fUF ||| fNX) := by
  decide +kernel

theorem test_witness_float_values : f32.value 0x3F800000 = 1 ∧ f32.value 0x80000000 = 0 ∧ f32.value 0xBF800000 = -1 := by
  norm_num [FFmt.value, FFmt.magnitude, f32, FFmt.signBit, FFmt.emin, FFmt.bias]

theorem test_witness_estimates : vfRece 0 32 0x40400000 0 0 = (0x3EAA0000, 0) ∧ vfExp2 0 32 0x40400000 0 0 = (0x41000000, 0) ∧
    vfCvtfi 0 32 0x40200000 0 0 = (2, fNX) ∧ vfCvtfi 0 32 0x4F000000 0 0 = (0x7FFFFFFF, fNV) := by decide +kernel

theorem test_witness_moves_without_entry :
    (let s := masks.modMe (fun h => { h with vl := 0 })
     s.Ready ∧ s.me.Shaped ∧ s.me.vl = 0 ∧ does (.vcompress 3 1 5) s (fun t => got t == [0, 0, 0, 0])) ∧ masks.me.q0 = [] ∧
    does (.vmvxv 3 0 0) masks (fun t => t.me.stream.map (·.word) == [encodeWord (.vmvxv 3 0 0)]) := by decide +kernel

/-- VLD.FF at the head of the stream, as the event executes it, another member of its length setting behind it. -/
noncomputable def ffStream : State :=
  let s := (atEnd.enqueue (encodeWord (.vldFf 3 2 0 18)) (atEnd.capture [atEnd.x 2]) none atEnd.snap)
  let s1 := s.enqueue (encodeWord (.vadd 3 1 2 0 0)) (s.capture []) none s.snap
  { s1.modMe (fun h => { h with stream := h.stream.drop 1 }) with replay := s1.me.stream.head? }

theorem test_witness_fault_in_stream : ∃ q, ffStream.replay = some q ∧ ffStream.agent.lane = none ∧ ffStream.pace = none ∧ ffStream.bad = [] ∧
    ffStream.me.pulls = [] ∧ ffStream.order.lag = [] ∧ q.cap.vl ≤ vlmaxOf ffStream.me.lanes q.cap.vtype ∧ q.cap.epoch = ffStream.me.epoch ∧
    q.cap.xs = [0x7FFE] ∧
    (addressPhase ffStream .load .ff 18 0x7FFE 0 ((List.range' q.cap.start (q.cap.vl - q.cap.start)).filter (ffStream.me.isActive 0))).2 =
      some (⟨.notPresent, 0x8000, none, false⟩, 2) ∧
    gives (.vldFf 3 2 0 18) ffStream (fun t => t.me.vl == 2 && t.me.stream.map (·.cap.vl) == [2]) = true :=
  ⟨ffStream.replay.getD ⟨0, base.capture [], 0, none, 0, base.snap, none⟩, by decide +kernel⟩

/-- A record of MXFP8E4M3 at 7FFFH, beyond whose first byte there is no page; element 0 is masked off. -/
theorem test_witness_scaled_store :
    (let s := (flt.setX 2 0x8000).modMe (fun h => { h.setMaskBit 5 1 true with vl := 32 })
     s.Ready ∧ s.me.vill = false ∧ fmtScaled 8 = true ∧ s.me.vstart % fmtBlock 8 = 0 ∧ fmtLegal 8 (ekOf s.me.vtype) 32 true = true ∧
     recordElems (s.capture [s.x 2]) s.me 5 (fmtBlock 8) = [1] ∧
     (addressPhase s .store .unit 8 (s.x 2) 0 [1]).2 = some (⟨.notPresent, 0x8000, none, true⟩, 1) ∧
     gives (.vst 3 2 5 8) s (fun t => t.me.trap.cause == 0x05 && t.me.trap.elem == 1)) := by decide +kernel

theorem test_witness_lane_refused : offsets.me.Shaped ∧ fmtLegal 26 (ekOf offsets.me.vtype) 32 false = true ∧
    traps (.vldI 4 0 4 0 26) ⟨.illegalInsn, (encodeWord (.vldI 4 0 4 0 26)).zeroExtend 64, 0⟩ offsets ∧
    gives (.vldI 3 1 4 0 26) (offsets.setX 1 (-8)) (fun t => t.me.trap.cause == 0x04 && t.me.trap.val == 0xFFFFFFFFFFFFFFF8) := by decide +kernel

/-- The same window, whose tensor lies in another device's memory, all ports down, with a write-back under way. -/
noncomputable def stranded : State :=
  let s := near.modCore 0 (fun k => { k with ranges := [fetchRange, [0x4001, 0x7000, 0x4018 ||| 0x400, 0]] })
  { after (.wclose 7) (after (.wst 1 7 0 0) s) with ports := s.ports.map (fun p => { p with up := false }) }

/-- Cells to write that lie in another device's memory. -/
noncomputable def farCells : Except MemErr (List Host.Cell) → Bool
  | .ok cs => cs.any (fun c => 2 ^ 61 ≤ c.1)
  | .error _ => false

theorem test_witness_stranded :
    (let o := stranded.me.reOps.headD ⟨⟨0, 0, none, 0⟩, 0, .drop, [], [], [], none, none, 0, false⟩
     (stranded.hart ⟨0, 0⟩).reOp o.tag.num = some o ∧ stranded.reReady ⟨0, 0⟩ o = true ∧ o.out = [[(0, 3)]] ∧ o.todo = false ∧
     outBehind stranded ⟨0, 0⟩ o = false ∧ stranded.noPath = true ∧
     farCells (writeBackCells stranded ⟨0, 0⟩ (o.save.getD (stranded.me.win o.win)) [(0, 3)]) = true ∧
     gives (.writebackPerformed ⟨0, 0⟩ 2) stranded (fun t => t.me.lost.isSome && t.mem == stranded.mem) = true) := by decide +kernel

/-- Stack 0 has ended; a stack takes it. -/
theorem test_witness_take_ended :
    (let s := after (.ienough 0) iters
     s.Ready ∧ s.me.itOps = [] ∧ (s.me.iter 3).st = .building ∧ (s.me.iter 0).st = .ended ∧ (s.me.iter 3).two = (s.me.iter 0).two ∧
     does (.izip 3 0) s (fun t => (t.me.iter 0).slots == [⟨.irange, false, 0, 5, 0, 0⟩] && (t.me.iter 0).exhausted) ∧
     does (.ichain 3 0) s (fun t => (t.me.iter 0).st == .absorbed)) := by decide +kernel

/-- Stack 3 pairs two counts of 5 to 8. -/
noncomputable def pairs : State := after (.iseal 3) (after (.izip 3 0) iters)

theorem test_witness_pairs : pairs.Ready ∧ pairs.me.Shaped ∧ (pairs.me.iter 3).st = .sealed ∧ (pairs.me.iter 3).two = true ∧
    group 4 (pullGroup (pairs.setMe { pairs.me with tlit := pairs.me.tlit + 1 }) pairs.who (pairs.capture (pullCaps pairs)).pullCtr 3 pairs.me.vl) ∧
    does (.inext 3 3) pairs (fun t => got t == [5, 6, 7, 8] && t.me.elem 4 3 32 == 8 && t.me.lq == [4]) ∧
    32 < (31 : VReg).toNat + 2 * lmulOf pairs.me.vtype ∧
    gives (.inext 3 31) pairs (fun t => t.me.trap.cause == 0x10 && t.me.trap.val == 0x309) := by decide +kernel

theorem test_witness_row_complete :
    (let s := after (.matrixOpStart 0) rowQueued
     let o := (s.core 0).matrix.ops.headD (MxOp.plain .zero 0 ⟨0, 0⟩)
     o.tag.num = 1 ∧ o.away = false ∧ o.started = true ∧ o.kind = .rowStream ∧ o.who.core = 0 ∧
     (s.hart o.who).lanes * 16 * 2 * o.lmul ≥ 128 ∧ o.vd.toNat + 2 * o.lmul ≤ 32 ∧ 4 ≤ (s.hart o.who).lanes) := by decide +kernel

/-- An MLDS of one row of the shadow plane has started. -/
noncomputable def lds : MxOp := { MxOp.plain .lds 1 ⟨0, 0⟩ with win := 7, corner := [0, 0], lo := 0, hi := 256, started := true }

theorem test_witness_shadow_complete :
    (let s := plane.modCore 0 (fun k => { k with matrix := { k.matrix with owner := some 0, counter := 1, ops := [lds] } })
     (s.core 0).matrix.ops.find? (fun p => p.tag.num == lds.tag.num && !p.away) = some lds ∧ lds.started = true ∧ lds.who.core = 0 ∧
     lds.kind = .lds ∧ (s.me.win lds.win).inTensor (mldsPoint lds.corner 1) = true) := by decide +kernel

/-! ### Ill-formed terms, one for each check -/

theorem test_ill_formed_1 :
  [Instr.bfx 1 1 63 1, .bfx 1 1 1 63, .bfxS 1 1 63 1, .bfxS 1 1 1 63, .bfi 1 1 63 1, .bfi 1 1 1 63, .loop 1 1 0,
    .loopS 1 0, .loopi 1 1 0, .vadd 1 1 1 1 1, .vsub 1 1 1 1 1, .vrsub 1 1 1 1 1, .vand 1 1 1 1 1, .vor 1 1 1 1 1,
    .vxor 1 1 1 1 1, .vsll 1 1 1 1 1, .vsrl 1 1 1 1 1, .vsra 1 1 1 1 1, .vmin 1 1 1 1 1, .vmax 1 1 1 1 1].all (fun i => !i.wellFormed) = true := by decide

theorem test_ill_formed_2 :
  [Instr.vminn 1 1 1 1 1, .vmaxn 1 1 1 1 1, .vmul 1 1 1 1 1, .vmulh 1 1 1 1 1, .vmulhn 1 1 1 1 1, .vdiv 1 1 1 1 1,
    .vdivn 1 1 1 1 1, .vrem 1 1 1 1 1, .vremn 1 1 1 1 1, .vaddc 1 1 1 1 1, .vsubb 1 1 1 1 1, .vsadd 1 1 1 1 1,
    .vsaddn 1 1 1 1 1, .vssub 1 1 1 1 1, .vssubn 1 1 1 1 1, .vmerge 1 1 1 1 1, .vmerge 1 1 1 0 0, .vmv 1 1 1 1,
    .vbext 1 1 1 1 1, .vfshr 1 1 1 1 1].all (fun i => !i.wellFormed) = true := by decide

theorem test_ill_formed_3 :
  [Instr.vmergeX 1 1 1 0, .vseq 1 1 1 1 1, .vsne 1 1 1 1 1, .vslt 1 1 1 1 1, .vsltn 1 1 1 1 1, .vsle 1 1 1 1 1,
    .vslen 1 1 1 1 1, .vsgt 1 1 1 1 1, .vsgtn 1 1 1 1 1, .vfeq 1 1 1 1 1, .vfne 1 1 1 1 1, .vflt 1 1 1 1 1,
    .vfle 1 1 1 1 1, .vfunord 1 1 1 1 1, .vfadd 1 1 1 1 1, .vfsub 1 1 1 1 1, .vfmul 1 1 1 1 1, .vfdiv 1 1 1 1 1,
    .vfmin 1 1 1 1 1, .vfmax 1 1 1 1 1].all (fun i => !i.wellFormed) = true := by decide

theorem test_ill_formed_4 :
  [Instr.vfmadd 1 1 1 1 1, .vfmsub 1 1 1 1 1, .vfnmadd 1 1 1 1 1, .vfnmsub 1 1 1 1 1, .vfsgnj 1 1 1 1 1,
    .vfsgnjn 1 1 1 1 1, .vfsgnjx 1 1 1 1 1, .vld 1 1 1 29, .vldS 1 1 1 1 29, .vldG 1 1 1 1 29, .vldG 1 1 0 1 0,
    .vldI 1 1 1 1 29, .vldFf 1 1 1 29, .vst 1 1 1 29, .vstS 1 1 1 1 29, .vstG 1 1 1 1 29, .vstG 1 1 0 1 0,
    .vstI 1 1 1 1 29, .vsldl 1 1 1 0, .vsstu 1 1 1 0].all (fun i => !i.wellFormed) = true := by decide

theorem test_ill_formed_5 :
  [Instr.wldS 1 1 1 1 0, .wldG 1 1 1 1 0, .wstS 1 1 1 1 0, .wstG 1 1 1 1 0, .kvxlat 1 1 1 1 0, .kvxlatf 1 1 1 1 0,
    .attnc 1 1 5 1, .kvapp 1 1 5 1, .tlwait 6 1, .queueCreate 1 1 [0, 0, 0, 0, 0, 0, 0],
    .queueCreate 1 1 [0, 0, 0, 0, 0, 0, 0, 0, 0]].all (fun i => !i.wellFormed) = true := by decide

/-! ### Words of the rows of the opcode table, with their fixed bits and fields as the table numbers them -/

/-- The word decodes to the instruction. -/
noncomputable def ok (p : Insn × Instr) : Bool :=
  match decode p.1 with
  | .ok j => j == p.2
  | .error _ => false

theorem test_decode_major_01_1 :
  List.all [(0x048B8800, .add 4 11 17), (0x063E2001, .sub 17 30 4), (0x065D3802, .and 18 29 7),
    (0x07557803, .or 26 21 15), (0x04E89004, .xor 7 8 18), (0x042FA805, .sll 1 15 21), (0x07557806, .srl 26 21 15),
    (0x06F81007, .sra 23 24 2), (0x07366008, .slt 25 22 12), (0x07B24009, .sltn 29 18 8), (0x067C300A, .mul 19 28 6),
    (0x04AA800B, .mulh 5 10 16), (0x067C300C, .mulhn 19 28 6), (0x06D9180D, .div 22 25 3), (0x067C300E, .divn 19 28 6),
    (0x0564F00F, .rem 11 4 30)] ok = true := by decide +kernel

theorem test_decode_major_01_2 :
  List.all [(0x07176810, .remn 24 23 13), (0x04AA8011, .min 5 10 16), (0x05450812, .max 10 5 1),
    (0x05450813, .minn 10 5 1), (0x04E89014, .maxn 7 8 18), (0x07934815, .rol 28 19 9), (0x046CB016, .ror 3 12 22),
    (0x05070017, .clz 8 7), (0x042F0018, .ctz 1 15), (0x065D0019, .popc 18 29), (0x0755781A, .bext 26 21 15),
    (0x0717681B, .bextn 24 23 13), (0x0601281C, .fshl 16 1 5), (0x05E1D01D, .fshr 15 1 26)] ok = true := by decide +kernel

theorem test_decode_major_02 :
  List.all [(0x08E8A35A, .addi 7 8 41818)] ok = true := by decide +kernel

theorem test_decode_major_03 :
  List.all [(0x0C6C433E, .andi 3 12 17214)] ok = true := by decide +kernel

theorem test_decode_major_04 :
  List.all [(0x13178D65, .ori 24 23 36197)] ok = true := by decide +kernel

theorem test_decode_major_05 :
  List.all [(0x16F80E6A, .xori 23 24 3690)] ok = true := by decide +kernel

theorem test_decode_major_06 :
  List.all [(0x1B55EC27, .slti 26 21 60455)] ok = true := by decide +kernel

theorem test_decode_major_07 :
  List.all [(0x1E5D0015, .slli 18 29 21), (0x1FD14039, .srli 30 17 57), (0x1DA2802A, .srai 13 2 42)] ok = true := by decide +kernel

theorem test_decode_major_08 :
  List.all [(0x227F340E, .lui 19 2044942)] ok = true := by decide +kernel

theorem test_decode_major_09 :
  List.all [(0x243923A2, .auipc 1 1647522)] ok = true := by decide +kernel

theorem test_decode_major_0a :
  List.all [(0x2B3602C6, .bfx 25 22 11 6), (0x2A3E18C6, .bfxS 17 30 35 6)] ok = true := by decide +kernel

theorem test_decode_major_0b :
  List.all [(0x2D2606C6, .bfi 9 6 27 6)] ok = true := by decide +kernel

theorem test_decode_major_0c :
  List.all [(0x303001B7, .ldb 1 16 439), (0x32BA293D, .ldh 21 26 2365), (0x316447A3, .ldw 11 4 1955),
    (0x33366631, .ldd 25 22 1585), (0x306C88AB, .ldbn 3 12 2219), (0x32BAAD7D, .ldhn 21 26 3453),
    (0x3317C930, .ldwn 24 23 2352)] ok = true := by decide +kernel

theorem test_decode_major_0d :
  List.all [(0x3429050E, .stb 1 9 1294), (0x35632D84, .sth 11 3 3460), (0x36BD431A, .stw 21 29 794),
    (0x34EF6288, .std 7 15 648)] ok = true := by decide +kernel

theorem test_decode_major_10 :
  List.all [(0x40DCDD21, .beq 6 28 56609)] ok = true := by decide +kernel

theorem test_decode_major_11 :
  List.all [(0x4648E595, .bne 18 8 58773)] ok = true := by decide +kernel

theorem test_decode_major_12 :
  List.all [(0x499612EB, .blt 12 22 4843)] ok = true := by decide +kernel

theorem test_decode_major_13 :
  List.all [(0x4FA7DE1A, .bge 29 7 56858)] ok = true := by decide +kernel

theorem test_decode_major_14 :
  List.all [(0x503A61E7, .bltn 1 26 25063)] ok = true := by decide +kernel

theorem test_decode_major_15 :
  List.all [(0x54DC2FA1, .bgen 6 28 12193)] ok = true := by decide +kernel

theorem test_decode_major_16 :
  List.all [(0x5BC6ED1B, .j 63368475)] ok = true := by decide +kernel

theorem test_decode_major_17 :
  List.all [(0x5C8F310E, .jal 9384206)] ok = true := by decide +kernel

theorem test_decode_major_18 :
  List.all [(0x60C9F85B, .jalr 6 9 63579)] ok = true := by decide +kernel

theorem test_decode_major_19 :
  List.all [(0x6681529C, .loop 5 1 21148), (0x672022FF, .loopS 6 8959)] ok = true := by decide +kernel

theorem test_decode_major_1a :
  List.all [(0x68F6A886, .loopi 1 7594 134)] ok = true := by decide +kernel

theorem test_decode_major_1b :
  List.all [(0x6C000000, .nop), (0x6C000001, .exit), (0x6C000002, .brk), (0x6C000003, .scall), (0x6C000004, .yield),
    (0x6C190005, .fork 25), (0x6C000006, .rdv), (0x6C060007, .lfork 6), (0x6C000008, .ljoin), (0x6C000009, .lexit),
    (0x6C19000A, .qput 25), (0x6C20000B, .qget 1), (0x6DE1000C, .lvget 15 1), (0x6C16600D, .lvput 22 12),
    (0x6C01280E, .libld 1 5)] ok = true := by decide +kernel

theorem test_decode_major_1c :
  List.all [(0x70400D73, .movs 2 3443)] ok = true := by decide +kernel

theorem test_decode_major_1d :
  List.all [(0x7404009A, .sets 4 154)] ok = true := by decide +kernel

theorem test_decode_major_20 :
  List.all [(0x83D15800, .vsetvl 30 17 11), (0x83800001, .vsetvlq 28), (0x80090002, .lpart 9), (0x80020003, .gang 2),
    (0x80000004, .ungang)] ok = true := by decide +kernel

theorem test_decode_major_21 :
  List.all [(0x84AA9138, .vsetvli 5 10 37176)] ok = true := by decide +kernel

theorem test_decode_major_22_1 :
  List.all [(0x89450E60, .vadd 10 5 1 6 3), (0x883056C1, .vsub 1 16 10 6 6), (0x8BB24682, .vrsub 29 18 8 6 4),
    (0x8B934EA3, .vand 28 19 9 6 5), (0x8A9B0EA4, .vor 20 27 1 6 5), (0x8926E625, .vxor 9 6 28 6 1),
    (0x89C1DE26, .vsll 14 1 27 6 1), (0x8A9B0EA7, .vsrl 20 27 1 6 5), (0x8B366628, .vsra 25 22 12 6 1),
    (0x8964F649, .vmin 11 4 30 6 2), (0x888B8EAA, .vmax 4 11 17 6 5), (0x8907EE2B, .vminn 8 7 29 6 1),
    (0x88AA868C, .vmaxn 5 10 16 6 4), (0x8BB2468D, .vmul 29 18 8 6 4), (0x88E896CE, .vmulh 7 8 18 6 6),
    (0x883056CF, .vmulhn 1 16 10 6 6)] ok = true := by decide +kernel

theorem test_decode_major_22_2 :
  List.all [(0x8B176E30, .vdiv 24 23 13 6 1), (0x8A3E2631, .vdivn 17 30 4 6 1), (0x88AA8692, .vrem 5 10 16 6 4),
    (0x8B557E73, .vremn 26 21 15 6 3), (0x89E1D6D4, .vaddc 15 1 26 6 6), (0x888B8EB5, .vsubb 4 11 17 6 5),
    (0x8B176E36, .vsadd 24 23 13 6 1), (0x8BB24697, .vsaddn 29 18 8 6 4), (0x89A2C698, .vssub 13 2 24 6 4),
    (0x8AF816D9, .vssubn 23 24 2 6 6), (0x88E896DA, .vmerge 7 8 18 6 6), (0x8BC05E3B, .vmv 30 11 6 1),
    (0x8AD9003C, .vpope 22 25 1), (0x88C9003D, .vclz 6 9 1), (0x8B176E3E, .vbext 24 23 13 6 1),
    (0x89A2C69F, .vfshr 13 2 24 6 4)] ok = true := by decide +kernel

theorem test_decode_major_23_1 :
  List.all [(0x8EF810C0, .vaddX 23 24 2 6), (0x8FB24081, .vsubX 29 18 8 4), (0x8CE890C2, .vrsubX 7 8 18 6),
    (0x8E7C3043, .vandX 19 28 6 2), (0x8C8B88A4, .vorX 4 11 17 5), (0x8CE890C5, .vxorX 7 8 18 6),
    (0x8C4DB866, .vsllX 2 13 23 3), (0x8DC1D827, .vsrlX 14 1 27 1), (0x8FB24088, .vsraX 29 18 8 4),
    (0x8FB24089, .vminX 29 18 8 4), (0x8E01282A, .vmaxX 16 1 5 1), (0x8E01282B, .vminnX 16 1 5 1),
    (0x8E5D386C, .vmaxnX 18 29 7 3), (0x8E9B08AD, .vmulX 20 27 1 5), (0x8D45086E, .vmulhX 10 5 1 3),
    (0x8FD1582F, .vmulhnX 30 17 11 1)] ok = true := by decide +kernel

theorem test_decode_major_23_2 :
  List.all [(0x8C8B88B0, .vdivX 4 11 17 5), (0x8D07E831, .vdivnX 8 7 29 1), (0x8DE1D0D2, .vremX 15 1 26 6),
    (0x8E3E2033, .vremnX 17 30 4 1), (0x8DA2C094, .vaddcX 13 2 24 4), (0x8C8B88B5, .vsubbX 4 11 17 5),
    (0x8D07E836, .vsaddX 8 7 29 1), (0x8F366037, .vsaddnX 25 22 12 1), (0x8C4DB878, .vssubX 2 13 23 3),
    (0x8CE890D9, .vssubnX 7 8 18 6), (0x8E3E203A, .vmergeX 17 30 4 1), (0x8E60305B, .vmvX 19 6 2),
    (0x8C2EA03E, .vbextX 1 14 20 1), (0x8F17683F, .vfshrX 24 23 13 1)] ok = true := by decide +kernel

theorem test_decode_major_24 :
  List.all [(0x90AA3880, .vaddi 5 10 56 4), (0x92BA4881, .vrsubi 21 26 72 4), (0x902E5C22, .vandi 1 14 92 1),
    (0x92D90B23, .vori 22 25 11 1), (0x92BA0884, .vxori 21 26 8 4), (0x92013725, .vslli 16 1 55 1),
    (0x93931BA6, .vsrli 28 19 27 5), (0x91E108C7, .vsrai 15 1 8 6), (0x90205C28, .vmvi 1 92 1),
    (0x91E132C9, .vmini 15 1 50 6), (0x904D1F6A, .vmaxi 2 13 31 3)] ok = true := by decide +kernel

theorem test_decode_major_25 :
  List.all [(0x94B24680, .vseq 5 18 8 6 4), (0x9426E621, .vsne 1 6 28 6 1), (0x943816C2, .vslt 1 24 2 6 6),
    (0x943056C3, .vsltn 1 16 10 6 6), (0x942896C4, .vsle 1 8 18 6 6), (0x94376E25, .vslen 1 23 13 6 1),
    (0x94D91E26, .vsgt 6 25 3 6 1), (0x94D15E27, .vsgtn 6 17 11 6 1), (0x94212E28, .vfeq 1 1 5 6 1),
    (0x948B8EA9, .vfne 4 11 17 6 5), (0x94557E6A, .vflt 2 21 15 6 3), (0x94450E6B, .vfle 2 5 1 6 3),
    (0x94D91E2C, .vfunord 6 25 3 6 1)] ok = true := by decide +kernel

theorem test_decode_major_26_1 :
  List.all [(0x99450E60, .vfadd 10 5 1 6 3), (0x983056C1, .vfsub 1 16 10 6 6), (0x9BB24682, .vfmul 29 18 8 6 4),
    (0x9B176E23, .vfdiv 24 23 13 6 1), (0x986C0044, .vfsqrt 3 12 2), (0x9964F645, .vfmin 11 4 30 6 2),
    (0x988B8EA6, .vfmax 4 11 17 6 5), (0x9983CEA7, .vfmadd 12 3 25 6 5), (0x9B366628, .vfmsub 25 22 12 6 1),
    (0x99E1D6C9, .vfnmadd 15 1 26 6 6), (0x9B557E6A, .vfnmsub 26 21 15 6 3), (0x9964F64B, .vfsgnj 11 4 30 6 2),
    (0x9BB2468C, .vfsgnjn 29 18 8 6 4), (0x99450E6D, .vfsgnjx 10 5 1 6 3), (0x984D006E, .vfclass 2 13 3),
    (0x998300AF, .vfrece 12 3 5)] ok = true := by decide +kernel

theorem test_decode_major_26_2 :
  List.all [(0x9A3E0030, .vfrsqe 17 30 1), (0x98C90031, .vfexp2 6 9 1), (0x9BD10032, .vfcvtif 30 17 1),
    (0x998300B3, .vfcvtfi 12 3 5), (0x983000D4, .vfnarrow 1 16 6), (0x9A7C0055, .vfwiden 19 28 2)] ok = true := by decide +kernel

theorem test_decode_major_27 :
  List.all [(0x9C2FA820, .vfaddX 1 15 21 1), (0x9D450861, .vfsubX 10 5 1 3), (0x9C6CB042, .vfmulX 3 12 22 2),
    (0x9E7C3043, .vfdivX 19 28 6 2), (0x9D450865, .vfminX 10 5 1 3), (0x9CE890C6, .vfmaxX 7 8 18 6),
    (0x9DA2C087, .vfmaddX 13 2 24 4), (0x9CE890C8, .vfmsubX 7 8 18 6), (0x9F366029, .vfnmaddX 25 22 12 1),
    (0x9E7C304A, .vfnmsubX 19 28 6 2), (0x9D07E82B, .vfsgnjX 8 7 29 1), (0x9CAA808C, .vfsgnjnX 5 10 16 4),
    (0x9CE890CD, .vfsgnjxX 7 8 18 6)] ok = true := by decide +kernel

theorem test_decode_major_28_1 :
  List.all [(0xA3557860, .vredsum 26 21 15 3), (0xA02EA021, .vredmin 1 14 20 1), (0xA1C1D822, .vredmax 14 1 27 1),
    (0xA0AA8083, .vredminn 5 10 16 4), (0xA107E824, .vredmaxn 8 7 29 1), (0xA2D91825, .vredand 22 25 3 1),
    (0xA08B88A6, .vredor 4 11 17 5), (0xA06CB047, .vredxor 3 12 22 2), (0xA126E028, .vfredsum 9 6 28 1),
    (0xA25D3869, .vfredmin 18 29 7 3), (0xA3B2408A, .vfredmax 29 18 8 4), (0xA001002B, .vpopc 1 1),
    (0xA004004C, .vpopq 4 2), (0xA006002D, .vfirst 6 1), (0xA3A2008E, .viota 29 2 4), (0xA220002F, .vid 17 1)] ok = true := by decide +kernel

theorem test_decode_major_28_2 :
  List.all [(0xA0211010, .mand 1 1 2), (0xA0450811, .mor 2 5 1), (0xA0450812, .mxor 2 5 1), (0xA0C11813, .mandn 6 1 3),
    (0xA0210014, .mnot 1 1), (0xA0830015, .mslide1 4 3), (0xA0A20016, .msbf 5 2), (0xA0210017, .mmv 1 1),
    (0xA08B00B8, .mfromv 4 11 5), (0xA0C10039, .mtov 6 1 1)] ok = true := by decide +kernel

theorem test_decode_major_29 :
  List.all [(0xA63E2020, .vslideup 17 30 4 1), (0xA526E021, .vslidedn 9 6 28 1), (0xA44DB862, .vslide1up 2 13 23 3),
    (0xA7557863, .vslide1dn 26 21 15 3), (0xA507E824, .vpermx 8 7 29 1), (0xA7170805, .vcompress 24 23 1),
    (0xA63E3026, .vexpand 17 30 6 1), (0xA43000C7, .vrev 1 16 6), (0xA43050C8, .vbcast 1 16 10 6),
    (0xA7407869, .vmvxv 26 15 3), (0xA411000A, .vmvvx 17)] ok = true := by decide +kernel

theorem test_decode_major_2a :
  List.all [(0xAB4F0066, .vld 26 15 3 6), (0xA8762147, .vldS 3 22 4 2 7), (0xAAC30A22, .vldG 22 3 1 1 2),
    (0xAB0D2B24, .vldI 24 13 5 1 4), (0xAAA10481, .vldFf 21 1 4 1)] ok = true := by decide +kernel

theorem test_decode_major_2b :
  List.all [(0xACD30022, .vst 6 19 1 2), (0xAF4FE966, .vstS 26 15 29 3 6), (0xADFA0AC3, .vstG 15 26 1 6 3),
    (0xAC34E325, .vstI 1 20 28 1 5)] ok = true := by decide +kernel

theorem test_decode_major_2c :
  List.all [(0xB1B88080, .vsamoAdd 13 24 16 4), (0xB19988A1, .vsamoMin 12 25 17 5), (0xB076F042, .vsamoMax 3 22 30 2),
    (0xB0B0C083, .vsamoMinn 5 16 24 4), (0xB11DA824, .vsamoMaxn 8 29 21 1), (0xB36E3045, .vsamoAnd 27 14 6 2),
    (0xB2C35826, .vsamoOr 22 3 11 1), (0xB1DB9827, .vsamoXor 14 27 19 1), (0xB11DA828, .vsamoSwap 8 29 21 1),
    (0xB1B88089, .vsldl 13 24 16 4), (0xB19988AA, .vsstu 12 25 17 5)] ok = true := by decide +kernel

theorem test_decode_major_2d :
  List.all [(0xB5E1D400, .amoadd 15 1 26 1), (0xB5C1DC01, .amomin 14 1 27 1), (0xB42EA402, .amomax 1 14 20 1),
    (0xB63E2403, .amominn 17 30 4 1), (0xB7934C04, .amomaxn 28 19 9 1), (0xB7366405, .amoand 25 22 12 1),
    (0xB7B24406, .amoor 29 18 8 1), (0xB583CC07, .amoxor 12 3 25 1), (0xB7934C08, .amoswap 28 19 9 1),
    (0xB7366409, .amocas 25 22 12 1)] ok = true := by decide +kernel

theorem test_decode_major_2e :
  List.all [(0xB9E1D0C0, .vamoadd 15 1 26 6), (0xB9C1D821, .vamomin 14 1 27 1), (0xB82EA022, .vamomax 1 14 20 1),
    (0xB926E023, .vamominn 9 6 28 1), (0xB88B88A4, .vamomaxn 4 11 17 5), (0xBB366025, .vamoand 25 22 12 1),
    (0xBA3E2026, .vamoor 17 30 4 1), (0xB983C8A7, .vamoxor 12 3 25 5), (0xB88B88A8, .vamoswap 4 11 17 5)] ok = true := by decide +kernel

theorem test_decode_major_30 :
  List.all [(0xC0391800, .wbind 1 25 3), (0xC040C801, .wmode 2 25), (0xC0381002, .wform 1 24 2),
    (0xC0200003, .wopen 1), (0xC0400004, .wclose 2), (0xC0200005, .wflush 1), (0xC0800006, .wdrop 4),
    (0xC27A0807, .wbindi 2 3 26 1), (0xC0400008, .wnext 2), (0xC0800009, .wstat 4)] ok = true := by decide +kernel

theorem test_decode_major_31 :
  List.all [(0xC4250180, .wld 1 1 16 6), (0xC675C29B, .wldS 19 5 28 2 27), (0xC7197440, .wldX 24 6 23 1),
    (0xC4C49641, .wldG 6 1 9 1 1), (0xC5AC2900, .wldD1 13 3 2 4)] ok = true := by decide +kernel

theorem test_decode_major_32 :
  List.all [(0xC874C080, .wst 3 5 12 2), (0xC95052E2, .wstS 10 4 5 3 34), (0xC824E440, .wstX 1 1 14 1),
    (0xC8250781, .wstG 1 1 16 6 1), (0xC824E840, .wstD1 1 1 14 1)] ok = true := by decide +kernel

theorem test_decode_major_34 :
  List.all [(0xD0400000, .ibegin 2), (0xD046E001, .irange 2 6 28), (0xD021D802, .ilist 1 1 27),
    (0xD0460003, .ictr 2 6), (0xD0305004, .imap 1 16 10), (0xD027E805, .imapt 1 7 29), (0xD02FA806, .ifiltb 1 15 21),
    (0xD04EA007, .ifiltc 2 14 20), (0xD0410008, .izip 2 1), (0xD0410009, .ichain 2 1), (0xD02C000A, .iflat 1 12),
    (0xD020080B, .ifill 1 1), (0xD021000C, .inext 1 1), (0xD020000D, .ienough 1), (0xD040000E, .istat 2),
    (0xD020000F, .iseal 1)] ok = true := by decide +kernel

theorem test_decode_major_36 :
  List.all [(0xD8803800, .mlds 4 7), (0xD8089001, .mldsv 8 18), (0xD8000002, .mswap), (0xD8000003, .mzero),
    (0xDB740004, .mrow 27 20), (0xD9E10005, .mrowa 15 1), (0xDB930806, .mrows 28 19 1), (0xD8C91007, .mrowsa 6 9 2),
    (0xDB060008, .mroww 24 6), (0xDB440009, .mrowwa 26 4), (0xD800000A, .mwait)] ok = true := by decide +kernel

theorem test_decode_major_37 :
  List.all [(0xDC00C100, .kvset 24 1), (0xDD8359A1, .kvxlat 12 3 11 1 5), (0xDC30C1C2, .kvxlatf 1 16 24 1 6),
    (0xDDE14103, .attn 15 1 8 1), (0xDEF88104, .attnc 23 24 16 1), (0xDE9BF105, .kvapp 20 27 30 1),
    (0xDC000906, .kvinv 1 1), (0xDC000107, .kvstat 1)] ok = true := by decide +kernel

theorem test_decode_major_38 :
  List.all [(0xE0000000, .fence), (0xE0000001, .vfence), (0xE0000002, .lsync), (0xE01C0003, .barrive 28),
    (0xE0181004, .bwait 24 2), (0xE00DB805, .binit 13 23), (0xE0AD0006, .tlwait 5 13), (0xE01E0007, .hevt 30),
    (0xE01E0008, .hwait 30), (0xE00D0009, .harm 13)] ok = true := by decide +kernel

theorem test_decode_major_39 :
  List.all [(0xE406E000, .xsend 6 28), (0xE7206001, .xrecv 25 12), (0xE4E890C2, .xstep 7 8 18 6),
    (0xE5070023, .xredsum 8 7 1), (0xE79300A4, .xredmax 28 19 5), (0xE44DB865, .xbcast 2 13 23 3),
    (0xE44DB806, .xring 2 13 23), (0xE4200007, .xstat 1)] ok = true := by decide +kernel

theorem test_decode_major_3a :
  List.all [(0xE8070000, .launch 7), (0xEA9B0001, .launcht 20 27), (0xE8E80002, .lwait 7 8)] ok = true := by decide +kernel

theorem test_decode_major_3b :
  List.all [(0xEC000000, .tret), (0xEC120001, .ctxsave 18), (0xEC060002, .ctxload 6), (0xEC1E2003, .xlinv 30 4),
    (0xEC000004, .xlinva), (0xEC000005, .wfe), (0xEC000006, .halt), (0xED450007, .caprd 10 5)] ok = true := by decide +kernel

end Sys2Proof.Tests
end

section
/-!
SUPPORT. Memories that read alike are equal, and what a number written as bytes reads back as (R4, R5).
-/

namespace Sys2Proof.Machine

/-! ### Memories that read alike -/

theorem Memory.read_cons_same (k : Nat) (b : Byte) (m : List Host.Cell) : Memory.read ((k, b) :: m) k = b := by
  simp [Memory.read]

theorem Memory.read_cons_ne {k j : Nat} (b : Byte) (m : List Host.Cell) (h : j ≠ k) :
    Memory.read ((k, b) :: m) j = Memory.read m j := by
  simp [Memory.read, h]

/-- Of two memories in the one form that read alike, the first cells are at the same key: the lower of two would read as what
nothing wrote in the other. -/
theorem Memory.head_key_le {lo : Nat} {c : Host.Cell} {m m' : List Host.Cell} (h : Memory.From lo (c :: m))
    {k : Nat} (h' : Memory.From k m') (hr : Memory.read (c :: m) c.1 = Memory.read m' c.1) : k ≤ c.1 := by
  by_contra hlt
  rw [Memory.read_below h' (by omega), Memory.read_cons_same] at hr
  exact h.2.1 hr

theorem Memory.from_ext {lo : Nat} {m m' : List Host.Cell} (h : Memory.From lo m) (h' : Memory.From lo m')
    (hr : ∀ k, Memory.read m k = Memory.read m' k) : m = m' := by
  induction m generalizing lo m' with
  | nil =>
    cases m' with
    | nil => rfl
    | cons c m' => exact absurd ((hr c.1).symm.trans rfl) (by rw [Memory.read_cons_same]; exact h'.2.1)
  | cons c m ih =>
    cases m' with
    | nil => exact absurd (hr c.1) (by rw [Memory.read_cons_same]; exact h.2.1)
    | cons d m' =>
      have hle : d.1 ≤ c.1 := Memory.head_key_le h (m' := d :: m') ⟨le_rfl, h'.2⟩ (hr c.1)
      have hge : c.1 ≤ d.1 := Memory.head_key_le h' (m' := c :: m) ⟨le_rfl, h.2⟩ (hr d.1).symm
      obtain ⟨k, b⟩ := c
      obtain ⟨k', b'⟩ := d
      obtain rfl : k = k' := le_antisymm hge hle
      have hb : b = b' := by simpa only [Memory.read_cons_same] using hr k
      have hm : m = m' := by
        refine ih h.2.2 h'.2.2 fun j => ?_
        by_cases hj : j = k
        · rw [Memory.read_below h.2.2 (by simp [hj]), Memory.read_below h'.2.2 (by simp [hj])]
        · simpa only [Memory.read_cons_ne _ _ hj] using hr j
      rw [hb, hm]

/-- In the one form, equal contents are equal data. -/
theorem Memory.ext_of_wf {m m' : List Host.Cell} (h : Memory.wf m = true) (h' : Memory.wf m' = true)
    (hr : ∀ k, Memory.read m k = Memory.read m' k) : m = m' :=
  Memory.from_ext ((Memory.wf_iff m).1 h) ((Memory.wf_iff m').1 h') hr

/-! ### Numbers as bytes -/

theorem bytesOf_succ (n v : Nat) : bytesOf (n + 1) v = BitVec.ofNat 8 v :: bytesOf n (v / 256) := by
  simp only [bytesOf, List.range_succ_eq_map, List.map_cons, List.map_map, pow_zero, Nat.div_one, List.cons.injEq, true_and]
  refine List.map_congr_left fun i _ => ?_
  simp only [Function.comp_apply, Nat.succ_eq_add_one, pow_succ', Nat.div_div_eq_div_mul]

@[simp] theorem length_bytesOf (n v : Nat) : (bytesOf n v).length = n := by simp [bytesOf]

/-- The bytes of a number stand for it, as far as they reach. -/
theorem natOf_bytesOf (n v : Nat) : natOf (bytesOf n v) = v % 256 ^ n := by
  induction n generalizing v with
  | zero => simp [bytesOf, natOf, Nat.mod_one]
  | succ n ih =>
    have hc : natOf (bytesOf (n + 1) v) = v % 256 + 256 * natOf (bytesOf n (v / 256)) := by
      rw [bytesOf_succ]; simp [natOf]
    rw [hc, ih, pow_succ', Nat.mod_mul]

theorem cellsAt_cons (key : Nat) (b : Byte) (bs : List Byte) : cellsAt key (b :: bs) = (key, b) :: cellsAt (key + 1) bs := by
  simp only [cellsAt, List.zipIdx_cons, List.map_cons, Nat.add_zero, List.cons.injEq, true_and]
  rw [List.zipIdx_succ, List.map_map]
  refine List.map_congr_left fun p _ => ?_
  simp; omega

/-- The cells of n bytes lie from their key on. -/
theorem mem_cellsAt {key : Nat} {bs : List Byte} {c : Host.Cell} (h : c ∈ cellsAt key bs) :
    key ≤ c.1 ∧ c.1 < key + bs.length := by
  induction bs generalizing key with
  | nil => simp [cellsAt] at h
  | cons b bs ih =>
    rw [cellsAt_cons, List.mem_cons] at h
    rw [List.length_cons]
    rcases h with rfl | h
    · omega
    · have := ih h
      omega

/-- Bytes written from a key on read back, each at its place. -/
theorem Memory.read_writeAll_cellsAt {m : List Host.Cell} (h : Memory.wf m = true) (key : Nat) (bs : List Byte) :
    (List.range bs.length).map (fun i => Memory.read (Memory.writeAll m (cellsAt key bs)) (key + i)) = bs := by
  induction bs generalizing m key with
  | nil => rfl
  | cons b bs ih =>
    have hw : Memory.writeAll m (cellsAt key (b :: bs)) = Memory.writeAll (Memory.write m key b) (cellsAt (key + 1) bs) := by
      rw [cellsAt_cons]; rfl
    have hhead : Memory.read (Memory.writeAll (Memory.write m key b) (cellsAt (key + 1) bs)) key = b := by
      rw [Memory.read_writeAll_ne _ _ (Memory.write_wf key b h) (fun c hc => by have := mem_cellsAt hc; omega),
        Memory.read_write key key b h, if_pos rfl]
    rw [hw, List.length_cons, List.range_succ_eq_map, List.map_cons, List.map_map, Nat.add_zero key, hhead]
    refine congrArg (b :: ·) ((List.map_congr_left fun i _ => ?_).trans (ih (Memory.write_wf key b h) (key + 1)))
    simp only [Function.comp_apply, Nat.succ_eq_add_one]
    congr 1; omega

/-! ### Generic memory of the state -/

/-- Below the capability lists a byte of the state is that of its memory. -/
theorem State.byte_low (s : State) {k : Nat} (h : k < 2 ^ 57) : s.byte k = Memory.read s.mem k := by
  rw [State.byte, if_pos (by simp only [h, decide_true, Bool.true_or])]

theorem State.readN_writeN {s : State} (h : Memory.wf s.mem = true) {k n : Nat} (v : Nat) (hk : k + n ≤ 2 ^ 57) :
    (s.writeN k n v).readN k n = v % 256 ^ n := by
  have hb : (s.writeN k n v).bytes k n = bytesOf n v := by
    have hr := Memory.read_writeAll_cellsAt h k (bytesOf n v)
    rw [length_bytesOf] at hr
    refine Eq.trans (List.map_congr_left fun i hi => ?_) hr
    exact State.byte_low _ (by have := List.mem_range.1 hi; omega)
  rw [State.readN, hb, natOf_bytesOf]

theorem State.read_writeN_ne {s : State} (h : Memory.wf s.mem = true) {k n j : Nat} (v : Nat) (hj : j < k ∨ k + n ≤ j) :
    Memory.read (s.writeN k n v).mem j = Memory.read s.mem j := by
  refine Memory.read_writeAll_ne _ j h fun c hc => ?_
  have := mem_cellsAt hc
  rw [length_bytesOf] at this
  omega

end Sys2Proof.Machine

namespace Sys2Proof

open Machine

/-- Settles O17: reads after writes of one byte and of n bytes, and equality of memories in the one form. -/
theorem memoryReadAfterWrite : Obligations.MemoryReadAfterWrite := by
  unfold Obligations.MemoryReadAfterWrite
  intro m hm
  refine ⟨fun k v => ⟨Memory.write_wf k v hm, ?_, fun j hj => ?_⟩, fun m' => Memory.ext_of_wf hm, ?_⟩
  · rw [Memory.read_write k k v hm, if_pos rfl]
  · rw [Memory.read_write k j v hm, if_neg hj]
  · rintro s k n v rfl hk
    exact ⟨State.readN_writeN hm v hk, fun j => State.read_writeN_ne hm v⟩

end Sys2Proof
end

section
/-!
SUPPORT. What the invariant of a run speaks of: generic memory and the scratch of each core. Most operations leave both as they
are, which one equation says; of the others one lemma each says that they keep the one form.
-/

namespace Sys2Proof.Machine

/-! ### The storage of a state -/

/-- Generic memory and the scratch of each core (R26, R126). -/
@[ext] structure Storage where
  mem : List Host.Cell
  scratch : CoreId → List Host.Cell

def State.storage (s : State) : Storage := ⟨s.mem, fun c => (s.core c).scratch⟩

/-- Memory and every scratch have their one form. -/
def Storage.Wf (d : Storage) : Prop := Memory.wf d.mem = true ∧ ∀ c, Memory.wf (d.scratch c) = true

theorem State.inv_iff (s : State) : s.Inv ↔ s.storage.Wf := Iff.rfl

/-- An update of fields beside memory and the cores leaves the storage. -/
theorem State.storage_congr {s t : State} (hm : t.mem = s.mem) (hc : t.cores = s.cores) : t.storage = s.storage := by
  simp only [State.storage, State.core, hm, hc]

/-- The same for an update written out as a record: given to `simp` as a rewriting of the whole record. -/
theorem State.storage_update (s : State)
    (stores order mmio nextId owners parts tenants queues launches pool transfers saved pageReqs pageWait pageDrops
      pageFail refused grants atsCache msix ports ringMail aged mesh dev bad corrected sage power bar0 config
      powerCap agent agenda turn idleTurns replay pace cycle cycleBy fresh) :
    State.storage { s with
      stores, order, mmio, nextId, owners, parts, tenants, queues, launches, pool, transfers, saved,
      pageReqs, pageWait, pageDrops, pageFail, refused, grants, atsCache, msix, ports, ringMail, aged,
      mesh, dev, bad, corrected, sage, power, bar0, config, powerCap, agent, agenda, turn, idleTurns,
      replay, pace, cycle, cycleBy, fresh } = s.storage := State.storage_congr rfl rfl

@[simp] theorem State.storage_ite (c : Prop) [Decidable c] (s t : State) :
    (if c then s else t).storage = if c then s.storage else t.storage := apply_ite _ _ _ _

theorem State.storage_setCore {s : State} {c : CoreId} {k : Core} (h : k.scratch = (s.core c).scratch) :
    (s.setCore c k).storage = s.storage := by
  ext1
  · rfl
  · funext d
    by_cases hd : d = c
    · subst hd; simp [State.storage, h]
    · simp [State.storage, State.core_setCore_ne _ _ _ _ hd]

@[simp] theorem State.storage_setHart (s : State) (w : Who) (h : Hart) : (s.setHart w h).storage = s.storage :=
  State.storage_setCore rfl

@[simp] theorem State.storage_modHart (s : State) (w : Who) (f : Hart → Hart) : (s.modHart w f).storage = s.storage :=
  s.storage_setHart w _

@[simp] theorem State.storage_setMe (s : State) (h : Hart) : (s.setMe h).storage = s.storage := s.storage_setHart _ h

@[simp] theorem State.storage_modMe (s : State) (f : Hart → Hart) : (s.modMe f).storage = s.storage := s.storage_setHart _ _

/-- An update of a core that leaves its scratch. -/
@[simp] theorem State.storage_modCore {s : State} {c : CoreId} {f : Core → Core} (h : ∀ k, (f k).scratch = k.scratch) :
    (s.modCore c f).storage = s.storage := State.storage_setCore (h _)

@[simp] theorem State.storage_modMyCore {s : State} {f : Core → Core} (h : ∀ k, (f k).scratch = k.scratch) :
    (s.modMyCore f).storage = s.storage := State.storage_modCore h

/-- A fold of steps that leave the storage leaves it. -/
@[simp] theorem storage_foldl {β : Type} {f : State → β → State} (hf : ∀ s b, (f s b).storage = s.storage) (l : List β) (s : State) :
    (l.foldl f s).storage = s.storage := by
  induction l generalizing s with
  | nil => rfl
  | cons b l ih => rw [List.foldl_cons, ih, hf]

@[simp] theorem State.storage_setX (s : State) (r : XReg) (v : Word) : (s.setX r v).storage = s.storage := by
  unfold State.setX
  split
  · simp
  · split
    · rfl
    · simp [↓State.storage_update]

@[simp] theorem State.storage_setQbuf (s : State) (q : CoreId × Fin 8) (b : List Host.Cell) : (s.setQbuf q b).storage = s.storage := by
  simp [State.setQbuf]

@[simp] theorem State.storage_restoreSnap (s : State) (e : Issued) : (s.restoreSnap e).storage = s.storage := by
  simp [State.restoreSnap]

@[simp] theorem State.storage_discardAfter (s : State) (w : Who) (q : Nat) : (s.discardAfter w q).storage = s.storage := by
  simp only [State.discardAfter, State.storage_update]
  simp

@[simp] theorem storage_trapAt (t : Trap) (squash : Bool) (pc : Word) (s : State) : (trapAt t squash pc s).storage = s.storage := by
  unfold trapAt
  split
  · simp
  · split
    · simp [↓State.storage_update]
    · simp

@[simp] theorem State.storage_goTo (s : State) (p : Word) : (s.goTo p).storage = s.storage := s.storage_modMe _

@[simp] theorem State.storage_waits (s : State) (w : Wait) : (s.waits w).storage = s.storage := s.storage_modMe _

@[simp] theorem State.storage_setThreadPc (s : State) (l : Nat) (p : Word) : (s.setThreadPc l p).storage = s.storage :=
  s.storage_modMe _

/-! ### Counters and the back-edge check -/

@[simp] theorem State.storage_queueAdvance (s before : State) (p : Word) (wrap : Bool) :
    (s.queueAdvance before p wrap).storage = s.storage := by
  simp only [State.queueAdvance, State.storage_update, State.storage_modMe]

/-- The advances of a counter change leave the storage d. -/
def AdvRes.Keeps (d : Storage) : AdvRes → Prop
  | .done s => s.storage = d
  | .full s => s.storage = d
  | .fail _ _ => True

@[simp] theorem AdvRes.keeps_done (d : Storage) (s : State) : (AdvRes.done s).Keeps d ↔ s.storage = d := Iff.rfl
@[simp] theorem AdvRes.keeps_full (d : Storage) (s : State) : (AdvRes.full s).Keeps d ↔ s.storage = d := Iff.rfl
@[simp] theorem AdvRes.keeps_fail (d : Storage) (w : WinNum) (t : Trap) : (AdvRes.fail w t).Keeps d := trivial

theorem advanceAll_keeps (k : Nat) (old new : Nat → Int) (q : Nat) (s : State) (ws : List WinNum) :
    (advanceAll k old new q s ws).Keeps s.storage := by
  induction ws generalizing s with
  | nil => exact s.storage_modMe _
  | cons w ws ih =>
    simp only [advanceAll]
    split
    · exact ih s
    · split
      · trivial
      · split
        · rfl
        · simpa only [State.storage_modMe] using ih (s.modMe _)

theorem setCounter_keeps (k : CtrNum) (v p : Word) (wrap : Bool) (s : State) : (setCounter k v p wrap s).Keeps s.storage := by
  have ha := advanceAll_keeps k.toNat s.me.ctr (s.me.putCtr k v).ctr s.seqNow s allWins
  unfold setCounter
  split
  · simp
  · split
    · rename_i s' h
      rw [h] at ha
      exact (s'.storage_modMe _).trans ha
    · exact ha

@[simp] theorem storage_backEdge (p : Word) (s : State) (ks : List CtrNum) : (backEdge p s ks).storage = s.storage := by
  induction ks generalizing s with
  | nil => exact s.storage_goTo p
  | cons k ks ih =>
    simp only [backEdge]
    split
    · split
      · rw [ih, State.storage_modMe]
      · have hc := setCounter_keeps k ((s.me.loop k).cnt + 1) p true s
        split
        · rename_i s' h
          rw [h] at hc
          simpa using hc
        · simp
        · rename_i s' h
          rw [h] at hc
          simpa using hc
    · exact ih s

@[simp] theorem storage_arrive (p : Word) (s : State) : (arrive p s).storage = s.storage := storage_backEdge p s _

@[simp] theorem storage_complete (p : Word) (s : State) : (complete p s).storage = s.storage := by
  unfold complete; split <;> simp

@[simp] theorem storage_finish (s : State) : (finish s).storage = s.storage := storage_complete _ s

@[simp] theorem storage_tretResume (s : State) : (tretResume s).storage = s.storage := by
  simp only [tretResume]
  split
  · split
    · simp
    · split <;> simp
  · split <;> simp

/-! ### Outcomes -/

/-- Where the outcome is a next state, its storage is well-formed. -/
def Out.Wf : Out → Prop
  | .next s => s.storage.Wf
  | _ => True

@[simp] theorem Out.wf_next (s : State) : Out.Wf (.next s) ↔ s.storage.Wf := Iff.rfl
@[simp] theorem Out.wf_fault (r : Fault) : Out.Wf (.fault r) := trivial
@[simp] theorem Out.wf_refused (r : Refusal) : Out.Wf (.refused r) := trivial

@[simp] theorem done_wf (s : State) : Out.Wf (done s) ↔ s.storage.Wf := by simp [done]

@[simp] theorem stall_wf (w : Wait) (s : State) : Out.Wf (stall w s) ↔ s.storage.Wf := by simp [stall]

theorem raise_storage {t : Trap} {s u : State} (h : raise t s = .next u) : u.storage = s.storage := by
  rcases raise_cases t s with ⟨-, -, -, hr⟩ | ⟨-, hr⟩ <;>
  · rw [h] at hr
    cases hr
    simp

@[simp] theorem raise_wf (t : Trap) (s : State) : Out.Wf (raise t s) ↔ s.storage.Wf := by
  obtain ⟨u, hu⟩ := raise_next t s
  rw [hu, Out.wf_next, raise_storage hu]

@[simp] theorem raiseWord_wf (c : Cause) (w : Insn) (s : State) : Out.Wf (raiseWord c w s) ↔ s.storage.Wf := raise_wf _ s
@[simp] theorem illegal_wf (w : Insn) (s : State) : Out.Wf (illegal w s) ↔ s.storage.Wf := raise_wf _ s
@[simp] theorem config_wf (w : Insn) (s : State) : Out.Wf (config w s) ↔ s.storage.Wf := raise_wf _ s

/-! ### Translations and page requests -/

@[simp] theorem State.storage_allSee (s : State) : s.allSee.storage = s.storage := rfl

@[simp] theorem State.storage_noteAts (s : State) (h : Hart) (page : Nat) : (s.noteAts h page).storage = s.storage := by
  unfold State.noteAts
  split
  · split <;> rfl
  · rfl

@[simp] theorem storage_cacheWalk (w : Who) (va : Word) (s : State) : (cacheWalk w va s).storage = s.storage := by
  simp only [cacheWalk]
  split
  · rfl
  · split
    · rfl
    · exact State.storage_modCore fun k => by split <;> rfl

@[simp] theorem storage_noteWalk (w : Who) (va : Word) (s : State) : (noteWalk w va s).storage = s.storage := by
  simp only [noteWalk]
  split
  · simp
  · split
    · split <;> simp
    · simp

@[simp] theorem State.storage_requestPage (s : State) (h : Hart) (a : Ask) : (s.requestPage h a).1.storage = s.storage := by
  simp only [State.requestPage]
  split
  · rfl
  · split <;> rfl

@[simp] theorem State.storage_askPage (s : State) (w : Who) (a : Ask) : (s.askPage w a).storage = s.storage := by
  unfold State.askPage; split <;> simp

@[simp] theorem State.storage_sendPage (s : State) (w : Who) (page : Option Ask) : (s.sendPage w page).storage = s.storage := by
  unfold State.sendPage; split <;> simp

@[simp] theorem raiseMem_wf (e : MemErr) (elem : Nat) (s : State) : Out.Wf (raiseMem e elem s) ↔ s.storage.Wf := by
  obtain ⟨u, hu⟩ := raise_next ⟨e.cause, e.addr, elem⟩ s
  simp only [raiseMem, hu]
  split <;> simp [raise_storage hu]

/-! ### Stores, the link, and what observers see -/

@[simp] theorem State.storage_queueStore (s : State) (u : Unit') (va : Word) (cs : List Host.Cell) :
    (s.queueStore u va cs).storage = s.storage := by
  cases cs <;> rfl

@[simp] theorem State.storage_modPort (s : State) (i : Nat) (f : Port → Port) : (s.modPort i f).storage = s.storage := rfl

@[simp] theorem State.storage_sendFlits (s : State) (n : Nat) : (s.sendFlits n).storage = s.storage := by
  unfold State.sendFlits; split <;> rfl

@[simp] theorem State.storage_linkTo (s : State) (key n : Nat) : (s.linkTo key n).storage = s.storage := by
  unfold State.linkTo; split <;> simp

@[simp] theorem State.storage_sawBytes (s : State) (w : Who) (ks : List Nat) : (s.sawBytes w ks).storage = s.storage := by
  unfold State.sawBytes; split <;> rfl

@[simp] theorem State.storage_fenceAt (s : State) (scope : Nat) : (s.fenceAt scope).storage = s.storage := by
  unfold State.fenceAt; split <;> rfl

/-! ### Writes -/

theorem Storage.Wf.mem {s : State} (h : s.storage.Wf) : Memory.wf s.mem = true := h.1

theorem Storage.Wf.scratch {s : State} (h : s.storage.Wf) (c : CoreId) : Memory.wf (s.core c).scratch = true := h.2 c

/-- An update of memory to another one of the one form, the cores unchanged. -/
theorem Storage.Wf.of_mem {s t : State} (h : s.storage.Wf) (hc : t.cores = s.cores) (hm : Memory.wf t.mem = true) :
    t.storage.Wf :=
  ⟨hm, fun c => by simpa only [State.storage, State.core, hc] using h.2 c⟩

@[simp] theorem State.wf_writeCells {s : State} (cs : List Host.Cell) (h : s.storage.Wf) : (s.writeCells cs).storage.Wf :=
  h.of_mem rfl (s.writeCells_wf cs h.mem)

@[simp] theorem State.wf_writeN {s : State} (key n v : Nat) (h : s.storage.Wf) : (s.writeN key n v).storage.Wf :=
  State.wf_writeCells _ h

@[simp] theorem State.wf_writeBy {s : State} (w : Who) (own : Option Unit') (sl : List Nat) (cs : List Host.Cell)
    (h : s.storage.Wf) : (s.writeBy w own sl cs).storage.Wf :=
  h.of_mem rfl (s.writeBy_wf w own sl cs h.mem)

@[simp] theorem State.wf_performStore {s : State} (t : PStore) (h : s.storage.Wf) : (s.performStore t).storage.Wf := by
  have hs (l : List PStore) : ({ s with stores := l } : State).storage.Wf := h
  simp only [State.performStore]
  split
  · simpa using hs _
  · split
    · exact State.wf_writeBy _ _ _ _ (by simpa using hs _)
    · exact State.wf_writeBy _ _ _ _ (hs _)

/-- A fold of steps that keep the one form keeps it. -/
theorem wf_foldl {β : Type} {f : State → β → State} (hf : ∀ s b, s.storage.Wf → (f s b).storage.Wf) (l : List β) {s : State}
    (h : s.storage.Wf) : (l.foldl f s).storage.Wf :=
  foldl_keeps (fun s : State => s.storage.Wf) f hf l s h

@[simp] theorem State.wf_fencedDone {s : State} (h : s.storage.Wf) : s.fencedDone.storage.Wf :=
  wf_foldl (fun _ t => State.wf_performStore t) _ h

@[simp] theorem State.wf_setScratchN {s : State} (w : Who) (l off n v : Nat) (h : s.storage.Wf) :
    (s.setScratchN w l off n v).storage.Wf := by
  refine ⟨?_, s.setScratchN_wf w l off n v h.scratch⟩
  have hm : (s.setScratchN w l off n v).mem = s.mem := by
    simp only [State.setScratchN]; split <;> rfl
  exact (congrArg (fun m => Memory.wf m = true) hm).mpr h.mem

end Sys2Proof.Machine
end

section
/-!
SUPPORT. The scalar members and the storage: arithmetic, loads and stores, branches, loops, queues, lane threads and system
registers (R59 to R86).
-/

namespace Sys2Proof.Machine

/-! ### Register transfers, loads and stores -/

@[simp] theorem writeX_wf (d : XReg) (v : Word) (s : State) : Out.Wf (writeX d v s) ↔ s.storage.Wf := by simp [writeX]

theorem scalarLoad_wf (size : Nat) (k : Nat → Word) (d : XReg) (va : Word) {s : State} (h : s.storage.Wf) :
    Out.Wf (scalarLoad size k d va s) := by
  unfold scalarLoad
  split
  · split
    · simpa using h
    · split <;> simpa using h
  · split
    · simpa using h
    · split_ifs
      · simpa [↓State.storage_update] using h
      · simpa using h
      · simpa using h
      · simpa using h

theorem scalarStore_wf (size : Nat) (v va : Word) {s : State} (h : s.storage.Wf) : Out.Wf (scalarStore size v va s) := by
  unfold scalarStore
  split
  · split
    · simpa using h
    · simpa using State.wf_setScratchN _ _ _ _ _ h
  · split
    · simpa using h
    · split_ifs
      · simpa [↓State.storage_update] using h
      · simpa using h
      · simpa using h

/-! ### Branches and loops -/

@[simp] theorem branchTo_wf (t : Word) (s : State) : Out.Wf (branchTo t s) ↔ s.storage.Wf := by
  unfold branchTo; split <;> simp

@[simp] theorem branchIf_wf (c : Bool) (o : BitVec 16) (s : State) : Out.Wf (branchIf c o s) ↔ s.storage.Wf := by
  unfold branchIf; split <;> simp

@[simp] theorem execJal_wf (o : BitVec 26) (s : State) : Out.Wf (execJal o s) ↔ s.storage.Wf := by simp [execJal]

@[simp] theorem execJalr_wf (d a : XReg) (i : BitVec 16) (s : State) : Out.Wf (execJalr d a i s) ↔ s.storage.Wf := by
  simp only [execJalr]; split <;> simp

@[simp] theorem raiseFailed_wf (w : WinNum) (t : Trap) (s : State) : Out.Wf (raiseFailed w t s) ↔ s.storage.Wf := by
  obtain ⟨u, hu⟩ := raise_next t s
  simp only [raiseFailed, hu]
  split <;> simp [raise_storage hu]

@[simp] theorem startLoop_wf (k : CtrNum) (n s0 : Word) (len : Nat) (s : State) :
    Out.Wf (startLoop k n s0 len s) ↔ s.storage.Wf := by
  have hc : (if (s.me.loop k).cnt == s0 then AdvRes.done s else setCounter k s0 s.me.pc false s).Keeps s.storage := by
    split
    · rfl
    · exact setCounter_keeps k s0 s.me.pc false s
  simp only [startLoop]
  split
  · simp
  · generalize (if (s.me.loop k).cnt == s0 then AdvRes.done s else setCounter k s0 s.me.pc false s) = r at hc
    cases r <;> simp_all

@[simp] theorem execLoopS_wf (c : CtrNum) (l : BitVec 16) (s : State) : Out.Wf (execLoopS c l s) ↔ s.storage.Wf := by
  unfold execLoopS; split <;> simp

/-! ### Queues and lane threads -/

@[simp] theorem execQput_wf (a : XReg) (s : State) : Out.Wf (execQput a s) ↔ s.storage.Wf := by
  unfold execQput; split_ifs <;> simp

@[simp] theorem execQget_wf (d : XReg) (s : State) : Out.Wf (execQget d s) ↔ s.storage.Wf := by
  unfold execQget; split <;> simp

@[simp] theorem State.storage_loadBufs (s : State) (w : Who) (bs : List Byte) : (s.loadBufs w bs).storage = s.storage := by
  simp only [State.loadBufs, State.storage_update]; simp

@[simp] theorem execLibld_wf (a b : XReg) (s : State) : Out.Wf (execLibld a b s) ↔ s.storage.Wf := by
  simp only [execLibld]
  split_ifs
  · simp
  · simp
  · split <;> simp

@[simp] theorem execLfork_wf (a : XReg) (s : State) : Out.Wf (execLfork a s) ↔ s.storage.Wf := by
  simp only [execLfork]; split_ifs <;> simp

@[simp] theorem execLjoin_wf (s : State) : Out.Wf (execLjoin s) ↔ s.storage.Wf := by
  unfold execLjoin
  split
  · simp
  · split_ifs <;> simp

@[simp] theorem execLexit_wf (s : State) : Out.Wf (execLexit s) ↔ s.storage.Wf := by
  unfold execLexit; split <;> simp

@[simp] theorem execLvget_wf (d a : XReg) (s : State) : Out.Wf (execLvget d a s) ↔ s.storage.Wf := by
  unfold execLvget; split <;> simp

@[simp] theorem execLvput_wf (a b : XReg) (s : State) : Out.Wf (execLvput a b s) ↔ s.storage.Wf := by
  unfold execLvput
  split
  · simp
  · simp only [done_wf, State.storage_update, State.storage_modMe]

/-! ### The Harness (R257 to R261) -/

/-- What runs as another hart leaves the storage where it does for any agent. -/
@[simp] theorem State.storage_asHart {f : State → State} (hf : ∀ t, (f t).storage = t.storage) (s : State) (w : Who) :
    (s.asHart w f).storage = s.storage := by
  simp only [State.asHart, State.storage_update, hf]

@[simp] theorem State.storage_pulse (s : State) (c : CoreId) (i : Nat) : (s.pulse c i).storage = s.storage :=
  State.storage_modCore fun _ => rfl

@[simp] theorem storage_releaseOn (c : CoreId) (stamp : Nat) (s : State) : (releaseOn c stamp s).storage = s.storage := by
  simp only [releaseOn, State.storage_update]; simp

@[simp] theorem storage_fireOutput (c : CoreId) (s : State) (o : BitVec 4) : (fireOutput c s o).storage = s.storage := by
  simp only [fireOutput]
  split
  · rfl
  · split_ifs
    · rfl
    · split <;> simp
    · split <;> simp

@[simp] theorem storage_harnessCycle (c : CoreId) (n : Nat) (s : State) : (harnessCycle c n s).storage = s.storage := by
  simp [harnessCycle]

@[simp] theorem storage_harnessCatchUp (c : CoreId) (s : State) : (harnessCatchUp c s).storage = s.storage := by
  simp [harnessCatchUp]

/-! ### System registers -/

@[simp] theorem State.storage_took (s : State) (r : Nat) : (s.took r).storage = s.storage := by
  unfold State.took; split_ifs <;> rfl

@[simp] theorem execMovs_wf (d : XReg) (r : BitVec 12) (s : State) : Out.Wf (execMovs d r s) ↔ s.storage.Wf := by
  simp only [execMovs]
  split
  · simp
  · split
    · simp
    · split_ifs <;> simp

@[simp] theorem storage_requestHard (s : State) : (requestHard s).storage = s.storage := s.storage_modMe _

@[simp] theorem storage_setReg (r : Nat) (v : Word) (s : State) : (setReg r v s).storage = s.storage := by
  simp [setReg]

@[simp] theorem Late.storage_act (l : Late) (s : State) : (l.act s).storage = s.storage := by
  cases l <;> simp [Late.act]

@[simp] theorem State.storage_later (s : State) (l : Late) : (s.later l).storage = s.storage := by
  simp only [State.later]; split <;> simp

@[simp] theorem storage_landLate (ls : List (Nat × Late)) (s : State) : (landLate ls s).storage = s.storage := by
  induction ls generalizing s with
  | nil => rfl
  | cons l ls ih =>
    unfold landLate
    split
    · rw [ih]; simp
    · rfl

@[simp] theorem execSets_wf (a : XReg) (r : BitVec 12) (s : State) : Out.Wf (execSets a r s) ↔ s.storage.Wf := by
  simp only [execSets]
  split_ifs
  any_goals simp
  have hc := setCounter_keeps (BitVec.ofNat 3 (r.toNat - 0x010)) (s.x a) s.me.pc false s
  cases hr : setCounter (BitVec.ofNat 3 (r.toNat - 0x010)) (s.x a) s.me.pc false s <;> simp_all

end Sys2Proof.Machine
end

section
/-!
SUPPORT. The members of the vector stream and the storage: what their issue and their later execution do is what their bodies do
(R20, R312), and the bodies of arithmetic, compares, reductions and permutes leave the storage (R102 to R116).
-/

namespace Sys2Proof.Machine

/-! ### Issue and execution -/

/-- The state that a body leaves, where it leaves one, has a well-formed storage. -/
def VRes.Wf : VRes → Prop
  | .done s => s.storage.Wf
  | .block => True
  | .trap _ s => s.storage.Wf
  | .squash _ s => s.storage.Wf
  | .wait _ _ s => s.storage.Wf

@[simp] theorem VRes.wf_done (s : State) : (VRes.done s).Wf ↔ s.storage.Wf := Iff.rfl
@[simp] theorem VRes.wf_block : VRes.block.Wf := trivial
@[simp] theorem VRes.wf_trap (t : Trap) (s : State) : (VRes.trap t s).Wf ↔ s.storage.Wf := Iff.rfl
@[simp] theorem VRes.wf_squash (t : Trap) (s : State) : (VRes.squash t s).Wf ↔ s.storage.Wf := Iff.rfl
@[simp] theorem VRes.wf_wait (cap : Capture) (held : Option (BitVec 4)) (s : State) :
    (VRes.wait cap held s).Wf ↔ s.storage.Wf := Iff.rfl

/-- A body keeps the one form. -/
def BodyWf (body : Capture → State → VRes) : Prop := ∀ cap s, s.storage.Wf → (body cap s).Wf

@[simp] theorem State.storage_enqueue (s : State) (w : Insn) (cap : Capture) (held : Option (BitVec 4)) (snap : ScalarSnap) :
    (s.enqueue w cap held snap).storage = s.storage := by
  simp only [State.enqueue, State.storage_update, State.storage_modMe]

@[simp] theorem State.storage_disarm (s : State) (w : Insn) : (s.disarm w).storage = s.storage := by
  unfold State.disarm; split <;> simp

@[simp] theorem storage_keepStart (e : Issued) (s s' : State) : (keepStart e s s').storage = s'.storage := s'.storage_modMe _

@[simp] theorem storage_streamTrap (t : Trap) (squash : Bool) (pc : Word) (s : State) :
    (streamTrap t squash pc s).storage = s.storage := by
  simp [streamTrap]

@[simp] theorem storage_noteBehind (s s' : State) : (noteBehind s s').storage = s'.storage := by
  unfold noteBehind; split <;> simp

theorem endReplay_wf (e : Issued) {s : State} (h : s.storage.Wf) {r : VRes} (hr : r.Wf) : (endReplay e s r).storage.Wf := by
  cases r with
  | done s' =>
    refine State.wf_fencedDone ?_
    simpa only [State.storage_update, storage_noteBehind] using (VRes.wf_done s').1 hr
  | block => exact h
  | trap t s' => exact State.wf_fencedDone (by simpa using hr)
  | squash t s' => exact State.wf_fencedDone (by simpa using hr)
  | wait cap held s' => 
    simpa only [endReplay, State.storage_update, State.storage_modMe, storage_noteBehind] using (VRes.wf_wait cap held s').1 hr

theorem paced_wf (w : Insn) {body : Capture → State → VRes} (hb : BodyWf body) (cap : Capture) {s : State} (h : s.storage.Wf)
    {r : VRes} (hr : r.Wf) : (paced w body cap s r).Wf := by
  unfold paced
  split
  · split
    · split
      · exact h
      · split
        · rename_i s' hs
          have hw : (VRes.done s').Wf := by rw [← hs]; exact hb _ s h
          simpa using hw
        · exact hr
    · exact hr
  · exact hr

/-- A vector member whose body keeps the one form keeps it: at its issue, and where the stream executes it. -/
theorem vissue_wf (w : Insn) (check : State → Option Cause) (caps : State → List Word) {body : Capture → State → VRes}
    (hb : BodyWf body) {s : State} (hs : s.storage.Wf) : Out.Wf (vissue w check caps body s) := by
  have h : s.fencedDone.storage.Wf := State.wf_fencedDone hs
  have hrun (c : Bool) (cap : Capture) (r : VRes) (hr : (if c then VRes.block else body cap s.fencedDone) = r) : r.Wf := by
    subst hr
    split
    · trivial
    · exact hb _ _ h
  simp only [vissue]
  split
  · refine endReplay_wf _ h ?_
    split
    · trivial
    · exact paced_wf w hb _ h (hb _ _ h)
  · split
    · simpa using h
    · split
      · split
        · rename_i hr; simpa using hrun _ _ _ hr
        · simpa using h
        · rename_i hr; simpa using hrun _ _ _ hr
        · rename_i hr; simpa using hrun _ _ _ hr
        · rename_i hr; simpa using hrun _ _ _ hr
      · split <;> simpa using h

/-! ### Marks of granules -/

@[simp] theorem State.storage_healWrites (s : State) (r regs w : Nat) (wr : Nat → Bool) :
    (s.healWrites r regs w wr).storage = s.storage := by
  unfold State.healWrites; split <;> rfl

@[simp] theorem State.storage_healVec (s : State) (cap : Capture) (h : Hart) (k : MReg) (r w : Nat) :
    (s.healVec cap h k r w).storage = s.storage := s.storage_healWrites _ _ _ _

@[simp] theorem State.storage_healUpTo (s : State) (cap : Capture) (h : Hart) (k : MReg) (r w e : Nat) :
    (s.healUpTo cap h k r w e).storage = s.storage := s.storage_healWrites _ _ _ _

@[simp] theorem State.storage_healMask (s : State) (m : MReg) (wr : Nat → Bool) : (s.healMask m wr).storage = s.storage := by
  unfold State.healMask; split <;> rfl

@[simp] theorem State.storage_healResults (s : State) (t : Word) (d w segs n : Nat) :
    (s.healResults t d w segs n).storage = s.storage := s.storage_healWrites _ _ _ _

/-! ### Elementwise members -/

@[simp] theorem vecBody_wf (rd : Hart → Nat → List Rd) (d w : Nat) (k : MReg) (f : Capture → Hart → Nat → Nat × Flags)
    (cap : Capture) (s : State) : (vecBody rd d w k f cap s).Wf ↔ s.storage.Wf := by
  simp only [vecBody]
  split
  · simp
  · split <;> simp

@[simp] theorem maskBody_wf (rd : Nat → List Rd) (m k : MReg) (f : Capture → Hart → Nat → Bool × Flags) (cap : Capture)
    (s : State) : (maskBody rd m k f cap s).Wf ↔ s.storage.Wf := by
  simp only [maskBody]
  split
  · simp
  · split <;> simp

section
variable {s : State} (h : s.storage.Wf)
include h

theorem intMember_wf (w : Insn) (f : Nat → Nat → Nat → Nat → Nat) (rd : Bool) (d a : VReg) (srcs : List Src)
    (b : Capture → Hart → Nat → Nat) (caps : State → List Word) (k : MReg) :
    Out.Wf (intMember w f rd d a srcs b caps k s) :=
  vissue_wf w _ caps (fun cap t => (vecBody_wf _ _ _ _ _ cap t).2) h

theorem carryMember_wf (w : Insn) (sub : Bool) (d a : VReg) (srcs : List Src) (b : Capture → Hart → Nat → Nat)
    (caps : State → List Word) (k : MReg) : Out.Wf (carryMember w sub d a srcs b caps k s) := by
  refine vissue_wf w _ caps (fun cap t ht => ?_) h
  split
  · exact ht
  · simp only; split <;> simpa using ht

theorem mergeMember_wf (w : Insn) (d a : VReg) (srcs : List Src) (b : Capture → Hart → Nat → Nat)
    (caps : State → List Word) (k : MReg) : Out.Wf (mergeMember w d a srcs b caps k s) :=
  vissue_wf w _ caps (fun cap t => (vecBody_wf _ _ _ _ _ cap t).2) h

theorem cmpMember_wf (w : Insn) (flt : Bool) (f : Nat → Nat → Nat → Bool × Flags) (d : MReg) (a b : VReg) (p : BitVec 3)
    (k : MReg) : Out.Wf (cmpMember w flt f d a b p k s) :=
  vissue_wf w _ _ (fun cap t => (maskBody_wf _ _ _ _ cap t).2) h

theorem fpMember_wf (w : Insn) (f : BitVec 3 → Nat → Nat → Nat → Nat → Nat × Flags) (rd : Bool) (d a : VReg)
    (srcs : List Src) (b : Capture → Hart → Nat → Nat) (caps : State → List Word) (k : MReg) :
    Out.Wf (fpMember w f rd d a srcs b caps k s) :=
  vissue_wf w _ caps (fun cap t => (vecBody_wf _ _ _ _ _ cap t).2) h

theorem convMember_wf (w : Insn) (sew srcW : Nat) (src dst : FFmt) (d a : VReg) (k : MReg) :
    Out.Wf (convMember w sew srcW src dst d a k s) :=
  vissue_wf w _ _ (fun cap t => (vecBody_wf _ _ _ _ _ cap t).2) h

/-! ### Reductions, counts and masks -/

omit h in
@[simp] theorem finishRed_wf (fl : Flags) (s : State) (t : Word) (d w segs : Nat) (rs : List Nat) :
    (finishRed fl s t d w segs rs).Wf ↔ s.storage.Wf := by
  simp only [finishRed]
  split <;> simp

theorem redMember_wf (w : Insn) (f : Nat → Nat → Nat → Nat → Nat) (d a b : VReg) (k : MReg) :
    Out.Wf (redMember w f d a b k s) := by
  refine vissue_wf w _ _ (fun cap t ht => ?_) h
  split
  · exact ht
  · split <;> simpa using ht

theorem fredMember_wf (w : Insn) (f : BitVec 3 → Nat → Nat → Nat → Nat → Nat × Flags) (d a b : VReg) (k : MReg) :
    Out.Wf (fredMember w f d a b k s) := by
  refine vissue_wf w _ _ (fun cap t ht => ?_) h
  split
  · exact ht
  · simpa using ht

omit h in
@[simp] theorem pushQ1_wf (v : Word) (s : State) (h : s.storage.Wf) : (pushQ1 v s).Wf := by
  unfold pushQ1
  split
  · trivial
  · simpa using h

omit h in
@[simp] theorem pushLq_wf (v : Word) (s : State) (h : s.storage.Wf) : (pushLq v s).Wf := by
  unfold pushLq
  split
  · trivial
  · simpa using h

theorem countMember_wf (w : Insn) (f : List Nat → Word) {push : Word → State → VRes}
    (hp : ∀ v t, t.storage.Wf → (push v t).Wf) (src k : MReg) : Out.Wf (countMember w f push src k s) := by
  refine vissue_wf w _ _ (fun cap t ht => ?_) h
  split
  · exact ht
  · exact hp _ _ ht

theorem iotaMember_wf (w : Insn) (f : Hart → Nat → Nat) (d : VReg) (rd : Nat → List Rd) (k : MReg) :
    Out.Wf (iotaMember w f d rd k s) :=
  vissue_wf w _ _ (fun cap t => (vecBody_wf _ _ _ _ _ cap t).2) h

theorem maskMember_wf (w : Insn) (f : Hart → Nat → Bool) (d : MReg) (rd : Nat → List Rd) :
    Out.Wf (maskMember w f d rd s) :=
  vissue_wf w _ _ (fun cap t => (maskBody_wf _ _ _ _ cap t).2) h

theorem execMfromv_wf (d : MReg) (a : VReg) (k : MReg) : Out.Wf (execMfromv d a k s) :=
  vissue_wf _ _ _ (fun cap t => (maskBody_wf _ _ _ _ cap t).2) h

/-! ### Permutes -/

omit h in
theorem permBody_wf (d a : VReg) (rd : Capture → Hart → Nat → List Rd) (k : MReg) (f : Capture → Hart → Nat → Pick) :
    BodyWf (permBody d a rd k f) := by
  intro cap t ht
  unfold permBody
  split <;> simpa using ht

theorem permMember_wf (w : Insn) (d a : VReg) (srcs : List VReg) (rd : Capture → Hart → Nat → List Rd)
    (caps : State → List Word) (k : MReg) (f : Capture → Hart → Nat → Pick) :
    Out.Wf (permMember w d a srcs rd caps k f s) :=
  vissue_wf w _ caps (permBody_wf d a rd k f) h

omit h in
theorem withQ0_wf (b : XReg) {body : Capture → State → VRes} (hb : BodyWf body) : BodyWf (withQ0 b body) := by
  intro cap t ht
  unfold withQ0
  split
  · exact hb cap t ht
  · split
    · trivial
    · split
      · exact ht
      · exact hb _ _ (by simpa using ht)

theorem execVslide1up_wf (d a : VReg) (b : XReg) (k : MReg) : Out.Wf (execVslide1up d a b k s) :=
  vissue_wf _ _ _ (withQ0_wf b (permBody_wf d a _ k _)) h

theorem execVslide1dn_wf (d a : VReg) (b : XReg) (k : MReg) : Out.Wf (execVslide1dn d a b k s) :=
  vissue_wf _ _ _ (withQ0_wf b (permBody_wf d a _ k _)) h

theorem execVcompress_wf (d a : VReg) (m : MReg) : Out.Wf (execVcompress d a m s) := by
  refine vissue_wf _ _ _ (fun cap t ht => ?_) h
  unfold compressBody
  split <;> simpa using ht

theorem execVmvxv_wf (d : VReg) (b : XReg) (k : MReg) : Out.Wf (execVmvxv d b k s) :=
  vissue_wf _ _ _ (withQ0_wf b fun cap t ht => by simpa using ht) h

theorem execVmvvx_wf (a : VReg) : Out.Wf (execVmvvx a s) := by
  refine vissue_wf _ _ _ (fun cap t ht => ?_) h
  split
  · exact ht
  · exact pushQ1_wf _ t ht

end

end Sys2Proof.Machine
end

section
/-!
SUPPORT. Windows and the storage: the deliveries and write-backs of the residency engine (R157 to R172), the WIN members
(R147 to R174), and WLD and WST (R166 to R169).
-/

namespace Sys2Proof.Machine

/-! ### Deliveries -/

@[simp] theorem State.storage_pulseOp (s : State) (w : Who) (e : Nat) : (s.pulseOp w e).storage = s.storage := by
  simp [State.pulseOp]

@[simp] theorem State.storage_linkVa (s : State) (w : Who) (va : Word) : (s.linkVa w va).storage = s.storage := by
  unfold State.linkVa; split <;> simp

@[simp] theorem storage_landPoint (w : Who) (i : WinNum) (s : State) (p : List Int) : (landPoint w i s p).storage = s.storage := by
  simp only [landPoint]
  split
  · simp
  · split
    · split <;> simp
    · simp

@[simp] theorem State.storage_healNear (s : State) (w : Who) (win : Window) (pts : List (List Int)) :
    (s.healNear w win pts).storage = s.storage := by
  unfold State.healNear; split <;> rfl

@[simp] theorem State.storage_closeRows (s : State) (w : WinNum) : (s.closeRows w).storage = s.storage := by
  simp [State.closeRows]

/-- What a member does once no write-back of its window has failed decides the storage. -/
theorem withFailed_wf (w : WinNum) {k : State → VRes} {s : State} (h : s.storage.Wf) (hk : (k s).Wf) : (withFailed w k s).Wf := by
  unfold withFailed
  split
  · simpa using h
  · exact hk

@[simp] theorem storage_startRelease (o : ReOp) (s : State) : (startRelease o s).storage = s.storage := by
  simp only [startRelease]
  split
  · simp
  · split
    · simp
    · split <;> simp

@[simp] theorem storage_reFinish (w : Who) (n : Nat) (s : State) : (reFinish w n s).storage = s.storage := by
  simp only [reFinish]
  split
  · rfl
  · split
    · split <;> simp
    · rfl

@[simp] theorem execSlabLanded_wf (who : Who) (num slab : Nat) (s : State) :
    Out.Wf (execSlabLanded who num slab s) ↔ s.storage.Wf := by
  simp only [execSlabLanded]
  split
  · simp
  · split
    · simp
    · split <;> simp

/-! ### Write-backs and rows of a stream window -/

@[simp] theorem State.storage_linkCells (s : State) (cs : List Host.Cell) : (s.linkCells cs).storage = s.storage := by
  simp only [State.linkCells]; split <;> simp

section
variable {s : State} (h : s.storage.Wf)
include h

@[simp] theorem State.wf_writeAs (w : Who) (cs : List Host.Cell) : (s.writeAs w cs).storage.Wf := State.wf_writeBy _ _ _ _ h

@[simp] theorem State.wf_writeBack (w : Who) (o : ReOp) (cs : List Host.Cell) : (s.writeBack w o cs).storage.Wf := by
  simp only [State.writeBack]
  split
  · exact State.wf_writeAs (by simpa using h) _ _
  · simpa using State.wf_writeAs h w cs

theorem execWritebackPerformed_wf (who : Who) (num : Nat) : Out.Wf (execWritebackPerformed who num s) := by
  simp only [execWritebackPerformed]
  split
  · exact h
  · split
    · exact h
    · split
      · simpa using h
      · split
        · split <;> simpa using h
        · split
          · split <;> simpa using h
          · simpa using State.wf_writeBack h _ _ _

omit h in
@[simp] theorem storage_rowLinks (w : Who) (win : Window) (b : Box) (r : List Int) (s : State) :
    (rowLinks w win b r s).storage = s.storage :=
  storage_foldl (fun s q => by simp only; split <;> simp) _ s

omit h in
@[simp] theorem execStreamRowEnter_wf (who : Who) (num : Nat) (s : State) :
    Out.Wf (execStreamRowEnter who num s) ↔ s.storage.Wf := by
  simp only [execStreamRowEnter]
  split
  · simp
  · split
    · simp
    · split
      · simp
      · split
        · simp
        · split
          · split <;> simp
          · simp

/-! ### The WIN members -/

omit h in
@[simp] theorem windowBind_wf (w : WinNum) (reason : Nat) (s : State) : (windowBind w reason s).Wf ↔ s.storage.Wf := Iff.rfl

omit h in
@[simp] theorem storage_pushWin (cap : Capture) (w : WinNum) (kind : ReKind) (out slabs : List Box) (save : Option Window) (s : State) :
    (pushWin cap w kind out slabs save s).storage = s.storage := by
  simp only [pushWin, State.storage_update, State.storage_modMe]

omit h in
@[simp] theorem State.storage_zeroNear (s : State) (w : Who) (u alloc : Nat) : (s.zeroNear w u alloc).storage = s.storage := by
  simp only [State.zeroNear]; split <;> rfl

omit h in
@[simp] theorem storage_holdRelease (cap : Capture) (w : WinNum) (kind : ReKind) (s : State) :
    (holdRelease cap w kind s).storage = s.storage := by
  simp [holdRelease]

theorem execWbind_wf (w : WinNum) (a : VReg) (b : XReg) : Out.Wf (execWbind w a b s) := by
  refine vissue_wf _ _ _ (fun cap t ht => ?_) h
  split
  · exact ht
  · simp only
    split <;> simpa using ht

theorem execWbindi_wf (i : StackNum) (w : WinNum) (a : VReg) (b : XReg) : Out.Wf (execWbindi i w a b s) := by
  refine vissue_wf _ _ _ (fun cap t ht => ?_) h
  split
  · exact ht
  · simp only
    split
    · exact ht
    · split_ifs
      · trivial
      · exact ht
      · exact ht
      · simpa using ht

theorem execWmode_wf (w : WinNum) (b : XReg) : Out.Wf (execWmode w b s) := by
  refine vissue_wf _ _ _ (fun cap t ht => ?_) h
  split <;> simpa using ht

theorem execWform_wf (w : WinNum) (a b : VReg) : Out.Wf (execWform w a b s) := by
  refine vissue_wf _ _ _ (fun cap t ht => ?_) h
  split
  · exact ht
  · simp only
    split <;> simpa using ht

theorem execWopen_wf (w : WinNum) : Out.Wf (execWopen w s) := by
  refine vissue_wf _ _ _ (fun cap t ht => ?_) h
  split
  · exact ht
  · split
    · trivial
    · split
      · trivial
      · simpa using ht

theorem execWflush_wf (w : WinNum) : Out.Wf (execWflush w s) := by
  refine vissue_wf _ _ _ (fun cap t ht => ?_) h
  simp only
  split_ifs
  · simpa using ht
  · simpa using ht
  · refine withFailed_wf w ht ?_
    split <;> simpa using ht

theorem execWclose_wf (w : WinNum) : Out.Wf (execWclose w s) := by
  refine vissue_wf _ _ _ (fun cap t ht => ?_) h
  simp only
  split_ifs
  · simpa using ht
  · exact withFailed_wf w ht (by simpa using ht)
  · simpa using ht
  · refine withFailed_wf w ht ?_
    split
    · trivial
    · simpa using ht

theorem execWdrop_wf (w : WinNum) : Out.Wf (execWdrop w s) := by
  refine vissue_wf _ _ _ (fun cap t ht => ?_) h
  split_ifs
  · simpa using ht
  · simpa using ht
  · trivial
  · simpa using ht

theorem execWstat_wf (w : WinNum) : Out.Wf (execWstat w s) :=
  vissue_wf _ _ _ (fun _ t ht => pushQ1_wf _ t ht) h

/-! ### WLD and WST -/

omit h in
@[simp] theorem storage_raiseTag (w : WinNum) (pc : Word) (p : List Int) (s : State) : (raiseTag w pc p s).storage = s.storage :=
  s.storage_modMe _

omit h in
@[simp] theorem storage_storeTo (win : Window) (w : WinNum) (cap : Capture) (d : Nat) (accs : List WAcc) (stop : Nat) (s : State) :
    (storeTo win w cap d accs stop s).storage = s.storage := by
  simp [storeTo]

omit h in
theorem winBody_wf (store : Bool) (word : Insn) (d : VReg) (w : WinNum) (m : WMode) (i : VReg) (k : MReg) :
    BodyWf (winBody store word d w m i k) := by
  intro cap t ht
  have below (win : Window) (accs : List WAcc) (e : Nat) (u : State) : (if store then storeTo win w cap d.toNat accs e u
      else (List.range m.fields).foldl (fun x f => x.healUpTo cap u.me k (d.toNat + f * cap.lmul) cap.sew e)
        (u.modMe (loadTo win w cap d.toNat m.fields k accs e))).storage = u.storage := by
    split <;> simp
  simp only [winBody]
  split
  · exact ht
  · split
    · trivial
    · split
      · trivial
      · split
        · exact ht
        · simpa using ht
        · simpa [below] using ht
        · split
          · rename_i u a _
            cases a with
            | some a => split <;> simpa [below] using ht
            | none => split <;> simpa [below] using ht
          · split <;> simpa [below] using ht

theorem winMember_wf (store : Bool) (word : Insn) (d : VReg) (w : WinNum) (m : WMode) (xo : BitVec 5) (k : MReg) :
    Out.Wf (winMember store word d w m xo k s) :=
  vissue_wf word _ _ (winBody_wf store word d w m xo k) h

end

end Sys2Proof.Machine
end

section
/-!
SUPPORT. Vector loads and stores, the lane scratch and generic atomics, and the storage (R117 to R132).
-/

namespace Sys2Proof.Machine

/-! ### VLD and VST -/

@[simp] theorem memTrap_wf (err : MemErr) (e : Nat) (s : State) : (memTrap err e s).Wf ↔ s.storage.Wf := by simp [memTrap]

@[simp] theorem storage_linkAll (accs : List VAcc) (s : State) : (linkAll accs s).storage = s.storage := by simp [linkAll]

@[simp] theorem storage_noteAll (accs : List VAcc) (s : State) : (noteAll accs s).storage = s.storage :=
  storage_foldl (fun s a => by split <;> simp) accs s

@[simp] theorem loadData_wf (cap : Capture) (fc d n : Nat) (k : MReg) (vl : Nat) (accs : List VAcc) (s : State) :
    (loadData cap fc d n k vl accs s).Wf ↔ s.storage.Wf := by
  simp only [loadData]
  split
  · split <;> simp
  · simp

theorem vldBody_wf (d : VReg) (m : VMode) (fc : Nat) (k : MReg) : BodyWf (vldBody d m fc k) := by
  intro cap t ht
  simp only [vldBody]
  split <;> simpa using ht

@[simp] theorem storage_truncateVl (cap : Capture) (vl : Nat) (s : State) : (truncateVl cap vl s).storage = s.storage :=
  s.storage_modMe _

theorem vldFfBody_wf (d : VReg) (fc : Nat) (k : MReg) : BodyWf (vldFfBody d fc k) := by
  intro cap t ht
  have hl (vl : Nat) (accs : List VAcc) : (loadData cap fc d.toNat 1 k vl accs t).Wf := (loadData_wf ..).2 ht
  simp only [vldFfBody]
  split
  · exact hl _ _
  · rename_i err e _
    generalize (if fmtScaled fc then e - e % fmtBlock fc else e) = vl
    split
    · simpa using ht
    · have hw := hl vl ((addressPhase t .load .ff fc (cap.xs.getD 0 0) 0 (activeOf cap t.me k)).1.filter (fun a => a.e < vl))
      split
      · rename_i s' hs
        rw [hs] at hw
        simpa using hw
      · exact hw

@[simp] theorem State.storage_yields (s : State) (gs : List GStore) : (s.yields gs).storage = s.storage := rfl

@[simp] theorem storage_queueAll (gs : List GStore) (s : State) : (queueAll gs s).storage = s.storage := by simp [queueAll]

theorem vstBody_wf (d : VReg) (m : VMode) (fc : Nat) (k : MReg) : BodyWf (vstBody d m fc k) := by
  intro cap t ht
  simp only [vstBody]
  split
  · exact ht
  · split
    · simpa using ht
    · exact ht
    · simpa using ht

/-! ### The lane scratch -/

/-- The loop over the lane scratch keeps the one form where the step of each element does. -/
theorem scratchLoop_wf (size : Nat) (srcs : List (Nat × Nat)) (d : Option VReg) (i : VReg) (k : MReg)
    {f : Capture → Nat → Nat → State → State} (hf : ∀ c e a t, t.storage.Wf → (f c e a t).storage.Wf) (cap : Capture)
    {s : State} (h : s.storage.Wf) : (scratchLoop size srcs d i k f cap s).Wf := by
  simp only [scratchLoop]
  split
  · exact h
  · exact h
  · cases d with
    | some r => simpa using wf_foldl (fun t e => hf cap e (scratchOff cap i t.me e) t) _ (by simpa using h)
    | none => simpa using wf_foldl (fun t e => hf cap e (scratchOff cap i t.me e) t) _ h

theorem vldScratch_wf (d i : VReg) (fc : Nat) (k : MReg) : BodyWf (vldScratch d i fc k) := by
  intro cap t ht
  simp only [vldScratch]
  split
  · exact scratchLoop_wf _ _ _ _ _ (fun _ _ _ u hu => by simpa using hu) _ ht
  · split
    · exact ht
    · exact ht
    · split
      · rename_i s' hs
        have hw : (VRes.done s').Wf := by
          rw [← hs]
          exact scratchLoop_wf _ _ _ _ _ (fun _ _ _ u hu => by simpa using hu) _ ht
        simpa using hw
      · exact scratchLoop_wf _ _ _ _ _ (fun _ _ _ u hu => by simpa using hu) _ ht

@[simp] theorem State.storage_setLock (s : State) (l a : Nat) (v : Bool) : (s.setLock l a v).storage = s.storage := by
  simp [State.setLock]

section
variable {s : State} (h : s.storage.Wf)
include h

theorem vldMember_wf (w : Insn) (d : VReg) (m : VMode) (fc : BitVec 5) (k : MReg) (caps : State → List Word) :
    Out.Wf (vldMember w d m fc k caps s) :=
  vissue_wf w _ caps (vldBody_wf d m fc.toNat k) h

theorem vstMember_wf (w : Insn) (d : VReg) (m : VMode) (fc : BitVec 5) (k : MReg) (caps : State → List Word) :
    Out.Wf (vstMember w d m fc k caps s) :=
  vissue_wf w _ caps (vstBody_wf d m fc.toNat k) h

theorem execVldFf_wf (d : VReg) (b : XReg) (k : MReg) (f : BitVec 5) : Out.Wf (execVldFf d b k f s) :=
  vissue_wf _ _ _ (vldFfBody_wf d f.toNat k) h

theorem execVldI_wf (d : VReg) (b : XReg) (i : VReg) (k : MReg) (f : BitVec 5) : Out.Wf (execVldI d b i k f s) :=
  vissue_wf _ _ _ (vldScratch_wf d i f.toNat k) h

theorem execVstI_wf (d : VReg) (b : XReg) (i : VReg) (k : MReg) (f : BitVec 5) : Out.Wf (execVstI d b i k f s) :=
  vissue_wf _ _ _ (fun _ _ => scratchLoop_wf _ _ _ _ _ (fun _ _ _ _ => State.wf_setScratchN _ _ _ _ _) _) h

theorem samoMember_wf (w : Insn) (f : Nat → Nat → Nat → Nat → Nat) (d : VReg) (b : XReg) (i : VReg) (k : MReg) :
    Out.Wf (samoMember w f d b i k s) :=
  vissue_wf w _ _ (fun _ _ => scratchLoop_wf _ _ _ _ _
    (fun _ _ _ _ hu => by simpa using State.wf_setScratchN _ _ _ _ _ hu) _) h

theorem execVsldl_wf (d : VReg) (b : XReg) (i : VReg) (k : MReg) : Out.Wf (execVsldl d b i k s) := by
  refine vissue_wf _ _ _ (fun _ _ => scratchLoop_wf _ _ _ _ _ (fun _ _ _ _ hu => ?_) _) h
  simp only
  split <;> simpa using hu

theorem execVsstu_wf (d : VReg) (b : XReg) (i : VReg) (k : MReg) : Out.Wf (execVsstu d b i k s) :=
  vissue_wf _ _ _ (fun _ _ => scratchLoop_wf _ _ _ _ _
    (fun _ _ _ _ hu => by simpa using State.wf_setScratchN _ _ _ _ _ hu) _) h

/-! ### Generic atomics -/

@[simp] theorem wf_performSlice (w : Who) (u : Unit') (slice : Nat) : (performSlice w u slice s).storage.Wf :=
  wf_foldl (fun _ t => State.wf_performStore t) _ h

@[simp] theorem wf_atomicStep (u : Unit') (w key : Nat) (f : Nat → Nat) : (atomicStep u w key f s).2.storage.Wf :=
  State.wf_writeN _ _ _ (by simpa using wf_performSlice h _ _ _)

theorem amoMember_wf (onHost : Bool) (f : Nat → Nat → Nat → Nat → Nat) (d a b : XReg) (wd : BitVec 1) :
    Out.Wf (amoMember onHost f d a b wd s) := by
  simp only [amoMember]
  generalize (if wd == 0 then 32 else 64) = w
  split
  · simpa using h
  · split
    · simpa using h
    · split
      · simpa using h
      · simpa using wf_atomicStep (by simpa using h) _ _ _ _

omit h in
theorem vamoBody_wf (onHost : Bool) (f : Nat → Nat → Nat → Nat → Nat) (d a b : VReg) (k : MReg) :
    BodyWf (vamoBody onHost f d a b k) := by
  intro cap t ht
  simp only [vamoBody]
  split
  · simpa using ht
  · exact ht
  · split
    · exact ht
    · simp only [VRes.wf_done, State.storage_healVec, State.storage_modMe]
      exact wf_foldl (fun u q hu => by simpa using wf_atomicStep hu _ _ _ _) _ (by simpa using ht)

theorem vamoMember_wf (w : Insn) (onHost : Bool) (f : Nat → Nat → Nat → Nat → Nat) (d a b : VReg) (k : MReg) :
    Out.Wf (vamoMember w onHost f d a b k s) :=
  vissue_wf w _ _ (vamoBody_wf onHost f d a b k) h

end

end Sys2Proof.Machine
end

section
/-!
SUPPORT. Iterator stacks and pulls (R179 to R200), synchronisation (R248 to R264), and the vector configuration with LPART, GANG
and UNGANG (R90 to R96), and the storage.
-/

namespace Sys2Proof.Machine

/-! ### Pulls -/

theorem deferredTrap_wf (i : StackNum) (t : Trap) (pos : Nat) {s : State} (h : s.storage.Wf) : (deferredTrap i t pos s).Wf := by
  simp only [deferredTrap, VRes.wf_trap]
  split
  · split <;> simpa using h
  · simpa using h

@[simp] theorem storage_finishInext (i : StackNum) (p : Pull) (s : State) : (finishInext i p s).storage = s.storage := by
  simp [finishInext]

@[simp] theorem storage_countWnext (p : Pull) (s : State) : (countWnext p s).storage = s.storage := by simp [countWnext]

@[simp] theorem storage_itRun (w : Who) (o : ItOp) (s : State) : (itRun w o s).storage = s.storage := by simp [itRun]

theorem pullStep_storage {s t : State} (h : pullStep s = some t) : t.storage = s.storage := by
  simp only [pullStep] at h
  split at h
  · cases h; simp
  · split at h
    · cases h
    · split at h
      · cases h
      · split at h
        · split at h <;> cases h
          simp
        · cases h; simp
        · cases h

@[simp] theorem storage_itDrain (w : Who) (n : Nat) (s : State) : (itDrain w n s).storage = s.storage := by
  induction n generalizing s with
  | zero => rfl
  | succ n ih =>
    simp only [itDrain]
    split
    · rw [ih]; simp
    · split
      · rename_i t ht
        rw [ih, State.storage_update, pullStep_storage ht]
        rfl
      · rfl

@[simp] theorem storage_leaveAsPull (word : Insn) (cap : Capture) (i : StackNum) (win : Option WinNum) (es : Option (List IElem))
    (s : State) : (leaveAsPull word cap i win es s).storage = s.storage := by
  simp only [leaveAsPull, storage_itDrain, State.storage_update, State.storage_modMe]

theorem pullFault_wf (i : StackNum) (win : Option WinNum) (t : Trap) (pos : Nat) {s : State} (h : s.storage.Wf) :
    (pullFault i win t pos s).Wf := by
  unfold pullFault
  refine deferredTrap_wf i t pos ?_
  split
  · exact h
  · simpa using h

theorem startPull_wf (word : Insn) (i : StackNum) (win : Option WinNum) (cap : Capture) {s : State} (h : s.storage.Wf) :
    (startPull word i win cap s).Wf := by
  simp only [startPull]
  split
  · simpa using h
  · split
    · simpa using h
    · split
      · simpa using h
      · exact pullFault_wf i win _ _ (by simpa using h)
    · simpa using h

theorem inextBody_wf (word : Insn) (i : StackNum) (d : VReg) : BodyWf (inextBody word i d) := by
  intro cap t ht
  simp only [inextBody]
  split
  · exact ht
  · split
    · exact ht
    · generalize hu : (if cap.num.isNone then t.modMe (fun h => { h with tlit := h.tlit + 1 }) else t) = u
      have huw : u.storage.Wf := by rw [← hu]; simpa using ht
      have hw := startPull_wf word i none { cap with num := some (cap.num.getD u.me.tlit.toNat) } huw
      split
      · rename_i t' hs
        rw [hs] at hw
        simpa using hw
      · exact hw

theorem wnextBody_wf (word : Insn) (w : WinNum) : BodyWf (wnextBody word w) := by
  intro cap t ht
  simp only [wnextBody]
  split
  · simpa using ht
  · split
    · trivial
    · exact startPull_wf _ _ _ _ (by simpa using ht)

@[simp] theorem storage_itIssue (cap : Capture) (i : StackNum) (enough : Bool) (s : State) :
    (itIssue cap i enough s).storage = s.storage := by
  simp only [itIssue, storage_itDrain, State.storage_update, State.storage_modMe]

theorem wf_formPull (p : Pull) (i : StackNum) {s : State} (h : s.storage.Wf) : (formPull p i s).storage.Wf := by
  simp only [formPull]
  split
  · simpa using h
  · simpa using h
  · split
    · simpa using h
    · have hw (t : State) (ht : t.storage = s.storage) : ({ t with replay := some p.entry } : State).storage.Wf := ht ▸ h
      exact endReplay_wf _ (hw _ (by simp)) (pullFault_wf _ _ _ _ (hw _ (by simp)))

/-- What runs as another hart keeps the one form where it does for any agent. -/
theorem State.wf_asHart {f : State → State} (hf : ∀ t, t.storage.Wf → (f t).storage.Wf) {s : State} (w : Who) (h : s.storage.Wf) :
    (s.asHart w f).storage.Wf := by
  simpa only [State.asHart, State.storage_update] using hf { s with agent := ⟨w, none⟩, replay := none } h

/-! ### The ITR members -/

section
variable {s : State} (h : s.storage.Wf)
include h

theorem execInext_wf (i : StackNum) (d : VReg) : Out.Wf (execInext i d s) :=
  vissue_wf _ _ _ (inextBody_wf _ i d) h

theorem execWnext_wf (w : WinNum) : Out.Wf (execWnext w s) := by
  unfold execWnext
  exact vissue_wf _ _ _ (wnextBody_wf _ w) h

theorem buildMember_wf (w : Insn) (caps : State → List Word) (i : StackNum) (reason : Capture → Hart → Option Nat)
    (f : Capture → Hart → Hart) : Out.Wf (buildMember w caps i reason f s) := by
  refine vissue_wf w _ caps (fun cap t ht => ?_) h
  split
  · trivial
  · split <;> simpa using ht

theorem joinMember_wf (w : Insn) (i j : StackNum) (reason : Hart → Option Nat) (f : Hart → Hart) :
    Out.Wf (joinMember w i j reason f s) := by
  refine vissue_wf w _ _ (fun cap t ht => ?_) h
  split
  · trivial
  · split <;> simpa using ht

theorem execIseal_wf (i : StackNum) : Out.Wf (execIseal i s) := by
  refine vissue_wf _ _ _ (fun cap t ht => ?_) h
  simp only
  split_ifs
  · trivial
  · exact ht
  · exact ht
  · simpa using ht

theorem execIenough_wf (i : StackNum) : Out.Wf (execIenough i s) := by
  refine vissue_wf _ _ _ (fun cap t ht => ?_) h
  split <;> simpa using ht

theorem execIstat_wf (i : StackNum) : Out.Wf (execIstat i s) := by
  refine vissue_wf _ _ _ (fun cap t ht => ?_) h
  split
  · trivial
  · exact pushQ1_wf _ t ht

theorem execIteratorTableRead_wf (who : Who) (stack : StackNum) : Out.Wf (execIteratorTableRead who stack s) := by
  have hd : (itDrain who 64 s).storage.Wf := by simpa using h
  simp only [execIteratorTableRead]
  split
  · split
    · simpa using State.wf_asHart (fun t => wf_formPull _ stack) who hd
    · exact hd
  · split <;> simpa using h

/-! ### Fences and barriers -/

@[simp] theorem wf_drainHart (w : Who) : (drainHart w s).storage.Wf := wf_foldl (fun _ t => State.wf_performStore t) _ h

theorem execAccessPerformed_wf (who : Who) (access : Nat) : Out.Wf (execAccessPerformed who access s) := by
  unfold execAccessPerformed
  split
  · split
    · exact State.wf_performStore _ h
    · exact h
  · exact h

theorem released_wf {k : State → Out} (hk : Out.Wf (k s)) : Out.Wf (released k s) := by
  unfold released
  split
  · split <;> simpa using h
  · exact hk

theorem execFence_wf : Out.Wf (execFence s) := by
  simp only [execFence]
  split
  · simp only [done_wf, State.storage_fenceAt]
    exact State.wf_fencedDone h
  · split
    · have hm : ((s.scalarStores s.who).foldl (fun s t => s.performStore t) s).storage.Wf :=
        wf_foldl (fun _ t => State.wf_performStore t) _ h
      exact released_wf hm (by simpa using hm)
    · simpa using h

theorem vecFence_wf {k : State → Out} (hk : ∀ t, t.storage.Wf → Out.Wf (k t)) : Out.Wf (vecFence k s) := by
  unfold vecFence
  split
  · exact released_wf (wf_drainHart h _) (hk _ (wf_drainHart h _))
  · simpa using h

theorem fullFence_wf {k : State → Out} (hk : ∀ t, t.storage.Wf → Out.Wf (k t)) : Out.Wf (fullFence k s) :=
  vecFence_wf h fun t => hk t.allSee

theorem execVfence_wf : Out.Wf (execVfence s) := vecFence_wf h fun t ht => by simpa using ht

theorem execLsync_wf : Out.Wf (execLsync s) := vecFence_wf h fun t ht => by simpa using ht

theorem execBarrive_wf (a : XReg) : Out.Wf (execBarrive a s) := by
  unfold execBarrive
  split
  · simpa using h
  · refine fullFence_wf h fun t ht => ?_
    split
    · simpa using ht
    · simpa using State.wf_writeN _ _ _ (by simpa using ht)

omit h in
theorem bwaitRead_wf {va : Word} {t : BitVec 32} {p : Phys} {s u : State} (h : s.storage.Wf) (hu : bwaitRead va t p s = some u) :
    u.storage.Wf := by
  unfold bwaitRead at hu
  split at hu
  · cases hu
    simpa using wf_drainHart (by simpa using h) _
  · cases hu

theorem execBwait_wf (a b : XReg) : Out.Wf (execBwait a b s) := by
  simp only [execBwait]
  split
  · simpa using h
  · split
    · simpa using h
    · split
      · simpa using h
      · split
        · rename_i u hu
          exact bwaitRead_wf h hu
        · simpa using h

omit h in
@[simp] theorem execBinit_wf (a b : XReg) (s : State) : Out.Wf (execBinit a b s) ↔ s.storage.Wf := by
  unfold execBinit
  split <;> simp

theorem execBwaitReturn_wf (who : Who) : Out.Wf (execBwaitReturn who s) := by
  unfold execBwaitReturn
  split
  · refine State.wf_asHart (fun t ht => ?_) who h
    split
    · cases hu : bwaitRead _ _ _ t with
      | some u => exact bwaitRead_wf ht hu
      | none => exact ht
    · exact ht
  · exact h

omit h in
@[simp] theorem execTlwait_wf (e : BitVec 5) (a : XReg) (s : State) : Out.Wf (execTlwait e a s) ↔ s.storage.Wf := by
  simp only [execTlwait]
  split
  · simp
  · split <;> simp

/-! ### The Harness members -/

omit h in
@[simp] theorem storage_bindHarness (s : State) : (bindHarness s).storage = s.storage := s.storage_modMe _

omit h in
@[simp] theorem execHevt_wf (a : XReg) (s : State) : Out.Wf (execHevt a s) ↔ s.storage.Wf := by
  unfold execHevt; split <;> simp

omit h in
@[simp] theorem execHwait_wf (a : XReg) (s : State) : Out.Wf (execHwait a s) ↔ s.storage.Wf := by
  unfold execHwait; split_ifs <;> simp

omit h in
@[simp] theorem execHarm_wf (a : XReg) (s : State) : Out.Wf (execHarm a s) ↔ s.storage.Wf := by
  unfold execHarm; split <;> simp

omit h in
@[simp] theorem execHarnessCycle_wf (tick : HarnessTick) (s : State) : Out.Wf (execHarnessCycle tick s) ↔ s.storage.Wf := by
  simp [execHarnessCycle]

/-! ### Relay and the length (R92, R93) -/

/-- The update of the scratch of one core to another one of the one form. -/
theorem State.wf_modCore {c : CoreId} {f : Core → Core} (hf : ∀ k, Memory.wf k.scratch = true → Memory.wf (f k).scratch = true) :
    (s.modCore c f).storage.Wf := by
  refine ⟨h.mem, fun d => ?_⟩
  by_cases hd : d = c
  · subst hd
    simpa [State.storage, State.modCore] using hf _ (h.scratch d)
  · simpa [State.storage, State.modCore, State.core_setCore_ne _ _ _ _ hd] using h.scratch d

@[simp] theorem wf_clearScratch (c : CoreId) (lanes : List Nat) : (clearScratch c lanes s).storage.Wf := by
  simp only [clearScratch, State.storage_update]
  exact State.wf_modCore h fun k => Memory.filter_wf _

omit h in
@[simp] theorem storage_clearLocks (c : CoreId) (lanes : List Nat) (s : State) : (clearLocks c lanes s).storage = s.storage :=
  State.storage_modCore fun _ => rfl

omit h in
@[simp] theorem storage_relayWindow (w : WinNum) (s : State) : (relayWindow w s).storage = s.storage := by
  simp only [relayWindow]
  split
  · rfl
  · split
    · simp
    · split <;> simp

@[simp] theorem wf_relay (g : Nat) : (relay g s).storage.Wf := by
  simp only [relay, storage_foldl (fun s w => storage_relayWindow w s), State.storage_update,
    State.storage_modMe, storage_clearLocks]
  exact wf_clearScratch h _ _

theorem setLength_wf (d : XReg) (avl req : Word) : Out.Wf (setLength d avl req s) := by
  simp only [setLength]
  split
  · simpa using h
  · split
    · simpa using h
    · split
      · simpa using wf_relay h _
      · simpa using h

theorem execVsetvlq_wf (d : XReg) : Out.Wf (execVsetvlq d s) := by
  unfold execVsetvlq
  split
  · simpa using h
  · rename_i n q _
    have hm : (s.modMe (fun h => { h with lq := q })).storage.Wf := by simpa using h
    have hw := setLength_wf hm d n
      (if s.me.vill then villType else s.me.vtype)
    split
    · rename_i u hu
      rw [hu] at hw
      split
      · simpa using h
      · exact hw
    · exact hw

/-! ### Closing windows and stacks (R74) -/

omit h in
@[simp] theorem storage_closeWin (s : State) (w : WinNum) : (closeWin s w).storage = s.storage := by
  simp [closeWin]

omit h in
@[simp] theorem storage_endOne (s : State) (i : StackNum) : (endOne s i).storage = s.storage := by simp [endOne]

/-- Quieting a hart leaves the storage d. -/
def Quiesce.Keeps (d : Storage) : Quiesce → Prop
  | .wait _ s => s.storage = d
  | .fail _ _ => True
  | .done s => s.storage = d

omit h in
theorem quiesce_keeps (fin : Wait) (s : State) : (quiesce fin s).Keeps s.storage := by
  unfold quiesce
  split
  · rfl
  · split
    · trivial
    · split
      · rfl
      · have hs : (allStacks.foldl endOne (allWins.foldl closeWin s)).storage = s.storage :=
          (storage_foldl storage_endOne _ _).trans (storage_foldl storage_closeWin _ _)
        revert hs
        generalize allStacks.foldl endOne (allWins.foldl closeWin s) = u
        intro hs
        dsimp only
        split <;> exact hs

theorem whenQuiet_wf (fin : Wait) {k : State → Out} (hk : ∀ t, t.storage.Wf → Out.Wf (k t)) : Out.Wf (whenQuiet fin k s) := by
  have hq := quiesce_keeps fin s
  unfold whenQuiet
  split
  · rename_i w u hu
    rw [hu, Quiesce.Keeps] at hq
    simpa [hq] using h
  · simpa using h
  · rename_i u hu
    rw [hu, Quiesce.Keeps] at hq
    exact fullFence_wf (hq ▸ h) hk

/-! ### LPART, GANG and UNGANG -/

@[simp] theorem wf_quietOthers : (quietOthers s).1.storage.Wf := by
  refine foldl_keeps (fun r : State × Bool => r.1.storage.Wf) _ (fun r k hr => ?_) _ _ h
  split
  · exact hr
  · refine State.wf_asHart (fun t ht => ?_) _ hr
    have hq := quiesce_keeps .finish t
    split
    · rename_i u hu
      rw [hu, Quiesce.Keeps] at hq
      exact hq ▸ ht
    · simpa using ht
    · rename_i u hu
      rw [hu, Quiesce.Keeps] at hq
      exact wf_drainHart (hq ▸ ht) _

theorem execLpart_wf (a : XReg) : Out.Wf (execLpart a s) := by
  simp only [execLpart]
  split
  · simpa using h
  · refine fullFence_wf h fun t ht => ?_
    split
    · simpa using ht
    · refine whenQuiet_wf ht _ fun u hu => ?_
      split
      · simpa using wf_quietOthers hu
      · simpa using wf_clearScratch (wf_quietOthers hu) _ _

theorem execGang_wf (a : XReg) : Out.Wf (execGang a s) := by
  simp only [execGang]
  split
  · simpa using h
  · exact whenQuiet_wf h _ fun t ht => by simpa using ht

omit h in
@[simp] theorem execGangFormed_wf (base : CoreId) (s : State) : Out.Wf (execGangFormed base s) ↔ s.storage.Wf := by
  unfold execGangFormed
  split
  · simp only
    split <;> simp
  · simp

omit h in
@[simp] theorem storage_resumeMember (s : State) (c : CoreId) : (resumeMember s c).storage = s.storage := by
  simp only [resumeMember, State.storage_ite, State.storage_asHart storage_finish, State.storage_modHart, ite_self]

theorem execUngang_wf : Out.Wf (execUngang s) := by
  unfold execUngang
  split
  · simpa using h
  · exact whenQuiet_wf h _ fun t ht => by simpa using ht

end

end Sys2Proof.Machine
end

section
/-!
SUPPORT. The matrix unit and the storage (R201 to R218): planes, rows and marks are no part of it.
-/

namespace Sys2Proof.Machine

/-! ### Issue of the MTX members -/

@[simp] theorem storage_claimMatrix (s : State) : (claimMatrix s).storage = s.storage := by
  simp only [claimMatrix]
  split
  · simp
  · split
    · simp
    · simp [↓State.storage_update]

@[simp] theorem storage_mxIssue (cap : Capture) (op : MxOp) (s : State) : (mxIssue cap op s).storage = s.storage := by
  simp [mxIssue, ↓State.storage_update]

/-- What a member does once its gates are passed decides the storage. -/
theorem mtxBody_wf (w : Insn) {k : State → VRes} {s : State} (h : s.storage.Wf) (hk : (k s).Wf) : (mtxBody w k s).Wf := by
  unfold mtxBody
  split
  · exact h
  · split
    · trivial
    · exact hk

theorem rowSource_wf (r : VReg) (m : Option MReg) (cap : Capture) {k : State → VRes} {s : State} (h : s.storage.Wf)
    (hk : (k s).Wf) : (rowSource r m cap k s).Wf := by
  unfold rowSource
  split
  · trivial
  · split
    · exact h
    · exact hk

theorem windowFirst_wf (w : Insn) (ok : State → Bool) {k : State → VRes} {s : State} (h : s.storage.Wf) (hk : (k s).Wf) :
    (windowFirst w ok k s).Wf := by
  unfold windowFirst
  split
  · exact mtxBody_wf w h hk
  · exact h

@[simp] theorem storage_mldsIssue (cap : Capture) (w : Insn) (i : WinNum) (corner : List Int) (hi : Nat) (s : State) :
    (mldsIssue cap w i corner hi s).storage = s.storage := by
  simp [mldsIssue]

theorem mldsBody_wf (w : Insn) (i : WinNum) : BodyWf (mldsBody w i) := by
  intro cap t ht
  unfold mldsBody
  extract_lets win corner box pts out read tagOf
  split
  · trivial
  · split
    · simpa using ht
    · split
      · simpa using ht
      · split
        · exact ht
        · extract_lets u t'
          split <;> simpa [t'] using ht
      · simpa using ht

@[simp] theorem rowIssue_wf (cap : Capture) (w : Insn) (kind : MxKind) (acc : Bool) (d : VReg) (i : WinNum) (row : Row)
    (mask : BitVec 256) (s : State) : (rowIssue cap w kind acc d i row mask s).Wf ↔ s.storage.Wf := by
  unfold rowIssue
  split <;> simp

theorem mwaitHead_wf (n : Nat) {s : State} (h : s.storage.Wf) : (mwaitHead n s).Wf := by
  unfold mwaitHead
  split
  · exact h
  · split
    · simpa using h
    · trivial

section
variable {s : State} (h : s.storage.Wf)
include h

theorem execMzero_wf : Out.Wf (execMzero s) :=
  vissue_wf _ _ _ (fun _ _ ht => mtxBody_wf _ ht (by simpa using ht)) h

theorem execMldsv_wf (a : VReg) (b : XReg) : Out.Wf (execMldsv a b s) :=
  vissue_wf _ _ _ (fun _ _ ht => mtxBody_wf _ ht (rowSource_wf _ _ _ ht (by simpa using ht))) h

theorem execMswap_wf : Out.Wf (execMswap s) :=
  vissue_wf _ _ _ (fun _ _ ht => mtxBody_wf _ ht (by simpa using ht)) h

theorem execMlds_wf (w : WinNum) (b : XReg) : Out.Wf (execMlds w b s) := by
  simp only [execMlds]
  refine vissue_wf _ _ _ (fun cap t ht => ?_) h
  exact windowFirst_wf _ _ ht (mldsBody_wf _ w cap t ht)

theorem rowMember_wf (w : Insn) (acc : Bool) (d a : VReg) (m : Option MReg) : Out.Wf (rowMember w acc d a m s) :=
  vissue_wf w _ _ (fun _ _ ht => mtxBody_wf w ht (rowSource_wf _ _ _ ht (by simpa using ht))) h

theorem streamMember_wf (w : Insn) (acc : Bool) (d : VReg) (i : WinNum) : Out.Wf (streamMember w acc d i s) :=
  vissue_wf w _ _ (fun _ _ ht => windowFirst_wf w _ ht (by simpa using ht)) h

theorem execMwait_wf : Out.Wf (execMwait s) := by
  refine vissue_wf _ _ _ (fun cap t ht => ?_) h
  split
  · exact mwaitHead_wf _ ht
  · exact mtxBody_wf _ ht (by simpa using ht)

end

/-! ### Start and completion of matrix operations -/

@[simp] theorem storage_startRow (o : MxOp) (row : Row) (s : State) : (startRow o row s).storage = s.storage := by
  simp [startRow]

@[simp] theorem storage_startOp (o : MxOp) (s : State) : (startOp o s).storage = s.storage := by
  simp only [startOp]
  split
  · simp
  · split
    · simp
    · split
      · simp only [storage_startRow, State.storage_ite]
        simp
      · split <;> simp
  · simp

@[simp] theorem execMatrixOpStart_wf (core : CoreId) (s : State) : Out.Wf (execMatrixOpStart core s) ↔ s.storage.Wf := by
  simp only [execMatrixOpStart]
  split
  · simp
  · split <;> simp

@[simp] theorem storage_withShadow (c : CoreId) (f : Vector Row 256 → Vector Row 256) (gone : Fin 256 → Bool) (s : State) :
    (withShadow c f gone s).storage = s.storage := by
  simp only [withShadow, State.storage_update]
  simp

@[simp] theorem storage_completeOp (o : MxOp) (s : State) : (completeOp o s).storage = s.storage := by
  have hrow : (s.asHart o.who (fun s => (s.modMe (fun h => h.writeRow o)).healWrites o.vd.toNat (2 * o.lmul) 32
      (fun e => e < 256 || o.ta))).storage = s.storage := State.storage_asHart (fun t => by simp) s _
  unfold completeOp
  split
  · exact storage_withShadow ..
  · exact storage_withShadow ..
  · exact storage_withShadow ..
  · simp only [State.storage_update]
    simp
  · exact hrow
  · exact hrow
  · rfl

@[simp] theorem execMatrixOpComplete_wf (core : CoreId) (num : Nat) (s : State) :
    Out.Wf (execMatrixOpComplete core num s) ↔ s.storage.Wf := by
  simp only [execMatrixOpComplete]
  split
  · simp
  · split <;> simp

end Sys2Proof.Machine
end

section
/-!
SUPPORT. The KV members and the storage (R221 to R242): a walk reads the tables and changes its cache alone, and of the members
KVAPP writes memory.
-/

namespace Sys2Proof.Machine

/-! ### The walk -/

/-- The state of a pair, read off an equation of the pair. -/
theorem fst_storage {α : Type} {p : State × α} {u : State} {a : α} {d : Storage} (hp : p.1.storage = d) (h : p = (u, a)) :
    u.storage = d := by
  rw [h] at hp
  exact hp

@[simp] theorem Core.kvKeep_scratch (k : Core) (e : KvEntry) : (k.kvKeep e).scratch = k.scratch := rfl

@[simp] theorem State.storage_kvKeep (s : State) (root : Word) (level : Nat) (idx : List Nat) (seq gen : Nat) (d : List Word) :
    (s.kvKeep root level idx seq gen d).storage = s.storage :=
  State.storage_modMyCore fun _ => rfl

@[simp] theorem walkHead_storage (c : KvNum) (sel : Word) (early : BitVec 32) (s : State) :
    (walkHead c sel early s).1.storage = s.storage := by
  unfold walkHead
  extract_lets root seq keep s1 fresh
  have hk (t : State) (h : KvHead) : (keep t h).storage = t.storage := by simp [keep]
  have h1 : s1.storage = s.storage := by simp [s1]
  have hf : fresh.1.storage = s.storage := by
    simp only [fresh]
    split
    · exact h1
    · exact (hk _ _).trans h1
  split
  · rfl
  · split
    · rfl
    · split
      · split
        · exact hf
        · rfl
      · split
        · exact hf
        · exact hk _ _

@[simp] theorem walkRest_storage (c : KvNum) (sel : Word) (tdim : Nat) (index : KvDesc → BitVec 32) (hd : KvHead) (s : State) :
    (walkRest c sel tdim index hd s).1.storage = s.storage := by
  unfold walkRest
  extract_lets read
  clear_value read
  split
  · rfl
  · extract_lets s1 d
    have h1 : s1.storage = s.storage := by simp [s1]
    split
    · exact h1
    · split <;> exact h1

@[simp] theorem walkDesc_storage (c : KvNum) (sel : Word) (tdim : Nat) (early : BitVec 32) (late : KvDesc → BitVec 32)
    (s : State) : (walkDesc c sel tdim early late s).1.storage = s.storage := by
  have hw := walkHead_storage c sel early s
  unfold walkDesc
  split <;> rename_i hh
  · exact fst_storage hw hh
  · exact (walkRest_storage ..).trans (fst_storage hw hh)

@[simp] theorem walkBlock_storage (c : KvNum) (d : KvDesc) (b : Nat) (index : BitVec 32) (s : State) :
    (walkBlock c d b index s).1.storage = s.storage := by
  unfold walkBlock
  split
  · rfl
  · extract_lets lh same idx read
    clear_value read
    split
    · rfl
    · extract_lets s1 e loc addr
      have h1 : s1.storage = s.storage := by simp [s1]
      repeat' split
      all_goals exact h1

@[simp] theorem kvTrap_wf (c : KvNum) (e : KvErr) (s : State) : (kvTrap c e s).Wf ↔ s.storage.Wf := by
  simp only [kvTrap, VRes.wf_trap, State.storage_sendPage]
  split <;> simp

/-! ### Members that events carry on -/

theorem kvOnce_wf {f : State → VRes} (hf : ∀ t, t.storage.Wf → (f t).Wf) (cap : Capture) {s : State} (h : s.storage.Wf) :
    (kvOnce f cap s).Wf := by
  have h1 : (kvNumber cap s).2.storage.Wf := by simpa [kvNumber] using h
  simp only [kvOnce]
  split
  · exact hf s h
  · split
    · exact h1
    · exact hf _ h1

theorem kvLong_wf (grp : List VBits) : BodyWf (kvLong grp) := by
  intro cap s h
  simp only [kvLong]
  split
  · trivial
  · simpa [kvNumber] using h

@[simp] theorem kvDone_wf (s : State) : (kvDone s).Wf ↔ s.storage.Wf := by simp [kvDone]

/-- An event keeps the one form where the body of the member at the head of the stream does. -/
theorem wf_headEvent (who : Who) {body : Insn → Option (Capture → State → VRes)} (hb : ∀ w f, body w = some f → BodyWf f)
    {s : State} (h : s.storage.Wf) : (headEvent who body s).storage.Wf := by
  simp only [headEvent]
  split
  · exact h
  · split
    · exact h
    · split
      · exact h
      · rename_i e rest _ _ _ f hf
        generalize hs0 : ({ s.modHart who (fun k => { k with stream := rest }) with
          agent := (⟨who, none⟩ : Agent), replay := some e } : State) = s0
        have h0 : s0.storage.Wf := by
          rw [← hs0]
          simpa only [State.storage_update, State.storage_modHart] using h
        split
        · exact h
        · simp only [State.storage_update]
          exact endReplay_wf e h0 (hb _ f hf _ _ h0)

/-! ### KVSET, KVINV, KVSTAT and KVXLAT -/

@[simp] theorem kvsetBody_wf (c : KvNum) (x : Word) (s : State) : (kvsetBody c x s).Wf ↔ s.storage.Wf := by
  unfold kvsetBody
  split
  · simp
  · simp only [kvDone_wf, State.storage_modMe, State.storage_ite]
    simp

@[simp] theorem xlatAll_storage (c : KvNum) (d : KvDesc) (a : VReg) (es : List Nat) (s : State) :
    (xlatAll c d a es s).1.storage = s.storage := by
  induction es generalizing s with
  | nil => rfl
  | cons e es ih =>
    simp only [xlatAll, ih]
    split
    · rfl
    · split <;> rename_i hw <;> exact fst_storage (walkBlock_storage ..) hw

@[simp] theorem storage_xlatWrite (d : VReg) (k : MReg) (cap : Capture) (vl : Nat) (xs : List Xlat) (s : State) :
    (xlatWrite d k cap vl xs s).storage = s.storage := by
  simp only [xlatWrite, State.storage_healMask, State.storage_healWrites]
  rw [storage_foldl (fun t p => t.storage_askPage _ p), State.storage_setMe]

theorem xlatBody_wf (ff : Bool) (d a : VReg) (c : KvNum) (k : MReg) : BodyWf (xlatBody ff d a c k) := by
  intro cap s h
  have hw := walkDesc_storage c (cap.xs.getD 0 0) 0 0 (fun _ => 0) s
  unfold xlatBody
  split <;> rename_i s1 r hr
  · simpa [fst_storage hw hr] using h
  · extract_lets q xs
    have hq : q.1.storage.Wf := by simpa [q, fst_storage hw hr] using h
    repeat' split
    all_goals simpa using hq

section
variable {s : State} (h : s.storage.Wf)
include h

theorem execKvset_wf (x : XReg) (c : KvNum) : Out.Wf (execKvset x c s) :=
  vissue_wf _ _ _ (fun cap _ ht => kvOnce_wf (fun t => (kvsetBody_wf c _ t).2) cap ht) h

theorem execKvinv_wf (x : XReg) (c : KvNum) : Out.Wf (execKvinv x c s) :=
  vissue_wf _ _ _ (fun cap _ ht => kvOnce_wf (fun t ht => by simpa using ht) cap ht) h

theorem execKvstat_wf (c : KvNum) : Out.Wf (execKvstat c s) := vissue_wf _ _ _ (fun _ t => pushQ1_wf _ t) h

theorem execKvxlat_wf (d a : VReg) (x : XReg) (c : KvNum) (k : MReg) : Out.Wf (execKvxlat d a x c k s) :=
  vissue_wf _ _ _ (kvLong_wf []) h

theorem execKvxlatf_wf (d a : VReg) (x : XReg) (c : KvNum) (k : MReg) : Out.Wf (execKvxlatf d a x c k s) :=
  vissue_wf _ _ _ (kvLong_wf []) h

end

/-! ### Attention -/

@[simp] theorem attnTrap_wf (vd : VReg) (cap : Capture) (b : Nat) (r : VRes) : (attnTrap vd cap b r).Wf ↔ r.Wf := by
  unfold attnTrap
  split <;> simp

@[simp] theorem attnEnd_wf (vd : VReg) (cap : Capture) (st : AttnSt) (s : State) : (attnEnd vd cap st s).Wf ↔ s.storage.Wf := by
  simp only [attnEnd, kvDone_wf, State.storage_healWrites, State.storage_setMe]

@[simp] theorem attnClose_wf (vd : VReg) (cap : Capture) (rows dim b : Nat) (st : AttnSt) (s : State) :
    (attnClose vd cap rows dim b st s).Wf ↔ s.storage.Wf := by
  unfold attnClose
  split <;> simp

@[simp] theorem attnData_wf (causal : Bool) (vd va : VReg) (cap : Capture) (rows dim p b nb : Nat) (d : KvDesc) (blk : KvBlock)
    (st : AttnSt) (s : State) : (attnData causal vd va cap rows dim p b nb d blk st s).Wf ↔ s.storage.Wf := by
  unfold attnData
  extract_lets allowed live
  split
  · simp
  · split
    · simp
    · simp
    · simp
    · extract_lets q st1
      split <;> simp

theorem attnBody_wf (causal : Bool) (vd va : VReg) (c : KvNum) : BodyWf (attnBody causal vd va c) := by
  intro cap s h
  unfold attnBody
  extract_lets rows dim p b0
  have hw := walkHead_storage c (cap.xs.getD 0 0) (BitVec.ofNat 32 b0) s
  split <;> rename_i s1 r hr
  · simpa [fst_storage hw hr] using h
  · have h1 : s1.storage.Wf := by rwa [fst_storage hw hr]
    split
    · simpa using h1
    · extract_lets old restart b s2
      have h2 : s2.storage.Wf := by simpa [s2] using h1
      have hw2 := walkRest_storage c (cap.xs.getD 0 0) dim (fun _ => BitVec.ofNat 32 b) r s2
      split <;> rename_i s3 r3 hr3
      · simpa [fst_storage hw2 hr3] using h2
      · have h3 : s3.storage.Wf := by rwa [fst_storage hw2 hr3]
        extract_lets st nb
        split
        · simpa using h3
        · have hw3 := walkBlock_storage c r3 b (BitVec.ofNat 32 b) s3
          split <;> rename_i s4 r4 hr4 <;> simpa [fst_storage hw3 hr4] using h3

section
variable {s : State} (h : s.storage.Wf)
include h

theorem execAttn_wf (d a : VReg) (x : XReg) (c : KvNum) : Out.Wf (execAttn d a x c s) :=
  vissue_wf _ _ _ (fun cap t => kvLong_wf (groupBits t.me d (2 * cap.lmul)) cap t) h

theorem execAttnc_wf (d a : VReg) (x : XReg) (c : KvNum) : Out.Wf (execAttnc d a x c s) :=
  vissue_wf _ _ _ (fun cap t => kvLong_wf (groupBits t.me d (2 * cap.lmul)) cap t) h

theorem execAttnBlock_wf (who : Who) : Out.Wf (execAttnBlock who s) := by
  refine wf_headEvent who (fun w f hf => ?_) h
  split at hf
  · cases hf; exact attnBody_wf _ _ _ _
  · cases hf

end

/-! ### KVAPP and its events -/

@[simp] theorem appWalk_storage (c : KvNum) (d : KvDesc) (p : Nat) (rs : List Nat) (s : State) :
    (appWalk c d p rs s).1.storage = s.storage := by
  induction rs generalizing s with
  | nil => rfl
  | cons r rs ih =>
    have hw := walkBlock_storage c d ((p + r) / d.bs) (BitVec.ofNat 32 ((p + r) / d.bs)) s
    simp only [appWalk]
    split <;> rename_i s1 b hb
    · exact fst_storage hw hb
    · have h1 := fst_storage hw hb
      split
      · exact h1
      · split
        · exact h1
        · split <;> rename_i hr <;> exact (fst_storage (ih s1) hr).trans h1

@[simp] theorem wf_appWrite (d : KvDesc) (vd va : VReg) (p : Nat) (bs : List KvBlock) {s : State} (h : s.storage.Wf) :
    (appWrite d vd va p bs s).storage.Wf :=
  wf_foldl (fun _ _ => wf_foldl (fun _ _ => State.wf_writeN _ _ _) _) _ h

theorem appBody_wf (vd va : VReg) (c : KvNum) : BodyWf (appBody vd va c) := by
  intro cap s h
  unfold appBody
  extract_lets rows dim p
  split
  · split
    · simpa using h
    · split
      · exact h
      · simpa using State.wf_writeN _ _ _ (by simpa using h)
  · have hw := walkDesc_storage c (cap.xs.getD 0 0) dim (Config.kvIndex p) (fun d => BitVec.ofNat 32 (p / d.bs)) s
    split <;> rename_i s1 d hd
    · simpa [fst_storage hw hd] using h
    · have hw2 := appWalk_storage c d p (List.range rows) s1
      split <;> rename_i s2 bs hbs
      · simpa [fst_storage hw2 hbs, fst_storage hw hd] using h
      · have h2 : s2.storage.Wf := by rwa [fst_storage hw2 hbs, fst_storage hw hd]
        split
        · simpa using h2
        · exact h2
        · simpa using wf_appWrite d vd va p bs h2

section
variable {s : State} (h : s.storage.Wf)
include h

theorem execKvapp_wf (d a : VReg) (x : XReg) (c : KvNum) : Out.Wf (execKvapp d a x c s) := vissue_wf _ _ _ (kvLong_wf []) h

theorem execKvWalkerReadReturn_wf (who : Who) : Out.Wf (execKvWalkerReadReturn who s) := by
  refine wf_headEvent who (fun w f hf => ?_) h
  split at hf
  · cases hf; exact xlatBody_wf _ _ _ _ _
  · split at hf
    · cases hf; exact appBody_wf _ _ _
    · cases hf

end

end Sys2Proof.Machine
end

section
/-!
SUPPORT. The exchange members, ring steps and the network and the storage (R267 to R285): of them the end of an XRING alone
writes memory, doubleword 2 of its descriptor.
-/

namespace Sys2Proof.Machine

/-! ### Members that span the segments -/

section
variable {s : State} (h : s.storage.Wf)
include h

theorem spanMember_wf (w : Insn) (d a : VReg) (k : MReg) (caps : State → List Word) (f : Capture → Hart → Nat → Option Nat) :
    Out.Wf (spanMember w d a k caps f s) :=
  permMember_wf h w d a _ _ caps k _

theorem spanReduce_wf (w : Insn) (fi : Nat → Nat → Nat → Nat → Nat) (z : Nat → Nat)
    (ff : BitVec 3 → Nat → Nat → Nat → Nat → Nat × Flags) (zf : Nat → Nat) (d a : VReg) (k : MReg) :
    Out.Wf (spanReduce w fi z ff zf d a k s) := by
  refine vissue_wf w _ _ (fun cap t ht => ?_) h
  split
  · exact ht
  · simp only
    split <;> simpa using ht

end

/-! ### Numbers and completion -/

@[simp] theorem storage_xcNumber (s : State) : (xcNumber s).storage = s.storage := s.storage_modMe _

@[simp] theorem storage_xcIssue (cap : Capture) (o : XOp) (s : State) : (xcIssue cap o s).storage = s.storage := by
  simp only [xcIssue, State.storage_update, State.storage_modMe, storage_xcNumber]

@[simp] theorem storage_xcDone (w : Who) (n : Nat) (st : BitVec 4) (s : State) : (xcDone w n st s).storage = s.storage := by
  simp [xcDone]

@[simp] theorem storage_xFail (w : Who) (num reason : Nat) (st : BitVec 4) (s : State) :
    (xFail w num reason st s).storage = s.storage := by
  simp [xFail, pendExchange]

@[simp] theorem storage_putMessage (w : Who) (r : VReg) (t : Word) (vl : Nat) (bs : List Byte) (s : State) :
    (putMessage w r t vl bs s).storage = s.storage :=
  State.storage_asHart (fun _ => by simp) s w

@[simp] theorem storage_xReceive (w : Who) (r : XOp) (bs : List Byte) (s : State) : (xReceive w r bs s).storage = s.storage := by
  simp [xReceive]

@[simp] theorem storage_pairAway (snd rcv : Who) (tag : BitVec 16) (f : FarEnd) (s : State) :
    (pairAway snd rcv tag f s).storage = s.storage := by
  simp only [pairAway]
  split
  · rfl
  · split <;> split
    · rfl
    · split
      · rfl
      · split <;> simp
    · rfl
    · split
      · rfl
      · split <;> simp

@[simp] theorem execExchangePairTransfer_wf (snd rcv : Who) (tag : PairTag) (s : State) :
    Out.Wf (execExchangePairTransfer snd rcv tag s) ↔ s.storage.Wf := by
  unfold execExchangePairTransfer
  split
  · simp
  · split
    · split
      · simp
      · split <;> simp
    · simp

section
variable {s : State} (h : s.storage.Wf)
include h

theorem execXsend_wf (a : VReg) (b : XReg) : Out.Wf (execXsend a b s) := by
  refine vissue_wf _ _ _ (fun cap t ht => ?_) h
  simp only
  split
  · exact ht
  · split
    · trivial
    · split
      · exact ht
      · simpa using ht

theorem execXrecv_wf (d : VReg) (b : XReg) : Out.Wf (execXrecv d b s) := by
  refine vissue_wf _ _ _ (fun cap t ht => ?_) h
  simp only
  split
  · exact ht
  · split
    · trivial
    · simpa using ht

theorem execXstat_wf (d : XReg) : Out.Wf (execXstat d s) := by
  unfold execXstat
  split <;> simpa using h

end

/-! ### Ring steps -/

theorem ringEnd_wf (o : XOp) (aborted : Bool) {s : State} (h : s.storage.Wf) : (ringEnd o aborted s).Wf := by
  unfold ringEnd
  extract_lets s1 s2
  have h1 : s1.storage = s.storage := by
    simp only [s1]
    split
    · split <;> simp
    · rfl
  have h2 : s2.storage.Wf := by simpa [s2, h1] using h
  simpa using State.wf_writeN _ _ _ h2

@[simp] theorem ringTrap_wf (reason : Nat) (o : XOp) (s : State) : (ringTrap reason o s).Wf ↔ s.storage.Wf := by simp [ringTrap]

theorem ringSend_storage {o : XOp} {s t : State} (h : ringSend o s = .ok t) : t.storage = s.storage := by
  simp only [ringSend] at h
  split at h
  · cases h
  · split at h
    · cases h; simp
    · split at h
      · cases h
      · split at h <;> cases h
        rfl

theorem ringStart_wf (w : Insn) (d a : VReg) (cap : Capture) (n : Nat) {s : State} (h : s.storage.Wf) :
    (ringStart w d a cap n s).Wf := by
  unfold ringStart
  extract_lets va
  split
  · simpa using h
  · extract_lets o
    split
    · simpa using h
    · split
      · exact ringEnd_wf _ _ h
      · split
        · exact h
        · split
          · simpa using h
          · rename_i t ht
            have hs : t.storage = s.storage := by
              split at ht
              · cases ht; rfl
              · exact ringSend_storage ht
            simpa only [VRes.wf_wait, State.storage_update, State.storage_modMe, hs] using h

theorem execXring_wf (d a : VReg) (b : XReg) {s : State} (h : s.storage.Wf) : Out.Wf (execXring d a b s) := by
  refine vissue_wf _ _ _ (fun cap t ht => ?_) h
  split
  · split
    · trivial
    · exact ringStart_wf _ _ _ _ _ ht
  · simp only
    split
    · simpa using ht
    · exact ringStart_wf _ _ _ _ _ (by simpa using ht)

/-- An event of a ring step keeps the one form where what it does to the waiting XRING does. -/
theorem wf_ringEvent (who : Who) {f : XOp → State → VRes} (hf : ∀ o t, t.storage.Wf → (f o t).Wf) {s : State}
    (h : s.storage.Wf) : (ringEvent who f s).storage.Wf := by
  refine wf_headEvent who (fun w g hg => ?_) h
  split at hg
  · cases hg
    intro cap t ht
    simp only
    split
    · exact hf _ t ht
    · trivial
  · cases hg

theorem ringArrive_wf (o : XOp) (bs : List Byte) {s : State} (h : s.storage.Wf) : (ringArrive o bs s).Wf := by
  simp only [ringArrive]
  split
  · simpa using h
  · split
    · exact ringEnd_wf _ _ h
    · simpa using h

@[simp] theorem storage_markCommit (w : Who) (rev : BitVec 32) (s : State) : (markCommit w rev s).storage = s.storage :=
  storage_foldl (fun t k => by split <;> simp) _ s

section
variable {s : State} (h : s.storage.Wf)
include h

theorem execRingStepMessage_wf (who : Who) (src : RingSender) (step : RingStep) (bytes : List Byte) :
    Out.Wf (execRingStepMessage who src step bytes s) := by
  refine wf_ringEvent who (fun o t ht => ?_) h
  split
  · trivial
  · extract_lets s1
    have h1 : s1.storage.Wf := ht
    split
    · simpa using h1
    · split
      · exact ringArrive_wf _ _ h1
      · trivial

theorem execRingCommit_wf (who : Who) : Out.Wf (execRingCommit who s) := by
  refine wf_ringEvent who (fun o t ht => ?_) h
  split
  · exact ringEnd_wf _ _ (by simpa using ht)
  · trivial

theorem execRingAbortNotice_wf (who : Who) (rev : BitVec 32) : Out.Wf (execRingAbortNotice who rev s) := by
  unfold execRingAbortNotice
  split
  · exact h
  · refine wf_ringEvent who (fun o t ht => ?_) (by simpa using h)
    split
    · exact ringEnd_wf _ _ ht
    · trivial

theorem wf_ringFail (who : Who) (num reason : Nat) : (ringFail who num reason s).storage.Wf := by
  refine wf_ringEvent who (fun o t ht => ?_) h
  split
  · simpa using ht
  · trivial

theorem execExchangeRefused_wf (who : Who) (num : Nat) (noPath : Bool) : Out.Wf (execExchangeRefused who num noPath s) := by
  unfold execExchangeRefused
  split
  · exact h
  · extract_lets here ok
    clear_value ok
    split
    · split <;>
      · rw [Out.wf_next]
        split
        · exact wf_ringFail h _ _ _
        · exact h
    · split
      · exact h
      · split <;> simpa using h

theorem execExchangeWatchdogExpiry_wf (who : Who) (num : Nat) : Out.Wf (execExchangeWatchdogExpiry who num s) := by
  unfold execExchangeWatchdogExpiry
  split
  · exact h
  · split
    · exact h
    · split
      · exact wf_ringFail h _ _ _
      · simpa using h

end

/-! ### The mesh and the ports -/

@[simp] theorem execPacketAgeEscalation_wf (packet : Nat) (s : State) :
    Out.Wf (execPacketAgeEscalation packet s) ↔ s.storage.Wf := by
  unfold execPacketAgeEscalation
  split <;> rfl

@[simp] theorem execMeshRestitch_wf (cores : BitVec 64) (shape : MeshShape) (s : State) :
    Out.Wf (execMeshRestitch cores shape s) ↔ s.storage.Wf := by
  simp only [execMeshRestitch]
  split <;> rfl

@[simp] theorem execLamefFlitReceive_wf (port : Fin 24) (flit : Flit) (s : State) :
    Out.Wf (execLamefFlitReceive port flit s) ↔ s.storage.Wf := by
  simp only [execLamefFlitReceive]
  split
  · rfl
  · split <;> rfl

@[simp] theorem execLamefFlitReplay_wf (port : Fin 24) (seq : BitVec 12) (s : State) :
    Out.Wf (execLamefFlitReplay port seq s) ↔ s.storage.Wf := by
  simp only [execLamefFlitReplay]
  split
  · rfl
  · split <;> rfl

@[simp] theorem execLamefPortDown_wf (port : Fin 24) (s : State) : Out.Wf (execLamefPortDown port s) ↔ s.storage.Wf := by
  simp only [execLamefPortDown]
  split
  · rfl
  · simp

end Sys2Proof.Machine
end

section
/-!
SUPPORT. Queues, launches and transfers and the storage (R287 to R307, R343, R344): a completion record and a transfer write
memory, and a kernel start empties the scratch of its cores.
-/

namespace Sys2Proof.Machine

/-! ### Queues, packets and the order of readiness -/

theorem pageFirst_storage {s t : State} {h : Hart} {asked l : List Nat} {e : MemErr} (hp : pageFirst s h asked e = some (t, l)) :
    t.storage = s.storage := by
  simp only [pageFirst] at hp
  split at hp
  · cases hp
  · split at hp
    · cases hp; rfl
    · split at hp <;> cases hp
      simp

@[simp] theorem State.storage_setQueue (s : State) (q : VQueue) : (s.setQueue q).storage = s.storage := rfl

@[simp] theorem storage_fetchHead (n : BitVec 14) (s : State) : (fetchHead n s).storage = s.storage := by
  simp only [fetchHead]
  split
  · rfl
  · split
    · rfl
    · split
      · rfl
      · split
        · rename_i hp
          exact (State.storage_setQueue _ _).trans (pageFirst_storage hp)
        · rfl

@[simp] theorem storage_noteReady (s : State) : (noteReady s).storage = s.storage := by
  unfold noteReady
  extract_lets s1 s2
  have h1 : s1.storage = s.storage := storage_foldl (fun t q => by
    split
    · split <;> rfl
    · split <;> rfl) _ _
  have h2 : s2.storage = s1.storage := storage_foldl (fun t c => by split <;> rfl) _ _
  exact (storage_foldl (fun t x => by split <;> rfl) _ _).trans (h2.trans h1)

@[simp] theorem storage_pushRecord (r : Record) (s : State) : (pushRecord r s).storage = s.storage := by
  unfold pushRecord; split <;> rfl

@[simp] theorem storage_retireHead (q : VQueue) (st : Byte) (s : State) : (retireHead q st s).storage = s.storage := by
  simp only [retireHead, storage_noteReady, storage_fetchHead, storage_pushRecord, State.storage_setQueue]
  split <;> rfl

theorem pulseAway_storage {w : Who} {id : Nat} {s t : State} (h : pulseAway w id s = some t) : t.storage = s.storage := by
  simp only [pulseAway] at h
  split at h
  · cases h; simp
  · split at h <;> cases h
    simp

@[simp] theorem storage_retireChild (c : Child) (st : Byte) (s : State) : (retireChild c st s).storage = s.storage := by
  unfold retireChild
  extract_lets s1 p s2
  have h1 : s1.storage = s.storage := rfl
  split
  · simpa using h1
  · simp only [storage_noteReady, State.storage_update]
    simp only [s2]
    cases hp : p with
    | none => exact h1
    | some t => exact (pulseAway_storage hp).trans h1

/-! ### Units of a core that changes hands -/

@[simp] theorem storage_releaseUnits (c : CoreId) (s : State) : (releaseUnits c s).storage = s.storage :=
  State.storage_modCore fun _ => rfl

@[simp] theorem storage_swapOut (c : CoreId) (id : Nat) (s : State) : (swapOut c id s).storage = s.storage := by
  refine State.storage_modCore fun k => ?_
  extract_lets k1
  have h1 : k1.scratch = k.scratch := by
    simp only [k1]
    split
    · split <;> rfl
    · rfl
  clear_value k1
  split
  · split <;> exact h1
  · exact h1

@[simp] theorem storage_swapIn (c : CoreId) (id : Nat) (s : State) : (swapIn c id s).storage = s.storage :=
  State.storage_modCore fun k => by split <;> rfl

@[simp] theorem storage_claimHarness (c : CoreId) (id : Nat) (s : State) : (claimHarness c id s).storage = s.storage :=
  State.storage_modCore fun k => by split <;> rfl

@[simp] theorem storage_cleanMarks (c : CoreId) (s : State) : (cleanMarks c s).storage = s.storage := rfl

/-! ### Places and victims -/

@[simp] theorem wf_takePlace (plan : Plan) (l : Launch) (p : Nat) (cores : List CoreId) (sl : Vector (Option (Word × Word)) 8)
    {s : State} (h : s.storage.Wf) : (takePlace plan l p cores sl s).storage.Wf := by
  unfold takePlace
  extract_lets c s0 s1
  have h0 : s0.storage = s.storage := storage_foldl (fun t c => by simp) _ _
  have h1 : s1.storage.Wf := State.wf_modCore (h0 ▸ h) fun _ _ => Memory.nil_wf
  exact wf_foldl (fun t c ht => State.wf_modCore ht fun _ _ => Memory.nil_wf) _ h1

@[simp] theorem wf_placeAll (plan : Plan) (areas : List Word) (bases : List (List Nat)) {s : State} (h : s.storage.Wf) :
    (placeAll plan areas bases s).storage.Wf :=
  wf_foldl (fun _ _ => wf_takePlace _ _ _ _ _) _ h

@[simp] theorem storage_softPreempt (w : Who) (s : State) : (softPreempt w s).storage = s.storage := by
  simp only [softPreempt]
  split
  · rfl
  · split <;> simp only [State.storage_update, State.storage_modHart]

@[simp] theorem storage_preemptVictims (vs : List Launch) (s : State) : (preemptVictims vs s).storage = s.storage :=
  storage_foldl (fun t w => by split <;> simp) _ s

@[simp] theorem wf_placeOrPreempt (plan : Plan) (prio : Nat) (areas : List Word) {s : State} (h : s.storage.Wf) :
    (placeOrPreempt plan prio areas s).1.storage.Wf := by
  simp only [placeOrPreempt]
  split
  · exact wf_placeAll _ _ _ h
  · split
    · simpa using h
    · exact h

/-! ### Dispatch -/

section
variable {s : State} (h : s.storage.Wf)
include h

theorem execPacketDispatch_wf (queue : BitVec 14) (areas : List Word) : Out.Wf (execPacketDispatch queue areas s) := by
  unfold execPacketDispatch
  extract_lets t
  have ht : t.storage.Wf := by simpa [t] using h
  clear_value t
  split
  · exact ht
  · split
    · exact ht
    · split
      · exact ht
      · split
        · simpa using ht
        · split
          · simpa using ht
          · extract_lets l
            split
            · simpa using ht
            · rw [Out.wf_next]
              split
              · rename_i hp
                simpa [pageFirst_storage hp] using ht
              · simpa using ht
            · split
              · exact ht
              · extract_lets r
                have hr : r.1.storage.Wf := wf_placeOrPreempt _ _ _ ht
                rw [Out.wf_next]
                split
                · simpa using hr
                · exact hr

@[simp] theorem wf_dispatchChild (c : Child) (pl : Launch) (mine : Bool) (areas : List Word) :
    (dispatchChild c pl mine areas s).storage.Wf := by
  unfold dispatchChild
  split
  · simpa using h
  · extract_lets l
    split
    · simpa using h
    · split
      · rename_i hp
        simpa [State.storage_update, pageFirst_storage hp] using h
      · simpa using h
    · split
      · exact h
      · extract_lets r
        have hr : r.1.storage.Wf := wf_placeOrPreempt _ _ _ h
        split
        · rw [storage_noteReady]
          exact hr
        · exact hr

theorem execChildDispatch_wf (child : Nat) (areas : List Word) : Out.Wf (execChildDispatch child areas s) := by
  simp only [execChildDispatch]
  split
  · simpa using h
  · split
    · simpa using h
    · split
      · simpa using h
      · exact wf_dispatchChild (by simpa using h) _ _ _ _

theorem execPlaceStart_wf (launch place : Nat) : Out.Wf (execPlaceStart launch place s) := by
  simp only [execPlaceStart]
  split
  · exact h
  · split
    · exact h
    · split
      · exact h
      · simpa only [Out.wf_next, State.storage_update,
          storage_foldl (fun t (c : CoreId) => storage_claimHarness c launch t),
          storage_foldl (fun t (k : HartNum) => State.storage_modHart t _ _)] using h

/-! ### Ending harts and launches -/

omit h in
@[simp] theorem storage_stopShort (w : Who) (s : State) : (stopShort w s).storage = s.storage := by
  simp only [stopShort]
  split
  · rfl
  · rw [State.storage_asHart (fun t => by simp), State.storage_modHart]

@[simp] theorem wf_endHart (w : Who) : (endHart w s).storage.Wf := by
  unfold endHart
  extract_lets s1 s2 s3
  have h1 : s1.storage.Wf := wf_drainHart (by simpa using h) w
  have h2 : s2.storage = s1.storage := State.storage_modCore fun _ => rfl
  rw [storage_releaseUnits, State.storage_update, State.storage_modHart, h2]
  exact h1

omit h in
@[simp] theorem storage_dropLaunch (id : Nat) (s : State) : (dropLaunch id s).storage = s.storage := by
  simp only [dropLaunch, State.storage_update]
  refine storage_foldl (fun t c => ?_) _ s
  exact State.storage_modCore fun _ => rfl

@[simp] theorem wf_endLaunch (id : Nat) (st cause : Byte) (w : Who) : (endLaunch id st cause w s).storage.Wf := by
  simp only [endLaunch, storage_noteReady, State.storage_update, storage_foldl (fun t i => storage_dropLaunch i t)]
  refine wf_foldl (fun t v ht => ?_) _ h
  split
  · split
    · exact wf_endHart ht v
    · exact ht
  · exact ht

omit h in
@[simp] theorem storage_retireLaunch (l : Launch) (s : State) : (retireLaunch l s).storage = s.storage := by
  simp only [retireLaunch]
  split
  · simp
  · split <;> simp

theorem execLaunchRetire_wf (launch : Nat) : Out.Wf (execLaunchRetire launch s) := by
  unfold execLaunchRetire
  split
  · exact h
  · split
    · exact h
    · rw [Out.wf_next, storage_retireLaunch]
      exact wf_foldl (fun t w ht => by
        split
        · exact wf_drainHart ht w
        · exact ht) _ h

/-! ### Completion records and the driver's side of a queue -/

theorem execCompletionRecordWrite_wf (queue : BitVec 14) : Out.Wf (execCompletionRecordWrite queue s) := by
  simp only [execCompletionRecordWrite]
  split
  · exact h
  · split
    · exact h
    · split
      · exact h
      · split
        · rw [Out.wf_next]
          cases hp : pageFirst s _ [] _ with
          | none => exact h
          | some r => exact (pageFirst_storage hp).symm ▸ h
        · rw [Out.wf_next, storage_noteReady]
          split <;> exact State.wf_writeCells _ h

omit h in
@[simp] theorem execQueueCreate_wf (queue : BitVec 14) (fn : BitVec 6) (desc : List Word) (s : State) :
    Out.Wf (execQueueCreate queue fn desc s) ↔ s.storage.Wf := by
  unfold execQueueCreate
  split <;> rfl

omit h in
@[simp] theorem execDoorbell_wf (fn : BitVec 6) (queue : BitVec 14) (value : BitVec 32) (s : State) :
    Out.Wf (execDoorbell fn queue value s) ↔ s.storage.Wf := by
  simp only [execDoorbell]
  split
  · rfl
  · split
    · rfl
    · simp only [Out.wf_next, storage_noteReady, storage_fetchHead, State.storage_update, State.storage_setQueue]

omit h in
@[simp] theorem execCompletionHead_wf (fn : BitVec 6) (queue : BitVec 14) (value : BitVec 32) (s : State) :
    Out.Wf (execCompletionHead fn queue value s) ↔ s.storage.Wf := by
  simp only [execCompletionHead]
  split
  · rfl
  · split <;> rfl

omit h in
@[simp] theorem execQueueSwapIn_wf (queue : BitVec 14) (s : State) : Out.Wf (execQueueSwapIn queue s) ↔ s.storage.Wf := by
  simp only [execQueueSwapIn]
  split
  · rfl
  · split
    · rfl
    · split
      · rfl
      · split
        · simp
        · split <;> simp

omit h in
@[simp] theorem execPriorityPromotion_wf (which : Waiting) (s : State) : Out.Wf (execPriorityPromotion which s) ↔ s.storage.Wf := by
  unfold execPriorityPromotion
  split
  · rfl
  · split
    · rfl
    · split <;> rfl

@[simp] theorem wf_resetQueue (n : BitVec 14) : (resetQueue s n).storage.Wf := by
  unfold resetQueue
  extract_lets s1 s2 s3
  have h1 : s1.storage.Wf := wf_foldl (fun t l ht => wf_endLaunch ht _ _ _ _) _ h
  have h3 : s3.storage = s1.storage := storage_foldl (fun t x => storage_pushRecord _ t) _ s1
  split
  · exact h3 ▸ h1
  · rw [storage_noteReady, State.storage_update, State.storage_setQueue, h3]
    exact h1

theorem execQueueReset_wf (queue : BitVec 14) : Out.Wf (execQueueReset queue s) := by
  unfold execQueueReset
  split
  · exact h
  · exact wf_resetQueue h queue

/-! ### Transfers -/

omit h in
/-- A transfer carried on leaves of the storage what its bytes leave. -/
theorem runTransfer_storage (q : VQueue) (t : Transfer) (s : State) :
    (runTransfer q t s).storage = ({ s with mem := (moveBytes (t.len - t.pos) (s.queueProbe q) t).1.mem } : State).storage := by
  simp only [runTransfer]
  split
  · rfl
  · split
    · rename_i hp
      have hs := pageFirst_storage hp
      exact hs
    · rfl

@[simp] theorem wf_runTransfer (q : VQueue) (t : Transfer) : (runTransfer q t s).storage.Wf := by
  rw [runTransfer_storage]
  exact h.of_mem rfl (moveBytes_wf _ _ t h.mem)

theorem execTransferDispatch_wf (queue : BitVec 14) : Out.Wf (execTransferDispatch queue s) := by
  unfold execTransferDispatch
  extract_lets t
  have ht : t.storage.Wf := by simpa [t] using h
  clear_value t
  split
  · exact ht
  · split
    · exact ht
    · split
      · exact ht
      · split
        · simpa using ht
        · split
          · simpa using ht
          · extract_lets x t1 s1
            have h1 : s1.storage.Wf := by
              rw [State.storage_update, State.storage_setQueue]
              exact ht
            clear_value s1
            rw [Out.wf_next, storage_noteReady, storage_fetchHead]
            exact wf_runTransfer h1 _ _

theorem execTransferRetire_wf (transfer : Nat) : Out.Wf (execTransferRetire transfer s) := by
  unfold execTransferRetire
  split
  · exact h
  · split
    · exact h
    · extract_lets s1
      have h1 : s1.storage.Wf := by
        simp only [s1]
        split
        · exact wf_runTransfer h _ _
        · exact h
      clear_value s1
      split
      · exact h1
      · split
        · exact h1
        · simpa only [Out.wf_next, storage_noteReady, storage_pushRecord, State.storage_update] using h1

/-! ### EXIT, RDV, FORK, LAUNCH and LWAIT -/

omit h in
@[simp] theorem storage_endParked (s : State) : (endParked s).storage = s.storage := by
  unfold endParked
  split
  · rfl
  · exact State.storage_modMyCore fun _ => rfl

theorem leave_wf : Out.Wf (leave s) :=
  whenQuiet_wf h _ fun t ht => wf_endHart (wf_foldl (fun _ c hu => wf_endHart hu ⟨c, 0⟩) _ (by simpa using ht)) _

theorem execRdv_wf : Out.Wf (execRdv s) := by
  unfold execRdv
  split
  · exact leave_wf h
  · refine fullFence_wf h fun t ht => ?_
    split
    · simpa using ht
    · split
      · simpa using ht
      · split <;> simpa using ht

omit h in
@[simp] theorem storage_forkOne (pc : Word) (s : State) (k : HartNum) : (forkOne pc s k).storage = s.storage := by
  simp only [forkOne]
  split <;> simp

theorem execFork_wf (a : XReg) : Out.Wf (execFork a s) := by
  simp only [execFork]
  split
  · simpa using h
  · split
    · simpa using h
    · exact fullFence_wf h fun t ht => by simpa using ht

omit h in
@[simp] theorem storage_submit (w : Insn) (pk : Packet) (s : State) : (submit w pk s).storage = s.storage := by
  simp only [submit, storage_noteReady, State.storage_update, State.storage_modMe]

theorem launchMember_wf (w : Insn) (a : XReg) {full : State → Out} {wait : Packet → State → Out} {taken : State → Out}
    (hf : ∀ t, t.storage.Wf → (full t).Wf) (hw : ∀ pk t, t.storage.Wf → (wait pk t).Wf)
    (ht : ∀ t, t.storage.Wf → (taken t).Wf) : Out.Wf (launchMember w a full wait taken s) := by
  unfold launchMember
  extract_lets go va
  have hg (pk : Packet) (t : State) (h : t.storage.Wf) : (go pk t).Wf := by
    simp only [go]
    split
    · exact hf t h
    · split
      · exact hw pk t h
      · split
        · simpa using h
        · exact fullFence_wf h fun u hu => ht _ (by simpa using hu)
  split
  · simpa using h
  · split
    · exact hg _ s h
    · split
      · simpa using h
      · split
        · simpa using h
        · exact hg _ _ (by simpa using h)

theorem execLaunch_wf (a : XReg) : Out.Wf (execLaunch a s) :=
  launchMember_wf h _ a (fun t => (config_wf _ t).2) (fun _ t => (stall_wf _ t).2) (fun t => (done_wf t).2)

theorem execLauncht_wf (d a : XReg) : Out.Wf (execLauncht d a s) :=
  launchMember_wf h _ a (fun t ht => by simpa using ht) (fun _ t ht => by simpa using ht) (fun t ht => by simpa using ht)

theorem execLwait_wf (d a : XReg) : Out.Wf (execLwait d a s) := by
  simp only [execLwait]
  split
  · simpa using h
  · split
    · simpa using h
    · split
      · simpa using h
      · split <;> simpa using h

end

end Sys2Proof.Machine
end

section
/-!
SUPPORT. Saved contexts and the storage (R321 to R327): a save writes the image and what windows still owe, and a core that is
made ready for a restored hart has empty scratch.
-/

namespace Sys2Proof.Machine

/-! ### Write-backs before a save -/

/-- The state that the write-backs of a save leave has a well-formed storage. -/
def Flushed.Wf : Flushed → Prop
  | .ok s => s.storage.Wf
  | .fail _ _ s => s.storage.Wf

@[simp] theorem Flushed.wf_ok (s : State) : (Flushed.ok s).Wf ↔ s.storage.Wf := Iff.rfl
@[simp] theorem Flushed.wf_fail (i : WinNum) (t : Trap) (s : State) : (Flushed.fail i t s).Wf ↔ s.storage.Wf := Iff.rfl

@[simp] theorem wf_flushBoxes (w : Who) (i : WinNum) (kind : ReKind) (bs : List Box) (win : Window) {s : State}
    (h : s.storage.Wf) : (flushBoxes w i kind bs win s).2.2.2.storage.Wf := by
  induction bs generalizing win s with
  | nil => exact h
  | cons b bs ih =>
    simp only [flushBoxes]
    split
    · simp only
      split
      · simpa using h
      · exact h
    · rename_i cs _
      have h1 : ((s.writeCells cs).linkCells cs).storage.Wf := by simpa using State.wf_writeCells cs h
      split
      · exact h1
      · exact ih _ h1

theorem flushOps_wf (w : Who) (os : List ReOp) {s : State} (h : s.storage.Wf) : (flushOps w os s).Wf := by
  induction os generalizing s with
  | nil => exact h
  | cons o os ih =>
    unfold flushOps
    extract_lets r s1
    have h1 : s1.storage.Wf := by
      rw [State.storage_modHart]
      exact wf_flushBoxes _ _ _ _ _ h
    clear_value s1
    split
    · exact h1
    · exact ih h1

theorem flushWins_wf (w : Who) (is : List WinNum) {s : State} (h : s.storage.Wf) : (flushWins w is s).Wf := by
  induction is generalizing s with
  | nil => exact h
  | cons i is ih =>
    unfold flushWins
    extract_lets win r s1
    have h1 : s1.storage.Wf := by
      rw [State.storage_modHart]
      exact wf_flushBoxes _ _ _ _ _ h
    clear_value s1
    split
    · exact ih h
    · split
      · exact h1
      · exact ih h1

theorem flushAll_wf (w : Who) {s : State} (h : s.storage.Wf) : (flushAll w s).Wf := by
  have ho := flushOps_wf w (s.hart w).reOps h
  unfold flushAll
  split
  · rename_i hr
    rwa [hr] at ho
  · rename_i s1 hr
    rw [hr] at ho
    have hw := flushWins_wf w allWins ((Flushed.wf_ok s1).1 ho)
    split
    · rename_i hr2
      rwa [hr2] at hw
    · rename_i s2 hr2
      rw [hr2] at hw
      rw [Flushed.wf_ok, storage_foldl (fun t (o : ReOp) => storage_reFinish w o.tag.num t)]
      exact hw

/-! ### CTXSAVE and CTXLOAD -/

@[simp] theorem storage_awayOps (w : Who) (s : State) : (awayOps w s).storage = s.storage :=
  State.storage_modCore fun _ => rfl

@[simp] theorem storage_withdraw (w : Who) (s : State) : (withdraw w s).storage = s.storage := by simp [withdraw]

@[simp] theorem storage_resubmit (w : Who) (s : State) : (resubmit w s).storage = s.storage := by
  unfold resubmit
  split
  · rfl
  · rw [State.storage_modHart]
    exact State.storage_modCore fun _ => rfl

@[simp] theorem storage_clearMyLocks (w : Who) (s : State) : (clearMyLocks w s).storage = s.storage := by
  unfold clearMyLocks
  split
  · exact storage_foldl (fun t c => storage_clearLocks c _ t) _ s
  · exact storage_clearLocks ..

theorem supOnly_wf (w : Insn) {k : State → Out} {s : State} (h : s.storage.Wf) (hk : (k s).Wf) : Out.Wf (supOnly w k s) := by
  unfold supOnly
  split
  · exact hk
  · simpa using h

theorem execCtxsave_wf (a : XReg) {s : State} (h : s.storage.Wf) : Out.Wf (execCtxsave a s) := by
  refine supOnly_wf _ h ?_
  split
  · simpa using h
  · extract_lets va img u
    have hu : u.storage.Wf := by simpa [u] using h
    clear_value u
    split
    · simpa using h
    · split
      · simpa using h
      · have hf := flushAll_wf u.who hu
        split
        · rename_i hr
          rw [hr] at hf
          exact (raiseFailed_wf _ _ _).2 hf
        · rename_i v hr
          rw [hr] at hf
          have hd : (clearMyLocks u.who (drainHart u.who v)).storage.Wf := by simpa using wf_drainHart hf u.who
          exact released_wf hd (by simpa using State.wf_writeCells _ hd)

@[simp] theorem storage_rebuildWin (w : Who) (ws : List Word) (i : WinNum) (win : Window) (u : Nat) (s : State) :
    (rebuildWin w ws i win u s).storage = s.storage := by
  simp only [rebuildWin, State.storage_update, State.storage_zeroNear, State.storage_modHart]

theorem reopen_storage {w : Who} {ws : List Word} {is : List WinNum} {s t : State} (h : reopen w ws is s = some t) :
    t.storage = s.storage := by
  induction is generalizing s with
  | nil =>
    cases h
    rfl
  | cons i is ih =>
    simp only [reopen] at h
    split at h
    · simpa using ih h
    · split at h
      · cases h
      · simpa using ih h

@[simp] theorem storage_commandOf (w : Who) (s : State) (r : TailRec) : (commandOf w s r).storage = s.storage := by
  simp only [commandOf]
  split
  · split
    · rfl
    · simp only [State.storage_update]
  · split
    · simp only [State.storage_update, State.storage_modHart]
    · split <;> simp only [State.storage_update, State.storage_modHart]

theorem loadImage_storage {w : Who} {ws : List Word} {old : Option Hart} {s t : State} (h : loadImage w ws old s = .ok t) :
    t.storage = s.storage := by
  unfold loadImage at h
  split at h
  · cases h
  · extract_lets recs h0 dead s1 s2 at h
    split at h
    · cases h
    · rename_i s3 hr
      have h1 : s1.storage = s.storage := State.storage_modHart _ _ _
      have h2 : s2.storage = s1.storage := State.storage_modCore fun _ => rfl
      extract_lets hw n mx xs at' str open' top h2' t4 s4 s5 at h
      have h4 : s4.storage = s3.storage := (State.storage_update ..).trans (State.storage_setHart ..)
      have h5 : s5.storage = s4.storage := storage_foldl (fun t r => storage_commandOf w t r) _ _
      cases h
      rw [← h1, ← h2, ← reopen_storage hr, ← h4, ← h5]
      exact State.storage_modCore fun _ => rfl

theorem reloadBuf_storage {w : Who} {s t : State} (h : reloadBuf w s = .ok t) : t.storage = s.storage := by
  unfold reloadBuf at h
  split at h
  · cases h; simp
  · split at h <;> cases h
    simp

theorem execCtxload_wf (a : XReg) {s : State} (h : s.storage.Wf) : Out.Wf (execCtxload a s) := by
  refine supOnly_wf _ h ?_
  split
  · simpa using h
  · extract_lets s0
    have h0 : s0.storage.Wf := wf_drainHart h _
    clear_value s0
    split
    · simpa using h
    · simpa [loadConfig] using h
    · split
      · simpa [loadConfig] using h
      · rename_i hl
        split
        · simpa using h
        · split
          · simpa using h
          · rename_i hb
            simpa [reloadBuf_storage hb, loadImage_storage hl] using h0

/-! ### Hard pre-emption -/

/-- The state that an attempt to save leaves, where it leaves one, has a well-formed storage. -/
def SaveRes.Wf : SaveRes → Prop
  | .saved s => s.storage.Wf
  | .trap _ _ s => s.storage.Wf
  | _ => True

@[simp] theorem SaveRes.wf_saved (s : State) : (SaveRes.saved s).Wf ↔ s.storage.Wf := Iff.rfl
@[simp] theorem SaveRes.wf_trap (i : Option WinNum) (t : Trap) (s : State) : (SaveRes.trap i t s).Wf ↔ s.storage.Wf := Iff.rfl
@[simp] theorem SaveRes.wf_later : SaveRes.later.Wf := trivial
@[simp] theorem SaveRes.wf_bad : SaveRes.bad.Wf := trivial

@[simp] theorem storage_returnMail (w : Who) (s : State) : (returnMail w s).storage = s.storage := by
  unfold returnMail; split <;> simp only [State.storage_update]

@[simp] theorem storage_leavePlace (w : Who) (sv : Saved) (s : State) : (leavePlace w sv s).storage = s.storage := by
  unfold leavePlace
  extract_lets mem s1 s2 s3
  have h1 : s1.storage = s.storage := by
    rw [storage_foldl (fun t v => State.storage_modHart t v _)]
    simp
  have h2 : s2.storage = s1.storage := State.storage_modCore fun _ => rfl
  have h3 : s3.storage = s2.storage := State.storage_update ..
  rw [storage_noteReady, storage_foldl (fun t c => storage_releaseUnits c t), h3, h2, h1]

@[simp] theorem storage_saveTrap (i : Option WinNum) (t : Trap) (s : State) : (saveTrap i t s).storage = s.storage := by
  unfold saveTrap
  split <;> simp

section
variable {s : State} (h : s.storage.Wf)
include h

@[simp] theorem wf_drainSettled (w : Who) : (drainSettled w s).storage.Wf := wf_foldl (fun _ t => State.wf_performStore t) _ h

theorem saveContext_wf (w : Who) (pc : Word) : (saveContext w pc s).Wf := by
  unfold saveContext
  extract_lets u hu va
  have hs : u.storage.Wf := by simpa [u] using h
  clear_value u
  split
  · trivial
  · split
    · trivial
    · split
      · exact hs
      · have hf := flushAll_wf w hs
        split <;> rename_i hr <;> rw [hr] at hf
        · exact hf
        · simpa using State.wf_writeCells _ (by simpa using wf_drainSettled hf w)

@[simp] theorem wf_takeHard (w : Who) : (takeHard w s).storage.Wf := by
  have hw := saveContext_wf h w (s.hart w).pc
  unfold takeHard
  split
  · rename_i hr
    rwa [hr] at hw
  · rename_i i t u hr
    rw [hr] at hw
    rw [State.storage_asHart (fun v => storage_saveTrap i t v)]
    exact hw
  · exact h

theorem execHardPreemption_wf (who : Who) : Out.Wf (execHardPreemption who s) := by
  simp only [execHardPreemption]
  split
  · exact h
  · exact wf_takeHard h who

omit h in
@[simp] theorem execPreemptLeftExpiry_wf (who : Who) (s : State) : Out.Wf (execPreemptLeftExpiry who s) ↔ s.storage.Wf := by
  simp only [execPreemptLeftExpiry]
  split <;> simp

omit h in
@[simp] theorem execPreemptReqWrite_wf (s : State) : Out.Wf (execPreemptReqWrite s) ↔ s.storage.Wf := by
  unfold execPreemptReqWrite
  split <;> simp

theorem execSupervisorPreemptTimeout_wf (who : Who) : Out.Wf (execSupervisorPreemptTimeout who s) := by
  simp only [execSupervisorPreemptTimeout]
  split
  · split
    · exact wf_endLaunch h _ _ _ _
    · exact h
  · exact h

theorem execParentStallSwap_wf (who : Who) : Out.Wf (execParentStallSwap who s) := by
  unfold execParentStallSwap
  extract_lets k s0 s1
  split
  · exact h
  · split
    · exact h
    · split
      · exact h
      · have h0 : s0.storage.Wf := wf_takeHard (by simpa using h) who
        have h1 : s1.storage.Wf := by
          rw [State.storage_update]
          exact h0
        clear_value s1
        rw [Out.wf_next]
        split
        · split
          · exact wf_dispatchChild h1 _ _ _ _
          · exact h1
        · exact h1

/-! ### Restore -/

@[simp] theorem wf_readyCore (sv : Saved) (l : Launch) (c : CoreId) : (readyCore sv l c s).storage.Wf := by
  simp only [readyCore]
  split
  · exact h
  · exact State.wf_modCore (by simpa using h) fun _ _ => Memory.nil_wf

omit h in
/-- A saved context that runs again leaves the storage as its core's preparation leaves it. -/
theorem resumeAt_wf {sv : Saved} {l : Launch} {w : Who} {s t : State} (h : s.storage.Wf) (ht : resumeAt sv l w s = some t) :
    t.storage.Wf := by
  unfold resumeAt at ht
  extract_lets hf cores s1 s2 s3 at ht
  have h1 : s1.storage.Wf := wf_foldl (fun u c hu => by simpa using wf_readyCore hu sv l c) _ h
  have h3 : s3.storage = s1.storage :=
    (storage_foldl (fun u x => State.storage_setHart u _ _) _ _).trans (State.storage_modHart _ _ _)
  split at ht
  · split at ht
    · cases ht
    · split at ht
      · cases ht
      · rename_i hl
        split at ht
        · cases ht
        · rename_i s5 hb
          extract_lets s6 s7 s8 at ht
          cases ht
          have h7 : s7.storage = s5.storage := (State.storage_update ..).trans (State.storage_modHart _ _ _)
          have h8 : s8.storage = s7.storage := storage_foldl (fun u c => storage_claimHarness c l.id u) _ _
          rw [storage_noteReady, storage_foldl (fun u (_ : Nat) => State.storage_pulseOp u w 5), h8, h7, reloadBuf_storage hb,
            loadImage_storage hl, h3]
          exact h1
  · cases ht

theorem execContextRestore_wf (saved : Nat) (who : Who) : Out.Wf (execContextRestore saved who s) := by
  simp only [execContextRestore]
  split
  · exact h
  · split
    · exact h
    · split
      · exact h
      · split
        · split
          · exact h
          · rw [Out.wf_next]
            cases hr : resumeAt _ _ who s with
            | none => exact h
            | some t => exact resumeAt_wf h hr
        · split
          · rw [Out.wf_next]
            split
            · simpa using h
            · exact h
          · exact h

end

end Sys2Proof.Machine
end

section
/-!
SUPPORT. The supervisor's members, the host's side, resets and partitions and the storage (R316 to R320, R333 to R354): a reset
keeps of memory what is not the device's, a torn-down key or a handed-over page overwrites what lay under it, and a partition
that changes shape moves its bytes.
-/

namespace Sys2Proof.Machine

/-! ### TRET and pre-emption in supervisor mode -/

@[simp] theorem storage_redeliverWin (p : Word) (s : State) (w : WinNum) : (redeliverWin p s w).storage = s.storage := by
  unfold redeliverWin
  split
  · rfl
  · simp only [State.storage_update, State.storage_modMe]

@[simp] theorem storage_redeliverAll (p : Word) (s : State) : (redeliverAll p s).storage = s.storage := by
  rw [redeliverAll, State.storage_modMe]
  exact storage_foldl (storage_redeliverWin p) _ s

@[simp] theorem storage_countOne (s : State) : (countOne s).storage = s.storage := s.storage_modMe _

section
variable {s : State} (h : s.storage.Wf)
include h

theorem execTret_wf : Out.Wf (execTret s) := by
  refine supOnly_wf _ h ?_
  split
  · simpa using h
  · extract_lets r n r1
    have hr : r.storage = s.storage := by simp [r]
    have hr1 : r1.storage = r.storage := storage_redeliverAll _ r
    clear_value r1 r
    split
    · exact (Out.wf_next r).2 (hr ▸ h)
    · split
      · simpa using h
      · rw [Out.wf_next]
        split <;> simpa [hr1, hr] using h

theorem preemptInSup_wf : Out.Wf (preemptInSup s) := by
  unfold preemptInSup
  split
  · simpa using h
  · extract_lets r0 r
    have h0 : r0.storage = s.storage := by simp [r0]
    have hr : r.storage.Wf := by
      simp only [r]
      split
      · simpa [h0] using h
      · exact h0 ▸ h
    clear_value r
    split
    · exact hr
    · have hw := saveContext_wf hr r.who r.me.pc
      split
      · rename_i hs
        rwa [hs] at hw
      · rename_i hs
        rw [hs] at hw
        simpa using hw
      · simpa using h
      · simpa using h

theorem execYield_wf : Out.Wf (execYield s) := by
  simp only [execYield]
  split
  · simpa using h
  · split
    · exact preemptInSup_wf (by simpa using h)
    · simpa using h

theorem execWfe_wf : Out.Wf (execWfe s) := by
  simp only [execWfe]
  split
  · exact preemptInSup_wf h
  · split
    · simpa using h
    · split
      · split <;> simpa using h
      · simpa using h

omit h in
@[simp] theorem execWfeTimeout_wf (who : Who) (s : State) : Out.Wf (execWfeTimeout who s) ↔ s.storage.Wf := by
  unfold execWfeTimeout
  split
  · rw [Out.wf_next, State.storage_asHart storage_finish]
  · rfl

/-! ### HALT, CAPRD, XLINV and XLINVA -/

theorem execHalt_wf : Out.Wf (execHalt s) := by
  refine supOnly_wf _ h ?_
  split
  · simpa using h
  · split
    · exact wf_endLaunch h _ _ _ _
    · simpa using h

theorem execCaprd_wf (d a : XReg) : Out.Wf (execCaprd d a s) := by
  simp only [execCaprd]
  split <;> simpa using h

omit h in
@[simp] theorem storage_dropOn (va : Nat) (a : Option (BitVec 10)) (s : State) (c : CoreId) :
    (dropOn va a s c).storage = s.storage :=
  State.storage_modCore fun _ => rfl

omit h in
@[simp] theorem storage_reloadOn (s : State) (c : CoreId) : (reloadOn s c).storage = s.storage :=
  State.storage_modCore fun _ => rfl

theorem execXlinv_wf (a b : XReg) : Out.Wf (execXlinv a b s) := by
  refine supOnly_wf _ h (fullFence_wf h fun t ht => ?_)
  simpa only [done_wf, storage_foldl (storage_dropOn _ _)] using ht

theorem execXlinva_wf : Out.Wf (execXlinva s) := by
  refine supOnly_wf _ h (fullFence_wf h fun t ht => ?_)
  simpa only [done_wf, storage_foldl storage_reloadOn] using ht

/-! ### Loop ends, LCNT writes and SRAM errors -/

omit h in
@[simp] theorem execLoopWrap_wf (who : Who) (s : State) : Out.Wf (execLoopWrap who s) ↔ s.storage.Wf := by
  unfold execLoopWrap
  split
  · rw [Out.wf_next, State.storage_asHart fun t => storage_arrive _ t]
  · rfl

theorem execLcntWrite_wf (k : CtrNum) (v : Word) : Out.Wf (execLcntWrite k v s) := by
  have hc := setCounter_keeps k v s.me.pc false s
  unfold execLcntWrite
  split
  · exact h
  · split <;> rename_i hr <;> rw [hr] at hc
    · rw [AdvRes.keeps_full] at hc
      simpa [hc] using h
    · simpa using h
    · rw [AdvRes.keeps_done] at hc
      simpa [hc] using h

omit h in
@[simp] theorem execMemoryDoubleError_wf (site : ErrorSite) (s : State) : Out.Wf (execMemoryDoubleError site s) ↔ s.storage.Wf := by
  unfold execMemoryDoubleError
  split <;> rfl

/-! ### Registers of the host, page responses and ATS -/

omit h in
@[simp] theorem storage_servePages (fn : BitVec 6) (rs : List PageReq) (s : State) : (servePages fn rs s).storage = s.storage := by
  induction rs generalizing s with
  | nil => rfl
  | cons r rs ih =>
    simp only [servePages]
    split
    · exact ih s
    · split
      · rfl
      · rw [ih, State.storage_update]

omit h in
@[simp] theorem storage_bar0Acts (offset : BitVec 26) (value : BitVec 32) (s : State) : (bar0Acts offset value s).storage = s.storage := by
  unfold bar0Acts
  extract_lets s1 s2
  have h1 : s1.storage = s.storage := by
    simp only [s1]
    split
    · rw [storage_servePages, State.storage_update]
    · rfl
  clear_value s1
  have h2 : s2.storage = s1.storage := by
    simp only [s2]
    split <;> rfl
  clear_value s2
  split
  · split
    · rw [State.storage_update, h2, h1]
    · exact h2.trans h1
  · exact h2.trans h1

omit h in
@[simp] theorem execRegisterWrite_wf (fn : BitVec 6) (bar : Bar) (offset : BitVec 26) (value : BitVec 32) (s : State) :
    Out.Wf (execRegisterWrite fn bar offset value s) ↔ s.storage.Wf := by
  simp only [execRegisterWrite]
  split
  · split
    · simp
    · split <;> simp
  · split
    · rfl
    · split
      · split <;> rfl
      · rw [Out.wf_next, storage_bar0Acts, State.storage_update]

omit h in
@[simp] theorem storage_answered (r : PageReq) (code : PageCode) (s : State) : (answered r code s).storage = s.storage := by
  unfold answered; split <;> rfl

@[simp] theorem wf_endRefused (r : PageReq) : (endRefused r s).storage.Wf := by
  refine wf_foldl (fun t x ht => ?_) _ h
  split
  · exact wf_endLaunch ht _ _ _ _
  · exact ht

omit h in
@[simp] theorem storage_refetch (s : State) : (refetch s).storage = s.storage := by
  rw [refetch, storage_noteReady]
  exact storage_foldl (fun t q => storage_fetchHead _ t) _ s

theorem execPageResponse_wf (fn : BitVec 6) (group : BitVec 8) (code : PageCode) : Out.Wf (execPageResponse fn group code s) := by
  unfold execPageResponse
  split
  · exact h
  · rename_i r _
    extract_lets s1 twice s2 s3
    have h1 : s1.storage.Wf := h
    clear_value s1
    have h2 : s2.storage.Wf := by
      rw [storage_answered]
      split
      · exact wf_endRefused h1 r
      · exact h1
    clear_value s2
    split
    · rw [Out.wf_next, storage_servePages, State.storage_update]
      exact h1
    · rw [Out.wf_next, storage_refetch, storage_servePages, State.storage_update]
      exact h2

theorem execAtsInvalidation_wf (fn : BitVec 6) (pasid : BitVec 20) (page : BitVec 52) :
    Out.Wf (execAtsInvalidation fn pasid page s) := by
  simp only [execAtsInvalidation]
  split
  · exact h
  · rw [Out.wf_next, State.storage_update]
    exact wf_foldl (fun _ t => State.wf_performStore t) _ h

/-! ### Reset and power -/

@[simp] theorem wf_resetDevice : (resetDevice s).storage.Wf := ⟨Memory.filter_wf _ h.mem, reset_scratch_wf⟩

@[simp] theorem wf_hotReset : (hotReset s).storage.Wf := by
  simp only [hotReset]
  split
  · exact h
  · rw [State.storage_update]
    exact wf_resetDevice h

@[simp] theorem wf_dropFunction (fn : BitVec 6) : (dropFunction fn s).storage.Wf := by
  simp only [dropFunction, State.storage_update]
  exact wf_foldl (fun t i ht => by simpa using wf_endLaunch ht i 7 0 proxy) _ h

theorem execFunctionLevelReset_wf (fn : BitVec 6) : Out.Wf (execFunctionLevelReset fn s) := by
  unfold execFunctionLevelReset
  split
  · exact wf_hotReset h
  · simpa using wf_dropFunction h fn

omit h in
@[simp] theorem execConfigRequest_wf (fn : BitVec 6) (offset : BitVec 12) (s : State) :
    Out.Wf (execConfigRequest fn offset s) ↔ s.storage.Wf := by
  unfold execConfigRequest
  split <;> rfl

theorem execPowerStateChange_wf (target : Power) : Out.Wf (execPowerStateChange target s) := by
  unfold execPowerStateChange
  split
  · exact wf_resetDevice h
  · exact h
  · split <;> exact h
  · exact h
  · exact h
  · exact wf_resetDevice h

/-! ### Tenants, pages and partitions -/

omit h in
@[simp] theorem execTenantCreate_wf (tenant : BitVec 10) (part : BitVec 4) (ptroot rangeBase trapVec capBase : Word) (s : State) :
    Out.Wf (execTenantCreate tenant part ptroot rangeBase trapVec capBase s) ↔ s.storage.Wf := by
  unfold execTenantCreate
  split <;> rfl

omit h in
/-- An update of every core that leaves each scratch, and memory unchanged. -/
theorem Storage.Wf.map_cores {s t : State} {f : Core → Core} (h : s.storage.Wf) (hm : t.mem = s.mem) (hc : t.cores = s.cores.map f)
    (hf : ∀ k, (f k).scratch = k.scratch) : t.storage.Wf := by
  refine ⟨?_, fun c => ?_⟩
  · simpa only [State.storage, hm] using h.mem
  · simpa [State.storage, State.core, hc, hf] using h.scratch c

theorem execTenantTeardown_wf (tenant : BitVec 10) : Out.Wf (execTenantTeardown tenant s) := by
  unfold execTenantTeardown
  split
  · exact h
  · extract_lets s1
    have h1 : s1.storage.Wf := wf_foldl (fun _ _ => State.wf_writeCells _) _ h
    clear_value s1
    exact h1.map_cores rfl rfl fun _ => rfl

@[simp] theorem wf_zeroPage (page : Nat) : (zeroPage page s).storage.Wf := h.of_mem rfl (Memory.filter_wf _ h.mem)

theorem execPageReassign_wf (page : BitVec 32) (fromPart toPart : BitVec 4) (tenant : BitVec 10) :
    Out.Wf (execPageReassign page fromPart toPart tenant s) := by
  simp only [execPageReassign]
  split
  · exact h
  · rw [Out.wf_next, State.storage_update]
    exact wf_zeroPage (wf_zeroPage h _) _

@[simp] theorem wf_setPart (part : BitVec 4) (c : PartConfig) : (setPart part c s).storage.Wf := by
  unfold setPart
  extract_lets old new mine same moved s1 s2
  have h2 : s2.storage.Wf := by
    simp only [s2]
    split
    · exact h
    · exact h.of_mem rfl (Memory.writeAll_wf _ (Memory.filter_wf _ h.mem))
  exact wf_foldl (fun t k ht => State.wf_modCore ht fun _ _ => Memory.nil_wf) _ h2

theorem execPartitionChange_wf (part : BitVec 4) (cfg : PartConfig) : Out.Wf (execPartitionChange part cfg s) := by
  simp only [execPartitionChange]
  split
  · exact h
  · split
    · exact wf_setPart (wf_foldl (fun _ q ht => wf_resetQueue ht q.num) _ h) part cfg
    · split
      · exact h
      · exact wf_setPart h part cfg

/-! ### Attestation -/

omit h in
@[simp] theorem State.storage_reply (s : State) (r : SpdmReply) : (s.reply r).storage = s.storage := rfl

theorem spdm_wf {k : State → State} (hk : (k s).storage.Wf) : Out.Wf (spdm k s) := by
  unfold spdm
  split
  · exact h
  · exact hk

theorem execGetVersion_wf : Out.Wf (execGetVersion s) := spdm_wf h h

theorem execGetCapabilities_wf : Out.Wf (execGetCapabilities s) := spdm_wf h (by split <;> exact h)

theorem execNegotiateAlgorithms_wf (asym hash : BitVec 16) : Out.Wf (execNegotiateAlgorithms asym hash s) :=
  spdm_wf h (by split <;> exact h)

theorem negotiated_wf (r : SpdmReply) : Out.Wf (negotiated r s) := spdm_wf h h

theorem signedReply_wf (r : Nat → SpdmReply) : Out.Wf (signedReply r s) := spdm_wf h (by split <;> exact h)

end

end Sys2Proof.Machine
end

section
/-!
SUPPORT. Every instruction and event keeps the one form, and so does every step: the steps beside an instruction leave memory and
scratch, but for stores performed and contexts saved (R20, R392).
-/

namespace Sys2Proof.Machine

/-- Every instruction and event keeps the one form: by the lemma of what its arm calls. -/
theorem exec_wf (i : Instr) {s : State} (h : s.storage.Wf) : Out.Wf (exec i s) := by
  cases i <;> dsimp only [exec]
  case add | sub | and | or | xor | sll | srl | sra | slt | sltn | mul | mulh | mulhn | div | divn | rem | remn | min
    | max | minn | maxn | rol | ror | clz | ctz | popc | bext | bextn | fshl | fshr | addi | andi | ori | xori | slti
    | slli | srli | srai | lui | auipc | bfx | bfxS | bfi =>
    exact (writeX_wf ..).2 h
  case ldb | ldh | ldw | ldd | ldbn | ldhn | ldwn =>
    exact scalarLoad_wf _ _ _ _ h
  case stb | sth | stw | std => exact scalarStore_wf _ _ _ h
  case beq | bne | blt | bge | bltn | bgen => exact (branchIf_wf ..).2 h
  case j => exact (branchTo_wf ..).2 h
  case loop | loopi => exact (startLoop_wf ..).2 h
  case loopS => exact (execLoopS_wf ..).2 h
  case nop => exact (done_wf ..).2 h
  case exit => exact leave_wf h ..
  case brk | scall => exact (raiseWord_wf ..).2 h
  case yield => exact execYield_wf h ..
  case fork => exact execFork_wf h ..
  case rdv => exact execRdv_wf h ..
  case lcntWrite => exact execLcntWrite_wf h ..
  case vsetvl | vsetvli => exact setLength_wf h ..
  case vsetvlq => exact execVsetvlq_wf h ..
  case lpart => exact execLpart_wf h ..
  case gang => exact execGang_wf h ..
  case ungang => exact execUngang_wf h ..
  case vadd | vsub | vrsub | vand | vor | vxor | vsll | vsrl | vsra | vmin | vmax | vminn | vmaxn | vmul | vmulh
    | vmulhn | vdiv | vdivn | vrem | vremn | vsadd | vsaddn | vssub | vssubn | vmv | vpope | vclz | vbext | vfshr
    | vaddX | vsubX | vrsubX | vandX | vorX | vxorX | vsllX | vsrlX | vsraX | vminX | vmaxX | vminnX | vmaxnX | vmulX
    | vmulhX | vmulhnX | vdivX | vdivnX | vremX | vremnX | vsaddX | vsaddnX | vssubX | vssubnX | vmvX | vbextX
    | vfshrX | vaddi | vrsubi | vandi | vori | vxori | vslli | vsrli | vsrai | vmvi | vmini | vmaxi =>
    exact intMember_wf h ..
  case vaddc | vsubb | vaddcX | vsubbX => exact carryMember_wf h ..
  case vmerge | vmergeX => exact mergeMember_wf h ..
  case vseq | vsne | vslt | vsltn | vsle | vslen | vsgt | vsgtn | vfeq | vfne | vflt | vfle | vfunord =>
    exact cmpMember_wf h ..
  case vfadd | vfsub | vfmul | vfdiv | vfsqrt | vfmin | vfmax | vfmadd | vfmsub | vfnmadd | vfnmsub | vfsgnj
    | vfsgnjn | vfsgnjx | vfclass | vfrece | vfrsqe | vfexp2 | vfcvtif | vfcvtfi | vfaddX | vfsubX | vfmulX | vfdivX
    | vfminX | vfmaxX | vfmaddX | vfmsubX | vfnmaddX | vfnmsubX | vfsgnjX | vfsgnjnX | vfsgnjxX =>
    exact fpMember_wf h ..
  case vfnarrow | vfwiden => exact convMember_wf h ..
  case vredsum | vredmin | vredmax | vredminn | vredmaxn | vredand | vredor | vredxor =>
    exact redMember_wf h ..
  case vfredsum | vfredmin | vfredmax => exact fredMember_wf h ..
  case vpopc | vfirst => exact countMember_wf h _ _ pushQ1_wf ..
  case vpopq => exact countMember_wf h _ _ pushLq_wf ..
  case viota | vid | mtov => exact iotaMember_wf h ..
  case mand | mor | mxor | mandn | mnot | mslide1 | msbf | mmv =>
    exact maskMember_wf h ..
  case mfromv => exact execMfromv_wf h ..
  case vslideup | vslidedn | vpermx | vexpand | vrev | vbcast => exact permMember_wf h ..
  case vslide1up => exact execVslide1up_wf h ..
  case vslide1dn => exact execVslide1dn_wf h ..
  case vcompress => exact execVcompress_wf h ..
  case vmvxv => exact execVmvxv_wf h ..
  case vmvvx => exact execVmvvx_wf h ..
  case vld | vldS | vldG => exact vldMember_wf h ..
  case vldI => exact execVldI_wf h ..
  case vldFf => exact execVldFf_wf h ..
  case vst | vstS | vstG => exact vstMember_wf h ..
  case vstI => exact execVstI_wf h ..
  case vsamoAdd | vsamoMin | vsamoMax | vsamoMinn | vsamoMaxn | vsamoAnd | vsamoOr | vsamoXor | vsamoSwap =>
    exact samoMember_wf h ..
  case vsldl => exact execVsldl_wf h ..
  case vsstu => exact execVsstu_wf h ..
  case amoadd | amomin | amomax | amominn | amomaxn | amoand | amoor | amoxor | amoswap | amocas =>
    exact amoMember_wf h ..
  case vamoadd | vamomin | vamomax | vamominn | vamomaxn | vamoand | vamoor | vamoxor | vamoswap =>
    exact vamoMember_wf h ..
  case wbind => exact execWbind_wf h ..
  case wmode => exact execWmode_wf h ..
  case wform => exact execWform_wf h ..
  case wopen => exact execWopen_wf h ..
  case wclose => exact execWclose_wf h ..
  case wflush => exact execWflush_wf h ..
  case wdrop => exact execWdrop_wf h ..
  case wbindi => exact execWbindi_wf h ..
  case wnext => exact execWnext_wf h ..
  case wstat => exact execWstat_wf h ..
  case wld | wldS | wldX | wldG | wldD1 | wst | wstS | wstX | wstG | wstD1 =>
    exact winMember_wf h ..
  case ibegin | irange | ilist | ictr | imap | imapt | ifiltb | ifiltc | iflat | ifill =>
    exact buildMember_wf h ..
  case izip | ichain => exact joinMember_wf h ..
  case inext => exact execInext_wf h ..
  case ienough => exact execIenough_wf h ..
  case istat => exact execIstat_wf h ..
  case iseal => exact execIseal_wf h ..
  case mlds => exact execMlds_wf h ..
  case mldsv => exact execMldsv_wf h ..
  case mswap => exact execMswap_wf h ..
  case mzero => exact execMzero_wf h ..
  case mrow | mrowa | mrows | mrowsa => exact rowMember_wf h ..
  case mroww | mrowwa => exact streamMember_wf h ..
  case mwait => exact execMwait_wf h ..
  case kvset => exact execKvset_wf h ..
  case kvxlat => exact execKvxlat_wf h ..
  case kvxlatf => exact execKvxlatf_wf h ..
  case attn => exact execAttn_wf h ..
  case attnc => exact execAttnc_wf h ..
  case kvapp => exact execKvapp_wf h ..
  case kvinv => exact execKvinv_wf h ..
  case kvstat => exact execKvstat_wf h ..
  case attnBlock => exact execAttnBlock_wf h ..
  case fence => exact execFence_wf h ..
  case vfence => exact execVfence_wf h ..
  case lsync => exact execLsync_wf h ..
  case barrive => exact execBarrive_wf h ..
  case bwait => exact execBwait_wf h ..
  case bwaitReturn => exact execBwaitReturn_wf h ..
  case xsend => exact execXsend_wf h ..
  case xrecv => exact execXrecv_wf h ..
  case xstep | xbcast => exact spanMember_wf h ..
  case xredsum | xredmax => exact spanReduce_wf h ..
  case xring => exact execXring_wf _ _ _ h
  case xstat => exact execXstat_wf h ..
  case exchangeWatchdogExpiry => exact execExchangeWatchdogExpiry_wf h ..
  case ringCommit => exact execRingCommit_wf h ..
  case ringAbortNotice => exact execRingAbortNotice_wf h ..
  case launch => exact execLaunch_wf h ..
  case launcht => exact execLauncht_wf h ..
  case lwait => exact execLwait_wf h ..
  case tret => exact execTret_wf h ..
  case ctxsave => exact execCtxsave_wf _ h
  case ctxload => exact execCtxload_wf _ h
  case xlinv => exact execXlinv_wf h ..
  case xlinva => exact execXlinva_wf h ..
  case wfe => exact execWfe_wf h ..
  case halt => exact execHalt_wf h ..
  case caprd => exact execCaprd_wf h ..
  case reservedWord => exact (illegal_wf ..).2 h
  case writebackPerformed => exact execWritebackPerformed_wf h ..
  case iteratorTableRead => exact execIteratorTableRead_wf h ..
  case placeStart => exact execPlaceStart_wf h ..
  case hardPreemption => exact execHardPreemption_wf h ..
  case supervisorPreemptTimeout => exact execSupervisorPreemptTimeout_wf h ..
  case contextRestore => exact execContextRestore_wf h ..
  case parentStallSwap => exact execParentStallSwap_wf h ..
  case queueReset => exact execQueueReset_wf h ..
  case packetDispatch => exact execPacketDispatch_wf h ..
  case childDispatch => exact execChildDispatch_wf h ..
  case transferDispatch => exact execTransferDispatch_wf h ..
  case transferRetire => exact execTransferRetire_wf h ..
  case launchRetire => exact execLaunchRetire_wf h ..
  case completionRecordWrite => exact execCompletionRecordWrite_wf h ..
  case pageResponse => exact execPageResponse_wf h ..
  case atsInvalidation => exact execAtsInvalidation_wf h ..
  case functionLevelReset => exact execFunctionLevelReset_wf h ..
  case powerStateChange => exact execPowerStateChange_wf h ..
  case tenantTeardown => exact execTenantTeardown_wf h ..
  case pageReassign => exact execPageReassign_wf h ..
  case partitionChange => exact execPartitionChange_wf h ..
  case getVersion => exact execGetVersion_wf h ..
  case getCapabilities => exact execGetCapabilities_wf h ..
  case negotiateAlgorithms => exact execNegotiateAlgorithms_wf h ..
  case getDigests | getCertificate => exact negotiated_wf h ..
  case challenge | getMeasurements => exact signedReply_wf h ..
  case accessPerformed => exact execAccessPerformed_wf h ..
  case kvWalkerReadReturn => exact execKvWalkerReadReturn_wf h ..
  case exchangeRefused => exact execExchangeRefused_wf h ..
  case ringStepMessage => exact execRingStepMessage_wf h ..
  case priqWrite | singleBitError => exact h
  case coldReset => exact wf_resetDevice h
  case hotReset => exact wf_hotReset h
  case jal | jalr | lfork | ljoin | lexit | qput | qget | lvget
    | lvput | libld | movs | sets | preemptReqWrite | gangFormed | binit | tlwait | hevt | hwait | harm
    | harnessCycle | exchangePairTransfer | wfeTimeout | loopWrap | slabLanded | streamRowEnter | matrixOpStart
    | matrixOpComplete | preemptLeftExpiry | priorityPromotion | doorbell | completionHead | registerWrite
    | queueCreate | queueSwapIn | packetAgeEscalation | meshRestitch | lamefFlitReceive | lamefFlitReplay
    | lamefPortDown | memoryDoubleError | configRequest | tenantCreate =>
    simpa using h

/-- The state after an instruction that ends in one. -/
theorem exec_next_wf {i : Instr} {s t : State} (h : s.storage.Wf) (ht : exec i s = .next t) : t.storage.Wf := by
  have hw := exec_wf i h
  rwa [ht] at hw

/-! ### Fetch -/

/-- The state that fetching leaves, with an instruction or a trap, has a well-formed storage. -/
def Fetched.Wf : Fetched → Prop
  | .ok _ s => s.storage.Wf
  | .trap o => Out.Wf o

@[simp] theorem Fetched.wf_ok (i : Instr) (s : State) : (Fetched.ok i s).Wf ↔ s.storage.Wf := Iff.rfl
@[simp] theorem Fetched.wf_trap (o : Out) : (Fetched.trap o).Wf ↔ Out.Wf o := Iff.rfl

@[simp] theorem fetchLane_wf (l : Nat) (s : State) : (fetchLane l s).Wf ↔ s.storage.Wf := by
  simp only [fetchLane]
  split
  · simp
  · split
    · simp
    · split
      · simp
      · split <;> simp

@[simp] theorem fetchScalar_wf (s : State) : (fetchScalar s).Wf ↔ s.storage.Wf := by
  simp only [fetchScalar]
  split
  · simp
  · split
    · simp
    · split <;> simp

@[simp] theorem State.fetch_wf (s : State) : s.fetch.Wf ↔ s.storage.Wf := by
  unfold State.fetch
  split <;> simp

theorem fetch_ok_wf {s t : State} {i : Instr} (h : s.storage.Wf) (ht : s.fetch = .ok i t) : t.storage.Wf := by
  have hw := s.fetch_wf.2 h
  rwa [ht] at hw

theorem fetch_trap_wf {s : State} {o : Out} (h : s.storage.Wf) (ho : s.fetch = .trap o) : o.Wf := by
  have hw := s.fetch_wf.2 h
  rwa [ho] at hw

theorem stepWord_wf {s : State} (h : s.storage.Wf) : (stepWord s).Wf := by
  unfold stepWord
  split
  · exact fetch_trap_wf h ‹_›
  · exact exec_wf _ (fetch_ok_wf h ‹_›)

/-! ### The head of the vector stream -/

/-- Where the run of the head of the stream ends in a state, it keeps the one form. -/
def RunWf (run : State → Option State) : Prop := ∀ s t, s.storage.Wf → run s = some t → t.storage.Wf

/-- The state of a run, or the one it began in. -/
theorem RunWf.getD {run : State → Option State} (hr : RunWf run) {s u : State} (h : s.storage.Wf) (hu : u.storage.Wf) :
    ((run s).getD u).storage.Wf := by
  cases hs : run s with
  | none => exact hu
  | some t => exact hr s t h hs

theorem runAdvance_wf (e : Issued) : RunWf (runAdvance e) := by
  intro s t h ht
  unfold runAdvance at ht
  extract_lets old new s0 r at ht
  have h0 : s0.storage = s.storage := State.storage_modMe _ _
  have hr : r.Keeps s.storage := by
    refine foldl_keeps (fun r : AdvRes => r.Keeps s.storage) _ (fun r k hr => ?_) _ _ h0
    split
    · split
      · exact hr
      · rename_i u _
        have ha := advanceAll_keeps k old new e.seq u allWins
        rwa [(AdvRes.keeps_done _ u).1 hr] at ha
    · exact hr
  clear_value r
  split at ht
  · cases ht
    exact State.wf_fencedDone ((AdvRes.keeps_done _ _).1 hr ▸ h)
  · split at ht <;> cases ht
    rw [State.storage_modMe, (AdvRes.keeps_full _ _).1 hr]
    exact h
  · cases ht
    rw [storage_streamTrap, State.storage_update, State.storage_modMe, h0]
    exact h

theorem stepStream_wf : RunWf stepStream := by
  intro s t h ht
  unfold stepStream at ht
  split at ht
  · cases ht
  · split at ht
    · cases ht
    · split at ht
      · exact runAdvance_wf _ s t h ht
      · split at ht
        · rename_i he
          split at ht <;> cases ht
          exact exec_next_wf (by simpa only [State.storage_update, State.storage_modMe] using h) he
        · cases ht

section
variable {run : State → Option State} (hr : RunWf run) {s : State} (h : s.storage.Wf)
include hr h

theorem wf_runAhead (k e : Nat) : (runAhead run k e s).storage.Wf := by
  unfold runAhead
  split
  · exact h
  · split
    · exact h
    · split
      · exact h
      · rename_i t ht
        split
        · exact h
        · simpa only [State.storage_update, State.storage_modMe] using
            hr _ t (by simpa only [State.storage_update, State.storage_modMe] using h) ht

theorem wf_stopStream : (stopStream run s).storage.Wf := by
  unfold stopStream
  split
  · exact h
  · split
    · exact h
    · extract_lets s1
      have h1 : s1.storage.Wf := by
        simp only [s1]
        exact hr.getD (by simpa only [State.storage_update] using h) h
      clear_value s1
      split
      · exact h1
      · exact wf_foldl (fun t y ht => wf_runAhead hr (by simpa only [State.storage_update] using ht) _ _) _ h1

theorem wf_straddled {complete : State → State} (hc : ∀ t, t.storage.Wf → (complete t).storage.Wf) (num r : Nat) :
    (straddled run complete num r s).storage.Wf := by
  unfold straddled
  split
  · split
    · exact h
    · extract_lets cut old mix
      split
      · rename_i t ht
        exact hc t (hr _ t (by simpa using h) ht)
      · exact h
  · exact h

theorem boundary_wf {t : State} (ht : boundary run s = some t) : t.storage.Wf := by
  unfold boundary at ht
  extract_lets s1 s2 at ht
  have h1 : s1.storage.Wf := by simpa [s1] using h
  have h2 : s2.storage.Wf := wf_stopStream hr h
  clear_value s1 s2
  split at ht
  · cases ht
    exact h1
  · split at ht
    · split at ht <;> cases ht
      simpa using h
    · split at ht
      · split at ht
        · cases ht
          exact h2
        · have hw := saveContext_wf h2 s2.who s2.me.pc
          split at ht
          · rename_i hs
            cases ht
            rwa [hs] at hw
          · cases ht
            exact wf_takeHard h2 _
          · cases ht
      · cases ht

end

/-! ### Turns -/

@[simp] theorem State.storage_rotate (s : State) : s.rotate.storage = s.storage := by rw [State.rotate, State.storage_update]

section
variable {s : State} (h : s.storage.Wf)
include h

theorem firstEvent_wf {l : List Instr} {t : State} (ht : firstEvent l s = some t) : t.storage.Wf := by
  obtain ⟨i, -, hi⟩ := List.exists_of_findSome?_eq_some ht
  split at hi
  · rename_i he
    split at hi <;> cases hi
    simpa only [State.storage_update] using exec_next_wf h he
  · cases hi

theorem wf_turnOver : (turnOver s).storage.Wf := by
  rw [turnOver, State.storage_rotate]
  refine wf_foldl (fun t i ht => ?_) _ h
  split
  · exact exec_next_wf ht ‹_›
  · exact ht

theorem wf_stepQuiet : (stepQuiet s).storage.Wf := by
  unfold stepQuiet
  split
  · simpa only [State.storage_update, State.storage_rotate] using h
  · cases hf : firstEvent (timeEvents s) s with
    | none => simpa using h
    | some t => exact firstEvent_wf h hf

theorem stepWaiting_wf : (stepWaiting s).Wf := by
  unfold stepWaiting
  split
  · exact firstEvent_wf h ‹_›
  · have hw := stepWord_wf h
    split
    · split
      · rename_i t ht
        rw [ht, Out.wf_next] at hw
        rw [Out.wf_next]
        split
        · exact wf_stepQuiet hw
        · exact hw
      · exact hw
    · exact wf_stepQuiet h

theorem stepScalar_wf : (stepScalar s).Wf := by
  unfold stepScalar
  split
  · exact boundary_wf stepStream_wf h ‹_›
  · split
    · rw [Out.wf_next, State.storage_update]
      exact stepStream_wf s _ h ‹_›
    · split
      · exact stepWord_wf (by simpa only [State.storage_update] using h)
      · exact stepWaiting_wf h

theorem stepAgent_wf : (stepAgent s).Wf := by
  unfold stepAgent
  split
  · split
    · exact firstEvent_wf h ‹_›
    · exact wf_stepQuiet h
  · split
    · exact stepWord_wf (by simpa only [State.storage_update] using h)
    · exact stepScalar_wf h

/-! ### What the agenda names -/

theorem wf_stepTo (e : Nat) : (stepTo e s).storage.Wf := by
  unfold stepTo
  split
  · exact h
  · rw [State.storage_update]
    exact stepStream_wf.getD (by simpa only [State.storage_update] using h) h

theorem stepIssue_wf : (stepIssue s).Wf := by
  have hw : (stepWord { s with pace := some 0 }).Wf := stepWord_wf (by simpa only [State.storage_update] using h)
  unfold stepIssue
  split
  · split
    · rename_i t ht
      rw [ht] at hw
      simpa only [Out.wf_next, State.storage_update] using hw
    · exact hw
  · exact h

theorem wf_completeRow (num : Nat) : (completeRow num s).storage.Wf := by
  unfold completeRow
  split
  · exact exec_next_wf h ‹_›
  · exact h

omit h in
@[simp] theorem State.storage_addLoad (l : Option LateLoad) (s : State) : (s.addLoad l).storage = s.storage := by
  unfold State.addLoad
  split
  · rw [State.storage_update]
  · rfl

theorem stepDefer_wf : (stepDefer s).Wf := by
  unfold stepDefer
  split
  · split
    · exact fetch_trap_wf h ‹_›
    · rename_i i s1 hf
      have hw := exec_wf i (fetch_ok_wf h hf)
      split
      · rename_i t ht
        rw [ht, Out.wf_next] at hw
        rw [Out.wf_next]
        split
        · simpa using hw
        · exact hw
      · exact hw
  · exact h

theorem stepFree_wf : (stepFree s).Wf := by
  have hs (a : List Sched) : ({ s with agenda := a } : State).storage.Wf := by simpa only [State.storage_update] using h
  unfold stepFree
  split
  · exact exec_wf _ (hs _)
  · simpa only [Out.wf_next, State.storage_update] using h
  · exact (Out.wf_next _).2 (wf_stepTo (hs _) _)
  · exact (Out.wf_next _).2 (wf_runAhead stepStream_wf (hs _) _ _)
  · exact (Out.wf_next _).2 (wf_straddled stepStream_wf (hs _) (fun t ht => wf_completeRow ht _) _ _)
  · exact stepIssue_wf (hs _)
  · exact stepDefer_wf (hs _)
  · simpa only [Out.wf_next, State.storage_update] using h
  · simpa only [Out.wf_next, State.storage_update] using h
  · split
    · exact wf_turnOver h
    · exact stepAgent_wf (by simpa only [State.storage_update] using h)

/-! ### One step -/

omit h in
@[simp] theorem storage_bindLoad (s : State) (l : LateLoad) : (bindLoad s l).storage = s.storage := by
  simp only [bindLoad, State.storage_modHart, State.storage_sawBytes]

omit h in
@[simp] theorem storage_bindLoads (s : State) : (bindLoads s).storage = s.storage := by
  simp only [bindLoads, State.storage_update]
  exact storage_foldl storage_bindLoad _ s

theorem step_wf : Out.Wf (step s) := by
  have hf := stepFree_wf h
  have hb : (stepFree (bindLoads s)).Wf := stepFree_wf (by simpa using h)
  unfold step
  split
  · exact hf
  · split
    · split
      · split
        · rename_i ht _
          rwa [ht] at hf
        · exact hb
      · exact hf
    · exact hb

end

end Sys2Proof.Machine

namespace Sys2Proof

open Machine

/-- Settles O59: memory and each scratch change only by writes and filters that keep the one form, so whatever a step executes,
from the agenda or as the current agent's turn, keeps it. -/
theorem stepKeepsTheInvariant : Obligations.StepKeepsTheInvariant := by
  unfold Obligations.StepKeepsTheInvariant
  intro s t h ht
  have hw := step_wf (s.inv_iff.1 h)
  rw [ht] at hw
  exact t.inv_iff.2 hw

end Sys2Proof
end

section
/-!
SUPPORT. Registers read back, on the scalar unit and in a lane thread (R19, R84, R309).
-/

namespace Sys2Proof.Machine

/-! ### Updates that leave the state as it is -/

@[simp] theorem Core.setHart_self (k : Core) (n : HartNum) : k.setHart n (k.hart n) = k := by
  simp [Core.setHart, Core.hart, Vector.get_eq_getElem]

@[simp] theorem State.setCore_self (s : State) (c : CoreId) : s.setCore c (s.core c) = s := by
  simp [State.setCore, State.core, Vector.get_eq_getElem]

@[simp] theorem State.setHart_self (s : State) (w : Who) : s.setHart w (s.hart w) = s := by
  simp [State.setHart, State.hart]

@[simp] theorem State.setMe_self (s : State) : s.setMe s.me = s := s.setHart_self s.who

/-! ### Registers read back (R19, R84, R309) -/

@[simp] theorem Hart.supBank_setX (h : Hart) (r : XReg) (v : Word) : (h.setX r v).supBank = h.supBank := by
  obtain ⟨a, b, he⟩ := h.setX_banks r v
  rw [he]; rfl

/-- A register of the bank in force reads back as it was written, and no other register of that bank changes. -/
theorem Hart.x_setX (h : Hart) {d : XReg} (r : XReg) (v : Word) (hd : d ≠ 0) :
    (h.setX d v).x r = if r = d then v else h.x r := by
  have hn : d.toNat = r.toNat ↔ r = d := ⟨fun e => BitVec.eq_of_toNat_eq e.symm, fun e => e ▸ rfl⟩
  have hd' : (d == 0) = false := beq_eq_false_iff_ne.2 hd
  rw [Hart.x, Hart.supBank_setX, Hart.x]
  by_cases hr : r = 0
  · rw [hr, if_neg (Ne.symm hd)]; rfl
  · have hr' : (r == 0) = false := beq_eq_false_iff_ne.2 hr
    cases hb : h.supBank <;>
      simp only [Hart.setX, hd', hr', hb, Vector.get_eq_getElem, Vector.getElem_set, hn, Bool.false_eq_true, if_true, if_false]

/-- A granule of a register that a lane owns lies inside it (R19, R84). -/
theorem Hart.granule_setGranule (h : Hart) (r j l x : Nat) (hr : r < 32) (hl : l < 32) :
    (h.setGranule r l x).granule j l = if j = r then x % 2 ^ 64 else h.granule j l := by
  unfold Hart.granule Hart.setGranule
  rw [Hart.vreg_setVreg]
  by_cases hj : j = r
  · rw [if_pos ⟨hj, hr⟩, if_pos hj, getBits_setBits_same _ _ _ _ (by omega)]
  · rw [if_neg (fun c => hj c.1), if_neg hj]

theorem State.x_zero (s : State) : s.x 0 = 0 := by
  unfold State.x
  split <;> rfl

theorem State.setX_zero (s : State) (v : Word) : s.setX 0 v = s := by
  unfold State.setX
  split
  · rw [Hart.setX_zero, State.setMe_self]
  · rfl

/-- A register of the executing agent reads back as it was written, and no other register of it changes. -/
theorem State.x_setX {s : State} (hl : ∀ l, s.agent.lane = some l → l < 32) {d : XReg} (r : XReg) (v : Word) (hd : d ≠ 0) :
    (s.setX d v).x r = if r = d then v else s.x r := by
  cases h : s.agent.lane with
  | none =>
    rw [State.setX_scalar _ _ _ h, State.x_scalar _ _ (by exact h), State.me_setMe, Hart.x_setX _ _ _ hd, State.x_scalar _ _ h]
  | some l =>
    by_cases hr : r = 0
    · rw [hr, State.x_zero, State.x_zero, if_neg (Ne.symm hd)]
    · have hd' : (d == 0) = false := beq_eq_false_iff_ne.2 hd
      have hr' : (r == 0) = false := beq_eq_false_iff_ne.2 hr
      have hn : r.toNat = d.toNat ↔ r = d := BitVec.toNat_inj
      have hme : (s.setX d v).me = s.me.setGranule d.toNat l v.toNat := by
        simp only [State.setX, h, hd', Bool.false_eq_true, if_false]
        exact s.me_setMe _
      simp only [State.x, (s.setX_frame d v).2.2.1, h, hr', Bool.false_eq_true, if_false, hme,
        Hart.granule_setGranule _ _ _ _ _ d.isLt (hl l h), hn]
      split
      · exact BitVec.eq_of_toNat_eq (by rw [BitVec.toNat_ofNat, Nat.mod_mod, Nat.mod_eq_of_lt v.isLt])
      · rfl

end Sys2Proof.Machine

namespace Sys2Proof

open Machine

/-- Settles O1: on the scalar unit a register is an entry of the bank in force, in a lane thread it is the lane's granule of a
vector register. -/
theorem scalarRegisterReadAfterWrite : Obligations.ScalarRegisterReadAfterWrite := by
  unfold Obligations.ScalarRegisterReadAfterWrite
  intro s d r v hlane
  refine ⟨s.x_zero, s.setX_zero v, fun hd => ?_, fun hr => ?_⟩
  · rw [State.x_setX hlane _ _ hd, if_pos rfl]
  · by_cases hd : d = 0
    · rw [hd, State.setX_zero]
    · rw [State.x_setX hlane _ _ hd, if_neg hr]

end Sys2Proof
end

section
/-!
SUPPORT. The state after reset and the registers of a starting hart (R24, R310, R353).
-/

namespace Sys2Proof.Machine

/-- Every core of the device after reset is a core without an owner. -/
@[simp] theorem State.core_reset (c : CoreId) : State.reset.core c = Core.reset := by
  simp [State.core, State.reset, Vector.get_eq_getElem]

@[simp] theorem State.hart_reset (w : Who) : State.reset.hart w = Hart.reset := by
  simp [State.hart, Core.hart, Core.reset, Vector.get_eq_getElem]

@[simp] theorem Hart.loop_reset (k : CtrNum) : Hart.reset.loop k = LoopCtr.zero := by
  simp [Hart.loop, Hart.reset, Vector.get_eq_getElem]

@[simp] theorem Hart.win_reset (w : WinNum) : Hart.reset.win w = Window.clear := by
  simp [Hart.win, Hart.reset, Vector.get_eq_getElem]

@[simp] theorem Hart.iter_reset (i : StackNum) : Hart.reset.iter i = IStack.clear := by
  simp [Hart.iter, Hart.reset, Vector.get_eq_getElem]

theorem Hart.kv_reset (c : Fin 2) : Hart.reset.kv.get c = ⟨0, 0, 0xFFFFFFFF⟩ := by
  simp [Hart.reset, Vector.get_eq_getElem]

/-- The pieces of a starting hart that a launch does not give stand as R24 lists them. -/
theorem Launch.hart_pieces (l : Launch) (t : Tenant) (n segs : Nat) :
    (∀ k, (l.hart t n segs).loop k = Hart.reset.loop k) ∧ (∀ w, (l.hart t n segs).win w = Hart.reset.win w) ∧
      (∀ i, (l.hart t n segs).iter i = Hart.reset.iter i) ∧ (l.hart t n segs).kv = Hart.reset.kv :=
  ⟨fun _ => rfl, fun _ => rfl, fun _ => rfl, rfl⟩

end Sys2Proof.Machine

namespace Sys2Proof

open Machine

/-- Settles O60: after reset every core and every hart is the blank one, and a launch gives its hart its own values of the PC,
x2, the lanes and the supervisor registers alone. -/
theorem resetAndHartStart : Obligations.ResetAndHartStart := by
  unfold Obligations.ResetAndHartStart
  refine ⟨⟨reset_mem_wf, reset_scratch_wf⟩, fun _ => rfl, rfl, rfl, rfl, rfl, rfl, fun w => by rw [State.hart_reset]; rfl, ?_⟩
  intro l t n segs h
  obtain ⟨hloop, hwin, hiter, hkv⟩ := l.hart_pieces t n segs
  refine ⟨rfl, rfl, rfl, rfl, rfl, rfl, rfl, rfl, rfl, rfl, fun k => ?_, fun w => ?_, fun i => ?_, fun c => ?_,
    rfl, rfl, rfl, rfl, rfl, rfl, rfl, rfl, rfl, rfl, rfl, rfl, rfl⟩
  · rw [hloop, Hart.loop_reset]; rfl
  · rw [hwin, Hart.win_reset]; rfl
  · rw [hiter, Hart.iter_reset]; rfl
  · rw [hkv, Hart.kv_reset]

end Sys2Proof
end

section
/-!
SUPPORT. Fields of a word in the VR format, and the issue of a plain vector member to the stream (R20, R49, R312, R324).
-/

namespace Sys2Proof.Machine

/-! ### Words of the VR format -/

/-- The fields of a word lie one behind the other, from bit 31 down (R37). -/
theorem getLsbD_vr (m : BitVec 6) (d a b : BitVec 5) (p k : BitVec 3) (f : BitVec 5) (i : Nat) :
    (vr m d a b p k f).getLsbD i = if i < 5 then f.getLsbD i else if i < 8 then k.getLsbD (i - 5) else if i < 11 then p.getLsbD (i - 8)
      else if i < 16 then b.getLsbD (i - 11) else if i < 21 then a.getLsbD (i - 16) else if i < 26 then d.getLsbD (i - 21)
      else m.getLsbD (i - 26) := by
  change (m ++ d ++ a ++ b ++ p ++ k ++ f : BitVec (6 + 5 + 5 + 5 + 3 + 3 + 5)).getLsbD i = _
  simp only [BitVec.getLsbD_append]
  grind

@[simp] theorem majorOf_vr (m : BitVec 6) (d a b : BitVec 5) (p k : BitVec 3) (f : BitVec 5) :
    majorOf (vr m d a b p k f) = m.toNat := by
  have h : (vr m d a b p k f).extractLsb' 26 6 = m := by
    ext i hi
    have hn : ∀ n, n ≤ 26 → ¬ 26 + i < n := fun n hn => by omega
    simp [getLsbD_vr, hn, BitVec.getLsbD_eq_getElem hi]
  rw [majorOf, h]

@[simp] theorem fnOf_vr (m : BitVec 6) (d a b : BitVec 5) (p k : BitVec 3) (f : BitVec 5) :
    fnOf (vr m d a b p k f) = f.toNat := by
  have h : (vr m d a b p k f).extractLsb' 0 5 = f := by
    ext i hi
    simp [getLsbD_vr, hi]
  rw [fnOf, h]

/-- A member of a vector unit below 30H commands no engine (R263). -/
theorem isEngine_of_major {w : Insn} (h : majorOf w < 0x30) : isEngine w = false := by
  simp [isEngine]
  omega

/-! ### Register groups (R46) -/

theorem sewOf_pos (t : Word) : 0 < sewOf t := by simp [sewOf, Nat.shiftLeft_eq]

theorem lmulOf_pos (t : Word) : 0 < lmulOf t := by simp [lmulOf, Nat.shiftLeft_eq]

/-- A group of the element width has LMUL registers. -/
@[simp] theorem emulOf_sew (t : Word) : emulOf t (sewOf t) = lmulOf t := by
  have h1 := lmulOf_pos t
  rw [emulOf, emul8, Nat.mul_div_cancel _ (sewOf_pos t), Nat.mul_div_cancel_left _ (by decide)]
  omega

/-- Two groups of the element width at different registers do not meet. -/
theorem overlaps_of_ne {t : Word} {d a : Nat} (hd : groupOk t d (sewOf t) = true) (ha : groupOk t a (sewOf t) = true)
    (hne : d ≠ a) : overlaps d (lmulOf t) a (lmulOf t) = false := by
  simp only [groupOk, emulOf_sew, Bool.and_eq_true, beq_iff_eq] at hd ha
  obtain ⟨⟨-, h1⟩, -⟩ := hd
  obtain ⟨⟨-, h2⟩, -⟩ := ha
  obtain ⟨x, rfl⟩ := Nat.dvd_of_mod_eq_zero h1
  obtain ⟨y, rfl⟩ := Nat.dvd_of_mod_eq_zero h2
  generalize lmulOf t = g at *
  rcases Nat.lt_or_gt_of_ne (fun e : x = y => hne (e ▸ rfl)) with h | h
  · have := Nat.mul_le_mul_left g (Nat.succ_le_of_lt h)
    have h3 : g * x + g ≤ g * y := by simpa [Nat.mul_succ] using this
    simp [overlaps]; omega
  · have := Nat.mul_le_mul_left g (Nat.succ_le_of_lt h)
    have h3 : g * y + g ≤ g * x := by simpa [Nat.mul_succ] using this
    simp [overlaps]; omega

/-- The scalar unit's trap waits for the vector instructions before it (R312). -/
theorem raise_of_busy {t : Trap} {s : State} (hs : s.OnScalar) (hd : s.me.allDone = false) :
    raise t s = .next (s.setMe { s.me with run := .waiting .stream }) := by
  rcases raise_cases t s with ⟨-, -, -, h⟩ | ⟨h, -⟩
  · exact h
  · rw [h hs.1 hs.2.1] at hd; cases hd

/-! ### Issue to the stream (R20, R49, R56, R324) -/

/-- A member of R44 that captures the scalars xs, commands no engine and passes its own check in s; `needs0` tells whether it
needs VSTART 0 (R49). -/
def IssuesAs (i : Instr) (needs0 : Bool) (xs : List Word) (s : State) : Prop :=
  isEngine (encodeWord i) = false ∧ ∃ ok caps body,
    ok s.me = true ∧ caps s = xs ∧ exec i s = vissue (encodeWord i) (checkType (!needs0) ok) caps body s

theorem IssuesAs.of_exec {i : Instr} {needs0 : Bool} {ok : Hart → Bool} {caps : State → List Word} {body : Capture → State → VRes}
    {s : State} (hx : exec i s = vissue (encodeWord i) (checkType (!needs0) ok) caps body s) (hm : majorOf (encodeWord i) < 0x30)
    (hok : ok s.me = true) : IssuesAs i needs0 (caps s) s :=
  ⟨isEngine_of_major hm, ok, caps, body, hok, rfl, hx⟩

section
variable {d a b : VReg} {x : XReg} {k m : MReg} {s : State} (hd : groupOk s.me.vtype d.toNat (sewOf s.me.vtype) = true)
  (ha : groupOk s.me.vtype a.toNat (sewOf s.me.vtype) = true) (hb : groupOk s.me.vtype b.toNat (sewOf s.me.vtype) = true)

theorem issuesAs_vpopc : IssuesAs (.vpopc m k) true [] s :=
  .of_exec (caps := fun _ => []) rfl ((majorOf_vr ..).trans_lt (by decide)) rfl

theorem issuesAs_mand : IssuesAs (.mand m k m) true [] s :=
  .of_exec (caps := fun _ => []) rfl ((majorOf_vr ..).trans_lt (by decide)) rfl

include hd in
theorem issuesAs_vmvX : IssuesAs (.vmvX d x k) false [s.x x] s :=
  .of_exec (caps := capX x) rfl ((majorOf_vr ..).trans_lt (by decide)) (by simp [groupsOk, hd])

include hd in
theorem issuesAs_viota : IssuesAs (.viota d m k) true [] s :=
  .of_exec (caps := fun _ => []) rfl ((majorOf_vr ..).trans_lt (by decide)) (by simp [groupsOk, hd])

include hd ha in
theorem issuesAs_vaddX : IssuesAs (.vaddX d a x k) false [s.x x] s :=
  .of_exec (caps := capX x) rfl ((majorOf_vr ..).trans_lt (by decide)) (by simp [groupsOk, hd, ha])

include hd ha in
theorem issuesAs_vmulhX : IssuesAs (.vmulhX d a x k) false [s.x x] s :=
  .of_exec (caps := capX x) rfl ((majorOf_vr ..).trans_lt (by decide)) (by simp [groupsOk, hd, ha])

include hd ha in
/-- A slide needs its two groups apart (R114). -/
theorem issuesAs_vslidedn (hne : d ≠ a) : IssuesAs (.vslidedn d a x k) true [s.x x] s :=
  .of_exec (caps := capX x) rfl ((majorOf_vr ..).trans_lt (by decide))
    (by simp [groupsOk, hd, ha, overlaps_of_ne hd ha (fun e => hne (BitVec.eq_of_toNat_eq e))])

include hd ha hb in
theorem issuesAs_vadd : IssuesAs (.vadd d a b 0 k) false [] s :=
  .of_exec (caps := fun _ => []) rfl ((majorOf_vr ..).trans_lt (by decide)) (by simp [groupsOk, hd, ha, hb])

include hd ha hb in
theorem issuesAs_vredsum : IssuesAs (.vredsum d a b k) true [] s :=
  .of_exec (caps := fun _ => []) rfl ((majorOf_vr ..).trans_lt (by decide)) (by simp [groupsOk, hd, ha, hb])

end

section
variable {i : Instr} {needs0 : Bool} {xs : List Word} {s : State} (hi : IssuesAs i needs0 xs s) (hs : s.OnScalar)
  (hf : s.stores.all (fun t => t.who != s.who || !t.fenced) = true) (hv : s.me.vill = false)
include hi hs hf hv

theorem issue_enters (h0 : s.me.vstartNow = 0 ∨ needs0 = false) (hst : s.me.stream ≠ []) (ho : s.me.outstanding < 32) :
    exec i s = .next (finish (s.enqueue (encodeWord i) (s.capture xs) none s.snap)) := by
  obtain ⟨he, ok, caps, body, hok, rfl, hx⟩ := hi
  have hc : checkType (!needs0) ok s = none := by
    rcases h0 with h0 | h0 <;> simp [checkType, hv, hok, h0]
  rw [hx]
  rcases vissue_cases (encodeWord i) (checkType (!needs0) ok) caps body s (fencedDone_of_none hf) with
    ⟨e, h, -⟩ | ⟨c, -, h, -⟩ | ⟨-, -, h, -⟩ | ⟨-, -, -, h, -⟩ | ⟨-, -, -, -, h⟩
  · simp [hs.1] at h
  · simp [hc] at h
  · exact absurd h hst
  · omega
  · rw [h, disarm_of_plain he, State.captureNow, he]
    rfl

theorem issue_waits (h0 : s.me.vstartNow = 0 ∨ needs0 = false) (hst : s.me.stream ≠ []) (ho : 32 ≤ s.me.outstanding) :
    Waits i .stream s := by
  obtain ⟨he, ok, caps, body, hok, rfl, hx⟩ := hi
  have hc : checkType (!needs0) ok s = none := by
    rcases h0 with h0 | h0 <;> simp [checkType, hv, hok, h0]
  rw [Waits, hx]
  rcases vissue_cases (encodeWord i) (checkType (!needs0) ok) caps body s (fencedDone_of_none hf) with
    ⟨e, h, -⟩ | ⟨c, -, h, -⟩ | ⟨-, -, h, -⟩ | ⟨-, -, -, -, h⟩ | ⟨-, -, -, h, -⟩
  · simp [hs.1] at h
  · simp [hc] at h
  · exact absurd h hst
  · exact h
  · omega

/-- Where it needs VSTART 0 and would start elsewhere, it raises ILLEGAL_INSN. -/
theorem issue_raises (h0 : s.me.vstartNow ≠ 0) (hn : needs0 = true) : exec i s = raiseWord .illegalInsn (encodeWord i) s := by
  obtain ⟨he, ok, caps, body, hok, rfl, hx⟩ := hi
  have hc : checkType (!needs0) ok s = some .illegalInsn := by simp [checkType, hv, hok, h0, hn]
  rw [hx]
  rcases vissue_cases (encodeWord i) (checkType (!needs0) ok) caps body s (fencedDone_of_none hf) with
    ⟨e, h, -⟩ | ⟨c, -, h, hr⟩ | ⟨-, h, -⟩ | ⟨-, h, -⟩ | ⟨-, h, -⟩
  · simp [hs.1] at h
  · rw [hc, Option.some_inj] at h
    rw [hr, h]
  all_goals simp [hc] at h

theorem issue_illegal (h0 : s.me.vstartNow ≠ 0) (hn : needs0 = true) (hst : s.me.stream = []) (hp : s.me.pulls.all (·.formed) = true) :
    TrapsWord i .illegalInsn s := by
  rw [TrapsWord, Traps, issue_raises hi hs hf hv h0 hn, raiseWord, raise_of_quiet ⟨hs, hst, hp, hf⟩]

theorem issue_illegal_waits (h0 : s.me.vstartNow ≠ 0) (hn : needs0 = true) (hst : s.me.stream ≠ []) : Waits i .stream s := by
  have hd : s.me.allDone = false := by simp [Hart.allDone, hst]
  rw [Waits, issue_raises hi hs hf hv h0 hn, raiseWord, raise_of_busy hs hd]

end

end Sys2Proof.Machine
end

section
namespace Sys2Proof

open Machine

/-- Settles O36: each of the members is one of R44 whose own check the groups pass, so it enters the stream behind others with what
it captures, waits where 32 are outstanding, and is illegal where it would start elsewhere than at 0. -/
theorem vectorStreamIssue : Obligations.VectorStreamIssue := by
  unfold Obligations.VectorStreamIssue
  intro s d a b x k m i caps hs hf hv h w hd ha hb hmem hda needs0
  have key : ∃ n0 : Bool, IssuesAs i n0 caps s ∧ (needs0 ↔ n0 = true) := by
    simp only [List.mem_cons, Prod.mk.injEq, List.not_mem_nil, or_false] at hmem
    rcases hmem with ⟨rfl, rfl⟩ | ⟨rfl, rfl⟩ | ⟨rfl, rfl⟩ | ⟨rfl, rfl⟩ | ⟨rfl, rfl⟩ | ⟨rfl, rfl⟩ | ⟨rfl, rfl⟩ | ⟨rfl, rfl⟩ | ⟨rfl, rfl⟩
    · exact ⟨false, issuesAs_vadd hd ha hb, by simp [needs0]⟩
    · exact ⟨false, issuesAs_vaddX hd ha, by simp [needs0]⟩
    · exact ⟨false, issuesAs_vmulhX hd ha, by simp [needs0]⟩
    · exact ⟨false, issuesAs_vmvX hd, by simp [needs0]⟩
    · exact ⟨true, issuesAs_vredsum hd ha hb, by simp [needs0]⟩
    · exact ⟨true, issuesAs_vpopc, by simp [needs0]⟩
    · exact ⟨true, issuesAs_viota hd, by simp [needs0]⟩
    · exact ⟨true, issuesAs_vslidedn hd ha (hda rfl), by simp [needs0]⟩
    · exact ⟨true, issuesAs_mand, by simp [needs0]⟩
  obtain ⟨n0, hi, hn⟩ := key
  refine ⟨fun hst h0 ho => ?_, fun hst h0 ho => ?_, rfl, fun h0 hn0 hst => ?_, fun h0 hn0 hst hp => ?_⟩
  · exact issue_enters hi hs hf hv (h0.imp_right (by simp [hn])) hst ho
  · exact issue_waits hi hs hf hv (h0.imp_right (by simp [hn])) hst ho
  · exact issue_illegal_waits hi hs hf hv h0 (hn.1 hn0) hst
  · exact issue_illegal hi hs hf hv h0 (hn.1 hn0) hst hp

end Sys2Proof
end

section
/-!
SUPPORT. The result queues of a hart: QPUT and QGET, and the vector members that push (R30, R31, R73, R112, R113, R116).
-/

namespace Sys2Proof.Machine

/-! ### Members that run at once -/

/-- Where no granule is marked, no read meets one. -/
theorem badReads_of_none {s : State} (h : s.bad = []) (es : List Nat) (rd : Nat → List Rd) : badReads s es rd = none := by
  simp [badReads, h]

/-- With nothing outstanding VSTART is what a member sees (R49). -/
theorem Hart.vstartNow_of_empty {h : Hart} (hs : h.stream = []) : h.vstartNow = h.vstart := by simp [Hart.vstartNow, hs]

/-- With no instruction behind, a queue's push stands in no snapshot. -/
theorem Hart.keepInSnaps_of_empty {h : Hart} (hs : h.stream = []) (hp : h.pulls = []) (q : Nat) (f : ScalarSnap → ScalarSnap) :
    h.keepInSnaps q f = h := by
  obtain ⟨⟩ := h
  subst hs hp
  rfl

section
variable {s : State} (hr : s.Ready)
include hr

theorem quiet_of_ready : s.Quiet := hr.1

theorem stream_of_ready : s.me.stream = [] := hr.1.2.1

theorem bad_of_ready : s.bad = [] := hr.2.1

theorem pulls_of_ready : s.me.pulls = [] := hr.2.2.1

theorem outBusy_of_ready (w : Insn) (t : Word) : s.me.outBusy w t = false :=
  outBusy_of_none w t (pulls_of_ready hr) hr.2.2.2.1

theorem pushQ1_of_room (v : Word) (h : s.me.q1.length < 16) : pushQ1 v s = .done (s.setMe { s.me with q1 := s.me.q1 ++ [v] }) := by
  rw [pushQ1, if_neg (by omega), State.modMe,
    Hart.keepInSnaps_of_empty (h := { s.me with q1 := s.me.q1 ++ [v] }) (stream_of_ready hr) (pulls_of_ready hr)]

theorem pushLq_of_room (v : Word) (h : s.me.lq.length < 8) : pushLq v s = .done (s.setMe { s.me with lq := s.me.lq ++ [v] }) := by
  rw [pushLq, if_neg (by omega), State.modMe, Hart.pushLq,
    Hart.keepInSnaps_of_empty (h := { s.me with lq := s.me.lq ++ [v] }) (stream_of_ready hr) (pulls_of_ready hr)]

/-- A member of R44 that needs VSTART 0 and reads no register of the stream passes its check. -/
theorem checkType_of_ready {vOk : Bool} {ok : Hart → Bool} (hv : s.me.vill = false) (h0 : s.me.vstart = 0) (hok : ok s.me = true) :
    checkType vOk ok s = none := by
  simp [checkType, hv, hok, Hart.vstartNow_of_empty (stream_of_ready hr), h0]

/-- VPOPC, VPOPQ and VFIRST run at once, and push what they counted or found. -/
theorem countMember_now {w : Insn} (hw : majorOf w < 0x30) (f : List Nat → Word) (push : Word → State → VRes) (src k : MReg)
    (hv : s.me.vill = false) (h0 : s.me.vstart = 0) :
    countMember w f push src k s = match push (f (setElems s.me src k s.me.vl)) s with
      | .done u => .next (finish u)
      | .block => .next (finish (s.enqueue w (s.capture []) none s.snap))
      | .wait cap held u => .next (finish (u.enqueue w cap held s.snap))
      | .trap t u => .next (streamTrap t t.cause.squash s.pcNow u)
      | .squash t u => .next (streamTrap t true s.pcNow u) := by
  rw [countMember, vissue_now (quiet_of_ready hr) (checkType_of_ready hr hv h0 rfl) (outBusy_of_ready hr w _), badReads_of_none (bad_of_ready hr)]
  simp only [disarm_of_plain (isEngine_of_major hw), State.captureNow, isEngine_of_major hw]
  rfl

end

/-- A member that enters an empty stream stands there alone, and no queue and no register changes. -/
theorem enqueue_alone {s : State} (hs : s.me.stream = []) (w : Insn) (cap : Capture) (snap : ScalarSnap) :
    ∃ e, (s.enqueue w cap none snap).me.stream = [e] ∧ e.word = w ∧ (s.enqueue w cap none snap).me.q1 = s.me.q1 ∧
      (s.enqueue w cap none snap).me.lq = s.me.lq ∧ (s.enqueue w cap none snap).me.v = s.me.v := by
  have hme : (s.enqueue w cap none snap).me = { s.me with
      nextSeq := s.me.nextSeq + 1, stream := s.me.stream ++ [⟨w, cap, s.me.nextSeq, none, s.nextId, snap, none⟩] } := s.me_setMe _
  rw [hme, hs]
  exact ⟨_, rfl, rfl, rfl, rfl, rfl⟩

end Sys2Proof.Machine

namespace Sys2Proof

open Machine

/-- Settles O6: QPUT and QGET act on the queue that they name, and the members that push run at once where nothing is
outstanding, so that only the room of their queue decides. -/
theorem nopAndResultQueues : Obligations.NopAndResultQueues := by
  unfold Obligations.NopAndResultQueues
  refine ⟨fun s d a hl => ⟨rfl, fun ho => ⟨fun hq => ?_, fun hq => ?_⟩, fun ho hp => ?_, fun v q hq => ?_, fun hq => ?_⟩,
    fun s m k a hr hv h0 => ?_⟩
  · have hno : (s.me.owed != 0 && !s.me.trap.priv) = false := by
      rcases ho with h | h <;> simp [h]
    change execQput a s = _
    rw [execQput, hno, if_neg (by decide), if_neg (by omega), State.x_scalar _ _ hl]
    rfl
  · have hno : (s.me.owed != 0 && !s.me.trap.priv) = false := by
      rcases ho with h | h <;> simp [h]
    change execQput a s = _
    rw [execQput, hno, if_neg (by decide), if_pos (by exact hq)]
    rfl
  · change execQput a s = _
    rw [execQput, if_pos (by simp [ho, hp])]
    rfl
  · change execQget d s = _
    rw [execQget, hq]
    rfl
  · change execQget d s = _
    rw [execQget, hq]
    rfl
  · intro h found n first zeroth
    have h28 (d a b : BitVec 5) (p k : MReg) (f : BitVec 5) : majorOf (vr 0x28#6 d a b p k f) < 0x30 := (majorOf_vr ..).trans_lt (by decide)
    refine ⟨fun hq => ?_, fun hq => ?_, fun hq hg => ?_, fun hq => ?_, fun i hi => ?_⟩
    · change execVpopc m k s = _
      rw [execVpopc, countMember_now hr (h28 ..) _ _ _ _ hv h0, pushQ1_of_room hr _ hq]
      rfl
    · change execVfirst m k s = _
      have hfirst : first = ((setElems s.me m k s.me.vl).head?.map (fun e => BitVec.ofNat 64 e)).getD (BitVec.allOnes 64) := rfl
      rw [hfirst, execVfirst, countMember_now hr (h28 ..) _ _ _ _ hv h0, pushQ1_of_room hr _ hq]
      cases setElems s.me m k s.me.vl <;> rfl
    · have h29 : majorOf (vr 0x29#6 0#5 a 0#5 0#3 0#3 10#5) < 0x30 := (majorOf_vr ..).trans_lt (by decide)
      change execVmvvx a s = _
      rw [execVmvvx, vissue_completes (quiet_of_ready hr) (checkType_of_ready hr hv h0 (by simpa [groupsOk] using hg)) (outBusy_of_ready hr _ _)
        (u := s.setMe { s.me with q1 := s.me.q1 ++ [zeroth] }), disarm_of_plain (isEngine_of_major h29)]
      rw [badReads_of_none (bad_of_ready hr)]
      exact pushQ1_of_room hr _ hq
    · change execVpopq m k s = _
      rw [execVpopq, countMember_now hr (h28 ..) _ _ _ _ hv h0, pushLq_of_room hr _ hq]
      rfl
    · have hfull : exec i s = .next (finish (s.enqueue (encodeWord i) (s.capture []) none s.snap)) := by
        rcases hi with ⟨hq, rfl⟩ | ⟨hq, rfl⟩
        · change execVpopc m k s = _
          rw [execVpopc, countMember_now hr (h28 ..) _ _ _ _ hv h0, pushQ1, if_pos (by exact hq)]
          rfl
        · change execVpopq m k s = _
          rw [execVpopq, countMember_now hr (h28 ..) _ _ _ _ hv h0, pushLq, if_pos (by exact hq)]
          rfl
      obtain ⟨e, he⟩ := enqueue_alone (stream_of_ready hr) (encodeWord i) (s.capture []) s.snap
      exact ⟨_, e, hfull, he⟩

end Sys2Proof
end

section
/-!
SUPPORT. Harts of a core under an update of the core, a hart with nothing under way as EXIT finds it, and FORK hart by hart
(R32, R74, R75, R76).
-/

namespace Sys2Proof.Machine

/-! ### Harts under an update of a core -/

theorem State.hart_modCore (s : State) (c : CoreId) (f : Core → Core) (w : Who) :
    (s.modCore c f).hart w = if w.core = c then (f (s.core c)).hart w.hart else s.hart w := by
  unfold State.hart State.modCore
  split
  · next h => rw [h, State.core_setCore]
  · next h => rw [State.core_setCore_ne _ _ _ _ h]

/-- An update of a core that leaves its harts leaves every hart. -/
theorem State.hart_modCore_of_harts {s : State} {c : CoreId} {f : Core → Core} (hf : (f (s.core c)).harts = (s.core c).harts)
    (w : Who) : (s.modCore c f).hart w = s.hart w := by
  rw [State.hart_modCore]
  split
  · next h => rw [State.hart, Core.hart, Core.hart, hf, h]
  · rfl

theorem State.hart_setHart_ite (s : State) (v w : Who) (h : Hart) : (s.setHart v h).hart w = if w = v then h else s.hart w := by
  split
  · next e => rw [e, State.hart_setHart]
  · next e => exact State.hart_setHart_ne _ _ _ _ e

theorem State.hart_modHart (s : State) (v w : Who) (f : Hart → Hart) :
    (s.modHart v f).hart w = if w = v then f (s.hart v) else s.hart w := s.hart_setHart_ite v w _

/-- An update of what no core holds leaves every hart. -/
theorem State.hart_congr {s t : State} (h : t.cores = s.cores) (w : Who) : t.hart w = s.hart w := by
  rw [State.hart, State.hart, State.core, State.core, h]

/-! ### Stores and fences of a hart without stores -/

theorem drainHart_of_none {s : State} {w : Who} (h : s.storesOf w = []) : drainHart w s = s := by
  rw [drainHart, h, List.foldl_nil]

/-- A full fence of a hart with no vector instruction, no store and no lost store only shows every write (R249). -/
theorem fullFence_of_done {s : State} (k : State → Out) (hv : s.me.vecDone = true) (hs : s.storesOf s.who = []) (hl : s.me.lost = none) :
    fullFence k s = k s.allSee := by
  rw [fullFence, vecFence, if_pos hv, drainHart_of_none hs, released, hl]

/-! ### The end of a hart (R74) -/

@[simp] theorem hart_releaseUnits (c : CoreId) (s : State) (w : Who) : (releaseUnits c s).hart w = s.hart w :=
  State.hart_modCore_of_harts rfl w

/-- With nothing queued there is no boundary to go back to. -/
theorem stopShort_of_empty {s : State} {w : Who} (hs : (s.hart w).stream = []) (hp : (s.hart w).pulls = []) : stopShort w s = s := by
  rw [stopShort, hs, hp]
  rfl

/-- The end of a hart with nothing queued and no store left is its own: no other hart, no memory and no store changes. -/
theorem endHart_frame {s : State} {w : Who} (hs : (s.hart w).stream = []) (hp : (s.hart w).pulls = []) (hst : s.storesOf w = []) :
    (∀ v, (endHart w s).hart v = if v = w then (s.hart w).ended else s.hart v) ∧ (endHart w s).mem = s.mem ∧
      (endHart w s).stores = s.stores ∧ (endHart w s).who = s.who := by
  have hd : drainHart w (stopShort w s) = s := by rw [stopShort_of_empty hs hp, drainHart_of_none hst]
  unfold endHart
  rw [hd]
  refine ⟨fun v => ?_, rfl, rfl, rfl⟩
  rw [hart_releaseUnits]
  change ((s.modCore w.core _).modHart w Hart.ended).hart v = _
  rw [State.hart_modHart, State.hart_modCore_of_harts rfl, State.hart_modCore_of_harts rfl]

/-- Only hart 0 takes the parked harts of its core with it. -/
theorem hart_endParked (s : State) (w : Who) :
    (endParked s).hart w = if s.who.hart = 0 ∧ w.core = s.who.core ∧ (s.hart w).run = .parked then
      { s.hart w with run := .running, ending := true } else s.hart w := by
  unfold endParked
  by_cases h0 : s.who.hart = 0
  · rw [if_neg (by simp [h0]), State.modMyCore, State.hart_modCore]
    by_cases hc : w.core = s.who.core
    · simp only [hc, if_true, h0, true_and, Core.hart, Vector.get_eq_getElem, Vector.getElem_map, State.hart, beq_iff_eq]
    · simp [hc]
  · rw [if_pos (by simpa using h0), if_neg (fun h => h0 h.1)]

/-- A hart's registers and queues do not tell whether it was parked. -/
theorem hart_endParked_like (s : State) (w : Who) : ∃ r e, (endParked s).hart w = { s.hart w with run := r, ending := e } := by
  rw [hart_endParked]
  split
  · exact ⟨_, _, rfl⟩
  · exact ⟨(s.hart w).run, (s.hart w).ending, rfl⟩

theorem endParked_frame (s : State) : (endParked s).mem = s.mem ∧ (endParked s).stores = s.stores ∧ (endParked s).who = s.who := by
  unfold endParked
  split <;> exact ⟨rfl, rfl, rfl⟩

/-- A hart with nothing under way is quiet at once, and no window or stack of it is left to close. -/
theorem quiesce_of_calm {s : State} (fin : Wait) (h : s.CalmAt s.who) : quiesce fin s = .done s := by
  obtain ⟨hst, hwin, hit, hq, -, -⟩ := h
  have hq' := hq
  simp only [State.quiet, Bool.and_eq_true, List.isEmpty_iff] at hq'
  obtain ⟨⟨⟨⟨⟨hre, -⟩, hp⟩, -⟩, -⟩, -⟩ := hq'
  have hw : ∀ l : List WinNum, l.foldl closeWin s = s := fun l => by
    induction l with
    | nil => rfl
    | cons w l ih => rw [List.foldl_cons, show closeWin s w = s by simp [closeWin, State.me, hwin], ih]
  have hi : ∀ l : List StackNum, l.foldl endOne s = s := fun l => by
    induction l with
    | nil => rfl
    | cons i l ih => rw [List.foldl_cons, show endOne s i = s by simp [endOne, State.me, hit], ih]
  have hopen : ∀ w, (s.me.win w).isOpen = false := fun w => by simp [Window.isOpen, State.me, hwin]
  have hst' : s.me.stream = [] := hst
  have hre' : s.me.reOps = [] := hre
  have hp' : s.me.pulls = [] := hp
  simp only [quiesce, hst', hre', hp', hopen, hw, hi, hq, List.isEmpty_nil, List.find?_nil, Bool.not_true, Bool.false_and,
    Bool.false_eq_true, if_false, if_true]
  rfl

/-- EXIT of a hart with nothing under way ends it, and sets parked harts of its core going to their own end. -/
theorem execExit_of_calm {s : State} (hv : s.me.vecDone = true) (hc : s.CalmAt s.who) (hg : s.me.gang = none) :
    execExit s = .next (endHart s.who (endParked s.allSee)) := by
  obtain ⟨-, -, -, -, hst, hl⟩ := id hc
  have hgang : gangMembers s.allSee = [] := by
    rw [gangMembers, show s.allSee.me = s.me from rfl, hg]
  rw [execExit, leave, whenQuiet, quiesce_of_calm _ hc]
  simp only
  rw [fullFence_of_done _ hv hst hl, hgang]
  rfl

/-- Such an EXIT touches no hart of another core, no memory and no store; its hart stands ended, the parked harts of hart 0 go
to their end, and every other hart of the core stays. -/
theorem endHart_endParked {s : State} (hs : s.me.stream = []) (hp : s.me.pulls = []) (hst : s.storesOf s.who = []) :
    let u := endHart s.who (endParked s)
    (∃ r e, u.me = Hart.ended { s.me with run := r, ending := e }) ∧
      (∀ w, w ≠ s.who → u.hart w = if s.who.hart = 0 ∧ w.core = s.who.core ∧ (s.hart w).run = .parked then
        { s.hart w with run := .running, ending := true } else s.hart w) ∧
      u.mem = s.mem ∧ u.stores = s.stores := by
  obtain ⟨r, e, hlike⟩ := hart_endParked_like s s.who
  obtain ⟨hmem, hstores, hwho⟩ := endParked_frame s
  obtain ⟨hhart, hmem', hstores', hwho'⟩ := endHart_frame (s := endParked s) (w := s.who) (by rw [hlike]; exact hs)
    (by rw [hlike]; exact hp) (by rw [State.storesOf, hstores]; exact hst)
  refine ⟨⟨r, e, ?_⟩, fun w hw => ?_, hmem'.trans hmem, hstores'.trans hstores⟩
  · rw [State.me, hwho', hwho, hhart, if_pos rfl, hlike]
    rfl
  · rw [hhart, if_neg hw, hart_endParked]

/-! ### RDV (R75) -/

/-- RDV of a hart with no vector instruction, no store and no lost store left, on a core where hart 0 goes on. -/
theorem execRdv_eq {s : State} (he : s.me.ending = false) (hv : s.me.vecDone = true) (hst : s.storesOf s.who = []) (hl : s.me.lost = none) :
    execRdv s =
      if s.me.gang.isSome || s.myCore.layout ≤ 1 then done s.allSee
      else if s.who.hart != 0 then .next (s.allSee.setMe { s.me with run := .parked })
      else if s.myCore.othersParked then done s.allSee
      else .next (s.allSee.setMe { s.me with run := .waiting .harts }) := by
  rw [execRdv, if_neg (by simp [he]), fullFence_of_done _ hv hst hl]
  rfl

/-! ### FORK (R76) -/

/-- What FORK makes of hart k of the core: a parked one goes on at pc, one that has ended or has never run starts anew there,
another stays. -/
def forked (pc : Word) (s : State) (k : HartNum) : Hart :=
  let h := s.hart ⟨s.who.core, k⟩
  match h.run with
  | .parked => { h with run := .running, pc := pc, instret := h.instret + 1 }
  | .exited | .idle => forkHart s s.who k pc
  | _ => h

theorem forkOne_eq (pc : Word) (s : State) (k : HartNum) : forkOne pc s k = s.setHart ⟨s.who.core, k⟩ (forked pc s k) := by
  cases hr : (s.hart ⟨s.who.core, k⟩).run <;> simp only [forkOne, forked, hr, State.setHart_self]
  rfl

/-- What FORK makes of a hart does not depend on another hart of the core but the one that forks. -/
theorem forked_setHart {s : State} {j k : HartNum} (pc : Word) (g : Hart) (hj : j ≠ k) (h0 : s.who.hart ≠ k) :
    forked pc (s.setHart ⟨s.who.core, k⟩ g) j = forked pc s j := by
  have hme : (s.setHart ⟨s.who.core, k⟩ g).hart s.who = s.hart s.who :=
    State.hart_setHart_ne _ _ _ _ (fun e => h0 (congrArg Who.hart e))
  have hhart : (s.setHart ⟨s.who.core, k⟩ g).hart ⟨s.who.core, j⟩ = s.hart ⟨s.who.core, j⟩ :=
    State.hart_setHart_ne _ _ _ _ (fun e => hj (congrArg Who.hart e))
  have hlay : ((s.setHart ⟨s.who.core, k⟩ g).core s.who.core).layout = (s.core s.who.core).layout := by
    rw [State.core_setHart, if_pos rfl]; rfl
  have hfork : forkHart (s.setHart ⟨s.who.core, k⟩ g) s.who j pc = forkHart s s.who j pc := by
    unfold forkHart
    rw [hme, hhart, hlay]
    rfl
  unfold forked
  rw [show (s.setHart ⟨s.who.core, k⟩ g).who = s.who from rfl, hhart, hfork]

/-- FORK acts on every hart of its list, each as it stood, and on no other. -/
theorem hart_forkAll (pc : Word) (l : List HartNum) (s : State) (hn : l.Nodup) (h0 : s.who.hart ∉ l) (w : Who) :
    (l.foldl (forkOne pc) s).hart w = if w.core = s.who.core ∧ w.hart ∈ l then forked pc s w.hart else s.hart w := by
  induction l generalizing s with
  | nil => simp
  | cons k l ih =>
    obtain ⟨hk, hn⟩ := List.nodup_cons.1 hn
    have h0k : s.who.hart ≠ k := fun e => h0 (e ▸ List.mem_cons_self ..)
    have h0l : s.who.hart ∉ l := fun e => h0 (List.mem_cons_of_mem _ e)
    rw [List.foldl_cons, forkOne_eq, ih (s.setHart ⟨s.who.core, k⟩ (forked pc s k)) hn h0l]
    have hwho : (s.setHart ⟨s.who.core, k⟩ (forked pc s k)).who = s.who := rfl
    rw [hwho, State.hart_setHart_ite]
    by_cases hc : w.core = s.who.core
    · by_cases hl : w.hart ∈ l
      · rw [if_pos ⟨hc, hl⟩, if_pos ⟨hc, List.mem_cons_of_mem _ hl⟩, forked_setHart _ _ (fun e => hk (by rwa [e] at hl)) h0k]
      · rw [if_neg (fun e => hl e.2)]
        by_cases hwk : w.hart = k
        · obtain rfl : w = ⟨s.who.core, k⟩ := by cases w; simp_all
          rw [if_pos rfl, if_pos ⟨rfl, List.mem_cons_self ..⟩]
        · rw [if_neg (fun e => hwk (congrArg Who.hart e)), if_neg (by simp [hwk, hl])]
    · rw [if_neg (fun e => hc e.1), if_neg (fun e => hc (by rw [e])), if_neg (fun e => hc e.1)]

theorem forkAll_frame (pc : Word) (l : List HartNum) (s : State) :
    (l.foldl (forkOne pc) s).mem = s.mem ∧ (l.foldl (forkOne pc) s).stores = s.stores ∧ (l.foldl (forkOne pc) s).who = s.who := by
  induction l generalizing s with
  | nil => exact ⟨rfl, rfl, rfl⟩
  | cons k l ih =>
    rw [List.foldl_cons, forkOne_eq]
    exact ih _

/-- Where FORK finds a hart of its launch ended or never run, the hart starts at pc as R24 gives a starting one. -/
theorem forked_anew {s : State} {l : Launch} (pc : Word) (k : HartNum) (hl : s.launchOf s.me = some l)
    (hr : (s.hart ⟨s.who.core, k⟩).run = .exited ∨ (s.hart ⟨s.who.core, k⟩).run = .idle) :
    let f := forked pc s k
    f.run = .running ∧ f.pc = pc ∧ f.xu = (Vector.replicate 32 0).set 2 l.args ∧ f.launch = some l.id ∧
      f.lanes = 32 / s.myCore.layout ∧ f.avail = 32 / s.myCore.layout ∧ f.vtype = villType ∧ f.vl = 0 ∧ f.stream = [] ∧
      f.v = Vector.replicate 32 0 ∧ f.trap.priv = false ∧ f.slices = s.me.slices := by
  have hf : forked pc s k = forkHart s s.who k pc := by
    rcases hr with hr | hr <;> simp only [forked, hr]
  have hf' : forkHart s s.who k pc =
      { l.hart (s.tenant l.aspace) (32 / (s.core s.who.core).layout) 1 with
        run := .running, pc := pc, place := s.me.place, slices := s.me.slices, lib := (s.hart ⟨s.who.core, k⟩).lib
        sup := { (l.hart (s.tenant l.aspace) (32 / (s.core s.who.core).layout) 1).sup with ctxPtr := l.area s.me.place k.val } } := by
    simp only [forkHart, show s.hart s.who = s.me from rfl, hl]
  rw [hf, hf']
  exact ⟨rfl, rfl, rfl, rfl, rfl, rfl, rfl, rfl, rfl, rfl, rfl, rfl⟩

theorem forked_parked {s : State} (pc : Word) (k : HartNum) (hr : (s.hart ⟨s.who.core, k⟩).run = .parked) :
    forked pc s k = { s.hart ⟨s.who.core, k⟩ with run := .running, pc := pc, instret := (s.hart ⟨s.who.core, k⟩).instret + 1 } := by
  simp only [forked, hr]

theorem forked_other {s : State} (pc : Word) (k : HartNum) (hp : (s.hart ⟨s.who.core, k⟩).run ≠ .parked)
    (he : (s.hart ⟨s.who.core, k⟩).run ≠ .exited) (hi : (s.hart ⟨s.who.core, k⟩).run ≠ .idle) :
    forked pc s k = s.hart ⟨s.who.core, k⟩ := by
  cases hr : (s.hart ⟨s.who.core, k⟩).run <;> simp_all [forked]

theorem mem_allHarts (k : HartNum) : k ∈ allHarts := by
  revert k; decide

/-- The harts that FORK acts on: those of the layout but hart 0. -/
theorem mem_forkHarts (c : Core) (k : HartNum) : k ∈ c.layoutHarts.filter (· != 0) ↔ k ≠ 0 ∧ k.val < c.layout := by
  simp [Core.layoutHarts, mem_allHarts, and_comm]

theorem nodup_forkHarts (c : Core) : (c.layoutHarts.filter (· != 0)).Nodup :=
  ((by decide : allHarts.Nodup).filter _).filter _

/-- A word is misaligned for a branch as its two low bits say (R76). -/
theorem low_bits_ne (w : Word) : (w &&& 3 != 0) = true ↔ w.toNat % 4 ≠ 0 := by
  rw [bne_iff_ne, ne_eq, ne_eq, ← BitVec.toNat_inj, BitVec.toNat_and]
  exact not_congr (by rw [show (3 : Word).toNat = 2 ^ 2 - 1 from rfl, Nat.and_two_pow_sub_one_eq_mod]; rfl)

end Sys2Proof.Machine
end

section
namespace Sys2Proof

open Machine

/-- Settles O44: with nothing under way EXIT finds nothing to close and no boundary to go back to, RDV's fence only shows every
write, and FORK writes each hart of the layout but hart 0 once, as it stood. -/
theorem hartsEndAndFork : Obligations.HartsEndAndFork := by
  unfold Obligations.HartsEndAndFork
  intro s a hq hv hst hl at' elsewhere
  refine ⟨fun hc hg => ?_, fun he hc hg => ?_, fun he => ⟨fun hg => ?_, fun hg hlay h0 => ?_, fun hg hlay h0 => ⟨fun hp => ?_, fun hp => ?_⟩⟩,
    fun h0 => ?_, fun h0 hmis => ?_, fun h0 hal => ?_⟩
  · have hpulls : s.me.pulls = [] := by
      obtain ⟨-, -, -, hquiet, -, -⟩ := id hc
      simp only [State.quiet, Bool.and_eq_true, List.isEmpty_iff] at hquiet
      exact hquiet.1.1.1.2
    obtain ⟨⟨r, e, hme⟩, hother, hmem, hstores⟩ := endHart_endParked (s := s.allSee) hq.2.1 hpulls hst
    have hme' : (endHart s.who (endParked s.allSee)).me = Hart.ended { s.me with run := r, ending := e } := hme
    refine ⟨_, execExit_of_calm hv hc hg, ⟨fun w hw => ?_, hmem, hstores⟩, ?_⟩
    · exact (hother w (fun c => hw (by rw [c]; rfl))).trans (if_neg (fun c => hw c.2.1))
    · rw [hme']
      refine ⟨rfl, rfl, rfl, rfl, rfl, rfl, rfl, rfl, rfl, rfl, rfl, rfl, rfl, rfl, rfl, rfl, fun k hk => ?_⟩
      refine (hother ⟨s.who.core, k⟩ (fun c => hk (congrArg Who.hart c))).trans ?_
      have hiff : (s.allSee.who.hart = 0 ∧ s.who.core = s.allSee.who.core ∧ (s.allSee.hart ⟨s.who.core, k⟩).run = .parked) ↔
          (s.who.hart = 0 ∧ (s.hart (at' k)).run = .parked) := ⟨fun c => ⟨c.1, c.2.2⟩, fun c => ⟨c.1, rfl, c.2⟩⟩
      rw [if_congr hiff rfl rfl]
      rfl
  · change execRdv s = execExit s
    rw [execRdv, if_pos he, execExit]
  · change execRdv s = _
    rw [execRdv_eq he hv hst hl, if_pos (by simpa [Option.isSome_iff_ne_none] using hg)]
    rfl
  · change execRdv s = _
    rw [execRdv_eq he hv hst hl, if_neg (by simp [hg, hlay]), if_pos (by simpa using h0)]
  · change execRdv s = _
    rw [execRdv_eq he hv hst hl, if_neg (by simp [hg, hlay]), if_neg (by simpa using h0), if_pos hp]
    rfl
  · change execRdv s = _
    rw [execRdv_eq he hv hst hl, if_neg (by simp [hg, hlay]), if_neg (by simpa using h0), if_neg (by simpa using hp)]
  · change execFork a s = _
    rw [execFork, if_pos (by simpa using h0), config, raiseWord, raise_of_quiet hq]
    rfl
  · change execFork a s = _
    rw [execFork, if_neg (by simpa using h0), if_pos ((low_bits_ne _).2 hmis), raise_of_quiet hq]
  · have hexec : exec (.fork a) s =
        .next (finish ((s.myCore.layoutHarts.filter (· != 0)).foldl (forkOne (s.x a)) s.allSee)) := by
      change execFork a s = _
      rw [execFork, if_neg (by simpa using h0), if_neg (fun c => (low_bits_ne _).1 c hal), fullFence_of_done _ hv hst hl]
      rfl
    obtain ⟨hmem, hstores, hwho⟩ := forkAll_frame (s.x a) (s.myCore.layoutHarts.filter (· != 0)) s.allSee
    have hself : s.who.hart ∉ s.myCore.layoutHarts.filter (· != 0) := fun c => ((mem_forkHarts _ _).1 c).1 h0
    have hhart := hart_forkAll (s.x a) _ s.allSee (nodup_forkHarts s.myCore) hself
    refine ⟨_, hexec, ⟨fun w hw => (hhart w).trans (if_neg fun c => hw c.1), hmem, hstores⟩, ?_, fun k hk hlay => ?_, fun k hlay => ?_⟩
    · rw [State.me, hwho]
      exact (hhart _).trans (if_neg fun c => hself c.2)
    · have hfk : ((s.myCore.layoutHarts.filter (· != 0)).foldl (forkOne (s.x a)) s.allSee).hart (at' k) = forked (s.x a) s k :=
        (hhart _).trans (if_pos ⟨rfl, (mem_forkHarts _ _).2 ⟨hk, hlay⟩⟩)
      rw [hfk]
      exact ⟨forked_parked _ _, forked_other _ _, fun l hlaunch hr => forked_anew _ _ hlaunch hr⟩
    · exact (hhart _).trans (if_neg fun c => absurd ((mem_forkHarts _ _).1 c.2).2 (Nat.not_lt.2 hlay))

end Sys2Proof
end

section
/-!
SUPPORT. The launch controller's queues under its own steps, cores under folds of updates, the places of a launch, and its
end (R289 to R301).
-/

namespace Sys2Proof.Machine

/-! ### Folds of updates -/

/-- What one step of a fold establishes and every step keeps holds after it. -/
theorem foldl_reaches {α β : Type} {P : α → Prop} {f : α → β → α} (hkeep : ∀ a b, P a → P (f a b)) {l : List β} {b : β}
    (hb : b ∈ l) (hset : ∀ a, P (f a b)) (a : α) : P (l.foldl f a) := by
  obtain ⟨l₁, l₂, rfl⟩ := List.append_of_mem hb
  rw [List.foldl_append, List.foldl_cons]
  exact foldl_keeps P f hkeep l₂ _ (hset _)

theorem State.core_modCore (s : State) (c d : CoreId) (f : Core → Core) :
    (s.modCore c f).core d = if d = c then f (s.core c) else s.core d := by
  unfold State.modCore
  split
  · next h => rw [h, State.core_setCore]
  · next h => exact State.core_setCore_ne _ _ _ _ h

/-- An update of a core that leaves what g reads there leaves it everywhere. -/
theorem State.core_modCore_read {α : Type} (g : Core → α) {s : State} {c : CoreId} {f : Core → Core} (hf : ∀ k, g (f k) = g k)
    (d : CoreId) : g ((s.modCore c f).core d) = g (s.core d) := by
  rw [State.core_modCore]
  split
  · next h => rw [hf, h]
  · rfl

theorem mem_allCores (c : CoreId) : c ∈ allCores := List.mem_ofFn.2 ⟨c, rfl⟩

theorem nodup_allCores : allCores.Nodup := List.nodup_ofFn.2 fun _ _ h => h

/-- Each core of the list is updated once. -/
theorem core_foldl_modCore (f : Core → Core) {l : List CoreId} (hn : l.Nodup) (s : State) (c : CoreId) :
    (l.foldl (fun s c => s.modCore c f) s).core c = if c ∈ l then f (s.core c) else s.core c := by
  induction l generalizing s with
  | nil => simp
  | cons d l ih =>
    obtain ⟨hd, hn⟩ := List.nodup_cons.1 hn
    rw [List.foldl_cons, ih hn, State.core_modCore]
    by_cases hc : c = d
    · subst hc
      simp [hd]
    · simp [hc]

/-- Updates of cores change cores only. -/
theorem foldl_modCore_frame (f : Core → Core) (l : List CoreId) (s : State) :
    ∃ cs, l.foldl (fun s c => s.modCore c f) s = { s with cores := cs } := by
  refine foldl_keeps (fun t : State => ∃ cs, t = { s with cores := cs }) (fun s c => s.modCore c f) ?_ l s ⟨_, rfl⟩
  rintro _ c ⟨cs, rfl⟩
  exact ⟨_, rfl⟩

/-- Each hart of the list is updated once. -/
theorem hart_foldl_modHart (f : Hart → Hart) (c : CoreId) {l : List HartNum} (hn : l.Nodup) (s : State) (k : HartNum) :
    (l.foldl (fun s k => s.modHart ⟨c, k⟩ f) s).hart ⟨c, k⟩ = if k ∈ l then f (s.hart ⟨c, k⟩) else s.hart ⟨c, k⟩ := by
  induction l generalizing s with
  | nil => simp
  | cons j l ih =>
    obtain ⟨hj, hn⟩ := List.nodup_cons.1 hn
    rw [List.foldl_cons, ih hn, State.hart_modHart]
    by_cases hk : k = j
    · subst hk
      simp [hj]
    · simp [hk]

/-! ### A queue under the controller's steps -/

/-- r is the queue q but for its head packet, as reading it and noting readiness leave it. -/
structure VQueue.Like (q r : VQueue) : Prop where
  num : r.num = q.num
  records : r.records = q.records
  nextNo : r.nextNo = q.nextNo
  open' : r.open' = q.open'
  tail : r.tail = q.tail
  cWrite : r.cWrite = q.cWrite
  drained : q.head = q.tail → r.head = q.head ∧ r.pkt = q.pkt

theorem VQueue.Like.refl (q : VQueue) : q.Like q := ⟨rfl, rfl, rfl, rfl, rfl, rfl, fun _ => ⟨rfl, rfl⟩⟩

/-- Noting the order of readiness changes nothing else of a queue. -/
theorem VQueue.Like.withReady {q r : VQueue} (h : q.Like r) (t : Option Nat) : q.Like { r with ready := t } :=
  ⟨h.num, h.records, h.nextNo, h.open', h.tail, h.cWrite, h.drained⟩

/-- Every queue of q's number is like q, and there is one. -/
def State.QueueLike (s : State) (q : VQueue) : Prop :=
  (∃ r ∈ s.queues, r.num = q.num) ∧ ∀ r ∈ s.queues, r.num = q.num → q.Like r

theorem State.queue?_mem {s : State} {n : BitVec 14} {q : VQueue} (h : s.queue? n = some q) : q ∈ s.queues ∧ q.num = n :=
  ⟨List.mem_of_find?_eq_some h, by simpa using List.find?_some h⟩

theorem State.QueueLike.queue? {s : State} {q : VQueue} (h : s.QueueLike q) : ∃ r, s.queue? q.num = some r ∧ q.Like r := by
  obtain ⟨⟨r, hr, hn⟩, hall⟩ := h
  cases hq : s.queue? q.num with
  | none => exact absurd hn (by simpa using List.find?_eq_none.1 hq r hr)
  | some r' =>
    obtain ⟨hm, hn'⟩ := State.queue?_mem hq
    exact ⟨r', rfl, hall r' hm hn'⟩

/-- Writing a queue like q, or one of another number, keeps all of q's number like q. -/
theorem State.QueueLike.setQueue {s : State} {q r : VQueue} (h : s.QueueLike q) (hr : r.num = q.num → q.Like r) :
    (s.setQueue r).QueueLike q := by
  obtain ⟨⟨x, hx, hn⟩, hall⟩ := h
  refine ⟨⟨if x.num == r.num then r else x, List.mem_map.2 ⟨x, hx, rfl⟩, ?_⟩, fun y hy hyn => ?_⟩
  · split
    · next e => exact (beq_iff_eq.1 e).symm.trans hn
    · exact hn
  · obtain ⟨z, hz, rfl⟩ := List.mem_map.1 hy
    split at hyn
    · next e => simpa [e] using hr hyn
    · next e => simpa [e] using hall z hz hyn

/-- Writing the queue of a number that has one makes all of that number it. -/
theorem State.queueLike_setQueue {s : State} {n : BitVec 14} {q r : VQueue} (h : s.queue? n = some r) (hq : q.num = n) :
    (s.setQueue q).QueueLike q := by
  obtain ⟨hm, hn⟩ := State.queue?_mem h
  refine ⟨⟨q, List.mem_map.2 ⟨r, hm, by simp [hn, hq]⟩, rfl⟩, fun y hy hyn => ?_⟩
  obtain ⟨z, hz, rfl⟩ := List.mem_map.1 hy
  split at hyn
  · next e => simpa [e] using VQueue.Like.refl q
  · next e => exact absurd hyn (by simpa using e)

/-- Only the list of queues tells whether they are like q. -/
theorem State.QueueLike.congr {s t : State} {q : VQueue} (h : s.QueueLike q) (ht : t.queues = s.queues) : t.QueueLike q := by
  rwa [State.QueueLike, ht]

/-- What noting readiness leaves: only the orders of readiness change. -/
theorem noteReady_frame (s : State) :
    (∃ qs ps xs i, noteReady s = { s with queues := qs, pool := ps, saved := xs, nextId := i }) ∧
      (∀ q, s.QueueLike q → (noteReady s).QueueLike q) ∧
      ∀ c ∈ s.pool, ∃ t, { c with ready := t } ∈ (noteReady s).pool := by
  unfold noteReady
  extract_lets s1 s2
  have h1 : (∃ qs i, s1 = { s with queues := qs, nextId := i }) ∧ ∀ q, s.QueueLike q → s1.QueueLike q := by
    refine List.foldlRecOn s.queues _ (motive := fun t : State =>
      (∃ qs i, t = { s with queues := qs, nextId := i }) ∧ ∀ q, s.QueueLike q → t.QueueLike q) ⟨⟨_, _, rfl⟩, fun _ h => h⟩ ?_
    rintro _ ⟨⟨qs, i, rfl⟩, hq⟩ r hr
    have hset (t : Option Nat) (q : VQueue) (h : s.QueueLike q) :
        (State.setQueue { s with queues := qs, nextId := i } { r with ready := t }).QueueLike q :=
      (hq q h).setQueue fun hn => (h.2 r hr hn).withReady t
    split
    · split
      · exact ⟨⟨_, _, rfl⟩, hset _⟩
      · exact ⟨⟨_, _, rfl⟩, hq⟩
    · split
      · exact ⟨⟨_, _, rfl⟩, hq⟩
      · exact ⟨⟨_, _, rfl⟩, fun q h => (hset _ q h).congr rfl⟩
  obtain ⟨⟨qs, i, e1⟩, hq1⟩ := h1
  have h2 : (∃ ps i, s2 = { s1 with pool := ps, nextId := i }) ∧ ∀ c ∈ s1.pool, ∃ t, { c with ready := t } ∈ s2.pool := by
    refine foldl_keeps (fun t : State => (∃ ps i, t = { s1 with pool := ps, nextId := i }) ∧
      ∀ c ∈ s1.pool, ∃ r, { c with ready := r } ∈ t.pool) _ ?_ _ _ ⟨⟨_, _, rfl⟩, fun c hc => ⟨c.ready, hc⟩⟩
    rintro _ d ⟨⟨ps, i, rfl⟩, hp⟩
    split
    · refine ⟨⟨_, _, rfl⟩, fun c hc => ?_⟩
      obtain ⟨t, ht⟩ := hp c hc
      by_cases hd : c.id = d.id
      · exact ⟨_, List.mem_map.2 ⟨_, ht, by rw [if_pos (by simpa using hd)]⟩⟩
      · exact ⟨t, List.mem_map.2 ⟨_, ht, by rw [if_neg (by simpa using hd)]⟩⟩
    · exact ⟨⟨_, _, rfl⟩, hp⟩
  obtain ⟨⟨ps, j, e2⟩, hp2⟩ := h2
  obtain ⟨xs, k, e3⟩ : ∃ xs k, s2.saved.foldl (fun s x =>
      if x.stalled && x.ready.isNone && waitEnds s x then
        { s with nextId := s.nextId + 1, saved := s.saved.map (fun y => if y.id == x.id then { y with ready := some s.nextId } else y) }
      else s) s2 = { s2 with saved := xs, nextId := k } := by
    refine foldl_keeps (fun t : State => ∃ xs k, t = { s2 with saved := xs, nextId := k }) _ ?_ _ _ ⟨_, _, rfl⟩
    rintro _ x ⟨xs, k, rfl⟩
    split
    · exact ⟨_, _, rfl⟩
    · exact ⟨_, _, rfl⟩
  rw [e3]
  refine ⟨⟨qs, ps, xs, k, by rw [e2, e1]⟩, fun q h => (hq1 q h).congr (by rw [e2]), fun c hc => hp2 c (by rw [e1]; exact hc)⟩

@[simp] theorem noteReady_launches (s : State) : (noteReady s).launches = s.launches := by
  obtain ⟨⟨_, _, _, _, e⟩, -, -⟩ := noteReady_frame s
  rw [e]

@[simp] theorem noteReady_cores (s : State) : (noteReady s).cores = s.cores := by
  obtain ⟨⟨_, _, _, _, e⟩, -, -⟩ := noteReady_frame s
  rw [e]

@[simp] theorem noteReady_msix (s : State) : (noteReady s).msix = s.msix := by
  obtain ⟨⟨_, _, _, _, e⟩, -, -⟩ := noteReady_frame s
  rw [e]

@[simp] theorem noteReady_mem (s : State) : (noteReady s).mem = s.mem := congrArg Storage.mem (storage_noteReady s)

theorem State.QueueLike.noteReady {s : State} {q : VQueue} (h : s.QueueLike q) : (noteReady s).QueueLike q :=
  (noteReady_frame s).2.1 q h

/-- Asking for a page changes page requests only. -/
theorem pageFirst_frame {s u : State} {h : Hart} {asked l : List Nat} {e : MemErr} (hp : pageFirst s h asked e = some (u, l)) :
    ∃ pr pw i, u = { s with pageReqs := pr, pageWait := pw, nextId := i } := by
  simp only [pageFirst] at hp
  split at hp
  · cases hp
  · split at hp
    · cases hp
      exact ⟨_, _, _, rfl⟩
    · split at hp <;> cases hp
      unfold State.requestPage
      split
      · exact ⟨_, _, _, rfl⟩
      · simp only
        split <;> exact ⟨_, _, _, rfl⟩

/-- Reading a packet changes its queue and page requests only. -/
theorem fetchHead_frame (n : BitVec 14) (s : State) :
    ∃ qs pr pw i, fetchHead n s = { s with queues := qs, pageReqs := pr, pageWait := pw, nextId := i } := by
  simp only [fetchHead]
  split
  · exact ⟨_, _, _, _, rfl⟩
  · split
    · exact ⟨_, _, _, _, rfl⟩
    · split
      · exact ⟨_, _, _, _, rfl⟩
      · split
        · next hp =>
          obtain ⟨_, _, _, rfl⟩ := pageFirst_frame hp
          exact ⟨_, _, _, _, rfl⟩
        · exact ⟨_, _, _, _, rfl⟩

@[simp] theorem fetchHead_launches (n : BitVec 14) (s : State) : (fetchHead n s).launches = s.launches := by
  obtain ⟨_, _, _, _, e⟩ := fetchHead_frame n s
  rw [e]

@[simp] theorem fetchHead_cores (n : BitVec 14) (s : State) : (fetchHead n s).cores = s.cores := by
  obtain ⟨_, _, _, _, e⟩ := fetchHead_frame n s
  rw [e]

@[simp] theorem fetchHead_mem (n : BitVec 14) (s : State) : (fetchHead n s).mem = s.mem :=
  congrArg Storage.mem (storage_fetchHead n s)

/-- A packet read and not dispatched keeps the next from being read. -/
theorem fetchHead_of_read {s : State} {n : BitVec 14} {q : VQueue} (hq : s.queue? n = some q) (hp : q.pkt.isSome = true) :
    fetchHead n s = s := by
  simp [fetchHead, hq, hp]

/-- Reading the head packet keeps its queue, and a drained queue as it is. -/
theorem State.QueueLike.fetchHead {s : State} {q : VQueue} {n : BitVec 14} (h : s.QueueLike q) (hn : q.num = n) :
    (fetchHead n s).QueueLike q := by
  subst hn
  obtain ⟨r, hr, hlike⟩ := h.queue?
  have hasks (a : List Nat) : q.Like { r with asked := a } :=
    ⟨hlike.num, hlike.records, hlike.nextNo, hlike.open', hlike.tail, hlike.cWrite, hlike.drained⟩
  simp only [Machine.fetchHead, hr]
  split
  · exact h
  · next hgo =>
    have hne : q.head ≠ q.tail := fun e => by
      have hd := (hlike.drained e).1.trans (e.trans hlike.tail.symm)
      simp [hd] at hgo
    have hread (l : List Word) : q.Like { r with pkt := some l, head := (r.head + 1) % 2 ^ r.plog } :=
      ⟨hlike.num, hlike.records, hlike.nextNo, hlike.open', hlike.tail, hlike.cWrite, fun e => absurd e hne⟩
    split
    · exact h.setQueue fun _ => hread _
    · split
      · next hp =>
        obtain ⟨_, _, _, rfl⟩ := pageFirst_frame hp
        exact State.QueueLike.setQueue (h.congr rfl) fun _ => hasks _
      · exact h.setQueue fun _ => hread _

/-- A record handed to its queue is the last of those that wait there. -/
theorem pushRecord_eq {s : State} {r : Record} {q : VQueue} (h : s.queue? r.queue = some q) :
    pushRecord r s = s.setQueue { q with records := q.records ++ [r] } := by
  rw [pushRecord, h]

@[simp] theorem pushRecord_launches (r : Record) (s : State) : (pushRecord r s).launches = s.launches := by
  unfold pushRecord; split <;> rfl

@[simp] theorem pushRecord_cores (r : Record) (s : State) : (pushRecord r s).cores = s.cores := by
  unfold pushRecord; split <;> rfl

/-- The packet read retires: it takes its number, its record waits in the queue, and no launch comes of it (R289, R299). -/
theorem retireHead_record {s : State} {n : BitVec 14} {q : VQueue} {pk : Packet} (st : Byte) (hq : s.queue? n = some q)
    (hp : q.pkt = some pk) (hne : pk ≠ []) :
    ∃ q', (retireHead q st s).queue? n = some q' ∧
      q'.records = q.records ++ [⟨q.nextNo, n, st, 0, 0, 0, pk.getD 6 0, Packet.notify pk⟩] ∧ q'.nextNo = q.nextNo + 1 ∧
      (retireHead q st s).launches = s.launches := by
  obtain ⟨-, rfl⟩ := State.queue?_mem hq
  have htake : (s.setQueue q.take).QueueLike q.take := State.queueLike_setQueue hq rfl
  obtain ⟨r, hr, hlike⟩ := htake.queue?
  have hrec : (s.setQueue q.take).queue? q.num = some r := hr
  generalize hx : (⟨q.nextNo, q.num, st, 0, 0, 0, pk.getD 6 0, Packet.notify pk⟩ : Record) = x
  have hxq : x.queue = q.num := by rw [← hx]
  have heq : retireHead q st s =
      noteReady (fetchHead q.num ((s.setQueue q.take).setQueue { r with records := r.records ++ [x] })) := by
    unfold retireHead
    simp only [hp, Option.getD_some, List.isEmpty_iff, if_neg hne]
    rw [← pushRecord_eq (r := x) (by rw [hxq]; exact hrec), ← hx]
    rfl
  obtain ⟨q', hq', hlike'⟩ := ((State.queueLike_setQueue (q := { r with records := r.records ++ [x] }) hrec hlike.num).fetchHead
    hlike.num).noteReady.queue?
  refine ⟨q', ?_, ?_, ?_, ?_⟩
  · rw [heq, ← hq']
    exact congrArg _ hlike.num.symm
  · rw [hlike'.records]
    exact congrArg (· ++ _) hlike.records
  · exact hlike'.nextNo.trans hlike.nextNo
  · rw [heq, noteReady_launches, fetchHead_launches]
    rfl

/-! ### The places of a launch (R296, R297) -/

theorem swapOut_user (c : CoreId) (id : Nat) (s : State) (d : CoreId) : ((swapOut c id s).core d).user = (s.core d).user := by
  refine State.core_modCore_read (·.user) (fun k => ?_) d
  simp only
  split <;> split <;> (try split) <;> (try split) <;> rfl

/-- A launch that takes a place claims its cores, keeps those it has, and changes cores and marks only. -/
theorem takePlace_takes (plan : Plan) (l : Launch) (p : Nat) (cores : List CoreId) (sl : Vector (Option (Word × Word)) 8) (s : State) :
    (∃ cs bad, takePlace plan l p cores sl s = { s with cores := cs, bad := bad }) ∧
      ∀ c, c ∈ cores ∨ (s.core c).user = some l.id → ((takePlace plan l p cores sl s).core c).user = some l.id := by
  have hswap (t : State) (d c : CoreId) : ((cleanMarks d (swapOut d l.id t)).core c).user = (t.core c).user := swapOut_user d l.id t c
  have hmember (t : State) (d c : CoreId) (h : (t.core c).user = some l.id ∨ c = d) :
      ((t.modCore d (fun old => memberCore t l p sl old plan.proto)).core c).user = some l.id := by
    rw [State.core_modCore]
    split
    · rfl
    · next hc => exact h.resolve_right hc
  unfold takePlace
  extract_lets c0 s0 s1
  have hs0 : (∃ cs bad, s0 = { s with cores := cs, bad := bad }) ∧ ∀ c, (s0.core c).user = (s.core c).user := by
    refine foldl_keeps (fun t : State => (∃ cs bad, t = { s with cores := cs, bad := bad }) ∧
      ∀ c, (t.core c).user = (s.core c).user) _ ?_ _ _ ⟨⟨_, _, rfl⟩, fun _ => rfl⟩
    rintro _ d ⟨⟨cs, bad, rfl⟩, hu⟩
    exact ⟨⟨_, _, rfl⟩, fun c => (hswap _ d c).trans (hu c)⟩
  obtain ⟨⟨cs, bad, e0⟩, hu0⟩ := hs0
  have hs1 : ∃ cs bad, s1 = { s with cores := cs, bad := bad } := by
    obtain ⟨cs', e1⟩ : ∃ cs, s1 = { s0 with cores := cs } := ⟨_, rfl⟩
    exact ⟨cs', bad, by rw [e1, e0]⟩
  refine ⟨foldl_keeps (fun t : State => ∃ cs bad, t = { s with cores := cs, bad := bad }) _ ?_ _ _ hs1, fun c hc => ?_⟩
  · rintro _ d ⟨cs, bad, rfl⟩
    exact ⟨_, _, rfl⟩
  · have hkeep : ∀ (t : State) (d : CoreId), (t.core c).user = some l.id →
        ((t.modCore d (fun old => memberCore t l p sl old plan.proto)).core c).user = some l.id :=
      fun t d h => hmember t d c (.inl h)
    by_cases htail : c ∈ cores.drop 1
    · exact foldl_reaches hkeep htail (fun t => hmember t c c (.inr rfl)) _
    · refine foldl_keeps _ _ hkeep _ _ ?_
      rw [State.core_modCore]
      split
      · rfl
      · next hne =>
        rw [hu0]
        refine hc.resolve_left fun hin => ?_
        cases cores with
        | nil => exact absurd hin (List.not_mem_nil)
        | cons d ds => exact (List.mem_cons.1 hin).elim hne htail

/-- The launch of a plan stands on the cores of its places, none of which has started, and nothing else changes but numbers and
marks. -/
theorem placeAll_placed (plan : Plan) (areas : List Word) (bases : List (List Nat)) (s : State) :
    let u := placeAll plan areas bases s
    (∃ l, u.launches = s.launches ++ [l] ∧ l.id = plan.launch.id ∧ l.areas = areas ∧
      (∀ p c, p ∈ l.places → c ∈ p.cores → (u.core c).user = some plan.launch.id) ∧ ∀ p, p ∈ l.places → p.started = false) ∧
      u.mem = s.mem ∧ u.queues = s.queues ∧ u.pool = s.pool := by
  intro u
  have hu : u = placeAll plan areas bases s := rfl
  unfold placeAll at hu
  extract_lets flat l0 l s1 at hu
  have hframe : ∃ cs bad, u = { s1 with cores := cs, bad := bad } := by
    rw [hu]
    refine foldl_keeps (fun t : State => ∃ cs bad, t = { s1 with cores := cs, bad := bad }) _ ?_ _ _ ⟨_, _, rfl⟩
    rintro _ x ⟨cs, bad, rfl⟩
    obtain ⟨⟨cs', bad', e⟩, -⟩ := takePlace_takes plan l x.2 x.1.1 (slicesFor plan.levels x.1.2.1 x.1.2.2 bases.length plan.cpd)
      { s1 with cores := cs, bad := bad }
    exact ⟨cs', bad', e⟩
  obtain ⟨cs, bad, e⟩ := hframe
  refine ⟨⟨l, by rw [e], rfl, rfl, fun p c hp hc => ?_, fun p hp => ?_⟩, by rw [e], by rw [e], by rw [e]⟩
  · obtain ⟨x, hx, rfl⟩ := List.mem_map.1 hp
    obtain ⟨i, hi⟩ := List.mem_iff_getElem?.1 hx
    rw [hu]
    refine foldl_reaches (P := fun t : State => (t.core c).user = some plan.launch.id) (b := (x, i)) (fun t y h => ?_)
      (List.mk_mem_zipIdx_iff_getElem?.2 hi) (fun t => ?_) s1
    · exact (takePlace_takes plan l _ _ _ t).2 c (.inr h)
    · exact (takePlace_takes plan l _ _ _ t).2 c (.inl hc)
  · obtain ⟨x, -, rfl⟩ := List.mem_map.1 hp
    rfl

/-- Where the places of a plan are free, its launch takes them. -/
theorem placeOrPreempt_free {plan : Plan} {bases : List (List Nat)} {s : State} (prio : Nat) (areas : List Word)
    (h : choosePlaces (fun c => (s.part plan.launch.part).hasCore c && (s.core c).isFree) plan.m plan.cpd plan.groups = some bases) :
    placeOrPreempt plan prio areas s = (placeAll plan areas bases s, true) := by
  simp only [placeOrPreempt, List.contains_nil, Bool.or_false, h]

/-! ### The start of a place and the end of a launch (R297, R298) -/

@[simp] theorem hart_claimHarness (c : CoreId) (id : Nat) (s : State) (w : Who) : (claimHarness c id s).hart w = s.hart w :=
  State.hart_modCore_of_harts (by split <;> rfl) w

/-- Performing stores changes memory and notes a lost store; queues, launches and the rest of a hart stay. -/
def State.StoresOnly (s u : State) : Prop :=
  u.queues = s.queues ∧ u.launches = s.launches ∧ ∀ w, ∃ l, u.hart w = { s.hart w with lost := l }

theorem State.StoresOnly.refl (s : State) : s.StoresOnly s := ⟨rfl, rfl, fun _ => ⟨_, rfl⟩⟩

theorem State.sendFlits_frame (s : State) (n : Nat) : ∃ ps, s.sendFlits n = { s with ports := ps } := by
  unfold State.sendFlits
  split <;> exact ⟨_, rfl⟩

theorem State.StoresOnly.performStore {s u : State} (t : PStore) (h : s.StoresOnly u) : s.StoresOnly (u.performStore t) := by
  obtain ⟨hq, hl, hh⟩ := h
  unfold State.performStore
  simp only
  split
  · refine ⟨hq, hl, fun w => ?_⟩
    rw [State.hart_modHart]
    obtain ⟨l, hw⟩ := hh w
    split
    · next e =>
      rw [e] at hw ⊢
      refine ⟨some ((u.hart t.who).lost.getD t.va), ?_⟩
      change { u.hart t.who with lost := some ((u.hart t.who).lost.getD t.va) } = _
      rw [hw]
    · exact ⟨l, hw⟩
  · split
    · obtain ⟨ps, e⟩ := State.sendFlits_frame { u with stores := u.stores.filter fun v => v.id != t.id } 1
      rw [e]
      exact ⟨hq, hl, hh⟩
    · exact ⟨hq, hl, hh⟩

theorem State.StoresOnly.drainHart {s u : State} (w : Who) (h : s.StoresOnly u) : s.StoresOnly (drainHart w u) :=
  foldl_keeps (s.StoresOnly) _ (fun _ t h => h.performStore t) _ _ h

/-- What dropping launch `id` leaves of a core. -/
def Core.dropped (id : Nat) (k : Core) : Core :=
  { k with
    harts := k.harts.map (fun h => if h.launch == some id then { h with launch := none, run := .idle } else h)
    matrix := if k.matrix.owner == some id then { k.matrix with owner := none, ops := [], queue := [] } else k.matrix
    harness := if k.harness.owner == some id then { k.harness with owner := none } else k.harness
    images := k.images.filter (fun x => x.launch != id) }

theorem Core.hart_dropped (id : Nat) (k : Core) (n : HartNum) :
    (k.dropped id).hart n = if (k.hart n).launch == some id then { k.hart n with launch := none, run := .idle } else k.hart n := by
  rw [Core.hart, Core.hart, Core.dropped, Vector.get_eq_getElem, Vector.getElem_map, Vector.get_eq_getElem]

/-- A launch dropped is gone from the list, and its harts stand idle with what they hold; the queues stay. -/
theorem dropLaunch_frame (id : Nat) (s : State) :
    (dropLaunch id s).launches = s.launches.filter (fun l => l.id != id) ∧ (dropLaunch id s).queues = s.queues ∧
      ∀ w, (s.hart w).launch = some id → (dropLaunch id s).hart w = { s.hart w with launch := none, run := .idle } := by
  unfold dropLaunch
  extract_lets l gone s1
  have hs1 : s1 = allCores.foldl (fun s c => s.modCore c (Core.dropped id)) s := rfl
  have hcore (c : CoreId) : s1.core c = (s.core c).dropped id := by
    rw [hs1, core_foldl_modCore _ nodup_allCores, if_pos (mem_allCores c)]
  obtain ⟨cs, hframe⟩ : ∃ cs, s1 = { s with cores := cs } := by
    rw [hs1]
    exact foldl_modCore_frame _ _ s
  clear_value s1
  refine ⟨?_, ?_, fun w hw => ?_⟩
  · rw [hframe]
  · rw [hframe]
  · change s1.hart w = _
    rw [State.hart, hcore, Core.hart_dropped]
    exact if_pos (beq_iff_eq.2 hw)

/-! ### The steps of the controller -/

/-- PACKET_DISPATCH where readiness is noted already and the packet has been read. -/
theorem packetDispatch_of_read {s : State} {n : BitVec 14} {q : VQueue} {pk : Packet} (areas : List Word) (hs : noteReady s = s)
    (hq : s.queue? n = some q) (hp : q.pkt = some pk) (hop : Packet.op pk ≠ 2) (hready : headReady s q = true) (hne : pk ≠ []) :
    execPacketDispatch n areas s =
      if (Packet.waits pk).any (waitBad s q) then .next (retireHead q 4 s)
      else
        match planLaunch s { Launch.blank s.nextId q.part q.aspace q.pasid q.fn with
          queue := some n, seqNo := q.nextNo, prio := Packet.prio pk, pmax := q.pmax } pk with
        | .error (.status b) => .next (retireHead q b s)
        | .error (.mem e) =>
          .next (match pageFirst s ((s.queueProbe q).hart proxy) q.asked e with
            | some (s', l) => s'.setQueue { q with asked := l }
            | none => retireHead q 2 s)
        | .ok plan =>
          if !q.slot || !isNext s q.part (.queue n) then .next s
          else
            let r := placeOrPreempt plan (if q.promoted then 4 else Packet.prio pk) areas s
            .next (if r.2 then noteReady (fetchHead n (r.1.setQueue q.take)) else r.1) := by
  have hnum := (State.queue?_mem hq).2
  unfold execPacketDispatch
  simp only [fetchHead_of_read hq (by rw [hp]; rfl), hs, hq, hp, hready, hnum, List.isEmpty_iff, if_neg hne, beq_eq_false_iff_ne.2 hop,
    Bool.not_true, Bool.or_false, Bool.false_eq_true, if_false] <;> rfl

/-- A packet dispatched on free places leaves its queue with the next number. -/
theorem dispatched_queue {s : State} {n : BitVec 14} {q : VQueue} (u : State) (hq : s.queue? n = some q) (hu : u.queues = s.queues) :
    ∃ q', (noteReady (fetchHead n (u.setQueue q.take))).queue? n = some q' ∧ q'.nextNo = q.nextNo + 1 ∧
      q'.open' = q.open' ++ [q.nextNo] ∧ q'.records = q.records ∧ q'.tail = q.tail ∧
      (q.head = q.tail → q'.head = q.head ∧ q'.pkt = none) := by
  have hnum := (State.queue?_mem hq).2
  have hqu : u.queue? n = some q := by rw [State.queue?, hu]; exact hq
  obtain ⟨q', hq', hlike⟩ := ((State.queueLike_setQueue (q := q.take) hqu hnum).fetchHead hnum).noteReady.queue?
  exact ⟨q', (congrArg _ hnum).symm.trans hq', hlike.nextNo, hlike.open', hlike.records, hlike.tail, hlike.drained⟩

/-- PLACE_START of a place whose windows have landed sets its idle harts running, and no other hart of its core (R297). -/
theorem placeStart_of_landed {s : State} {l : Launch} {i : Nat} {p : Place} (hl : s.launches.find? (fun x => x.id == l.id) = some l)
    (hp : l.places[i]? = some p) (hns : p.started = false) (hst : l.status = 0)
    (hland : ∀ k, ((s.core (p.cores.headD 0)).hart k).launch = some l.id ∧ ((s.core (p.cores.headD 0)).hart k).run = .idle →
      landedHart (s.core (p.cores.headD 0)) ((s.core (p.cores.headD 0)).hart k) = true) :
    ∃ u, execPlaceStart l.id i s = .next u ∧ u.mem = s.mem ∧
      (∀ k, u.hart ⟨p.cores.headD 0, k⟩ =
        if ((s.core (p.cores.headD 0)).hart k).launch = some l.id ∧ ((s.core (p.cores.headD 0)).hart k).run = .idle then
          { s.hart ⟨p.cores.headD 0, k⟩ with run := .running }
        else s.hart ⟨p.cores.headD 0, k⟩) ∧
      ∃ l', l' ∈ u.launches ∧ l'.id = l.id ∧ l'.places[i]? = some { p with started := true } := by
  unfold execPlaceStart
  simp only [hl, hp]
  generalize hc : p.cores.headD 0 = c at hland ⊢
  generalize hm : allHarts.filter (fun k => ((s.core c).hart k).launch == some l.id && ((s.core c).hart k).run == .idle) = mine
  have hmine (k : HartNum) : k ∈ mine ↔ ((s.core c).hart k).launch = some l.id ∧ ((s.core c).hart k).run = .idle := by
    rw [← hm, List.mem_filter]
    simp [mem_allHarts]
  have hnd : mine.Nodup := by
    rw [← hm]
    exact (by decide : allHarts.Nodup).filter _
  have hall : mine.all (fun k => landedHart (s.core c) ((s.core c).hart k)) = true :=
    List.all_eq_true.2 fun k hk => hland k ((hmine k).1 hk)
  rw [if_neg (by simp [hns, hst, hall])]
  generalize hs1 : mine.foldl (fun s k => s.modHart ⟨c, k⟩ (fun h => { h with run := .running })) s = s1
  have h1 : s1.mem = s.mem ∧ s1.launches = s.launches := by
    rw [← hs1]
    refine foldl_keeps (fun t : State => t.mem = s.mem ∧ t.launches = s.launches) _ ?_ _ _ ⟨rfl, rfl⟩
    exact fun _ _ h => h
  generalize hs2 : p.cores.foldl (fun s c => claimHarness c l.id s) s1 = s2
  have h2 : s2.mem = s1.mem ∧ s2.launches = s1.launches ∧ ∀ w, s2.hart w = s1.hart w := by
    rw [← hs2]
    refine foldl_keeps (fun t : State => t.mem = s1.mem ∧ t.launches = s1.launches ∧ ∀ w, t.hart w = s1.hart w) _ ?_ _ _
      ⟨rfl, rfl, fun _ => rfl⟩
    rintro t d ⟨hm, hl, hh⟩
    exact ⟨hm, hl, fun w => (hart_claimHarness d l.id t w).trans (hh w)⟩
  obtain ⟨hmem, hlaunches, hhart⟩ := h2
  refine ⟨_, rfl, hmem.trans h1.1, fun k => ?_, { l with places := l.places.set i { p with started := true } }, ?_, rfl, ?_⟩
  · refine (hhart _).trans ?_
    rw [← hs1, hart_foldl_modHart _ c hnd, if_congr (hmine k) rfl rfl]
  · refine List.mem_map.2 ⟨l, ?_, by simp⟩
    rw [hlaunches, h1.2]
    exact List.mem_of_find?_eq_some hl
  · obtain ⟨hi, -⟩ := List.getElem?_eq_some_iff.1 hp
    simp [hi]

/-- The harts of a launch that retires stand idle with what they hold, and its record waits in its queue. -/
theorem launchRetire_of_over {s : State} {l : Launch} {n : BitVec 14} {q : VQueue}
    (hl : s.launches.find? (fun x => x.id == l.id) = some l) (hover : launchOver s l = true) (hn : l.queue = some n)
    (hq : s.queue? n = some q) :
    ∃ u q', execLaunchRetire l.id s = .next u ∧ u.launches = s.launches.filter (fun x => x.id != l.id) ∧
      (∀ w, (s.hart w).launch = some l.id → ∃ lost, u.hart w = { s.hart w with launch := none, run := .idle, lost := lost }) ∧
      u.queue? n = some q' ∧ q'.records = q.records ++ [⟨l.seqNo, n, l.status, l.cause, l.errCore, l.errHart, l.utag, l.notify⟩] := by
  have hnum := (State.queue?_mem hq).2
  unfold execLaunchRetire
  simp only [hl, hover, Bool.not_true, Bool.false_eq_true, if_false]
  generalize hd : allWho.foldl (fun t w => if (t.hart w).launch == some l.id then drainHart w t else t) s = t
  have ht : s.StoresOnly t := by
    rw [← hd]
    refine foldl_keeps s.StoresOnly _ ?_ _ _ (State.StoresOnly.refl s)
    intro t w h
    split
    · exact h.drainHart w
    · exact h
  obtain ⟨hqueues, hlaunches, hhart⟩ := ht
  obtain ⟨hdl, hdq, hdh⟩ := dropLaunch_frame l.id t
  have hret : retireLaunch l t =
      noteReady (pushRecord ⟨l.seqNo, n, l.status, l.cause, l.errCore, l.errHart, l.utag, l.notify⟩ (dropLaunch l.id t)) := by
    unfold retireLaunch
    simp only [hn]
  generalize dropLaunch l.id t = d at hdl hdq hdh hret
  have hqd : d.queue? n = some q := by
    rw [State.queue?, hdq, hqueues]
    exact hq
  obtain ⟨q', hq', hlike⟩ := (State.queueLike_setQueue (q := { q with
    records := q.records ++ [⟨l.seqNo, n, l.status, l.cause, l.errCore, l.errHart, l.utag, l.notify⟩] }) hqd hnum).noteReady.queue?
  refine ⟨_, q', rfl, ?_, fun w hw => ?_, ?_, hlike.records⟩
  · rw [hret, noteReady_launches, pushRecord_launches, hdl, hlaunches]
  · obtain ⟨lost, e⟩ := hhart w
    refine ⟨lost, ?_⟩
    rw [hret, State.hart_congr ((noteReady_cores _).trans (pushRecord_cores _ _)), hdh w (by rw [e]; exact hw), e]
  · rw [hret, pushRecord_eq (q := q) hqd, ← hq']
    exact congrArg _ hnum.symm

/-- The record written goes to the ring in memory, and its message is sent unless it is masked (R299, R300, R343). -/
theorem completionRecordWrite_of_room {s : State} {n : BitVec 14} {q : VQueue} {r : Record} {rest : List Record}
    {cs : List Host.Cell} (hq : s.queue? n = some q) (hr : q.records = r :: rest)
    (hroom : (q.cWrite + 2 ^ q.clog - q.cHead) % 2 ^ q.clog < 2 ^ q.clog - 1)
    (hcs : storeBytes (s.queueProbe q) proxy (q.dw 1 + wn (32 * q.cWrite)) (r.words.flatMap (fun w => bytesOf 8 w.toNat)) = .ok cs) :
    ∃ u q', execCompletionRecordWrite n s = .next u ∧ u.mem = Memory.writeAll s.mem cs ∧ u.queue? n = some q' ∧
      q'.records = rest ∧ q'.cWrite = (q.cWrite + 1) % 2 ^ q.clog ∧ q'.open' = q.open'.filter (fun x => x != r.seqNo) ∧
      u.msix = if r.notify then sendMsix q.fn q.vec s.msix else s.msix := by
  have hnum := (State.queue?_mem hq).2
  have hset := State.queueLike_setQueue (s := s.writeCells cs) (q := { q with
    records := rest, cWrite := (q.cWrite + 1) % 2 ^ q.clog, open' := q.open'.filter (· != r.seqNo) }) hq hnum
  unfold execCompletionRecordWrite
  simp only [hq, hr, hcs, if_neg (Nat.not_le.2 hroom)]
  cases r.notify
  · obtain ⟨q', hq', hlike⟩ := hset.noteReady.queue?
    exact ⟨_, q', rfl, noteReady_mem _, (congrArg _ hnum).symm.trans hq', hlike.records, hlike.cWrite, hlike.open', noteReady_msix _⟩
  · obtain ⟨q', hq', hlike⟩ := (hset.congr (t := { (s.writeCells cs).setQueue { q with
      records := rest, cWrite := (q.cWrite + 1) % 2 ^ q.clog, open' := q.open'.filter (· != r.seqNo) } with
      msix := sendMsix q.fn q.vec s.msix }) rfl).noteReady.queue?
    exact ⟨_, q', rfl, noteReady_mem _, (congrArg _ hnum).symm.trans hq', hlike.records, hlike.cWrite, hlike.open', noteReady_msix _⟩

/-- A message is sent unless the queue has no vector or the vector is masked (R343). -/
theorem sendMsix_sent (fn : BitVec 6) (vec : Nat) (m : Msix) :
    (sendMsix fn vec m).sent = if vec < 2048 ∧ (fn, vec) ∉ m.masked then m.sent ++ [(fn, vec)] else m.sent := by
  unfold sendMsix
  by_cases hv : 2048 ≤ vec
  · rw [if_pos hv, if_neg (fun c => absurd c.1 (Nat.not_lt.2 hv))]
  · rw [if_neg hv]
    by_cases hm : (fn, vec) ∈ m.masked
    · rw [if_pos (List.contains_iff_mem.2 hm), if_neg (fun c : vec < 2048 ∧ (fn, vec) ∉ m.masked => c.2 hm)]
    · rw [if_neg (fun c => hm (List.contains_iff_mem.1 c)), if_pos ⟨Nat.not_le.1 hv, hm⟩]

end Sys2Proof.Machine
end

section
namespace Sys2Proof

open Machine

/-- Settles O47: with readiness noted each step of the controller writes its own queue, launch or harts, and noting readiness or
reading the next packet afterwards keeps what was written. -/
theorem launchEvents : Obligations.LaunchEvents := by
  unfold Obligations.LaunchEvents
  intro s n q areas plan bases hs placed free
  refine ⟨fun pk hq hp hop hready hne => ⟨fun hbad => ?_, fun hbad => ⟨fun b hplan => ?_, fun hplan hslot hnext hplaces => ?_⟩⟩,
    fun c pl hc hpl hcl hready hbad hnext hplan hplaces => ?_, fun l i p hl hp hns hst hland => ?_,
    fun l hl hover hn hq => ?_, fun r rest cs hq hr hroom hcs => ?_⟩
  · obtain ⟨q', hq', hrec, hno, hlaunches⟩ := retireHead_record 4 hq hp hne
    exact ⟨_, q', (packetDispatch_of_read areas hs hq hp hop hready hne).trans (if_pos hbad), hq', hrec, hno, hlaunches⟩
  · obtain ⟨q', hq', hrec, -, hlaunches⟩ := retireHead_record b hq hp hne
    refine ⟨_, q', (packetDispatch_of_read areas hs hq hp hop hready hne).trans ?_, hq', hrec, hlaunches⟩
    rw [if_neg (by simp [hbad]), hplan]
  · obtain ⟨⟨l', hl', hid, hareas, huser, hstarted⟩, hmem, hqueues, -⟩ := placeAll_placed plan areas bases s
    obtain ⟨q', hq', hno, hopen, hrec, htail, hdrained⟩ := dispatched_queue (placeAll plan areas bases s) hq hqueues
    refine ⟨_, q', (packetDispatch_of_read areas hs hq hp hop hready hne).trans ?_, ⟨?_, l', ?_, hid, hareas, fun p c hp hc => ?_, hstarted⟩,
      hq', hno, hopen, hrec, htail, hdrained⟩
    · rw [if_neg (by simp [hbad]), hplan]
      simp only [hslot, hnext, placeOrPreempt_free _ areas hplaces, Bool.not_true, Bool.or_false, Bool.false_eq_true, if_false, if_true]
    · rw [noteReady_mem, fetchHead_mem]
      exact hmem
    · rw [noteReady_launches, fetchHead_launches]
      exact hl'
    · rw [State.core, noteReady_cores, fetchHead_cores]
      exact huser p c hp hc
  · obtain ⟨⟨l', hl', hid, hareas, huser, hstarted⟩, hmem, -, hpool⟩ := placeAll_placed plan areas bases s
    generalize hu : placeAll plan areas bases s = u at hl' huser hmem hpool
    have hin : { c with launch := some s.nextId, ready := none, promoted := false } ∈ u.pool.map (fun d =>
        if d.id == c.id then { d with launch := some s.nextId, ready := none, promoted := false } else d) :=
      List.mem_map.2 ⟨c, by rw [hpool]; exact List.mem_of_find?_eq_some hc, by simp⟩
    obtain ⟨-, -, hkept⟩ := noteReady_frame { u with pool := u.pool.map (fun d =>
      if d.id == c.id then { d with launch := some s.nextId, ready := none, promoted := false } else d) }
    obtain ⟨t, ht⟩ := hkept _ hin
    refine ⟨_, ?_, ⟨?_, l', ?_, hid, hareas, fun p c hp hc => ?_, hstarted⟩, _, ht, rfl, rfl, rfl, rfl⟩
    · change execChildDispatch c.id areas s = _
      simp only [execChildDispatch, hs, hc, hpl, hcl, hready, dispatchChild, hbad, hplan, hnext, placeOrPreempt_free _ areas hplaces, hu,
        Option.isSome_none, Bool.not_true, Bool.not_false, Bool.or_false, Bool.and_false, Bool.false_eq_true, if_false, if_true]
      rfl
    · rw [noteReady_mem]
      exact hmem
    · rw [noteReady_launches]
      exact hl'
    · rw [State.core, noteReady_cores]
      exact huser p c hp hc
  · obtain ⟨u, hu, hmem, hhart, hlaunch⟩ := placeStart_of_landed hl hp hns hst hland
    exact ⟨u, hu, hmem, fun k hk => (hhart k).trans (if_pos hk), fun k hk => (hhart k).trans (if_neg hk), hlaunch⟩
  · obtain ⟨u, q', hu, hlaunches, hhart, hq', hrec⟩ := launchRetire_of_over hl hover hn hq
    refine ⟨u, q', hu, hlaunches, fun w hw => ?_, hq', hrec⟩
    obtain ⟨lost, e⟩ := hhart w hw
    rw [e]
    exact ⟨rfl, rfl, rfl, rfl, rfl, rfl, rfl⟩
  · obtain ⟨u, q', hu, hmem, hq', hrec, hwrite, hopen, hmsix⟩ := completionRecordWrite_of_room hq hr hroom hcs
    refine ⟨u, q', hu, hmem, hq', hrec, hwrite, hopen, ?_⟩
    rw [hmsix]
    cases r.notify
    · simp
    · simp [sendMsix_sent]

end Sys2Proof
end

section
/-!
SUPPORT. Iterator stacks: a stack with those it absorbed, what the engine forms, and the operations of the IT timeline (R179 to
R198).
-/

namespace Sys2Proof.Machine

/-! ### Stacks of a hart -/

@[simp] theorem Hart.setIter_self (h : Hart) (i : StackNum) : h.setIter i (h.iter i) = h := by
  have : h.iters.set i.toNat (h.iter i) i.isLt = h.iters := by
    simp [Hart.iter, Vector.get_eq_getElem]
  rw [Hart.setIter, this]

theorem Hart.setIter_setIter (h : Hart) (i : StackNum) (a b : IStack) : (h.setIter i a).setIter i b = h.setIter i b := by
  have : (h.iters.set i.toNat a i.isLt).set i.toNat b i.isLt = h.iters.set i.toNat b i.isLt := by
    ext k hk
    simp only [Vector.getElem_set]
    split <;> rfl
  simp only [Hart.setIter, this]

theorem Hart.iter_setIter_ite (h : Hart) (i j : StackNum) (v : IStack) : (h.setIter i v).iter j = if j = i then v else h.iter j := by
  split
  · next e => rw [e, Hart.iter_setIter]
  · next e => exact Hart.iter_setIter_ne _ _ _ _ e

/-- Each stack of the list is updated once, and nothing but stacks changes. -/
theorem iter_foldl_setIter (f : StackNum → IStack → IStack) {l : List StackNum} (hn : l.Nodup) (h : Hart) :
    (∃ its, l.foldl (fun h j => h.setIter j (f j (h.iter j))) h = { h with iters := its }) ∧
      ∀ k, (l.foldl (fun h j => h.setIter j (f j (h.iter j))) h).iter k = if k ∈ l then f k (h.iter k) else h.iter k := by
  induction l generalizing h with
  | nil => exact ⟨⟨_, rfl⟩, fun k => by simp⟩
  | cons j l ih =>
    obtain ⟨hj, hn⟩ := List.nodup_cons.1 hn
    obtain ⟨⟨its, hframe⟩, hiter⟩ := ih hn (h.setIter j (f j (h.iter j)))
    refine ⟨⟨its, hframe⟩, fun k => (hiter k).trans ?_⟩
    rw [Hart.iter_setIter_ite]
    by_cases hk : k = j
    · subst hk
      simp [hj]
    · simp [hk]

theorem Hart.nodup_family (h : Hart) (i : StackNum) : (h.family i).Nodup := by
  unfold Hart.family
  exact (by decide : allStacks.Nodup).filter _

theorem mem_allStacks (i : StackNum) : i ∈ allStacks := by
  revert i; decide

theorem Hart.mem_family_self (h : Hart) (i : StackNum) : i ∈ h.family i := by
  simp [Hart.family, mem_allStacks]

/-- Which stacks a stack absorbed is told by their states and absorbers. -/
theorem Hart.family_congr {h h' : Hart} (hst : ∀ j, (h'.iter j).st = (h.iter j).st ∧ (h'.iter j).absorber = (h.iter j).absorber)
    (i : StackNum) : h'.family i = h.family i := by
  simp only [Hart.family, fun j => (hst j).1, fun j => (hst j).2]

/-- The state that IENOUGH leaves a stack of the family in. -/
def IStack.over (st : IStack) : IStack :=
  { st with
    st := .ended, absorber := none, buf := [], seen := [], work := [], fault := none, exhausted := true, win := none, retry := false }

/-- IENOUGH of a sealed stack ends it with all that it absorbed, and changes stacks only (R193). -/
theorem Hart.endStack_sealed {h : Hart} {i : StackNum} (hs : (h.iter i).st = .sealed) :
    (∃ its, h.endStack i = { h with iters := its }) ∧
      ∀ j, (h.endStack i).iter j = if j ∈ h.family i then (h.iter j).over else h.iter j := by
  have he : h.endStack i = (h.family i).foldl (fun h j => h.setIter j (IStack.over (h.iter j))) h := by
    rw [Hart.endStack]
    simp only [hs]
    rfl
  rw [he]
  exact iter_foldl_setIter (fun _ => IStack.over) (h.nodup_family i) h

/-- Ending a family keeps its slots and its counts. -/
theorem Hart.endIfDone_frame (h : Hart) (i : StackNum) :
    (∃ its, h.endIfDone i = { h with iters := its }) ∧
      ∀ j, ((h.endIfDone i).iter j).slots = (h.iter j).slots ∧ ((h.endIfDone i).iter j).delivered = (h.iter j).delivered := by
  simp only [Hart.endIfDone]
  split
  · obtain ⟨hframe, hiter⟩ := iter_foldl_setIter (fun _ st => { st with st := .ended, absorber := none, win := none })
      (h.nodup_family i) h
    refine ⟨hframe, fun j => ?_⟩
    have := hiter j
    rw [Hart.endFamily, this]
    split <;> exact ⟨rfl, rfl⟩
  · exact ⟨⟨_, rfl⟩, fun _ => ⟨rfl, rfl⟩⟩

/-! ### What the engine forms (R189 to R191, R198) -/

/-- b is a but for what the engine has formed: its buffer, its copy of the slots, its reads, faults and end. -/
structure IStack.FormedFrom (a b : IStack) : Prop where
  st : b.st = a.st
  slots : b.slots = a.slots
  two : b.two = a.two
  absorber : b.absorber = a.absorber
  delivered : b.delivered = a.delivered

theorem IStack.FormedFrom.refl (st : IStack) : st.FormedFrom st := ⟨rfl, rfl, rfl, rfl, rfl⟩

/-- Filling the buffer of a stack changes that stack alone; what it holds already stays at the front. -/
theorem fill_frame (v : IEnv) (i : StackNum) (limit n : Nat) (h : Hart) :
    ∃ st', fill v i limit n h = h.setIter i st' ∧ (h.iter i).FormedFrom st' ∧ ∃ more, st'.buf = (h.iter i).buf ++ more := by
  induction n generalizing h with
  | zero => exact ⟨h.iter i, (h.setIter_self i).symm, .refl _, [], by simp⟩
  | succ n ih =>
    have hstep (st1 : IStack) (h1 : (h.iter i).FormedFrom st1) (hb : ∃ more, st1.buf = (h.iter i).buf ++ more) :
        ∃ st', fill v i limit n (h.setIter i st1) = h.setIter i st' ∧ (h.iter i).FormedFrom st' ∧
          ∃ more, st'.buf = (h.iter i).buf ++ more := by
      obtain ⟨st', he, hf, more', hb'⟩ := ih (h.setIter i st1)
      obtain ⟨more, hb⟩ := hb
      rw [Hart.iter_setIter] at hf hb'
      exact ⟨st', he.trans (Hart.setIter_setIter ..), ⟨hf.st.trans h1.st, hf.slots.trans h1.slots, hf.two.trans h1.two,
        hf.absorber.trans h1.absorber, hf.delivered.trans h1.delivered⟩, more ++ more', by rw [hb', hb, List.append_assoc]⟩
    simp only [fill]
    split
    · exact ⟨h.iter i, (h.setIter_self i).symm, .refl _, [], by simp⟩
    · split
      · exact hstep _ ⟨rfl, rfl, rfl, rfl, rfl⟩ ⟨_, rfl⟩
      · exact ⟨_, rfl, ⟨rfl, rfl, rfl, rfl, rfl⟩, [], by simp⟩
      · exact ⟨_, rfl, ⟨rfl, rfl, rfl, rfl, rfl⟩, [], by simp⟩
      · exact ⟨_, rfl, ⟨rfl, rfl, rfl, rfl, rfl⟩, [], by simp⟩
      · exact ⟨_, rfl, ⟨rfl, rfl, rfl, rfl, rfl⟩, [], by simp⟩
      · exact hstep _ ⟨rfl, rfl, rfl, rfl, rfl⟩ ⟨[], by simp⟩

/-- A group cut from the buffer holds no more than the limit. -/
theorem cut_length {limit : Nat} {align : Bool} {tail : Nat → Option Taken} (ht : ∀ n es, tail n ≠ some (.group es))
    {acc buf es : List IElem} (hacc : acc.length ≤ limit) (h : cut limit align tail acc buf = .group es) : es.length ≤ limit := by
  induction buf generalizing acc with
  | nil =>
    rw [cut] at h
    split at h
    · cases h
      exact hacc
    · cases htail : tail acc.length with
      | none =>
        rw [htail] at h
        cases h
        exact hacc
      | some t =>
        rw [htail] at h
        exact absurd (htail.trans (congrArg some h)) (ht _ _)
  | cons e buf ih =>
    rw [cut] at h
    split at h
    · cases h
      exact hacc
    · next hlt =>
      have hlen : (acc ++ [e]).length ≤ limit := by
        rw [List.length_append, List.length_singleton]
        omega
      split at h
      · split at h
        · cases h
          exact hacc
        · exact ih hlen h
      · exact ih hlen h

/-- A pull that delivers a group takes no more than the limit, and changes its stack only as the engine does. -/
theorem pullGroup_group {s : State} {w : Who} {ctr : Nat → Word × Nat} {i : StackNum} {limit : Nat} {es : List IElem} {h' : Hart}
    (h : pullGroup s w ctr i limit = (.group es, h')) :
    es.length ≤ limit ∧ ∃ st', h' = (s.hart w).setIter i st' ∧ ((s.hart w).iter i).FormedFrom st' := by
  unfold pullGroup at h
  extract_lets h0 src st0 v hf st tail at h
  split at h
  · obtain ⟨hes, hh⟩ := Prod.mk.inj h
    obtain rfl := Taken.group.inj hes
    exact ⟨Nat.zero_le _, _, hh.symm.trans (Hart.setIter_self _ i).symm, .refl _⟩
  · obtain ⟨st1, he, hform, -⟩ := fill_frame v i (limit + 1) (limit + 65) (h0.setIter i st0)
    have hst : hf.iter i = st1 := by
      rw [show hf = _ from he, Hart.iter_setIter]
    rw [Hart.iter_setIter] at hform
    have hform' : ((s.hart w).iter i).FormedFrom st1 := ⟨hform.st, hform.slots, hform.two, hform.absorber, hform.delivered⟩
    split at h
    · next hcut =>
      cases h
      refine ⟨cut_length (fun n es => ?_) (Nat.zero_le _) hcut, { st1 with buf := st.buf.drop es.length }, ?_,
        ⟨hform'.st, hform'.slots, hform'.two, hform'.absorber, hform'.delivered⟩⟩
      · simp only [tail]
        split
        · simp
        · split <;> simp
      · rw [show st = st1 from hst, show hf = _ from he, Hart.setIter_setIter, Hart.setIter_setIter]
    · next hno => exact absurd (congrArg Prod.fst h) (by simpa using hno es)

/-- The pull's commit gives the family the slots after its last element, and counts what it delivered (R198). -/
theorem Hart.commitPull_frame (h : Hart) (i : StackNum) (es : List IElem) :
    (∃ its, h.commitPull i es = { h with iters := its }) ∧
      ((h.commitPull i es).iter i).delivered = (h.iter i).delivered + es.length ∧
      (∀ y, es.getLast? = some y → ∀ j, j ∈ h.family i → ((h.commitPull i es).iter j).slots = y.slots.getD j.toNat []) ∧
      ∀ j, es = [] ∨ j ∉ h.family i → ((h.commitPull i es).iter j).slots = (h.iter j).slots := by
  cases hl : es.getLast? with
  | none =>
    have he : h.commitPull i es = h.setIter i { h.iter i with delivered := (h.iter i).delivered + es.length } := by
      simp only [Hart.commitPull, hl]
    rw [he]
    refine ⟨⟨_, rfl⟩, by rw [Hart.iter_setIter], fun y hy => absurd hy (by simp), fun j _ => ?_⟩
    rw [Hart.iter_setIter_ite]
    split
    · next e => rw [e]
    · rfl
  | some l =>
    obtain ⟨⟨its, hframe⟩, hiter⟩ := iter_foldl_setIter (fun j st => { st with slots := l.slots.getD j.toNat [] })
      (h.nodup_family i) h
    have he : h.commitPull i es =
        (Hart.setIter { h with iters := its } i { Hart.iter { h with iters := its } i with
          delivered := (h.iter i).delivered + es.length, runMark := l.closes }) := by
      simp only [Hart.commitPull, hl]
      rw [← hframe]
    have hslots (j : StackNum) : ((h.commitPull i es).iter j).slots = (Hart.iter { h with iters := its } j).slots := by
      rw [he, Hart.iter_setIter_ite]
      split
      · next e => rw [e]
      · rfl
    rw [hframe] at hiter
    refine ⟨⟨_, he⟩, by rw [he, Hart.iter_setIter], fun y hy j hj => ?_, fun j hj => ?_⟩
    · rw [hslots, hiter, if_pos hj, Option.some.inj hy]
    · rw [hslots, hiter, if_neg (hj.resolve_left fun hnil => by simp [hnil] at hl)]

/-! ### Vector groups written element by element, and their tail (R48, R50, R189) -/

/-- An element is told by the lanes and the register that holds it. -/
theorem Hart.elem_congr {h h' : Hart} {r e w : Nat} (hl : h'.lanes = h.lanes)
    (hv : h'.vreg (r + e * w / h.regBits) = h.vreg (r + e * w / h.regBits)) : h'.elem r e w = h.elem r e w := by
  have hb : h'.regBits = h.regBits := by rw [Hart.regBits, hl, Hart.regBits]
  simp only [Hart.elem, hb, hv]

/-- An element is as wide as it is. -/
theorem Hart.elem_mod (h : Hart) (r e w : Nat) : h.elem r e w % 2 ^ w = h.elem r e w := by
  simp only [Hart.elem, getBits]
  exact Nat.mod_mod _ _

/-- h' is h but for the vector group of n registers at r, whose elements of width w are f. -/
structure Hart.GroupIs (h h' : Hart) (r n w : Nat) (f : Nat → Nat) : Prop where
  frame : ∃ v, h' = { h with v := v }
  outside : ∀ q, (q < r ∨ r + n ≤ q) → h'.vreg q = h.vreg q
  elems : ∀ e, e * w / h.regBits < n → h'.elem r e w = f e

theorem Hart.GroupIs.lanes {h h' : Hart} {r n w : Nat} {f : Nat → Nat} (H : h.GroupIs h' r n w f) : h'.lanes = h.lanes := by
  obtain ⟨v, e⟩ := H.frame
  rw [e]

theorem Hart.GroupIs.regBits {h h' : Hart} {r n w : Nat} {f : Nat → Nat} (H : h.GroupIs h' r n w f) : h'.regBits = h.regBits := by
  rw [Hart.regBits, H.lanes, Hart.regBits]

theorem Hart.GroupIs.refl (h : Hart) (r n w : Nat) : h.GroupIs h r n w (fun e => h.elem r e w) := ⟨⟨h.v, rfl⟩, fun _ _ => rfl, fun _ _ => rfl⟩

/-- A second pass over the group, whose result is told by what the first left. -/
theorem Hart.GroupIs.trans {h h₁ h₂ : Hart} {r n w : Nat} {f g : Nat → Nat} (H : h.GroupIs h₁ r n w f) (K : h₁.GroupIs h₂ r n w g) :
    h.GroupIs h₂ r n w g := by
  obtain ⟨v, e⟩ := H.frame
  obtain ⟨v', e'⟩ := K.frame
  refine ⟨⟨v', by rw [e', e]⟩, fun q hq => (K.outside q hq).trans (H.outside q hq), fun e he => K.elems e ?_⟩
  rwa [H.regBits]

theorem Hart.GroupIs.congr {h h' : Hart} {r n w : Nat} {f g : Nat → Nat} (H : h.GroupIs h' r n w f)
    (hfg : ∀ e, e * w / h.regBits < n → f e = g e) : h.GroupIs h' r n w g :=
  ⟨H.frame, H.outside, fun e he => (H.elems e he).trans (hfg e he)⟩

section
variable {h : Hart} {r n w : Nat} (hd : w ∣ h.regBits) (hR : 0 < h.regBits) (hR' : h.regBits ≤ 2097152) (hn : r + n ≤ 32)
include hd hR hR' hn

theorem Hart.groupIs_setElem {e : Nat} (x : Nat) (he : e * w / h.regBits < n) :
    h.GroupIs (h.setElem r e w x) r n w (fun e' => if e' = e then x % 2 ^ w else h.elem r e' w) where
  frame := ⟨_, rfl⟩
  outside q hq := h.vreg_setElem r e w x q (by generalize e * w / h.regBits = k at he ⊢; omega)
  elems e' _ := h.elem_setElem r e e' w x hd hR hR' (by omega)

/-- Writes of different elements each stand, and the others stay. -/
theorem groupIs_foldl_setElem {β : Type} (key val : β → Nat) (es : List β) (hes : (es.map key).Nodup)
    (hin : ∀ b ∈ es, key b * w / h.regBits < n) (f : Nat → Nat) (hf : ∀ b ∈ es, f (key b) = val b % 2 ^ w)
    (hf' : ∀ e, e ∉ es.map key → f e = h.elem r e w) :
    h.GroupIs (es.foldl (fun h b => h.setElem r (key b) w (val b)) h) r n w f := by
  induction es generalizing h with
  | nil => exact (Hart.GroupIs.refl h r n w).congr fun e _ => (hf' e (by simp)).symm
  | cons b es ih =>
    obtain ⟨hb, hes⟩ := List.nodup_cons.1 hes
    have H := Hart.groupIs_setElem hd hR hR' hn (val b) (hin b (List.mem_cons_self ..))
    refine H.trans (ih hd hR hR' hes (fun b hb => hin b (List.mem_cons_of_mem _ hb)) (fun b hb => hf b (List.mem_cons_of_mem _ hb))
      fun e he => ?_)
    have helem := h.elem_setElem r (key b) e w (val b) hd hR hR' (by have := hin b (List.mem_cons_self ..); omega)
    rw [helem]
    split
    · next heq => rw [heq, hf b (List.mem_cons_self ..)]
    · next hne => exact hf' e (by simpa [hne] using he)

end

@[simp] theorem getLsbD_cutBits (v : VBits) (p j : Nat) : (cutBits v p).getLsbD j = (decide (j < p) && v.getLsbD j) := by
  rw [cutBits, getLsbD_ofNat', Nat.testBit_mod_two_pow]
  by_cases hj : j < 2097152
  · rw [decide_eq_true hj, Bool.true_and]
    rfl
  · rw [decide_eq_false hj, Bool.false_and, BitVec.getLsbD_of_ge v j (Nat.le_of_not_lt hj), Bool.and_false]

theorem getBits_zero (pos w : Nat) : getBits 0 pos w = 0 :=
  Nat.eq_of_testBit_eq fun j => by simp [testBit_getBits]

/-- Bits below the cut stay. -/
theorem getBits_cutBits_below {v : VBits} {p pos w : Nat} (h : pos + w ≤ p) : getBits (cutBits v p) pos w = getBits v pos w := by
  refine Nat.eq_of_testBit_eq fun j => ?_
  rw [testBit_getBits, testBit_getBits, getLsbD_cutBits]
  by_cases hj : j < w
  · simp [hj, show pos + j < p by omega]
  · simp [hj]

/-- Bits from the cut on are zero. -/
theorem getBits_cutBits_above {v : VBits} {p pos w : Nat} (h : p ≤ pos) : getBits (cutBits v p) pos w = 0 := by
  refine Nat.eq_of_testBit_eq fun j => ?_
  rw [testBit_getBits, getLsbD_cutBits]
  simp [show ¬ pos + j < p by omega]

theorem Hart.setVreg_self (h : Hart) (r : Nat) : h.setVreg r (h.vreg r) = h := by
  have : h.v.setIfInBounds r (h.vreg r) = h.v := by
    ext j hj
    rw [Vector.getElem_setIfInBounds]
    split
    · next e =>
      subst e
      simp [Hart.vreg, hj]
    · rfl
  rw [Hart.setVreg, this]

/-- What zeroing from bit b on leaves of register i of a group of registers of R bits. -/
def zeroedReg (R b i : Nat) (v : VBits) : VBits :=
  if b ≤ i * R then 0 else if b < i * R + R then cutBits v (b - i * R) else v

/-- Zeroing a group from a bit on changes the registers of the group alone, each as it stood. -/
theorem Hart.zeroFrom_frame (h : Hart) (r cnt b : Nat) (hr : r + cnt ≤ 32) :
    (∃ v, h.zeroFrom r cnt b = { h with v := v }) ∧ (∀ q, (q < r ∨ r + cnt ≤ q) → (h.zeroFrom r cnt b).vreg q = h.vreg q) ∧
      ∀ i, i < cnt → (h.zeroFrom r cnt b).vreg (r + i) = zeroedReg h.regBits b i (h.vreg (r + i)) := by
  induction cnt with
  | zero => exact ⟨⟨h.v, rfl⟩, fun _ _ => rfl, fun i hi => absurd hi (Nat.not_lt_zero i)⟩
  | succ n ih =>
    obtain ⟨⟨v, hframe⟩, hout, hin⟩ := ih (by omega)
    have hregs : (h.zeroFrom r n b).regBits = h.regBits := by rw [hframe]; rfl
    have hsucc : h.zeroFrom r (n + 1) b =
        if b ≤ n * (h.zeroFrom r n b).regBits then (h.zeroFrom r n b).setVreg (r + n) 0
        else if b < n * (h.zeroFrom r n b).regBits + (h.zeroFrom r n b).regBits then
          (h.zeroFrom r n b).setVreg (r + n) (cutBits ((h.zeroFrom r n b).vreg (r + n)) (b - n * (h.zeroFrom r n b).regBits))
        else h.zeroFrom r n b := by
      rw [Hart.zeroFrom, List.range_succ, List.foldl_append]
      rfl
    have hstep : h.zeroFrom r (n + 1) b =
        (h.zeroFrom r n b).setVreg (r + n) (zeroedReg h.regBits b n ((h.zeroFrom r n b).vreg (r + n))) := by
      rw [hsucc, hregs, zeroedReg]
      split
      · rfl
      · split
        · rfl
        · exact (Hart.setVreg_self _ _).symm
    rw [hstep]
    refine ⟨⟨_, by rw [hframe]; rfl⟩, fun q hq => ?_, fun i hi => ?_⟩
    · rw [Hart.vreg_setVreg, if_neg (by omega)]
      exact hout q (by omega)
    · rw [Hart.vreg_setVreg]
      by_cases he : i = n
      · subst he
        rw [if_pos ⟨rfl, by omega⟩, hout _ (.inr (Nat.le_refl _))]
      · rw [if_neg (by omega)]
        exact hin i (by omega)

/-- Zeroing a group from element vl on keeps the elements below it. -/
theorem Hart.groupIs_zeroFrom {h : Hart} {r n w : Nat} (vl : Nat) (hd : w ∣ h.regBits) (hR : 0 < h.regBits) (hn : r + n ≤ 32) :
    h.GroupIs (h.zeroFrom r n (vl * w)) r n w (fun e => if e < vl then h.elem r e w else 0) := by
  obtain ⟨⟨v, hframe⟩, hout, hin⟩ := h.zeroFrom_frame r n (vl * w) hn
  refine ⟨⟨v, hframe⟩, hout, fun e he => ?_⟩
  have hregs : (h.zeroFrom r n (vl * w)).regBits = h.regBits := by rw [hframe]; rfl
  have hw : e * w % h.regBits + w ≤ h.regBits := elem_inside hd hR ⟨e, Nat.mul_comm e w⟩
  have hdm := Nat.div_add_mod' (e * w) h.regBits
  have hpos : 0 < w := Nat.pos_of_dvd_of_pos hd hR
  simp only [Hart.elem, hregs, hin _ he, zeroedReg]
  generalize e * w / h.regBits = q at hdm he ⊢
  generalize e * w % h.regBits = p at hdm hw ⊢
  generalize h.regBits = R at hdm hw ⊢
  generalize q * R = lo at hdm ⊢
  by_cases hlt : e < vl
  · have hle : e * w + w ≤ vl * w := by
      calc e * w + w = (e + 1) * w := (Nat.succ_mul e w).symm
        _ ≤ vl * w := Nat.mul_le_mul_right w hlt
    rw [if_pos hlt, if_neg (by omega)]
    split
    · exact getBits_cutBits_below (by omega)
    · rfl
  · have hle : vl * w ≤ e * w := Nat.mul_le_mul_right w (Nat.le_of_not_lt hlt)
    rw [if_neg hlt]
    split
    · exact getBits_zero _ _
    · split
      · exact getBits_cutBits_above (by omega)
      · omega

/-- What a pull writes into element e of a destination group: an element of the group, or what masked-off and tail elements hold
(R48, R189). -/
def Hart.pulled (h : Hart) (t : Word) (vl r w : Nat) (vals : List Word) (e : Nat) : Nat :=
  match vals[e]? with
  | some y => y.toNat % 2 ^ w
  | none => if e < vl then (if maOf t then 0 else h.elem r e w) else if taOf t then 0 else h.elem r e w

/-- The masked-off elements of a group: zero under MA (R48). -/
theorem groupIs_maskedOff {h : Hart} {r n w lo vl : Nat} (ma : Bool) (hd : w ∣ h.regBits) (hR : 0 < h.regBits) (hR' : h.regBits ≤ 2097152)
    (hr : r + n ≤ 32) (hin : ∀ e, e < vl → e * w / h.regBits < n) :
    h.GroupIs (if ma then (List.range' lo (vl - lo)).foldl (fun h e => h.setElem r e w 0) h else h) r n w
      (fun e => if ma = true ∧ lo ≤ e ∧ e < vl then 0 else h.elem r e w) := by
  cases ma
  · exact (Hart.GroupIs.refl h r n w).congr fun e _ => by simp
  · have hmem (e : Nat) : e ∈ (List.range' lo (vl - lo)).map id ↔ lo ≤ e ∧ e < vl := by
      rw [List.map_id, List.mem_range'_1]
      omega
    refine groupIs_foldl_setElem hd hR hR' hr id (fun _ => 0) _ (by rw [List.map_id]; exact List.nodup_range')
      (fun e he => hin e ((hmem e).1 (List.mem_map_of_mem he)).2) _ (fun e he => ?_) (fun e he => ?_)
    · exact (if_pos ⟨rfl, (hmem e).1 (List.mem_map_of_mem he)⟩).trans (Nat.zero_mod _).symm
    · exact if_neg fun c => he ((hmem e).2 c.2)

/-- The tail of a group: zero under TA (R48). -/
theorem groupIs_tail {h : Hart} {r n w vl : Nat} (t : Word) (hn : emulOf t w = n) (hd : w ∣ h.regBits) (hR : 0 < h.regBits) (hr : r + n ≤ 32) :
    h.GroupIs (h.tail t r w vl) r n w (fun e => if taOf t = true ∧ vl ≤ e then 0 else h.elem r e w) := by
  unfold Hart.tail
  cases taOf t
  · exact (Hart.GroupIs.refl h r n w).congr fun e _ => by simp
  · rw [hn]
    refine (Hart.groupIs_zeroFrom vl hd hR hr).congr fun e _ => ?_
    by_cases he : e < vl
    · simp [he, Nat.not_le.2 he]
    · simp [he, Nat.le_of_not_lt he]

/-- A destination group of a pull: the elements delivered, then masked-off ones to VL, then the tail. -/
theorem putGroup_is {h : Hart} {cap : Capture} {r n : Nat} {vals : List Word} (hn : emulOf cap.vtype cap.sew = n)
    (hd : cap.sew ∣ h.regBits) (hR : 0 < h.regBits) (hR' : h.regBits ≤ 2097152) (hr : r + n ≤ 32) (hlen : vals.length ≤ cap.vl)
    (hvl : cap.vl * cap.sew ≤ n * h.regBits) :
    h.GroupIs (putGroup cap r vals h) r n cap.sew (h.pulled cap.vtype cap.vl r cap.sew vals) := by
  have hin (e : Nat) (he : e < cap.vl) : e * cap.sew / h.regBits < n := by
    rw [Nat.div_lt_iff_lt_mul hR]
    exact Nat.lt_of_lt_of_le (Nat.mul_lt_mul_of_pos_right he (Nat.pos_of_dvd_of_pos hd hR)) hvl
  have hkeys : vals.zipIdx.map (·.2) = List.range vals.length := by
    rw [List.zipIdx_map_snd, List.range_eq_range']
  have H1 := groupIs_foldl_setElem hd hR hR' hr (fun p : Word × Nat => p.2) (fun p => p.1.toNat) vals.zipIdx
    (by rw [hkeys]; exact List.nodup_range)
    (fun p hp => hin _ (Nat.lt_of_lt_of_le (by simpa using (List.mem_zipIdx hp).2.1) hlen))
    (fun e => match vals[e]? with | some y => y.toNat % 2 ^ cap.sew | none => h.elem r e cap.sew)
    (fun p hp => by rw [List.mem_zipIdx_iff_getElem?.1 hp])
    (fun e he => by
      rw [hkeys, List.mem_range, Nat.not_lt] at he
      rw [List.getElem?_eq_none he])
  unfold putGroup
  extract_lets h1 h2
  have H2 : h1.GroupIs h2 r n cap.sew _ := groupIs_maskedOff (lo := vals.length) (maOf cap.vtype) (by rwa [H1.regBits])
    (by rwa [H1.regBits]) (by rwa [H1.regBits]) hr (by rwa [H1.regBits])
  have H12 := H1.trans H2
  have H3 : h2.GroupIs (h2.tail cap.vtype r cap.sew cap.vl) r n cap.sew _ := groupIs_tail cap.vtype hn (by rwa [H12.regBits])
    (by rwa [H12.regBits]) hr
  refine (H12.trans H3).congr fun e he => ?_
  rw [H12.elems e he, H1.elems e he, Hart.pulled]
  cases hval : vals[e]? with
  | some y =>
    have : e < vals.length := (List.getElem?_eq_some_iff.1 hval).1
    rw [if_neg (by omega), if_neg (by omega)]
  | none =>
    have : vals.length ≤ e := List.getElem?_eq_none_iff.1 hval
    by_cases hlt : e < cap.vl
    · simp [hlt, Nat.not_le.2 hlt, this]
    · simp [hlt, Nat.le_of_not_lt hlt]

/-! ### The IT timeline (R189, R193, R257, R263) -/

/-- With no operation and no pull there is nothing to go on with. -/
theorem itDrain_idle {s : State} {w : Who} (n : Nat) (ho : (s.hart w).itOps = []) (hp : (s.hart w).pulls = []) : itDrain w n s = s := by
  cases n with
  | zero => rfl
  | succ n =>
    have hstart : itStart (s.hart w) = none := by rw [itStart, ho]; rfl
    have hpull : pullStep { s with agent := ⟨w, none⟩ } = none := by
      have hme : (State.me { s with agent := ⟨w, none⟩ }).pulls = [] := hp
      simp only [pullStep, hme, List.findSome?_nil]
    rw [itDrain, hstart]
    simp only [hpull]

/-- A completion wakes its hart, and changes no other hart and no memory. -/
theorem State.pulseOp_frame (s : State) (w : Who) (e : Nat) :
    (∀ v, (s.pulseOp w e).hart v = if v = w then (s.hart w).wake else s.hart v) ∧ (s.pulseOp w e).mem = s.mem ∧
      (s.pulseOp w e).stores = s.stores ∧ (s.pulseOp w e).agent = s.agent := by
  have hpulse (v : Who) : (s.pulse w.core (6 * w.hart.val + e)).hart v = s.hart v := State.hart_modCore_of_harts rfl v
  refine ⟨fun v => ?_, rfl, rfl, rfl⟩
  rw [State.pulseOp, State.hart_modHart, hpulse, hpulse]

theorem Hart.wake_of_running {h : Hart} (hr : h.run = .running) : h.wake = h := by
  rw [Hart.wake, hr]

theorem Hart.wake_frame (h : Hart) : ∃ r, h.wake = { h with run := r } := by
  unfold Hart.wake
  split <;> exact ⟨_, rfl⟩

/-- An engine command leaves HARM's arming used up, and changes nothing else. -/
theorem State.disarm_frame (s : State) (w : Insn) :
    (∃ a, (s.disarm w).me = { s.me with arming := a }) ∧ (s.disarm w).mem = s.mem ∧ (s.disarm w).stores = s.stores := by
  unfold State.disarm
  split
  · exact ⟨⟨_, s.me_modMe _⟩, rfl, rfl⟩
  · exact ⟨⟨s.me.arming, rfl⟩, rfl, rfl⟩

/-- Ending a stack changes stacks only. -/
theorem Hart.endStack_frame (h : Hart) (i : StackNum) : ∃ its, h.endStack i = { h with iters := its } := by
  simp only [Hart.endStack]
  split
  · exact (iter_foldl_setIter (fun _ => IStack.over) (h.nodup_family i) h).1
  · exact ⟨_, rfl⟩

/-- An operation alone on the timeline, which no output holds, starts and completes. -/
theorem itDrain_single {t : State} {w : Who} {o : ItOp} (n : Nat) (ho : (t.hart w).itOps = [o]) (hheld : o.tag.held = none)
    (hp : (t.hart w).pulls = []) (hr : (t.hart w).run = .running) :
    let h := { t.hart w with itOps := [] }
    (itDrain w (n + 1) t).hart w = (if o.enough then h.endStack o.stack else h) ∧ (itDrain w (n + 1) t).mem = t.mem ∧
      (itDrain w (n + 1) t).agent = t.agent := by
  intro h
  have hstart : itStart (t.hart w) = some o := by
    rw [itStart, ho, hp]
    simp [hheld]
  generalize hu : t.modHart w (fun h => { h with itOps := h.itOps.drop 1 }) = u
  have hut : u.hart w = h ∧ u.mem = t.mem ∧ u.agent = t.agent := by
    rw [← hu]
    refine ⟨?_, rfl, rfl⟩
    rw [State.hart_modHart, if_pos rfl, ho]
    rfl
  obtain ⟨huh, hum, hua⟩ := hut
  generalize hx : (if o.enough then u.modHart w (fun h => h.endStack o.stack) else u) = x
  have hxu : x.hart w = (if o.enough then h.endStack o.stack else h) ∧ x.mem = u.mem ∧ x.agent = u.agent := by
    rw [← hx]
    cases o.enough
    · exact ⟨huh, rfl, rfl⟩
    · refine ⟨?_, rfl, rfl⟩
      simp only [if_true]
      rw [State.hart_modHart, if_pos rfl, huh]
  obtain ⟨hxh, hxm, hxa⟩ := hxu
  obtain ⟨its, hframe⟩ : ∃ its, x.hart w = { h with iters := its } := by
    rw [hxh]
    split
    · exact h.endStack_frame _
    · exact ⟨_, rfl⟩
  obtain ⟨hph, hpm, -, hpa⟩ := x.pulseOp_frame w 1
  have hphw : (x.pulseOp w 1).hart w = x.hart w := by
    rw [hph, if_pos rfl, Hart.wake_of_running]
    rw [hframe]
    exact hr
  have hrun : itRun w o u = x.pulseOp w 1 := by rw [itRun, hx]
  have hdrain : itDrain w (n + 1) t = x.pulseOp w 1 := by
    rw [itDrain, hstart]
    simp only [hu, hrun]
    exact itDrain_idle n (by rw [hphw, hframe]) (by rw [hphw, hframe]; exact hp)
  rw [hdrain]
  exact ⟨hphw.trans hxh, hpm.trans (hxm.trans hum), hpa.trans (hxa.trans hua)⟩

/-- With nothing before it an operation that no output holds starts and completes at its issue (R193). -/
theorem itIssue_now {s : State} {cap : Capture} (i : StackNum) (enough : Bool) (ha : cap.arm = none) (ho : s.me.itOps = [])
    (hp : s.me.pulls = []) (hr : s.me.run = .running) :
    let h := { s.me with tlit := s.me.tlit + 1 }
    (itIssue cap i enough s).me = (if enough then h.endStack i else h) ∧ (itIssue cap i enough s).mem = s.mem := by
  intro h
  unfold itIssue
  extract_lets src s1
  have hs1 : s1.hart s.who = { s.me with
      tlit := s.me.tlit + 1, itOps := s.me.itOps ++ [⟨⟨(s.me.tlit + 1).toNat, s.seqNow, cap.arm, s.nextId⟩, i, enough⟩] } :=
    (State.hart_congr (s := src) rfl s.who).trans (s.hart_setHart s.who _)
  obtain ⟨hhart, hmem, hagent⟩ := itDrain_single (t := s1) (w := s.who) 63 (by rw [hs1, ho]; rfl) ha (by rw [hs1]; exact hp)
    (by rw [hs1]; exact hr)
  have hh : { s1.hart s.who with itOps := [] } = h := by
    rw [hs1, ← ho]
  have hwho : (itDrain s.who 64 s1).who = s.who := congrArg (·.who) hagent
  refine ⟨?_, hmem⟩
  rw [State.me, hwho, ← hh]
  exact hhart

/-- A member that HARM has not armed captures no output. -/
theorem captureNow_arm {s : State} (w : Insn) (caps : State → List Word) (ha : s.me.arming = none) : (s.captureNow w caps).arm = none := by
  simp [State.captureNow, ha]

/-- A stack as ISEAL leaves it (R187). -/
def IStack.sealedAnew (st : IStack) : IStack :=
  { st with
    st := .sealed, delivered := 0, runMark := false, buf := [], seen := [], work := [], runNo := 0, fault := none, exhausted := false
    retry := false }

section
variable {s : State} (i : StackNum) (hr : s.Ready) (ho : s.me.itOps = []) (ha : s.me.arming = none) (hrun : s.me.run = .running)
include hr ho

/-- With no operation and no pull outstanding no stack is busy. -/
theorem stackBusy_of_ready : s.me.stackBusy i = false := by
  simp [Hart.stackBusy, ho, pulls_of_ready hr]

/-- ISTAT with room in q1 pushes the status word (R197). -/
theorem execIstat_now (hq : s.me.q1.length < 16) :
    execIstat i s = .next (finish (s.setMe { s.me with q1 := s.me.q1 ++ [s.me.istat (s.capture (pullCaps s)).pullCtr i] })) := by
  rw [execIstat, vissue_completes (quiet_of_ready hr) rfl (outBusy_of_ready hr _ _)
    (u := s.setMe { s.me with q1 := s.me.q1 ++ [s.me.istat (s.capture (pullCaps s)).pullCtr i] })]
  · rw [disarm_of_plain (by simp [isEngine])]
  · rw [if_neg (by simp [ho, pulls_of_ready hr])]
    exact pushQ1_of_room hr _ hq

include ha hrun

/-- ISEAL of a stack under construction seals it and counts on TLIT (R187). -/
theorem execIseal_now (hst : (s.me.iter i).st = .building) (hsl : (s.me.iter i).slots ≠ []) :
    ∃ u a, execIseal i s = .next (finish u) ∧ u.mem = s.mem ∧
      u.me = { s.me.setIter i (s.me.iter i).sealedAnew with tlit := s.me.tlit + 1, arming := a } := by
  unfold execIseal
  generalize vr 0x34#6 (0#3 ++ i) 0#5 0#5 0#3 0#3 15#5 = w
  generalize hs1 : s.modMe (fun h => h.setIter i (s.me.iter i).sealedAnew) = s1
  have hs1me : s1.me = s.me.setIter i (s.me.iter i).sealedAnew := by rw [← hs1, State.me_modMe]
  obtain ⟨hme, hmem⟩ := itIssue_now (s := s1) (cap := s.captureNow w (fun _ => [])) i false (captureNow_arm _ _ ha)
    (by rw [hs1me]; exact ho) (by rw [hs1me]; exact pulls_of_ready hr) (by rw [hs1me]; exact hrun)
  obtain ⟨⟨a, hd⟩, hdm, -⟩ := State.disarm_frame (itIssue (s.captureNow w (fun _ => [])) i false s1) w
  refine ⟨_, a, ?_, hdm.trans (hmem.trans (by rw [← hs1]; rfl)), ?_⟩
  · refine vissue_completes (quiet_of_ready hr) rfl (outBusy_of_ready hr _ _) ?_
    simp only [stackBusy_of_ready i hr ho, hst, List.isEmpty_iff, if_neg hsl, bne_self_eq_false, Bool.false_eq_true, if_false]
    rw [← hs1]
    rfl
  · rw [hd, hme, hs1me]
    rfl

/-- IENOUGH of a sealed stack ends it and counts on TLIT (R193). -/
theorem execIenough_now (hst : (s.me.iter i).st = .sealed) :
    ∃ u a, execIenough i s = .next (finish u) ∧ u.mem = s.mem ∧
      u.me = { Hart.endStack { s.me with tlit := s.me.tlit + 1 } i with arming := a } := by
  unfold execIenough
  generalize vr 0x34#6 (0#3 ++ i) 0#5 0#5 0#3 0#3 13#5 = w
  obtain ⟨hme, hmem⟩ := itIssue_now (s := s) (cap := s.captureNow w (fun _ => [])) i true (captureNow_arm _ _ ha) ho (pulls_of_ready hr) hrun
  obtain ⟨⟨a, hd⟩, hdm, -⟩ := State.disarm_frame (itIssue (s.captureNow w (fun _ => [])) i true s) w
  refine ⟨_, a, ?_, hdm.trans hmem, ?_⟩
  · refine vissue_completes (quiet_of_ready hr) rfl (outBusy_of_ready hr _ _) ?_
    rw [if_neg (by simp [hst])]
  · rw [hd, hme]
    rfl

end

/-- An absorbed stack refuses IENOUGH (R188). -/
theorem execIenough_absorbed {s : State} (i : StackNum) (hr : s.Ready) (hst : (s.me.iter i).st = .absorbed) :
    execIenough i s = .next (streamTrap (iterTrap i.toNat 1 0) (iterTrap i.toNat 1 0).cause.squash s.pcNow s) := by
  rw [execIenough]
  refine vissue_traps (quiet_of_ready hr) rfl (outBusy_of_ready hr _ _) ?_
  rw [if_pos (by simp [hst])]

/-- With the value 0, ITER's TRAPVAL is the stack and the reason (R188). -/
theorem iterTrap_zero (i reason : Nat) : iterTrap i reason 0 = ⟨.iter, BitVec.ofNat 64 (i * 256 + reason), 0⟩ := by
  simp [iterTrap, wn]

/-- ITERATOR_TABLE_READ with no operation and no pull forms elements of its stack at most (R191, R198). -/
theorem iteratorTableRead_idle {s : State} {who : Who} (i : StackNum) (ho : (s.hart who).itOps = []) (hp : (s.hart who).pulls = []) :
    ∃ u st', execIteratorTableRead who i s = .next u ∧ u.mem = s.mem ∧ u.hart who = (s.hart who).setIter i st' ∧
      ((s.hart who).iter i).FormedFrom st' ∧ (∃ more, st'.buf = ((s.hart who).iter i).buf ++ more) ∧
      ∀ q, q ≠ who → u.hart q = s.hart q := by
  simp only [execIteratorTableRead, itDrain_idle 64 ho hp, hp, List.find?_nil]
  split
  · obtain ⟨st', he, hform, hbuf⟩ := fill_frame ⟨s, who, streamCtr (s.hart who), i.toNat, [], false⟩ i
      (prefetchLimit (s.hart who) i) 64 (s.hart who)
    rw [he]
    exact ⟨_, st', rfl, rfl, s.hart_setHart who _, hform, hbuf, fun q hq => s.hart_setHart_ne who q _ hq⟩
  · exact ⟨s, (s.hart who).iter i, rfl, rfl, (Hart.setIter_self _ i).symm, .refl _, ⟨[], by simp⟩, fun _ _ => rfl⟩

/-! ### A pull from its issue to its end (R189, R198) -/

@[simp] theorem source_vr (m : BitVec 6) (d a b : BitVec 5) (p k : BitVec 3) (f : BitVec 5) :
    (vr m d a b p k f).extractLsb' 16 5 = a := by
  ext i hi
  have hn : ∀ n, n ≤ 16 → ¬ 16 + i < n := fun n hn => by omega
  simp [getLsbD_vr, hn, show 16 + i < 21 by omega, BitVec.getLsbD_eq_getElem hi]

/-- The destination groups of a pull: the first field, and of a stack of two fields the second in the next group. -/
def putFields (p : Pull) (h : Hart) : Hart :=
  let h1 := putGroup p.entry.cap p.dest.1 (p.group.map (·.f0)) h
  if p.two then putGroup p.entry.cap (p.dest.1 + p.entry.cap.lmul) (p.group.map (·.f1)) h1 else h1

/-- Where no granule is marked, an INEXT's end is what it writes into its hart, and its completion. -/
theorem finishInext_eq {s : State} (i : StackNum) (p : Pull) (hb : s.bad = []) :
    finishInext i p s =
      (s.setMe ((((dropPull p ((putFields p s.me).setMreg 0 (firstBits p.group.length))).commitPull i p.group).endIfDone i).pushLq
        p.entry.seq (wn p.group.length))).pulseOp s.who 1 := by
  have hmask (h : Hart) (wr : Nat → Bool) : (s.setMe h).healMask 0 wr = s.setMe h := if_pos (by rw [List.isEmpty_iff]; exact hb)
  have hvec (h : Hart) (r n w : Nat) (wr : Nat → Bool) : (s.setMe h).healWrites r n w wr = s.setMe h :=
    if_pos (by rw [List.isEmpty_iff]; exact hb)
  simp only [finishInext, putFields, hmask, hvec, ite_self]

/-- The end of the only pull of a hart whose stream is empty. -/
theorem finishInext_writes {s : State} {i : StackNum} {p : Pull} (hb : s.bad = []) (hs : s.me.stream = []) (hp : s.me.pulls = [p])
    {v : Vector VBits 32} (hput : putFields p s.me = { s.me with v := v }) :
    let u := finishInext i p s
    (∃ its r, u.me = { s.me with
        v := v, m := (s.me.setMreg 0 (firstBits p.group.length)).m, pulls := [], iters := its
        lq := s.me.lq ++ [wn p.group.length], run := r }) ∧
      (u.me.iter i).delivered = (s.me.iter i).delivered + p.group.length ∧
      (∀ y, p.group.getLast? = some y → ∀ j, j ∈ s.me.family i → (u.me.iter j).slots = y.slots.getD j.toNat []) ∧
      (∀ j, p.group = [] ∨ j ∉ s.me.family i → (u.me.iter j).slots = (s.me.iter j).slots) ∧
      u.mem = s.mem ∧ u.stores = s.stores ∧ u.agent = s.agent := by
  intro u
  have hdrop : dropPull p ((putFields p s.me).setMreg 0 (firstBits p.group.length)) =
      { s.me with v := v, m := (s.me.setMreg 0 (firstBits p.group.length)).m, pulls := [] } := by
    rw [hput]
    simp [dropPull, Hart.setMreg, hp]
  generalize hg : dropPull p ((putFields p s.me).setMreg 0 (firstBits p.group.length)) = g at hdrop
  have hfam : g.family i = s.me.family i := Hart.family_congr (fun j => by rw [hdrop]; exact ⟨rfl, rfl⟩) i
  have hit (j : StackNum) : g.iter j = s.me.iter j := by rw [hdrop]; rfl
  obtain ⟨⟨its, hc⟩, hdel, hlast, hrest⟩ := g.commitPull_frame i p.group
  obtain ⟨⟨its', he⟩, hkeep⟩ := (g.commitPull i p.group).endIfDone_frame i
  generalize hk : (g.commitPull i p.group).endIfDone i = k at he hkeep
  have hk' : k = { g with iters := its' } := by rw [he, hc]
  have hpush : k.pushLq p.entry.seq (wn p.group.length) = { k with lq := k.lq ++ [wn p.group.length] } := by
    refine Hart.keepInSnaps_of_empty (h := { k with lq := k.lq ++ [wn p.group.length] }) ?_ ?_ _ _
    · rw [hk', hdrop]
      exact hs
    · rw [hk', hdrop]
  have hu : u = (s.setMe { k with lq := k.lq ++ [wn p.group.length] }).pulseOp s.who 1 := by
    rw [show u = finishInext i p s from rfl, finishInext_eq i p hb, hg, hk, hpush]
  obtain ⟨hph, hpm, hps, hpa⟩ := (s.setMe { k with lq := k.lq ++ [wn p.group.length] }).pulseOp_frame s.who 1
  obtain ⟨r, hr⟩ := Hart.wake_frame { k with lq := k.lq ++ [wn p.group.length] }
  have hwho : ((s.setMe { k with lq := k.lq ++ [wn p.group.length] }).pulseOp s.who 1).who = s.who := congrArg (·.who) hpa
  have hme : u.me = { k with lq := k.lq ++ [wn p.group.length], run := r } := by
    rw [hu, State.me, hwho, hph, if_pos rfl, ← hr]
    exact congrArg Hart.wake (s.me_setMe _)
  have hiter (j : StackNum) : u.me.iter j = k.iter j := by rw [hme]; rfl
  refine ⟨⟨its', r, ?_⟩, ?_, fun y hy j hj => ?_, fun j hj => ?_, ?_, ?_, ?_⟩
  · rw [hme, hk', hdrop]
  · rw [hiter, (hkeep i).2, hdel, hit]
  · rw [hiter, (hkeep j).1, hlast y hy j (by rwa [hfam])]
  · rw [hiter, (hkeep j).1, hrest j (by rwa [hfam]), hit]
  · rw [hu, hpm]
    rfl
  · rw [hu, hps]
    rfl
  · rw [hu, hpa]
    rfl

/-- The fields of a pull's elements stand in its groups, and nothing else changes (R189). -/
theorem putFields_is {h : Hart} {p : Pull} {n w : Nat} (hn : lmulOf p.entry.cap.vtype = n) (hw : p.entry.cap.sew = w)
    (hd : w ∣ h.regBits) (hR : 0 < h.regBits) (hR' : h.regBits ≤ 2097152) (hr : p.dest.1 + (if p.two then 2 else 1) * n ≤ 32)
    (hlen : p.group.length ≤ p.entry.cap.vl) (hvl : p.entry.cap.vl * w ≤ n * h.regBits) :
    ∃ v, putFields p h = { h with v := v } ∧
      (∀ f e, f < (if p.two then 2 else 1) → e * w / h.regBits < n →
        Hart.elem { h with v := v } (p.dest.1 + f * n) e w =
          h.pulled p.entry.cap.vtype p.entry.cap.vl (p.dest.1 + f * n) w (p.group.map (fun y => if f = 0 then y.f0 else y.f1)) e) ∧
      ∀ r, (r < p.dest.1 ∨ p.dest.1 + (if p.two then 2 else 1) * n ≤ r) → Hart.vreg { h with v := v } r = h.vreg r := by
  subst hw
  have hemul : emulOf p.entry.cap.vtype p.entry.cap.sew = n := (emulOf_sew _).trans hn
  have hone : p.dest.1 + n ≤ 32 := by split at hr <;> omega
  have H1 : h.GroupIs (putGroup p.entry.cap p.dest.1 (p.group.map (·.f0)) h) p.dest.1 n p.entry.cap.sew _ :=
    putGroup_is hemul hd hR hR' hone (by rwa [List.length_map]) hvl
  simp only [putFields, show p.entry.cap.lmul = n from hn]
  generalize putGroup p.entry.cap p.dest.1 (p.group.map (·.f0)) h = h1 at H1 ⊢
  cases htwo : p.two with
  | false =>
    obtain ⟨v, hv⟩ := H1.frame
    refine ⟨v, hv, fun f e hf he => ?_, fun r hr => ?_⟩
    · obtain rfl : f = 0 := by simpa using hf
      rw [← hv, Nat.zero_mul, Nat.add_zero]
      exact H1.elems e he
    · rw [← hv]
      exact H1.outside r (by simpa using hr)
  | true =>
    have htwice : p.dest.1 + 2 * n ≤ 32 := by simpa [htwo] using hr
    have H2 : h1.GroupIs (putGroup p.entry.cap (p.dest.1 + n) (p.group.map (·.f1)) h1) (p.dest.1 + n) n p.entry.cap.sew _ :=
      putGroup_is hemul (by rwa [H1.regBits]) (by rwa [H1.regBits]) (by rwa [H1.regBits]) (by omega) (by rwa [List.length_map])
        (by rwa [H1.regBits])
    simp only [if_true]
    generalize putGroup p.entry.cap (p.dest.1 + n) (p.group.map (·.f1)) h1 = h2 at H2 ⊢
    obtain ⟨v1, hv1⟩ := H1.frame
    obtain ⟨v, hv⟩ := H2.frame
    have hv' : h2 = { h with v := v } := by rw [hv, hv1]
    refine ⟨v, hv', fun f e hf he => ?_, fun r hr => ?_⟩
    · rw [← hv']
      obtain rfl | rfl : f = 0 ∨ f = 1 := by omega
      · rw [Nat.zero_mul, Nat.add_zero]
        refine (Hart.elem_congr H2.lanes ?_).trans (H1.elems e he)
        rw [H1.regBits]
        exact H2.outside _ (.inl (Nat.add_lt_add_left he _))
      · rw [Nat.one_mul]
        refine (H2.elems e (by rwa [H1.regBits])).trans ?_
        have hold : h1.elem (p.dest.1 + n) e p.entry.cap.sew = h.elem (p.dest.1 + n) e p.entry.cap.sew :=
          Hart.elem_congr H1.lanes (H1.outside _ (.inr (Nat.le_add_right _ _)))
        simp only [Hart.pulled, hold, Nat.one_ne_zero, if_false]
    · rw [← hv']
      exact (H2.outside r (by omega)).trans (H1.outside r (by omega))

/-- A pull of INEXT whose turn has come, with room in lq, completes. -/
theorem itDrain_pull {t : State} {w : Who} {i : StackNum} {p : Pull} (n : Nat) (ho : (t.hart w).itOps = []) (hp : (t.hart w).pulls = [p])
    (hwin : p.win = none) (hst : p.stack = some i) (hheld : p.held = none) (hform : p.formed = true) (hlq : (t.hart w).lq.length < 8) :
    itDrain w (n + 1) t = itDrain w n { finishInext i p { t with agent := ⟨w, none⟩ } with agent := t.agent } := by
  have hstart : itStart (t.hart w) = none := by rw [itStart, ho]; rfl
  have hpull : pullStep { t with agent := ⟨w, none⟩ } = some (finishInext i p { t with agent := ⟨w, none⟩ }) := by
    have hpulls : (State.me { t with agent := ⟨w, none⟩ }).pulls = [p] := hp
    have hops : (State.me { t with agent := ⟨w, none⟩ }).itOps = [] := ho
    have hroom : ¬ 8 ≤ (State.me { t with agent := ⟨w, none⟩ }).lq.length := Nat.not_le.2 hlq
    simp [pullStep, hpulls, hops, hroom, hwin, hst, hheld, hform]
  rw [itDrain, hstart]
  simp only [hpull]

/-- The pull of a group that INEXT cuts at its issue. -/
def pullOf (s : State) (word : Insn) (cap : Capture) (i : StackNum) (es : List IElem) : Pull :=
  ⟨⟨word, cap, s.me.nextSeq, none, s.nextId, s.snap, none⟩, cap.num.getD 0, cap.arm, some i, none, es, (s.me.iter i).two, true,
    ⟨[], [], none⟩⟩

/-- A pull that leaves the stream with its group, nothing before it and room in lq, completes at once. -/
theorem leaveAsPull_now {s : State} {word : Insn} {cap : Capture} {i : StackNum} {es : List IElem} {v : Vector VBits 32}
    (hr : s.replay = none) (hl : s.agent.lane = none) (hb : s.bad = []) (ha : cap.arm = none) (ho : s.me.itOps = [])
    (hp : s.me.pulls = []) (hs : s.me.stream = []) (hlq : s.me.lq.length < 8)
    (hput : putFields (pullOf s word cap i es) { s.me with pulls := [pullOf s word cap i es], nextSeq := s.me.nextSeq + 1 } =
      { s.me with pulls := [pullOf s word cap i es], nextSeq := s.me.nextSeq + 1, v := v }) :
    let u := leaveAsPull word cap i none (some es) s
    (∃ its r, u.me = { s.me with
        v := v, m := (s.me.setMreg 0 (firstBits es.length)).m, iters := its, lq := s.me.lq ++ [wn es.length], run := r
        pulls := [], nextSeq := s.me.nextSeq + 1 }) ∧
      (u.me.iter i).delivered = (s.me.iter i).delivered + es.length ∧
      (∀ y, es.getLast? = some y → ∀ j, j ∈ s.me.family i → (u.me.iter j).slots = y.slots.getD j.toNat []) ∧
      (∀ j, es = [] ∨ j ∉ s.me.family i → (u.me.iter j).slots = (s.me.iter j).slots) ∧
      u.mem = s.mem ∧ u.stores = s.stores ∧ u.who = s.who := by
  intro u
  generalize hpe : pullOf s word cap i es = p at hput
  have hgroup : p.group = es := by rw [← hpe]; rfl
  generalize ht : ({ s.modMe (fun h => { h with pulls := h.pulls ++ [p], nextSeq := h.nextSeq + 1 }) with nextId := s.nextId + 1 } : State) = t
  have htme : t.hart s.who = { s.me with pulls := [p], nextSeq := s.me.nextSeq + 1 } := by
    have hcores : t.cores = (s.modMe (fun h => { h with pulls := h.pulls ++ [p], nextSeq := h.nextSeq + 1 })).cores := by rw [← ht]
    rw [State.hart_congr hcores, State.modMe, State.setMe, State.hart_setHart, hp]
    rfl
  have htf : t.bad = s.bad ∧ t.mem = s.mem ∧ t.stores = s.stores ∧ t.agent = ⟨s.who, none⟩ := by
    rw [← ht]
    refine ⟨rfl, rfl, rfl, ?_⟩
    change s.agent = _
    rw [← hl]
    rfl
  obtain ⟨htb, htm, hts, hta⟩ := htf
  have htt : ({ t with agent := ⟨s.who, none⟩ } : State) = t := by rw [← hta]
  have htw : t.who = s.who := congrArg (·.who) hta
  have htme' : t.me = { s.me with pulls := [p], nextSeq := s.me.nextSeq + 1 } := by rw [State.me, htw, htme]
  obtain ⟨⟨its, r, hme⟩, hdel, hlast, hrest, hmem, hstores, hagent⟩ := finishInext_writes (s := t) (i := i) (p := p) (v := v)
    (htb.trans hb) (by rw [htme']; exact hs) (by rw [htme']) (by rw [htme']; exact hput)
  have hfw : (finishInext i p t).who = s.who := congrArg (·.who) (hagent.trans hta)
  have hu : u = finishInext i p t := by
    have hleave : u = itDrain s.who 64 t := by
      simp only [u, leaveAsPull, hr, Option.getD_some, Option.isSome_some, Option.isNone_none, if_true]
      rw [← ht, ← hpe]
      rfl
    have hstep := itDrain_pull (t := t) (w := s.who) (i := i) (p := p) 63 (by rw [htme]; exact ho) (by rw [htme]) (by rw [← hpe]; rfl)
      (by rw [← hpe]; rfl) (by rw [← hpe]; exact ha) (by rw [← hpe]; rfl) (by rw [htme]; exact hlq)
    rw [htt, ← hagent] at hstep
    have hh : (finishInext i p t).hart s.who = (finishInext i p t).me := by rw [State.me, hfw]
    rw [hleave, hstep]
    refine itDrain_idle 63 ?_ ?_
    · rw [hh, hme, htme']
      exact ho
    · rw [hh, hme]
  rw [hu]
  have hfam : t.me.family i = s.me.family i := by rw [htme']; rfl
  have hit (j : StackNum) : t.me.iter j = s.me.iter j := by rw [htme']; rfl
  rw [hit, hgroup] at hdel
  rw [hgroup, hfam] at hlast hrest
  refine ⟨⟨its, r, ?_⟩, hdel, hlast, fun j hj => (hrest j hj).trans (by rw [hit]), hmem.trans htm, hstores.trans hts, hfw⟩
  rw [hme, htme', hgroup]
  rfl

/-- An element width divides a register. -/
theorem Hart.sew_dvd_regBits (h : Hart) (t : Word) : sewOf t ∣ h.regBits := by
  refine Dvd.dvd.mul_left ?_ _
  have hk : bitsOf t 0 2 < 4 := (t.extractLsb' 0 2).isLt
  unfold sewOf
  interval_cases bitsOf t 0 2 <;> decide

/-- VL elements fit into the group (R19). -/
theorem Hart.vl_fits {h : Hart} (hvl : h.vl ≤ vlmaxOf h.lanes h.vtype) : h.vl * sewOf h.vtype ≤ lmulOf h.vtype * h.regBits := by
  calc h.vl * sewOf h.vtype ≤ vlmaxOf h.lanes h.vtype * sewOf h.vtype := Nat.mul_le_mul_right _ hvl
    _ ≤ h.lanes * 1024 * lmulOf h.vtype := Nat.div_mul_le_self _ _
    _ = lmulOf h.vtype * h.regBits := Nat.mul_comm _ _

/-- An element below VLMAX lies in its group. -/
theorem Hart.elem_in_group {h : Hart} {e : Nat} (hl : 1 ≤ h.lanes) (he : e < vlmaxOf h.lanes h.vtype) :
    e * sewOf h.vtype / h.regBits < lmulOf h.vtype := by
  rw [Nat.div_lt_iff_lt_mul (show 0 < h.regBits from Nat.mul_pos hl (by decide))]
  have hpos := sewOf_pos h.vtype
  calc e * sewOf h.vtype < (e + 1) * sewOf h.vtype := by rw [Nat.add_mul]; omega
    _ ≤ vlmaxOf h.lanes h.vtype * sewOf h.vtype := Nat.mul_le_mul_right _ he
    _ ≤ h.lanes * 1024 * lmulOf h.vtype := Nat.div_mul_le_self _ _
    _ = lmulOf h.vtype * h.regBits := Nat.mul_comm _ _

/-- With elements of 32 bits or more a mask register has a bit for each. -/
theorem Hart.vl_le_maskBits {h : Hart} (hlanes : h.lanes ≤ 2048) (hsew : 32 ≤ sewOf h.vtype) (hvl : h.vl ≤ vlmaxOf h.lanes h.vtype) :
    h.vl ≤ 2097152 := by
  have hk : bitsOf h.vtype 4 2 < 4 := (h.vtype.extractLsb' 4 2).isLt
  have hlmul : lmulOf h.vtype ≤ 8 := by
    unfold lmulOf
    interval_cases bitsOf h.vtype 4 2 <;> decide
  have hbits : lmulOf h.vtype * h.regBits ≤ 8 * 2097152 := Nat.mul_le_mul hlmul (Nat.mul_le_mul_right 1024 hlanes)
  have hfit := (Nat.mul_le_mul_left h.vl hsew).trans (Hart.vl_fits hvl)
  omega

/-- m0 of a pull (R189). -/
theorem getLsbD_firstBits {g : Nat} (hg : g ≤ 2097152) (e : Nat) : (firstBits g).getLsbD e = decide (e < g) := by
  rw [firstBits, getLsbD_ofNat', Nat.testBit_two_pow_sub_one]
  by_cases he : e < g
  · simp [he, Nat.lt_of_lt_of_le he hg]
  · simp [he]

/-- INEXT's word. -/
def inextWord (i : StackNum) (d : VReg) : Insn := vr 0x34#6 (0#3 ++ i) d 0#5 0#3 0#3 12#5

section
variable {s : State} {i : StackNum} {d : VReg} (hr : s.Ready) (hvill : s.me.vill = false) (hek : ekOf s.me.vtype = false)
  (hsew : 32 ≤ sewOf s.me.vtype) (h0 : s.me.vstart = 0) (hok : groupOk s.me.vtype d.toNat (sewOf s.me.vtype) = true)
  (hst : (s.me.iter i).st = .sealed)
include hr hvill hek hsew h0 hok

/-- INEXT passes its checks of the type state (R189). -/
theorem inext_checked : checkType false (fun h => !ekOf h.vtype && 32 ≤ sewOf h.vtype && groupOk h.vtype d.toNat (sewOf h.vtype)) s = none :=
  checkType_of_ready hr hvill h0 (by simp [hek, hsew, hok])

include hst

/-- A second group beyond v31 is refused (R188). -/
theorem execInext_traps (hbig : 32 < d.toNat + (if (s.me.iter i).two then 2 else 1) * lmulOf s.me.vtype) :
    execInext i d s = .next (streamTrap (iterTrap i.toNat 9 0) (iterTrap i.toNat 9 0).cause.squash s.pcNow s) := by
  have htwo : (s.me.iter i).two = true := by
    by_contra hone
    simp only [groupOk, emulOf_sew, Bool.and_eq_true, decide_eq_true_eq] at hok
    simp only [hone, Bool.false_eq_true, if_false] at hbig
    omega
  rw [htwo, if_pos rfl] at hbig
  rw [execInext]
  refine vissue_traps (quiet_of_ready hr) (inext_checked hr hvill hek hsew h0 hok) (outBusy_of_ready hr _ _) ?_
  have hcap : (s.captureNow (inextWord i d) pullCaps).lmul = lmulOf s.me.vtype := rfl
  have hnum : (s.captureNow (inextWord i d) pullCaps).num = none := rfl
  change inextBody (inextWord i d) i d (s.captureNow (inextWord i d) pullCaps) s = _
  rw [inextBody, if_neg (by simp [hst]), if_pos (by simp [hnum, htwo, hcap, hbig])]

/-- INEXT at once: it forms its group, counts its number, and leaves as a pull. -/
theorem execInext_now {es : List IElem} {h' : Hart} (ho : s.me.itOps = []) (ha : s.me.arming = none)
    (hfit : d.toNat + (if (s.me.iter i).two then 2 else 1) * lmulOf s.me.vtype ≤ 32)
    (hpull : pullGroup (s.setMe { s.me with tlit := s.me.tlit + 1 }) s.who (s.capture (pullCaps s)).pullCtr i s.me.vl = (.group es, h')) :
    execInext i d s = .next (finish (((leaveAsPull (inextWord i d)
      { s.captureNow (inextWord i d) pullCaps with num := some (s.me.tlit + 1).toNat } i none (some es)
      ((s.setMe { s.me with tlit := s.me.tlit + 1 }).setMe h')).modMe (fun h => { h with vstart := 0 })).disarm (inextWord i d))) := by
  have hcap : (s.captureNow (inextWord i d) pullCaps).lmul = lmulOf s.me.vtype := rfl
  have hnum : (s.captureNow (inextWord i d) pullCaps).num = none := rfl
  have harm := captureNow_arm (inextWord i d) pullCaps ha
  rw [execInext]
  refine vissue_completes (quiet_of_ready hr) (inext_checked hr hvill hek hsew h0 hok) (outBusy_of_ready hr _ _) ?_
  change inextBody (inextWord i d) i d (s.captureNow (inextWord i d) pullCaps) s = _
  have htwice : ((s.me.iter i).two && decide (d.toNat + 2 * lmulOf s.me.vtype > 32)) = false := by
    cases htwo : (s.me.iter i).two
    · rfl
    · rw [htwo, if_pos rfl] at hfit
      simpa using hfit
  generalize hs1 : s.setMe { s.me with tlit := s.me.tlit + 1 } = s1 at hpull ⊢
  have hs1me : s1.me = { s.me with tlit := s.me.tlit + 1 } := by rw [← hs1, State.me_setMe]
  have hs1who : s1.who = s.who := by rw [← hs1]; rfl
  have hpull' : pullFor s1 { s.captureNow (inextWord i d) pullCaps with num := some (s.me.tlit + 1).toNat } i none = (.group es, h') := by
    rw [pullFor, hs1who]
    exact hpull
  have hstart : startPull (inextWord i d) i none { s.captureNow (inextWord i d) pullCaps with num := some (s.me.tlit + 1).toNat } s1 =
      .done (leaveAsPull (inextWord i d) { s.captureNow (inextWord i d) pullCaps with num := some (s.me.tlit + 1).toNat } i none (some es)
        (s1.setMe h')) := by
    rw [startPull, if_neg (by simp [harm, hs1me, ho])]
    simp only [hpull']
  have hnext : s.modMe (fun h => { h with tlit := h.tlit + 1 }) = s1 := hs1
  rw [inextBody, if_neg (by simp [hst]), if_neg (by rw [hnum, hcap]; simpa using htwice)]
  simp only [hnum, Option.isNone_none, if_true, hnext, hs1me, Option.getD_none, hstart]

/-- The hart after an INEXT of a group pulled: its groups, m0, its count and number, and its stacks (R48, R189, R198). -/
theorem execInext_group {es : List IElem} {h' : Hart} (hshape : s.me.Shaped) (ho : s.me.itOps = []) (ha : s.me.arming = none)
    (hfit : d.toNat + (if (s.me.iter i).two then 2 else 1) * lmulOf s.me.vtype ≤ 32) (hlq : s.me.lq.length < 8)
    (hpull : pullGroup (s.setMe { s.me with tlit := s.me.tlit + 1 }) s.who (s.capture (pullCaps s)).pullCtr i s.me.vl = (.group es, h')) :
    ∃ u v, execInext i d s = .next (finish u) ∧ es.length ≤ s.me.vl ∧
      (∃ its r q arm, u.me = { s.me with
        v := v, m := (s.me.setMreg 0 (firstBits es.length)).m, iters := its, lq := s.me.lq ++ [wn es.length], run := r
        pulls := [], nextSeq := q, tlit := s.me.tlit + 1, vstart := 0, arming := arm }) ∧
      (∀ f e, f < (if (s.me.iter i).two then 2 else 1) → e * sewOf s.me.vtype / s.me.regBits < lmulOf s.me.vtype →
        Hart.elem { s.me with v := v } (d.toNat + f * lmulOf s.me.vtype) e (sewOf s.me.vtype) =
          s.me.pulled s.me.vtype s.me.vl (d.toNat + f * lmulOf s.me.vtype) (sewOf s.me.vtype)
            (es.map (fun y => if f = 0 then y.f0 else y.f1)) e) ∧
      (∀ r, (r < d.toNat ∨ d.toNat + (if (s.me.iter i).two then 2 else 1) * lmulOf s.me.vtype ≤ r) →
        Hart.vreg { s.me with v := v } r = s.me.vreg r) ∧
      (u.me.iter i).delivered = (h'.iter i).delivered + es.length ∧
      (∀ y, es.getLast? = some y → ∀ j, j ∈ s.me.family i → (u.me.iter j).slots = y.slots.getD j.toNat []) ∧
      (∀ j, es = [] ∨ j ∉ s.me.family i → (u.me.iter j).slots = (s.me.iter j).slots) ∧ u.mem = s.mem ∧ u.stores = s.stores := by
  have hexec := execInext_now hr hvill hek hsew h0 hok hst ho ha hfit hpull
  obtain ⟨⟨⟨hrep, hlane, -⟩, hstream, -, -⟩, hbad, hpulls, -, -⟩ := id hr
  obtain ⟨hlanes, hlanes', -, -, hvl⟩ := hshape
  obtain ⟨hlen, st', hh', hform⟩ := pullGroup_group hpull
  rw [show (s.setMe { s.me with tlit := s.me.tlit + 1 }).hart s.who = { s.me with tlit := s.me.tlit + 1 } from s.me_setMe _] at hh' hform
  have hform' : (s.me.iter i).FormedFrom st' := hform
  generalize hcap : ({ s.captureNow (inextWord i d) pullCaps with num := some (s.me.tlit + 1).toNat } : Capture) = cap at hexec
  have hcapf : cap.arm = none ∧ cap.vtype = s.me.vtype ∧ cap.vl = s.me.vl := by
    rw [← hcap]
    exact ⟨captureNow_arm (inextWord i d) pullCaps ha, rfl, rfl⟩
  obtain ⟨harm, hcvt, hcvl⟩ := hcapf
  generalize hs2 : (s.setMe { s.me with tlit := s.me.tlit + 1 }).setMe h' = s2 at hexec
  have hs2me : s2.me = h' := by rw [← hs2, State.me_setMe]
  have hs2f : s2.replay = none ∧ s2.agent.lane = none ∧ s2.bad = [] ∧ s2.mem = s.mem ∧ s2.stores = s.stores := by
    rw [← hs2]
    exact ⟨hrep, hlane, hbad, rfl, rfl⟩
  obtain ⟨h2rep, h2lane, h2bad, h2mem, h2stores⟩ := hs2f
  have h2it (j : StackNum) : (s.me.iter j).FormedFrom (s2.me.iter j) := by
    rw [hs2me, hh', Hart.iter_setIter_ite]
    split
    · next e =>
      subst e
      exact hform'
    · exact .refl _
  have hfam : s2.me.family i = s.me.family i := Hart.family_congr (fun j => ⟨(h2it j).st, (h2it j).absorber⟩) i
  generalize hp : pullOf s2 (inextWord i d) cap i es = p
  have hpf : p.entry.cap = cap ∧ p.group = es ∧ p.two = (s.me.iter i).two ∧ p.dest.1 = d.toNat := by
    rw [← hp]
    exact ⟨rfl, rfl, (h2it i).two, congrArg BitVec.toNat (source_vr ..)⟩
  obtain ⟨hpcap, hpgroup, hptwo, hpdest⟩ := hpf
  obtain ⟨its0, h2me⟩ : ∃ its, s2.me = { s.me with tlit := s.me.tlit + 1, iters := its } := ⟨_, hs2me.trans hh'⟩
  obtain ⟨v, hput, helem, hvreg⟩ := putFields_is (h := { s2.me with pulls := [p], nextSeq := s2.me.nextSeq + 1 }) (p := p)
    (n := lmulOf s.me.vtype) (w := sewOf s.me.vtype) (by rw [hpcap, hcvt]) (by rw [Capture.sew, hpcap, hcvt])
    (by rw [h2me]; exact s.me.sew_dvd_regBits _) (by rw [h2me]; exact Nat.mul_pos hlanes (by decide))
    (by rw [h2me]; exact Nat.mul_le_mul_right 1024 hlanes') (by rw [hpdest, hptwo]; exact hfit) (by rw [hpgroup, hpcap, hcvl]; exact hlen)
    (by rw [hpcap, hcvl, h2me]; exact Hart.vl_fits hvl)
  obtain ⟨⟨its, r, hme⟩, hdel, hlast, hrest, hmem, hstores, hwho⟩ := leaveAsPull_now (s := s2) (word := inextWord i d) (cap := cap) (i := i)
    (es := es) (v := v) h2rep h2lane h2bad harm (by rw [h2me]; exact ho) (by rw [h2me]; exact hpulls) (by rw [h2me]; exact hstream)
    (by rw [h2me]; exact hlq) (by rw [hp]; exact hput)
  generalize leaveAsPull (inextWord i d) cap i none (some es) s2 = u0 at *
  obtain ⟨⟨a, hdis⟩, hdm, hds⟩ := State.disarm_frame (u0.modMe (fun h => { h with vstart := 0 })) (inextWord i d)
  rw [State.me_modMe] at hdis
  have hit (j : StackNum) : ((u0.modMe (fun h => { h with vstart := 0 })).disarm (inextWord i d)).me.iter j = u0.me.iter j := by
    rw [hdis]
    rfl
  refine ⟨_, v, hexec, hlen, ⟨its, r, s.me.nextSeq + 1, a, ?_⟩, fun f e hf he => ?_, fun q hq => ?_, ?_, fun y hy j hj => ?_, fun j hj => ?_,
    hdm.trans (hmem.trans h2mem), hds.trans (hstores.trans h2stores)⟩
  · rw [hdis, hme, h2me]
    rfl
  · have := helem f e (by rwa [hptwo]) (by rw [h2me]; exact he)
    rw [hpdest, hpcap, hcvt, hcvl, hpgroup, h2me] at this
    exact this
  · have := hvreg q (by rwa [hpdest, hptwo])
    rw [h2me] at this
    exact this
  · rw [hit, hdel, hs2me]
  · rw [hit, hlast y hy j (by rwa [hfam])]
  · rw [hit, hrest j (by rwa [hfam]), (h2it j).slots]

end

end Sys2Proof.Machine
end

section
namespace Sys2Proof

open Machine

/-- Settles O35: with nothing before it an operation of the IT timeline runs at its issue, a pull writes its two groups register by
register and its stacks from the slots of its last element, and the engine's forming touches its own stack only. -/
theorem iteratorStacksRun : Obligations.IteratorStacksRun := by
  unfold Obligations.IteratorStacksRun
  refine ⟨fun s i hr ho ha hrun => ⟨fun hst hsl => ?_, fun hst => ?_, fun hst => ?_, fun hq => ?_⟩,
    fun s i d es h' hr hshape hvill hek hsew h0 hok ha ho hst => ⟨fun hbig => ?_, fun hfit hlq hpull => ?_⟩, fun s who i ho hp => ?_⟩
  · obtain ⟨u, a, hu, hmem, hme⟩ := execIseal_now i hr ho ha hrun hst hsl
    refine ⟨u, hu, by rw [hme], by rw [hme]; exact ho, ?_, fun j hj => ?_, hmem⟩
    · rw [hme]
      exact Hart.iter_setIter _ _ _
    · rw [hme]
      exact Hart.iter_setIter_ne _ _ _ _ hj
  · obtain ⟨u, a, hu, hmem, hme⟩ := execIenough_now i hr ho ha hrun hst
    obtain ⟨⟨its, hframe⟩, hiter⟩ := Hart.endStack_sealed (h := { s.me with tlit := s.me.tlit + 1 }) (i := i) hst
    have hu' (j : StackNum) : u.me.iter j = if j ∈ s.me.family i then (s.me.iter j).over else s.me.iter j := by
      rw [hme]
      exact hiter j
    refine ⟨u, hu, by rw [hme, hframe], by rw [hme, hframe]; exact ho, fun j hj => ?_, fun j hj => ?_, hmem⟩
    · rw [hu', if_pos hj]
      exact ⟨rfl, rfl, rfl⟩
    · rw [hu', if_neg hj]
  · rw [← iterTrap_zero]
    exact execIenough_absorbed i hr hst
  · exact execIstat_now i hr ho hq
  · rw [← iterTrap_zero]
    exact execInext_traps hr hvill hek hsew h0 hok hst hbig
  · obtain ⟨u, v, hu, hlen, ⟨its, r, q, arm, hme⟩, helem, hvreg, hdel, hlast, hrest, hmem, hstores⟩ :=
      execInext_group hr hvill hek hsew h0 hok hst hshape ho ha hfit hlq hpull
    obtain ⟨hlanes, hlanes', -, -, hvl⟩ := hshape
    have hm (j : MReg) : u.me.mreg j = (s.me.setMreg 0 (firstBits es.length)).mreg j := by rw [hme]; rfl
    refine ⟨u, hu, by rw [hme], hlen, by rw [hme]; rfl, by rw [hme], fun e => ?_, fun j hj => ?_, fun f e hf he => ?_, fun q hq => ?_,
      hdel, hlast, hrest, hmem, hstores⟩
    · rw [Hart.maskBit, hm, Hart.mreg_setMreg, getLsbD_firstBits (hlen.trans (Hart.vl_le_maskBits hlanes' hsew hvl))]
    · rw [hm, Hart.mreg_setMreg_ne _ _ _ _ hj]
    · have hel := helem f e hf (Hart.elem_in_group hlanes he)
      rw [Hart.pulled, List.getElem?_map] at hel
      rw [hme]
      refine Eq.trans hel ?_
      cases es[e]? <;> rfl
    · rw [hme]
      exact hvreg q hq
  · obtain ⟨u, st', hu, hmem, hhart, hform, hbuf, hother⟩ := iteratorTableRead_idle i ho hp
    refine ⟨u, hu, hmem, ?_⟩
    rw [hhart, Hart.iter_setIter]
    refine ⟨rfl, rfl, rfl, fun j => ?_, hbuf, hother⟩
    rw [Hart.iter_setIter_ite]
    split
    · next e =>
      subst e
      exact ⟨hform.slots, hform.st⟩
    · exact ⟨rfl, rfl⟩

end Sys2Proof
end

section
/-!
The decoder on words written out (R37 to R41, R51, R54, R55), and the one instruction whose word does not decode to it.
-/

namespace Sys2Proof

/-- Settles O57: each word evaluates through the decoder. -/
theorem decodingOfWords : Obligations.DecodingOfWords := by
  unfold Obligations.DecodingOfWords
  exact ⟨rfl, rfl, rfl, rfl, rfl, rfl, rfl, rfl⟩

/-- Refutes O58: RESERVED_WORD is well-formed whatever its word, and `encode` gives that word, which need not decode: the word 0
has a reserved major opcode. -/
theorem not_decodeOfEncode : ¬ Obligations.DecodeOfEncode := by
  unfold Obligations.DecodeOfEncode
  intro h
  have hreserved : decode 0 = .error .reservedMajor := rfl
  have hdecodes : decode 0 = .ok (.reservedWord 0) := h (.reservedWord 0) 0 rfl rfl
  rw [hreserved] at hdecodes
  cases hdecodes

end Sys2Proof
end

section
/-!
SUPPORT. MOVS: the registers that it reads, and that it copies one and changes nothing else (R79 to R81, R310).
-/
namespace Sys2Proof.Machine

/-- Registers that a lane thread or the scalar unit reads without a wait. -/
theorem movsWaits_of_done {s : State} (r : Nat) (hs : s.me.stream = []) (hv : s.me.vecDone = true) : s.movsWaits r = false := by
  simp only [State.movsWaits, hs, hv]
  split
  · rfl
  · split <;> rfl

/-- MOVS of an assigned register outside the Harness copies it into xd (R79, R81). -/
theorem execMovs_completes {s : State} {d : XReg} {r : BitVec 12} {v : Word} (hq : s.Quiet) (hv : s.me.vecDone = true)
    (hp : 0x100 ≤ r.toNat → s.me.trap.priv = true) (hh : isHarnessReg r.toNat = false) (hr : s.sysReg r.toNat = some v) :
    Completes (.movs d r) s ((s.took r.toNat).setX d v) := by
  obtain ⟨⟨-, hl, -⟩, hs, -, -⟩ := hq
  have hpriv : (decide (0x100 ≤ r.toNat) && !s.me.trap.priv) = false := by
    by_cases h : 0x100 ≤ r.toNat
    · simp [hp h]
    · simp [h]
  change execMovs d r s = _
  simp only [execMovs, hl, hr, hh, hpriv, movsWaits_of_done _ hs hv, Option.isSome_none, Bool.false_and, Bool.and_false, Bool.false_eq_true,
    if_false, Option.getD_some, writeX, done_eq]

/-- The same for a register whose read takes no free value. -/
theorem execMovs_reads {s : State} (d : XReg) {r : BitVec 12} {v : Word} (hq : s.Quiet) (hv : s.me.vecDone = true)
    (hp : 0x100 ≤ r.toNat → s.me.trap.priv = true) (hh : isHarnessReg r.toNat = false) (ht : s.took r.toNat = s)
    (hr : s.sysReg r.toNat = some v) : Completes (.movs d r) s (s.setX d v) := by
  have h := execMovs_completes (d := d) hq hv hp hh hr
  rwa [ht] at h

theorem took_of_fixed (s : State) {r : Nat} (h : r ≠ 0x034) (h' : r ≠ 0x111) : s.took r = s := by
  simp [State.took, h, h']

/-- Register number base + k of a row of eight, one for each counter (R66). -/
theorem toNat_add_ctr (base : BitVec 12) (k : CtrNum) (h : base.toNat + 8 ≤ 4096) :
    (base + k.zeroExtend 12).toNat = base.toNat + k.toNat := by
  have := k.isLt
  simp only [BitVec.toNat_add, BitVec.toNat_setWidth]
  omega

/-- LCNT, LREM and LBODY of a counter (R66). -/
theorem sysReg_ctr (s : State) (k : CtrNum) :
    s.sysReg (0x010 + k.toNat) = some (s.me.loop k).cnt ∧ s.sysReg (0x018 + k.toNat) = some (s.me.loop k).rem ∧
      s.sysReg (0x020 + k.toNat) = some (s.me.loop k).body := by
  have := k.isLt
  have h (base : Nat) : BitVec.ofNat 3 (base + k.toNat - base) = k := by simp
  refine ⟨?_, ?_, ?_⟩
  · rw [← h 0x010]; grind [State.sysReg]
  · rw [← h 0x018]; grind [State.sysReg]
  · rw [← h 0x020]; grind [State.sysReg]

/-- STATUS of a supervisor, as a sum of its bits (R310). -/
theorem statusReg_priv {h : Hart} (hp : h.trap.priv = true) :
    h.statusReg = BitVec.ofNat 64 (16 * h.trap.ux.toNat + 8 * h.trap.sq.toNat + 4 * h.trap.lt.toNat + 2 * h.trap.pp.toNat + 1) := by
  unfold Hart.statusReg Hart.statusWord
  rw [hp]
  cases h.trap.ux <;> cases h.trap.sq <;> cases h.trap.lt <;> cases h.trap.pp <;> rfl

/-- Two halves of 16 bits, one above the other. -/
theorem halves_eq (a b : BitVec 16) :
    (a.zeroExtend 64 <<< 16) ||| b.zeroExtend 64 = BitVec.ofNat 64 (a.toNat * 2 ^ 16 + b.toNat) := by
  apply BitVec.eq_of_toNat_eq
  have := a.isLt
  have := b.isLt
  have h := Nat.two_pow_add_eq_or_of_lt (i := 16) b.isLt a.toNat
  rw [BitVec.toNat_or, BitVec.toNat_shiftLeft, Nat.shiftLeft_eq]
  simp only [BitVec.toNat_setWidth, BitVec.toNat_ofNat]
  rw [Nat.mod_eq_of_lt (by omega : a.toNat < 2 ^ 64), Nat.mod_eq_of_lt (by omega : b.toNat < 2 ^ 64),
    Nat.mod_eq_of_lt (by omega : a.toNat * 2 ^ 16 < 2 ^ 64), Nat.mod_eq_of_lt (by omega), Nat.mul_comm, h]

/-- PREEMPT with no soft pre-emption pending (R310). -/
theorem preemptReg_of_hard {s : State} (h : s.me.sup.soft = false) :
    s.preemptReg = BitVec.ofNat 64 (s.me.hardNow.toNat * 2 ^ 63 + s.me.sup.why.toNat * 2 ^ 56 + s.me.sup.left.toNat) := by
  have hw := s.me.sup.why.isLt
  have hl := s.me.sup.left.isLt
  have hb : s.me.hardNow.toNat ≤ 1 := Bool.toNat_le _
  have h1 : (boolWord s.me.hardNow).toNat = s.me.hardNow.toNat := by cases s.me.hardNow <;> rfl
  have h0 : (boolWord false).toNat = 0 := rfl
  have low : 2 ^ 56 * s.me.sup.why.toNat ||| s.me.sup.left.toNat = 2 ^ 56 * s.me.sup.why.toNat + s.me.sup.left.toNat :=
    (Nat.two_pow_add_eq_or_of_lt (by omega) _).symm
  have high := (Nat.two_pow_add_eq_or_of_lt (i := 63) (b := 2 ^ 56 * s.me.sup.why.toNat + s.me.sup.left.toNat) (by omega) s.me.hardNow.toNat).symm
  apply BitVec.eq_of_toNat_eq
  simp only [State.preemptReg, h, Bool.false_eq_true, if_false, BitVec.toNat_or, BitVec.toNat_shiftLeft, Nat.shiftLeft_eq, h1, h0,
    BitVec.toNat_setWidth, BitVec.toNat_ofNat, Nat.zero_mul, Nat.zero_mod, Nat.or_zero]
  rw [Nat.mod_eq_of_lt (by omega : s.me.sup.why.toNat < 2 ^ 64), Nat.mod_eq_of_lt (by omega : s.me.sup.left.toNat < 2 ^ 64),
    Nat.mod_eq_of_lt (by omega : s.me.hardNow.toNat * 2 ^ 63 < 2 ^ 64), Nat.mod_eq_of_lt (by omega : s.me.sup.why.toNat * 2 ^ 56 < 2 ^ 64),
    Nat.mod_eq_of_lt (by omega : _ < 2 ^ 64), Nat.or_assoc, Nat.mul_comm s.me.sup.why.toNat, low, Nat.mul_comm s.me.hardNow.toNat, high]
  omega

/-- HARTID: the harts of the core, one in a gang, and the hart's own number (R80). -/
theorem State.hartId_eq (s : State) :
    s.hartId = BitVec.ofNat 64 ((if s.me.gang = none then s.myCore.layout else 1) * 16 + s.who.hart.val) := by
  unfold State.hartId
  cases s.me.gang <;> rfl

/-- TLMX for the launch that owns the matrix unit (R28). -/
theorem State.tlmx_eq (s : State) :
    s.tlmx = if s.myCore.matrix.owner = s.me.launch ∧ s.me.launch ≠ none then s.myCore.matrix.counter else 0 := by
  simp [State.tlmx, Option.isSome_iff_ne_none]

/-- Registers of user mode, outside the Harness, that read as they stand. -/
def plainReg (r : Nat) : Bool := r < 0x100 && r != 0x034 && !isHarnessReg r

theorem execMovs_plain {s : State} (d : XReg) {r : BitVec 12} {v : Word} (hq : s.Quiet) (hv : s.me.vecDone = true)
    (hp : plainReg r.toNat = true) (hr : s.sysReg r.toNat = some v) : Completes (.movs d r) s (s.setX d v) := by
  simp only [plainReg, Bool.and_eq_true, decide_eq_true_eq, bne_iff_ne, Bool.not_eq_true'] at hp
  obtain ⟨⟨h1, h2⟩, h3⟩ := hp
  exact execMovs_reads d hq hv (fun h => absurd h1 (by omega)) h3 (took_of_fixed s h2 (by omega)) hr

/-- A register of a counter (R66). -/
theorem execMovs_ctr {s : State} (d : XReg) (base : BitVec 12) (k : CtrNum) {v : Word} (hq : s.Quiet) (hv : s.me.vecDone = true)
    (hb : base.toNat + 8 ≤ 0x030) (hr : s.sysReg (base.toNat + k.toNat) = some v) :
    Completes (.movs d (base + k.zeroExtend 12)) s (s.setX d v) := by
  have hk := toNat_add_ctr base k (by omega)
  have := k.isLt
  refine execMovs_plain d hq hv ?_ (by rw [hk]; exact hr)
  simp [plainReg, isHarnessReg, hk]
  omega

/-- CYCLE takes a free value and moves on (R80). -/
theorem execMovs_cycle {s : State} (d : XReg) (hq : s.Quiet) (hv : s.me.vecDone = true) :
    Completes (.movs d 0x034) s (({ s with
      fresh := s.fresh + 1
      cycle := s.cycleNow
      cycleBy := if s.cycleNow = s.cycle then s.agent :: s.cycleBy else [s.agent] } : State).setX d (BitVec.ofNat 64 s.cycleNow)) := by
  have h := execMovs_completes (d := d) (r := 0x034) hq hv (fun h => absurd h (by decide)) rfl rfl
  have ht : s.took (0x034 : BitVec 12).toNat = { s with
      fresh := s.fresh + 1
      cycle := s.cycleNow
      cycleBy := if s.cycleNow = s.cycle then s.agent :: s.cycleBy else [s.agent] } := by
    simp [State.took]
  rwa [ht] at h

theorem State.cycleNow_eq (s : State) :
    s.cycleNow = s.cycle + (if s.agent ∈ s.cycleBy then 1 else 0) + Config.cyclesBetween s.fresh := by
  simp [State.cycleNow]

end Sys2Proof.Machine

namespace Sys2Proof

open Machine

/-- Settles O10: one lemma says what a MOVS does with the value of its register, and what is left is that value, register by
register. -/
theorem movsReadsTheRegister : Obligations.MovsReadsTheRegister := by
  unfold Obligations.MovsReadsTheRegister
  intro s d hq hv h reads n
  have user (r : BitVec 12) {v : Word} (hp : plainReg r.toNat = true) (hr : s.sysReg r.toNat = some v) : reads r v :=
    execMovs_plain d hq hv hp hr
  have ctr (base : BitVec 12) (k : CtrNum) {v : Word} (hb : base.toNat + 8 ≤ 0x030) (hr : s.sysReg (base.toNat + k.toNat) = some v) :
      reads (base + k.zeroExtend 12) v := execMovs_ctr d base k hq hv hb hr
  have lane : s.sysReg 0x007 = some 0 := by
    rw [show s.sysReg 0x007 = some (wn (s.agent.lane.getD 0)) from rfl, hq.1.2.1]
    rfl
  refine ⟨user _ rfl rfl, user _ rfl rfl, user _ rfl rfl, user _ rfl rfl, user _ rfl rfl, user _ rfl rfl, user _ rfl rfl,
    user _ rfl lane,
    fun k => ⟨ctr 0x010 k (by decide) (sysReg_ctr s k).1, ctr 0x018 k (by decide) (sysReg_ctr s k).2.1, ctr 0x020 k (by decide) (sysReg_ctr s k).2.2⟩,
    user _ rfl (congrArg some s.hartId_eq), user _ rfl (congrArg some s.tlmx_eq), user _ rfl rfl, user _ rfl rfl, user _ rfl rfl,
    user _ rfl rfl, user _ rfl rfl, user _ rfl rfl, user _ rfl rfl, user _ rfl rfl, user _ rfl rfl, user _ rfl rfl, ?_, fun hp => ?_⟩
  · have hc := execMovs_cycle d hq hv
    rw [s.cycleNow_eq] at hc
    exact hc
  · have sup (r : BitVec 12) {v : Word} (hr : s.sysReg r.toNat = some v) (hh : isHarnessReg r.toNat = false) (ht : s.took r.toNat = s) : reads r v :=
      execMovs_reads d hq hv (fun _ => hp) hh ht hr
    exact ⟨sup _ (congrArg some (statusReg_priv hp)) rfl rfl, sup _ rfl rfl rfl, sup _ rfl rfl rfl, sup _ rfl rfl rfl, sup _ rfl rfl rfl,
      sup _ rfl rfl rfl,
      sup _ rfl rfl rfl, sup _ rfl rfl rfl, sup _ rfl rfl rfl, sup _ rfl rfl rfl, sup _ rfl rfl rfl,
      sup _ (congrArg some (halves_eq _ _)) rfl rfl, sup _ rfl rfl rfl,
      fun hs => sup _ (congrArg some (preemptReg_of_hard hs)) rfl (by simp [State.took, h, hs])⟩

end Sys2Proof
end

section
/-!
SUPPORT. A step with nothing else due than the current agent's instruction (R35, R36, R82, R84).
-/
namespace Sys2Proof.Machine

/-! ### A step with nothing else due -/

/-- With an empty agenda and no load open, a step is the current agent's turn, for as many steps as it has left. -/
theorem step_of_agent {s : State} (ha : s.agenda = []) (hl : s.order.loads = []) (ht : s.turn ≠ 0) :
    step s = stepAgent { s with turn := s.turn - 1 } := by
  have ht' : (s.turn == 0) = false := beq_eq_false_iff_ne.2 ht
  simp only [step, stepFree, hl, ha, ht', List.isEmpty_nil, if_true, Bool.false_eq_true, if_false]

/-- A lane thread that has a next instruction executes it. -/
theorem stepAgent_lane {s : State} {l : Nat} (hl : s.agent.lane = some l) (hr : s.me.laneRuns l = true) :
    stepAgent s = stepWord { s with idleTurns := 0 } := by
  have hc : s.canRun s.agent = true := by rw [State.canRun, hl]; exact hr
  simp only [stepAgent, hc, hl, Bool.not_true, Bool.false_eq_true, if_false]

/-- With nothing pending at it, a boundary of the scalar unit takes nothing. -/
theorem boundary_of_quiet {s : State} (run : State → Option State) (hl : s.me.late = []) (hx : s.me.xpend = [])
    (hh : s.me.hardNow = false) : boundary run s = none := by
  simp [boundary, hl, landLate, hx, hh]

/-- So does a scalar unit that runs with nothing to wait for. -/
theorem stepAgent_scalar {s : State} (hl : s.agent.lane = none) (ha : s.me.alive = true) (hr : s.me.run = .running)
    (hs : s.me.stream = []) (hlate : s.me.late = []) (hx : s.me.xpend = []) (hh : s.me.hardNow = false) :
    stepAgent s = stepWord { s with idleTurns := 0 } := by
  have hc : s.canRun s.agent = true := by
    rw [State.canRun, hl]
    change s.me.scalarRuns = true
    simp [Hart.scalarRuns, ha, hr]
  have hst : stepStream s = none := by simp only [stepStream, hs]
  have hm : mayIssue s = true := by simp [mayIssue, hx, hr, hh]
  simp only [stepAgent, hc, hl, stepScalar, boundary_of_quiet stepStream hlate hx hh, hst, hm, Bool.not_true, Bool.false_eq_true, if_false, if_true]

/-! ### What a fetched word is to the agent (R53, R55) -/

theorem instrOf_of_decode {w : Insn} {s : State} {i : Instr} (hg : gated w s = false) (hd : decode w = .ok i) : instrOf w s = i := by
  simp only [instrOf, decodeOrReserved, hg, hd, Bool.false_eq_true, if_false]

theorem instrOf_of_gated {w : Insn} {s : State} (hg : gated w s = true) : instrOf w s = .reservedWord w := by
  simp only [instrOf, hg, if_true]

theorem instrOf_of_reject {w : Insn} {s : State} {r : Reject} (hd : decode w = .error r) : instrOf w s = .reservedWord w := by
  simp only [instrOf, decodeOrReserved, hd, ite_self]

/-- The scalar unit fetches the word at its PC (R35, R36). -/
theorem fetch_scalar {s : State} {p : Phys} (hl : s.agent.lane = none) (ha : access s s.who .fetch 4 false s.me.pc = .ok p)
    (hc : s.me.trap.priv = true ∨ s.inCode s.me s.me.pc.toNat = true) (hb : s.badByte p.key = false) :
    s.fetch = .ok (instrOf (wordOfBytes (s.byte p.key) (s.byte (p.key + 1)) (s.byte (p.key + 2)) (s.byte (p.key + 3))) s)
      (noteWalk s.who s.me.pc s) := by
  have hc' : (!s.me.trap.priv && !s.inCode s.me s.me.pc.toNat) = false := by
    rcases hc with h | h <;> simp [h]
  simp only [State.fetch, hl, fetchScalar, ha, hc', hb, Bool.false_eq_true, if_false]

/-- A lane thread fetches the word at its offset in its quad's buffer (R82, R84). -/
theorem fetch_lane {s : State} {l : Nat} (hl : s.agent.lane = some l) (hb : s.bad = []) (hp : s.pcNow.toNat < 4096) :
    s.fetch = .ok (instrOf (s.bufWord s.who l s.pcNow.toNat) s) s := by
  have hbuf : bufBad l s.pcNow.toNat s = false := by simp [bufBad, hb]
  have hlane (w : Insn) : laneBad w l s = none := by simp [laneBad, hb]
  simp only [State.fetch, hl, fetchLane, hbuf, hlane, Nat.not_le.2 hp, Bool.false_eq_true, if_false]
  split
  · next h => rw [h]
  · rfl

theorem stepWord_of_fetch {s t : State} {i : Instr} (h : s.fetch = .ok i t) : stepWord s = exec i t := by
  simp only [stepWord, h]

end Sys2Proof.Machine

namespace Sys2Proof

open Machine

/-- Settles O56: with an empty agenda and nothing pending a step is the word fetched at the current agent's PC, and a gate reads
no step counter. -/
theorem stepRunsTheDecodedInstruction : Obligations.StepRunsTheDecodedInstruction := by
  unfold Obligations.StepRunsTheDecodedInstruction
  intro s w hag hld htu _ _ halive t runs
  have runs_of (u : State) (h : step s = exec (instrOf w t) u) : runs u :=
    ⟨fun hg _ hd => h.trans (by rw [instrOf_of_decode (s := t) hg hd]), fun hg => h.trans (by rw [instrOf_of_gated (s := t) hg]),
      fun _ hd => h.trans (by rw [instrOf_of_reject hd])⟩
  have turn := step_of_agent hag hld htu
  refine ⟨fun p hl hrun hstream hlate hx hh hacc hcode hbad hw => runs_of _ ?_, fun l hl hrun hbad hp hw => runs_of _ ?_⟩
  · have agent := stepAgent_scalar (s := { s with turn := s.turn - 1 }) hl halive hrun hstream hlate hx hh
    subst hw
    exact turn.trans (agent.trans (stepWord_of_fetch (fetch_scalar (s := t) hl hacc hcode hbad)))
  · have agent := stepAgent_lane (s := { s with turn := s.turn - 1 }) hl hrun
    subst hw
    exact turn.trans (agent.trans (stepWord_of_fetch (fetch_lane (s := t) hl hbad hp)))

end Sys2Proof
end

section
/-!
SUPPORT. A counter that takes a new value: the windows that it advances, the advances that wait, and the wrap of a loop (R68, R70,
R151, R163).
-/
namespace Sys2Proof.Machine

/-! ### Updates of the executing hart, one after another -/

@[simp] theorem State.setCore_setCore (s : State) (c : CoreId) (a b : Core) : (s.setCore c a).setCore c b = s.setCore c b := by
  simp [State.setCore]

@[simp] theorem Core.setHart_setHart (k : Core) (n : HartNum) (a b : Hart) : (k.setHart n a).setHart n b = k.setHart n b := by
  simp [Core.setHart]

@[simp] theorem State.setHart_setHart (s : State) (w : Who) (a b : Hart) : (s.setHart w a).setHart w b = s.setHart w b := by
  simp [State.setHart]

@[simp] theorem State.setMe_setMe (s : State) (a b : Hart) : (s.setMe a).setMe b = s.setMe b := State.setHart_setHart s s.who a b

theorem State.modMe_setMe (s : State) (a : Hart) (f : Hart → Hart) : (s.setMe a).modMe f = s.setMe (f a) := by
  rw [State.modMe, State.me_setMe, State.setMe_setMe]

/-! ### The advances of a counter change (R151, R163) -/

/-- The window is tied to counter k and has not yet advanced to value v. -/
def Hart.due (h : Hart) (k : Nat) (v : Word) (w : WinNum) : Bool :=
  (h.win w).tied k != 0 && !(h.ahead.find? (fun a => a.1 == w && a.2.1 == k)).any (fun a => a.2.2 == v)

/-- What the advances of a counter change may come to: one operation for each window of `ws`, numbered on TLRE, and only
operations, TLRE and the note of what has advanced where the scoreboard has no room. -/
def AdvRes.Advances (s : State) (ws : List WinNum) : AdvRes → Prop
  | .done u => ∃ ops : List ReOp, ops.map (fun o => (o.win, o.kind)) = ws.map (fun w => (w, ReKind.advance)) ∧
      u = s.setMe { s.me with tlre := s.me.tlre + BitVec.ofNat 64 ws.length, reOps := s.me.reOps ++ ops, ahead := [] }
  | .full u => ∃ t ops a, u = s.setMe { s.me with tlre := t, reOps := ops, ahead := a }
  | .fail _ _ => True

/-- The test of `advanceAll` for a window without an advance to make. -/
theorem Hart.not_due_iff {h : Hart} {k : Nat} {old new : Nat → Int} {v : Word} (hv : new k = v.toInt) (w : WinNum) :
    ((h.win w).tied k == 0 || (h.ahead.any (fun a => a.1 == w && a.2.1 == k) && h.behind old w k == new k)) = !h.due k v w := by
  have hany : h.ahead.any (fun a => a.1 == w && a.2.1 == k) = (h.ahead.find? (fun a => a.1 == w && a.2.1 == k)).isSome := by
    rw [Bool.eq_iff_iff, List.find?_isSome, List.any_eq_true]
  unfold Hart.due Hart.behind
  rw [hany, hv]
  cases h.ahead.find? (fun a => a.1 == w && a.2.1 == k) with
  | none => simp [bne]
  | some a =>
    have : (a.2.2.toInt == v.toInt) = (a.2.2 == v) := by simp [BitVec.toInt_inj]
    simp [bne, this]

/-- The advance of one window leaves the others as due as they were. -/
theorem Hart.due_of_ahead {h h' : Hart} {k : Nat} {v : Word} {w w' : WinNum} {a : WinNum × Nat × Word} (hw : h'.wins = h.wins)
    (ha : h'.ahead = a :: h.ahead.filter (·.1 != w)) (h1 : a.1 = w) (hne : w' ≠ w) : h'.due k v w' = h.due k v w' := by
  have hwin : h'.win w' = h.win w' := by rw [Hart.win, hw]; rfl
  have hf : h'.ahead.find? (fun a => a.1 == w' && a.2.1 == k) = h.ahead.find? (fun a => a.1 == w' && a.2.1 == k) := by
    rw [ha, List.find?_cons_of_neg (by simp [h1, Ne.symm hne]), List.find?_filter]
    congr 1
    funext b
    by_cases hb : b.1 = w'
    · simp [hb, hne, beq_eq_decide]
    · simp [hb]
  rw [Hart.due, Hart.due, hwin, hf]

/-- The advance of one window is one operation more. -/
theorem Hart.advance_pushes (h : Hart) (old new : Nat → Int) (q : Nat) (w : WinNum) :
    ∃ o : ReOp, o.win = w ∧ o.kind = .advance ∧ h.advance old new q w = { h with tlre := h.tlre + 1, reOps := h.reOps ++ [o] } :=
  ⟨_, rfl, rfl, rfl⟩

theorem advanceAll_advances {k : Nat} {old new : Nat → Int} {v : Word} (hv : new k = v.toInt) (q : Nat) {ws : List WinNum}
    (hn : ws.Nodup) (s : State) : (advanceAll k old new q s ws).Advances s (ws.filter (s.me.due k v)) := by
  induction ws generalizing s with
  | nil => exact ⟨[], rfl, by simp [State.modMe]⟩
  | cons w ws ih =>
    obtain ⟨hw, hn⟩ := List.nodup_cons.1 hn
    unfold advanceAll
    simp only [Hart.not_due_iff hv w]
    cases hd : s.me.due k v w with
    | false => simpa [hd] using ih hn s
    | true =>
      simp only [Bool.not_true, Bool.false_eq_true, if_false]
      split
      · trivial
      · split
        · exact ⟨_, _, _, (s.setMe_self).symm⟩
        · -- one more operation, then those of the windows behind it
          obtain ⟨o, how, hok, ho⟩ := s.me.advance_pushes (s.me.behind old w) new q w
          rw [State.modMe, ho]
          generalize hh : ({ s.me with
            tlre := s.me.tlre + 1, reOps := s.me.reOps ++ [o]
            ahead := (w, k, BitVec.ofInt 64 (new k)) :: s.me.ahead.filter (·.1 != w) } : Hart) = h1
          have hdue : ws.filter (h1.due k v) = ws.filter (s.me.due k v) := List.filter_congr fun w' hw' => by
            subst hh
            exact Hart.due_of_ahead rfl rfl rfl fun c => hw (c ▸ hw')
          have hrest := ih hn (s.setMe h1)
          rw [State.me_setMe, hdue] at hrest
          rw [List.filter_cons_of_pos hd]
          cases hr : advanceAll k old new q (s.setMe h1) ws with
          | done u =>
            rw [hr] at hrest
            obtain ⟨ops, hops, hu⟩ := hrest
            refine ⟨o :: ops, by rw [List.map_cons, List.map_cons, hops, how, hok], ?_⟩
            have ht (n : Nat) : s.me.tlre + 1 + BitVec.ofNat 64 n = s.me.tlre + BitVec.ofNat 64 (n + 1) := by
              rw [BitVec.ofNat_add, BitVec.add_assoc, BitVec.add_comm 1]
              rfl
            rw [hu, State.setMe_setMe, State.me_setMe, ← hh, List.length_cons]
            simp only [List.append_assoc, List.singleton_append, ht]
          | full u =>
            rw [hr] at hrest
            obtain ⟨t, ops, a, hu⟩ := hrest
            refine ⟨t, ops, a, ?_⟩
            rw [hu, State.setMe_setMe, State.me_setMe, ← hh]
          | fail => trivial

/-! ### A counter takes a value (R70, R151) -/

/-- The counter as a signed value reads what was put there. -/
theorem Hart.ctr_putCtr (h : Hart) (k : CtrNum) (v : Word) : (h.putCtr k v).ctr k.toNat = v.toInt := by
  have hk : k.toNat < 8 := k.isLt
  simp [Hart.ctr, Hart.putCtr, Hart.setLoop, List.getD_eq_getElem?_getD, hk]

theorem nodup_allWins : allWins.Nodup := by decide

/-- What a counter's new value comes to: with a member before it in the stream that takes an RE number, its advances stand behind
that member; otherwise each window that is due advances once. -/
theorem setCounter_done {k : CtrNum} {v p : Word} {wrap : Bool} {s u : State} (hu : setCounter k v p wrap s = .done u) :
    (s.me.winPending = true ∧ u = (s.setMe (s.me.putCtr k v)).queueAdvance s p wrap) ∨
    (s.me.winPending = false ∧ ∃ ops : List ReOp,
      ops.map (fun o => (o.win, o.kind)) = (allWins.filter (s.me.due k.toNat v)).map (fun w => (w, ReKind.advance)) ∧
      u = s.setMe (Hart.putCtr { s.me with
        tlre := s.me.tlre + BitVec.ofNat 64 (allWins.filter (s.me.due k.toNat v)).length, reOps := s.me.reOps ++ ops
        ahead := [] } k v)) := by
  unfold setCounter at hu
  cases hp : s.me.winPending with
  | true =>
    rw [if_pos hp] at hu
    cases hu
    exact .inl ⟨rfl, rfl⟩
  | false =>
    rw [if_neg (by simp [hp])] at hu
    have ha := advanceAll_advances (old := s.me.ctr) (s.me.ctr_putCtr k v) s.seqNow nodup_allWins s
    cases hr : advanceAll k.toNat s.me.ctr (s.me.putCtr k v).ctr s.seqNow s allWins with
    | done t =>
      rw [hr] at hu ha
      cases hu
      obtain ⟨ops, hops, rfl⟩ := ha
      exact .inr ⟨rfl, ops, hops, by rw [State.modMe_setMe]⟩
    | full t => rw [hr] at hu; cases hu
    | fail w t => rw [hr] at hu; cases hu

/-- A counter that waits for entries of the scoreboard: only RE operations and what they note have changed (R163). -/
theorem setCounter_full {k : CtrNum} {v p : Word} {wrap : Bool} {s u : State} (hu : setCounter k v p wrap s = .full u) :
    ∃ t ops a, u = s.setMe { s.me with tlre := t, reOps := ops, ahead := a } := by
  unfold setCounter at hu
  have ha := advanceAll_advances (old := s.me.ctr) (s.me.ctr_putCtr k v) s.seqNow nodup_allWins s
  split at hu
  · cases hu
  · cases hr : advanceAll k.toNat s.me.ctr (s.me.putCtr k v).ctr s.seqNow s allWins with
    | done t => rw [hr] at hu; cases hu
    | full t =>
      rw [hr] at hu ha
      cases hu
      exact ha
    | fail w t => rw [hr] at hu; cases hu

/-- Where no window is tied to the counter it takes the value, and nothing else moves. -/
theorem setCounter_untied {k : CtrNum} {v p : Word} {wrap : Bool} {s : State} (hp : s.me.winPending = false)
    (ht : ∀ w, (s.me.win w).tied k.toNat = 0) : setCounter k v p wrap s = .done (s.setMe (Hart.putCtr { s.me with ahead := [] } k v)) := by
  have none (ws : List WinNum) : advanceAll k.toNat s.me.ctr (s.me.putCtr k v).ctr s.seqNow s ws = .done (s.setMe { s.me with ahead := [] }) := by
    induction ws with
    | nil => rfl
    | cons w ws ih => simpa [advanceAll, ht] using ih
  rw [setCounter, if_neg (by simp [hp]), none]
  simp only [State.modMe_setMe]

theorem winPending_of_empty {h : Hart} (hs : h.stream = []) : h.winPending = false := by simp [Hart.winPending, hs]

/-- The advances that wait stand last in the stream, with the counters before and after the change (R151). -/
theorem State.me_queueAdvance (t before : State) (p : Word) (wrap : Bool) :
    ∃ e : Issued, e.adv = some wrap ∧ e.cap.pc = p ∧ e.cap.xs = before.me.ctrs ++ t.me.ctrs ∧
      (t.queueAdvance before p wrap).me = { t.me with nextSeq := t.me.nextSeq + 1, stream := t.me.stream ++ [e] } := by
  have hme (f : Hart → Hart) (n : Nat) : ({ t.modMe f with nextId := n } : State).me = f t.me := t.me_modMe f
  refine ⟨?entry, ?_, ?_, ?_, (hme _ _).trans ?me⟩
  case me => rfl
  all_goals rfl

/-- The wrap of a loop whose counter names no window: REM counts down and control goes to TOP (R68). -/
theorem arrive_wraps {s : State} {k : CtrNum} {p : Word} (ha : s.me.active = [k]) (hs : s.me.stream = [])
    (hp : p = (s.me.loop k).endAddr) (hrem : (s.me.loop k).rem ≠ 0) (ht : ∀ w, (s.me.win w).tied k.toNat = 0) :
    arrive p s =
      let l := s.me.loop k
      s.setMe { s.me.setLoop k ⟨l.cnt + 1, l.rem - 1, l.body, l.endOf, l.changes + 1⟩ with pc := l.top, run := .running, ahead := [] } := by
  have hend : (p == (s.me.loop k).endAddr) = true := beq_iff_eq.2 hp
  have hz : ((s.me.loop k).rem == 0) = false := beq_eq_false_iff_ne.2 hrem
  have hset (h : Hart) (a b : LoopCtr) : (h.setLoop k a).setLoop k b = h.setLoop k b := by simp [Hart.setLoop]
  have hcheck : arrive p s = backEdge p s [k] := by rw [arrive, ha]
  rw [hcheck]
  simp only [backEdge, hend, hz, setCounter_untied (winPending_of_empty hs) ht, if_true, Bool.false_eq_true, if_false, State.goTo,
    State.modMe_setMe, Hart.putCtr, Hart.loop_setLoop, hset]
  rfl

/-- The back-edge check of another hart, where it changes that hart alone. -/
theorem asHart_setMe {s : State} {w : Who} {f : State → State} {h : Hart}
    (hf : f { s with agent := ⟨w, none⟩, replay := none } = State.setMe { s with agent := ⟨w, none⟩, replay := none } h) :
    s.asHart w f = s.setHart w h := by
  rw [State.asHart, hf]
  rfl

theorem loopWrap_wraps {s : State} {w : Who} {k : CtrNum} (hs : (s.hart w).stream = []) (ha : (s.hart w).active = [k])
    (hp : (s.hart w).pc = ((s.hart w).loop k).endAddr) (hrem : ((s.hart w).loop k).rem ≠ 0) (ht : ∀ i, ((s.hart w).win i).tied k.toNat = 0)
    (hr : (s.hart w).run = .atLoopEnd) :
    exec (.loopWrap w) s =
      let l := (s.hart w).loop k
      .next (s.setHart w { (s.hart w).setLoop k ⟨l.cnt + 1, l.rem - 1, l.body, l.endOf, l.changes + 1⟩ with
        pc := l.top, run := .running, ahead := [] }) := by
  change execLoopWrap w s = _
  rw [execLoopWrap, if_pos (beq_iff_eq.2 hr)]
  exact congrArg _ (asHart_setMe (arrive_wraps (s := { s with agent := ⟨w, none⟩, replay := none }) ha hs hp hrem ht))

end Sys2Proof.Machine

namespace Sys2Proof

open Machine

/-- Settles O51: `setCounter_done` says once what a counter's new value comes to, in the windows or behind the stream. -/
theorem countersReservedWordsAndErrors : Obligations.CountersReservedWordsAndErrors := by
  unfold Obligations.CountersReservedWordsAndErrors
  intro s k v w site word
  refine ⟨fun u p wrap hu => ?_, fun u p wrap hu => ?_, fun hq ht hne => ?_, fun heq => ?_, ?_, fun hr => ?_, fun hq => ?_, ?_, rfl⟩
  · have putCtr_loop (h : Hart) : (h.putCtr k v).loop k = { h.loop k with cnt := v, changes := (h.loop k).changes + 1 } ∧
        ∀ j, j ≠ k → (h.putCtr k v).loop j = h.loop j :=
      ⟨Hart.loop_setLoop _ _ _, fun j hj => Hart.loop_setLoop_ne _ _ _ _ hj⟩
    rcases setCounter_done hu with ⟨hp, rfl⟩ | ⟨hp, ops, hops, rfl⟩
    · obtain ⟨e, hadv, hpc, hxs, hme⟩ := (s.setMe (s.me.putCtr k v)).me_queueAdvance s p wrap
      rw [State.me_setMe] at hme hxs
      rw [hme]
      exact ⟨(putCtr_loop _).1, (putCtr_loop _).2, rfl, rfl, rfl, fun h => absurd hp (by simp [h]), fun _ => ⟨rfl, rfl, e, rfl, hadv, hpc, hxs⟩⟩
    · rw [State.me_setMe]
      exact ⟨(putCtr_loop _).1, (putCtr_loop _).2, rfl, rfl, rfl, fun _ => ⟨rfl, rfl, ops, rfl, hops⟩, fun h => absurd hp (by simp [h])⟩
  · obtain ⟨t, ops, a, rfl⟩ := setCounter_full hu
    rw [State.me_setMe]
    exact ⟨rfl, rfl, rfl⟩
  · have hs := setCounter_untied (p := s.me.pc) (v := v) (wrap := false) (winPending_of_empty hq.2.1) ht
    change execLcntWrite k v s = _
    rw [execLcntWrite, if_neg (by simpa using hne), hs]
    rfl
  · exact if_pos (beq_iff_eq.2 heq)
  · exact fun hs ha hp hrem ht hr => loopWrap_wraps hs ha hp hrem ht hr
  · exact if_neg (by simpa using hr)
  · exact raise_of_quiet hq
  · change ∃ bad, execMemoryDoubleError site s = .next { s with bad := bad } ∧ ∀ x, x ∈ bad ↔ x ∈ s.bad ∨ x = site
    unfold execMemoryDoubleError
    split
    · next hc => exact ⟨s.bad, rfl, fun x => ⟨.inl, fun h => h.elim id fun e => e ▸ List.contains_iff_mem.1 hc⟩⟩
    · exact ⟨s.bad ++ [site], rfl, fun x => by simp⟩

end Sys2Proof
end

section
/-!
SUPPORT. The setting of the type and the length under an unchanged grant (R42, R43, R90 to R92).
-/

namespace Sys2Proof.Machine

/-! ### Fields of VTYPE (R42, R43) -/

theorem bitsOf_eq (x : Word) (lo len : Nat) : bitsOf x lo len = x.toNat / 2 ^ lo % 2 ^ len := by
  simp [bitsOf, Nat.shiftRight_eq_div_pow]

/-- VLMAX from the fields LMUL and SEW (R19). -/
theorem vlmaxOf_eq (n : Nat) (t : Word) :
    vlmaxOf n t = n * 1024 * 2 ^ (t.toNat / 16 % 4) / (8 * 2 ^ (t.toNat % 4)) := by
  simp [vlmaxOf, lmulOf, sewOf, bitsOf_eq, Nat.shiftLeft_eq]

/-- The legal requested types, field by field (R43). -/
theorem typeLegal_iff (t : Word) : typeLegal t = true ↔
    (t.getLsbD 2 = false ∧ (t.getLsbD 3 = true → t.toNat % 8 = 1 ∨ t.toNat % 8 = 2) ∧ t.toNat / 2 ^ 8 % 8 ≤ 4 ∧
      t.toNat / 2 ^ 11 % 2 ^ 5 = 0 ∧ t.toNat / 2 ^ 24 = 0) := by
  have hsew : t.getLsbD 2 = false ↔ t.toNat % 8 < 4 := by
    rw [BitVec.getLsbD, Nat.testBit_eq_decide_div_mod_eq]
    simp
    omega
  have hhigh : t.toNat / 2 ^ 24 % 2 ^ 40 = t.toNat / 2 ^ 24 := Nat.mod_eq_of_lt (by have := t.isLt; omega)
  simp only [typeLegal, ekOf, scopeOf, bitsOf_eq, hhigh, hsew, Bool.and_eq_true, decide_eq_true_eq, beq_iff_eq, Bool.not_eq_true',
    Bool.and_eq_false_iff, Bool.or_eq_false_iff, beq_eq_false_iff_ne]
  cases t.getLsbD 3
  · simp; omega
  · simp; omega

/-- VSETVLI keeps TROWS and TDIM and takes its immediate below them (R92). -/
theorem vsetvli_request (t : Word) (imm : BitVec 16) :
    (t &&& 0xFF0000) ||| imm.zeroExtend 64 = BitVec.ofNat 64 (t.toNat / 2 ^ 16 % 2 ^ 8 * 2 ^ 16 + imm.toNat) := by
  have hi := imm.isLt
  have hmask : t.toNat &&& 0xFF0000 = 2 ^ 16 * (t.toNat / 2 ^ 16 % 2 ^ 8) := by
    have h : (0xFF0000 : Nat) = 2 ^ 16 * (2 ^ 8 - 1) := rfl
    rw [h]
    apply Nat.eq_of_testBit_eq
    intro i
    rw [Nat.testBit_and, Nat.testBit_two_pow_mul, Nat.testBit_two_pow_mul, Nat.testBit_mod_two_pow, Nat.testBit_div_two_pow,
      Nat.testBit_two_pow_sub_one]
    by_cases h : 16 ≤ i
    · rw [show i - 16 + 16 = i by omega]
      cases t.toNat.testBit i <;> simp [h]
    · simp [h]
  apply BitVec.eq_of_toNat_eq
  rw [BitVec.toNat_or, BitVec.toNat_and, BitVec.toNat_setWidth, BitVec.toNat_ofNat, Nat.mod_eq_of_lt (by omega : imm.toNat < 2 ^ 64)]
  change (t.toNat &&& 0xFF0000) ||| _ = _
  rw [hmask, ← Nat.two_pow_add_eq_or_of_lt hi, Nat.mul_comm]
  exact (Nat.mod_eq_of_lt (by omega)).symm

/-! ### What a completion leaves (R68) -/

/-- The count of length settings stays at a back-edge check, even where it raises the trap of a failed write-back. -/
theorem backEdge_epoch (p : Word) {s : State} (ho : s.OnScalar) (ks : List CtrNum) : (backEdge p s ks).me.epoch = s.me.epoch := by
  induction ks generalizing s with
  | nil => simp [backEdge, State.goTo]
  | cons k ks ih =>
    simp only [backEdge]
    split
    · split
      · rw [ih (s := s.modMe _) ho, State.me_modMe]
      · split
        · next u hu =>
          obtain ⟨t, ops, a, rfl⟩ := setCounter_full hu
          rw [State.modMe_setMe, State.me_setMe]
        · next w t _ =>
          rw [trapAt_scalar (s := s.modMe _) ho, State.me_setMe, State.me_modMe]
          rfl
        · next u hu =>
          rw [State.goTo, State.me_modMe, State.me_modMe]
          rcases setCounter_done hu with ⟨-, rfl⟩ | ⟨-, ops, -, rfl⟩
          · obtain ⟨e, -, -, -, hme⟩ := (s.setMe (s.me.putCtr k ((s.me.loop k).cnt + 1))).me_queueAdvance s p true
            rw [State.me_setMe] at hme
            change (State.queueAdvance _ s p true).me.epoch = _
            rw [hme]
            rfl
          · rw [State.me_setMe]
            rfl
    · exact ih ho

theorem finish_epoch {s : State} (ho : s.OnScalar) : (finish s).me.epoch = s.me.epoch := by
  rw [finish, complete_scalar _ ho.2.1, arrive, backEdge_epoch (s := s.modMe _) _ ho, State.me_modMe]

/-! ### The length under an unchanged grant (R92) -/

/-- The hart with the length and the type that a request sets, a soft pre-emption satisfied (R92, R323). -/
theorem Hart.setType_legal {h : Hart} {req : Word} (hl : typeLegal req = true) (avl : Word) :
    (h.setType avl req).clearSoft = { h with
      vtype := req, vl := min avl.toNat (vlmaxOf h.lanes req), vstart := 0, epoch := h.epoch + 1
      sup := { h.sup with soft := false, left := 0 } } := by
  rw [Hart.setType, if_pos hl]
  rfl

theorem Hart.setType_illegal {h : Hart} {req : Word} (hl : typeLegal req = false) (avl : Word) :
    (h.setType avl req).clearSoft = { h with
      vtype := villType, vl := 0, vstart := 0, epoch := h.epoch + 1, sup := { h.sup with soft := false, left := 0 } } := by
  rw [Hart.setType, if_neg (by simp [hl])]
  rfl

theorem Hart.vl_setType_legal {h : Hart} {req : Word} (hl : typeLegal req = true) (avl : Word) :
    (h.setType avl req).vl = min avl.toNat (vlmaxOf h.lanes req) := by rw [Hart.setType, if_pos hl]

theorem Hart.vl_setType_illegal {h : Hart} {req : Word} (hl : typeLegal req = false) (avl : Word) : (h.setType avl req).vl = 0 := by
  rw [Hart.setType, if_neg (by simp [hl])]

/-- Every length setting counts, legal or not. -/
theorem Hart.epoch_setType (h : Hart) (avl req : Word) : (h.setType avl req).clearSoft.epoch = h.epoch + 1 := by
  cases hl : typeLegal req
  · rw [Hart.setType_illegal hl]
  · rw [Hart.setType_legal hl]

theorem Hart.epoch_setX (h : Hart) (r : XReg) (v : Word) : (h.setX r v).epoch = h.epoch := by
  obtain ⟨a, b, hx⟩ := h.setX_banks r v
  rw [hx]

/-- With the grant as it is no Relay comes, and the length is set at once. -/
theorem setLength_eq {s : State} (hg : s.me.grant = s.me.lanes) (d : XReg) (avl req : Word) :
    setLength d avl req s = .next (finish ((s.setMe (s.me.setType avl req).clearSoft).setX d (wn (s.me.setType avl req).vl))) := by
  have hne : (s.me.grant != s.me.lanes) = false := by simp [hg]
  simp only [setLength, hne, Bool.false_and, Bool.false_eq_true, if_false, writeX, done_eq, State.modMe, State.me_setMe]
  rfl

/-- VSETVLQ takes the oldest entry of lq, which it pops (R31, R92). -/
theorem execVsetvlq_eq {s : State} (ho : s.OnScalar) (hg : s.me.grant = s.me.lanes) (d : XReg) {n : Word} {q : List Word}
    (hq : s.me.lq = n :: q) :
    execVsetvlq d s = setLength d n (if s.me.vill then villType else s.me.vtype) (s.setMe { s.me with lq := q }) := by
  have hg' : (s.setMe { s.me with lq := q }).me.grant = (s.setMe { s.me with lq := q }).me.lanes := by
    rw [State.me_setMe]
    exact hg
  -- the length has been set, so the entry stays popped
  have hepoch (avl req : Word) (v : Word) :
      ((finish (((s.setMe { s.me with lq := q }).setMe (Hart.setType { s.me with lq := q } avl req).clearSoft).setX d v)).me.epoch ==
        s.me.epoch) = false := by
    rw [State.setMe_setMe, State.setX_scalar _ _ _ (by exact ho.2.1), State.setMe_setMe, finish_epoch (s := s.setMe _) ho, State.me_setMe,
      State.me_setMe, Hart.epoch_setX, Hart.epoch_setType]
    simp
  have hset := setLength_eq hg' d n (if s.me.vill then villType else s.me.vtype)
  rw [State.me_setMe] at hset
  unfold execVsetvlq
  rw [hq]
  simp only [State.modMe]
  rw [hset]
  simp only [hepoch, Bool.false_eq_true, if_false]

end Sys2Proof.Machine

namespace Sys2Proof

open Machine

/-- Settles O14: under an unchanged grant the three members come to one length setting; a legal type is one of fields in their
ranges. -/
theorem setLengthAndLegalTypes : Obligations.SetLengthAndLegalTypes := by
  unfold Obligations.SetLengthAndLegalTypes
  refine ⟨?_, typeLegal_iff⟩
  intro s d a b imm ho hg sets
  -- one length setting, from a state s' whose hart differs from that of s in lq alone
  have set (i : Instr) (s' : State) (avl req : Word) (hlanes : s'.me.lanes = s.me.lanes) (hgrant : s'.me.grant = s'.me.lanes)
      (hepoch : s'.me.epoch = s.me.epoch) (hsup : s'.me.sup = s.me.sup) (hi : exec i s = setLength d avl req s') : sets i s' avl req := by
    have h := hi.trans (setLength_eq hgrant d avl req)
    refine ⟨fun hl => ?_, fun hl => ?_⟩
    · have hmax : vlmaxOf s'.me.lanes req = vlmaxOf s.me.lanes req := congrArg (vlmaxOf · req) hlanes
      rw [Hart.setType_legal hl, Hart.vl_setType_legal hl, hmax, vlmaxOf_eq, hepoch, hsup] at h
      exact h
    · rw [Hart.setType_illegal hl, Hart.vl_setType_illegal hl, hepoch, hsup] at h
      exact h
  refine ⟨set _ s _ _ rfl hg rfl rfl rfl, ?_, fun n q hq => ?_, fun hq => ?_⟩
  · refine set _ s _ _ rfl hg rfl rfl ?_
    rw [← vsetvli_request]
    rfl
  · exact set _ _ _ _ (by rw [State.me_setMe]) (by rw [State.me_setMe]; exact hg) (by rw [State.me_setMe]) (by rw [State.me_setMe])
      (execVsetvlq_eq ho hg d hq)
  · change execVsetvlq d s = _
    rw [execVsetvlq, hq]
    exact stall_eq _ _

end Sys2Proof
end

section
/-!
SUPPORT. The lane scratch and the locks of a hart: what a write of each leaves, and the loop over the elements of a scratch member
(R48, R126 to R129).
-/
namespace Sys2Proof.Machine

/-! ### The lanes of a hart (R91, R95) -/

/-- Two lanes of a hart are two places. -/
theorem State.laneCore_inj {s : State} {w : Who} {l l' : Nat} (hl : l < 2048) (hl' : l' < 2048)
    (h : s.laneCore w l = s.laneCore w l') : l = l' := by
  unfold State.laneCore at h
  cases hg : (s.hart w).gang with
  | none =>
    simp only [hg, Prod.mk.injEq, true_and] at h
    omega
  | some g =>
    simp only [hg, Prod.mk.injEq, Fin.ext_iff, Fin.val_ofNat] at h
    omega

/-! ### A state that differs in scratch, locks, vector and mask registers -/

/-- u is s but for the scratch and the locks of cores, and for the vector and mask registers and VSTART of the executing hart. -/
structure State.LaneChange (s u : State) : Prop where
  frame : ∃ cs, u = { s with cores := cs }
  hart : ∀ q, q ≠ s.who → u.hart q = s.hart q
  me : ∃ v m a, u.me = { s.me with v := v, m := m, vstart := a }
  layout : ∀ c, (u.core c).layout = (s.core c).layout
  inv : (∀ c, Memory.wf (s.core c).scratch = true) → ∀ c, Memory.wf (u.core c).scratch = true

namespace State.LaneChange

theorem who {s u : State} (h : s.LaneChange u) : u.who = s.who := by
  obtain ⟨cs, e⟩ := h.frame
  rw [e]
  rfl

theorem bad {s u : State} (h : s.LaneChange u) : u.bad = s.bad := by
  obtain ⟨cs, e⟩ := h.frame
  rw [e]

theorem lanes {s u : State} (h : s.LaneChange u) : u.me.lanes = s.me.lanes := by
  obtain ⟨v, m, a, e⟩ := h.me
  rw [e]

theorem refl (s : State) : s.LaneChange s := ⟨⟨s.cores, rfl⟩, fun _ _ => rfl, ⟨s.me.v, s.me.m, s.me.vstart, rfl⟩, fun _ => rfl, id⟩

theorem trans {s t u : State} (h : s.LaneChange t) (k : t.LaneChange u) : s.LaneChange u where
  frame := by
    obtain ⟨cs, e⟩ := h.frame
    obtain ⟨cs', e'⟩ := k.frame
    exact ⟨cs', by rw [e', e]⟩
  hart q hq := (k.hart q (by rwa [h.who])).trans (h.hart q hq)
  me := by
    obtain ⟨v, m, a, e⟩ := h.me
    obtain ⟨v', m', a', e'⟩ := k.me
    exact ⟨v', m', a', by rw [e', e]⟩
  layout c := (k.layout c).trans (h.layout c)
  inv hs := k.inv (h.inv hs)

theorem laneCore {s u : State} (h : s.LaneChange u) (l : Nat) : u.laneCore s.who l = s.laneCore s.who l := by
  obtain ⟨v, m, a, hm⟩ := h.me
  have hgang : (u.hart s.who).gang = (s.hart s.who).gang := by
    have hmine : u.me.gang = s.me.gang := by rw [hm]
    exact (congrArg (fun q => (u.hart q).gang) h.who).symm.trans hmine
  simp only [State.laneCore, hgang, h.layout]

theorem laneOf {s u : State} (h : s.LaneChange u) (w e : Nat) : laneOf u.me w e = laneOf s.me w e := by
  rw [Machine.laneOf, h.lanes, Machine.laneOf]

end State.LaneChange

/-- An update of the vector and mask registers and of VSTART of the executing hart. -/
theorem State.laneChange_setMe {s : State} {h : Hart} (hh : ∃ v m a, h = { s.me with v := v, m := m, vstart := a }) : s.LaneChange (s.setMe h) where
  frame := ⟨_, rfl⟩
  hart q hq := s.hart_setMe_ne q h hq
  me := by rwa [State.me_setMe]
  layout c := by
    rw [State.setMe, State.core_setHart]
    split <;> rfl
  inv hs c := by
    rw [State.scratch_setMe]
    exact hs c

/-- An update of what a core holds beside its harts and its layout. -/
theorem State.laneChange_modCore {s : State} {c : CoreId} {f : Core → Core} (hh : ∀ k, (f k).harts = k.harts)
    (hl : ∀ k, (f k).layout = k.layout) (hw : ∀ k, Memory.wf k.scratch = true → Memory.wf (f k).scratch = true) :
    s.LaneChange (s.modCore c f) where
  frame := ⟨_, rfl⟩
  hart q _ := State.hart_modCore_of_harts (hh _) q
  me := ⟨s.me.v, s.me.m, s.me.vstart, State.hart_modCore_of_harts (hh _) s.who⟩
  layout d := State.core_modCore_read (·.layout) hl d
  inv hs d := by
    rw [State.core_modCore]
    split
    · exact hw _ (hs _)
    · exact hs d

/-! ### Scratch (R126, R127) -/

/-- The place `key` of core c lies outside the n bytes of lane l from off on. -/
def State.Outside (s : State) (l off n : Nat) (c : CoreId) (key : Nat) : Prop :=
  (s.laneCore s.who l).1 ≠ c ∨ key < scratchKey (s.laneCore s.who l).2 off ∨ scratchKey (s.laneCore s.who l).2 off + n ≤ key

/-- Without a mark a write of scratch is one of the scratch of its core. -/
theorem State.setScratchN_eq {s : State} (hb : s.bad = []) (w : Who) (l off n v : Nat) :
    s.setScratchN w l off n v = s.modCore (s.laneCore w l).1 (fun k =>
      { k with scratch := Memory.writeAll k.scratch (cellsAt (scratchKey (s.laneCore w l).2 off) (bytesOf n v)) }) := by
  have hkeep (t : State) (ht : t.bad = []) (p : ErrorSite → Bool) : { t with bad := t.bad.filter p } = t := by
    rw [ht]
    exact congrArg (fun b => { t with bad := b }) ht.symm
  unfold State.setScratchN
  simp only
  split
  · exact hkeep (s.modCore _ _) hb _
  · rfl

theorem State.laneChange_setScratchN {s : State} (hb : s.bad = []) (w : Who) (l off n v : Nat) :
    s.LaneChange (s.setScratchN w l off n v) := by
  rw [State.setScratchN_eq hb]
  exact State.laneChange_modCore (fun _ => rfl) (fun _ => rfl) (fun _ hk => Memory.writeAll_wf _ hk)

theorem State.me_setScratchN {s : State} (hb : s.bad = []) (w : Who) (l off n v : Nat) : (s.setScratchN w l off n v).me = s.me := by
  rw [State.setScratchN_eq hb]
  exact State.hart_modCore_of_harts rfl s.who

theorem State.locks_setScratchN {s : State} (hb : s.bad = []) (w : Who) (l off n v : Nat) (c : CoreId) :
    ((s.setScratchN w l off n v).core c).locks = (s.core c).locks := by
  rw [State.setScratchN_eq hb, State.core_modCore]
  split
  · next h => rw [h]
  · rfl

section
variable {s : State} (hb : s.bad = []) (hw : ∀ c, Memory.wf (s.core c).scratch = true) (l off n v : Nat)
include hb hw

theorem State.read_setScratchN_outside {c : CoreId} {key : Nat} (ho : s.Outside l off n c key) :
    Memory.read ((s.setScratchN s.who l off n v).core c).scratch key = Memory.read (s.core c).scratch key := by
  rw [State.setScratchN_eq hb, State.core_modCore]
  split
  · next e =>
    refine (Memory.read_writeAll_ne _ _ (hw _) fun p hp => ?_).trans (by rw [e])
    have := mem_cellsAt hp
    rw [length_bytesOf] at this
    rcases ho with ho | ho
    · exact absurd e.symm ho
    · omega
  · rfl

theorem State.scratchN_setScratchN : (s.setScratchN s.who l off n v).scratchN s.who l off n = v % 256 ^ n := by
  have hp := (State.laneChange_setScratchN hb s.who l off n v).laneCore l
  have hr := Memory.read_writeAll_cellsAt (hw (s.laneCore s.who l).1) (scratchKey (s.laneCore s.who l).2 off) (bytesOf n v)
  rw [length_bytesOf] at hr
  rw [State.scratchN, ← natOf_bytesOf, ← hr]
  refine congrArg natOf (List.map_congr_left fun i _ => ?_)
  simp only [State.scratchByte, hp]
  rw [State.setScratchN_eq hb, State.core_modCore, if_pos rfl, show scratchKey (s.laneCore s.who l).2 (off + i) =
    scratchKey (s.laneCore s.who l).2 off + i from (Nat.add_assoc ..).symm]

end

/-- Bytes of scratch that read alike make the same number. -/
theorem State.scratchN_congr {s t u : State} (ht : s.LaneChange t) (hu : s.LaneChange u) {l off n : Nat}
    (hr : ∀ key, scratchKey (s.laneCore s.who l).2 off ≤ key → key < scratchKey (s.laneCore s.who l).2 off + n →
      Memory.read (u.core (s.laneCore s.who l).1).scratch key = Memory.read (t.core (s.laneCore s.who l).1).scratch key) :
    u.scratchN s.who l off n = t.scratchN s.who l off n := by
  refine congrArg natOf (List.map_congr_left fun i hi => ?_)
  have := List.mem_range.1 hi
  simp only [State.scratchByte, ht.laneCore, hu.laneCore]
  exact hr _ (by simp only [scratchKey]; omega) (by simp only [scratchKey]; omega)

/-- Places of two lanes, or of one lane at different offsets, lie apart. -/
theorem State.outside_of_apart {s : State} {l l' off off' n key : Nat} (hl : l < 2048) (hl' : l' < 2048) (ho : off + n ≤ 2 ^ 17)
    (ho' : off' + n ≤ 2 ^ 17) (hap : l ≠ l' ∨ off + n ≤ off' ∨ off' + n ≤ off)
    (h1 : scratchKey (s.laneCore s.who l').2 off' ≤ key) (h2 : key < scratchKey (s.laneCore s.who l').2 off' + n) :
    s.Outside l off n (s.laneCore s.who l').1 key := by
  by_cases hc : (s.laneCore s.who l).1 = (s.laneCore s.who l').1
  · right
    simp only [scratchKey] at h1 h2 ⊢
    by_cases hi : (s.laneCore s.who l).2 = (s.laneCore s.who l').2
    · have hap' := hap.resolve_left fun c => c (State.laneCore_inj hl hl' (Prod.ext hc hi))
      omega
    · omega
  · exact .inl hc

/-! ### Locks (R129) -/

theorem getLsbD_bit (q j : Nat) (hq : q < 64) : (BitVec.ofNat 64 (2 ^ q)).getLsbD j = decide (j = q) := by
  rw [BitVec.getLsbD_ofNat, Nat.testBit_two_pow]
  by_cases h : j = q
  · simp [h, hq]
  · simp [h, Ne.symm h]

theorem lockBit_lt (a : Nat) : lockBit a < 64 := Nat.mod_lt _ (by decide)

/-- Setting or clearing a bit of a word of locks. -/
theorem getLsbD_lockWord (x : BitVec 64) {q : Nat} (hq : q < 64) (v : Bool) (j : Nat) :
    (if v then x ||| BitVec.ofNat 64 (2 ^ q) else x &&& ~~~BitVec.ofNat 64 (2 ^ q)).getLsbD j = if j = q then v else x.getLsbD j := by
  by_cases hj : j = q
  · subst hj
    cases v
    · rw [if_neg (by decide), if_pos rfl, BitVec.getLsbD_and, BitVec.getLsbD_not, getLsbD_bit j j hq]
      simp
    · rw [if_pos rfl, if_pos rfl, BitVec.getLsbD_or, getLsbD_bit j j hq]
      simp
  · cases v
    · rw [if_neg (by decide), if_neg hj, BitVec.getLsbD_and, BitVec.getLsbD_not, getLsbD_bit q j hq]
      by_cases h64 : j < 64
      · simp [hj, h64]
      · simp [BitVec.getLsbD_of_ge x j (Nat.le_of_not_lt h64)]
    · rw [if_pos rfl, if_neg hj, BitVec.getLsbD_or, getLsbD_bit q j hq]
      simp [hj]

theorem State.laneChange_setLock (s : State) (l a : Nat) (v : Bool) : s.LaneChange (s.setLock l a v) := by
  unfold State.setLock
  exact State.laneChange_modCore (fun _ => rfl) (fun _ => rfl) (fun _ hk => hk)

theorem State.me_setLock (s : State) (l a : Nat) (v : Bool) : (s.setLock l a v).me = s.me := State.hart_modCore_of_harts rfl s.who

theorem State.scratch_setLock (s : State) (l a : Nat) (v : Bool) (c : CoreId) :
    ((s.setLock l a v).core c).scratch = (s.core c).scratch := by
  rw [State.setLock, State.core_modCore]
  split
  · next h => rw [h]
  · rfl

/-- A lock is a bit of the word of its lane. -/
theorem State.LaneChange.lockOf {s u : State} (h : s.LaneChange u) {l : Nat} (hp : (s.laneCore s.who l).2 < 32) (a : Nat) :
    u.lockOf l a = ((u.core (s.laneCore s.who l).1).locks.get ⟨_, hp⟩).getLsbD (lockBit a) := by
  simp [State.lockOf, h.who, h.laneCore, List.getD_eq_getElem?_getD, hp, Vector.get_eq_getElem]

/-- Taking or freeing a lock changes its bit alone. -/
theorem State.getLsbD_setLock {s : State} {l : Nat} (hp : (s.laneCore s.who l).2 < 32) (a : Nat) (v : Bool) (c : CoreId) (i : Fin 32)
    (q : Nat) : ((((s.setLock l a v).core c).locks).get i).getLsbD q =
      if s.laneCore s.who l = (c, i.val) ∧ q = lockBit a then v else ((s.core c).locks.get i).getLsbD q := by
  rw [State.setLock, State.core_modCore]
  by_cases hc : c = (s.laneCore s.who l).1
  · subst hc
    rw [if_pos rfl]
    by_cases hi : (s.laneCore s.who l).2 = i.val
    · have hold : (s.core (s.laneCore s.who l).1).locks.toList.getD i.val 0 =
          (s.core (s.laneCore s.who l).1).locks[i.val] := by
        simp [List.getD_eq_getElem?_getD]
      have hpair : s.laneCore s.who l = ((s.laneCore s.who l).1, i.val) := by rw [← hi]
      simp only [Vector.get_eq_getElem, hi, Vector.getElem_setIfInBounds_self, getLsbD_lockWord _ (lockBit_lt a), ← hpair, true_and]
      rw [hold]
    · rw [if_neg (fun h => hi (by rw [h.1]))]
      simp [Vector.get_eq_getElem, hi]
  · rw [if_neg hc, if_neg (fun h => hc (by rw [h.1]))]

/-! ### Mask bits and groups -/

theorem Hart.maskBit_clear (h : Hart) (k j : MReg) (e i : Nat) :
    (h.setMaskBit k e false).maskBit j i = (h.maskBit j i && !(decide (j = k) && decide (i = e))) := by
  by_cases hj : j = k
  · subst hj
    simp only [Hart.maskBit, Hart.setMaskBit, Hart.mreg_setMreg, getLsbD_setBits, Bool.false_eq_true, if_false, Nat.zero_testBit]
    by_cases hi : i = e
    · subst hi
      by_cases hlt : i < 2097152
      · simp [hlt]
      · simp [BitVec.getLsbD_of_ge _ i (Nat.le_of_not_lt hlt)]
    · rw [if_neg (by omega)]
      simp [hi]
  · simp [Hart.maskBit, Hart.setMaskBit, Hart.mreg_setMreg_ne _ _ _ _ hj, hj]

theorem State.locks_setMe (s : State) (h : Hart) (c : CoreId) : ((s.setMe h).core c).locks = (s.core c).locks := by
  rw [State.setMe, State.core_setHart]
  split <;> rfl

/-! ### What a scratch member does to each element (R127 to R129) -/

/-- A scratch member, element by element: where its scratch lies, and what it puts there, into the lock and into element e of its
destination group, or that it clears the mask bit. -/
structure LanePlan where
  d : Nat
  regs : Nat
  k : MReg
  size : Nat
  w : Nat
  lane : Nat → Nat
  off : Nat → Nat
  put : Nat → Option Nat
  lock : Nat → Option Bool
  elem : Nat → Option Nat
  clear : Nat → Bool

namespace LanePlan

/-- The hart after element e. -/
def hartStep (P : LanePlan) (e : Nat) (h : Hart) : Hart :=
  if P.clear e then h.setMaskBit P.k e false
  else match P.elem e with
    | some x => h.setElem P.d e P.w x
    | none => h

/-- The scratch after element e. -/
def putStep (P : LanePlan) (u : State) (e : Nat) : State :=
  match P.put e with
  | some v => u.setScratchN u.who (P.lane e) (P.off e) P.size v
  | none => u

/-- The lock after element e. -/
def lockStep (P : LanePlan) (u : State) (e : Nat) : State :=
  match P.lock e with
  | some b => u.setLock (P.lane e) (P.off e) b
  | none => u

def step (P : LanePlan) (u : State) (e : Nat) : State := (P.lockStep (P.putStep u e) e).modMe (P.hartStep e)

variable (P : LanePlan) {u : State} (e : Nat)

theorem hartStep_frame (h : Hart) : ∃ v m a, P.hartStep e h = { h with v := v, m := m, vstart := a } := by
  unfold hartStep
  split
  · exact ⟨h.v, _, h.vstart, rfl⟩
  · split
    · exact ⟨_, h.m, h.vstart, rfl⟩
    · exact ⟨h.v, h.m, h.vstart, rfl⟩

theorem putStep_change (hb : u.bad = []) : u.LaneChange (P.putStep u e) := by
  unfold putStep
  split
  · exact State.laneChange_setScratchN hb _ _ _ _ _
  · exact .refl u

theorem lockStep_change : u.LaneChange (P.lockStep u e) := by
  unfold lockStep
  split
  · exact State.laneChange_setLock _ _ _ _
  · exact .refl u

theorem step_change (hb : u.bad = []) : u.LaneChange (P.step u e) :=
  ((P.putStep_change e hb).trans (P.lockStep_change e)).trans (State.laneChange_setMe (P.hartStep_frame e _))

theorem putStep_me (hb : u.bad = []) : (P.putStep u e).me = u.me := by
  unfold putStep
  split
  · exact State.me_setScratchN hb _ _ _ _ _
  · rfl

theorem lockStep_me : (P.lockStep u e).me = u.me := by
  unfold lockStep
  split
  · exact State.me_setLock _ _ _ _
  · rfl

theorem step_me (hb : u.bad = []) : (P.step u e).me = P.hartStep e u.me := by
  rw [step, State.me_modMe, lockStep_me, putStep_me P e hb]

theorem step_scratch (c : CoreId) : ((P.step u e).core c).scratch = ((P.putStep u e).core c).scratch := by
  rw [step, State.modMe, State.scratch_setMe, lockStep]
  split
  · exact State.scratch_setLock _ _ _ _ c
  · rfl

theorem putStep_locks (hb : u.bad = []) (c : CoreId) : ((P.putStep u e).core c).locks = (u.core c).locks := by
  unfold putStep
  split
  · exact State.locks_setScratchN hb _ _ _ _ _ c
  · rfl

theorem step_locks (c : CoreId) : ((P.step u e).core c).locks = ((P.lockStep (P.putStep u e) e).core c).locks :=
  State.locks_setMe _ _ c

end LanePlan

/-- What stands after the elements `es` of a plan that started in s with hart h₀, which is that of s but for vector registers. -/
structure LaneRun (P : LanePlan) (s : State) (h₀ : Hart) (es : List Nat) (u : State) : Prop where
  start : ∃ v, h₀ = { s.me with v := v }
  change : s.LaneChange u
  group : h₀.GroupIs { u.me with m := h₀.m } P.d P.regs P.w
    (fun e => if e ∈ es then ((P.elem e).map (· % 2 ^ P.w)).getD (h₀.elem P.d e P.w) else h₀.elem P.d e P.w)
  mask : ∀ j e, u.me.maskBit j e = (s.me.maskBit j e && !(decide (j = P.k) && decide (e ∈ es ∧ P.clear e = true)))
  held : ∀ e v, e ∈ es → P.put e = some v → u.scratchN s.who (P.lane e) (P.off e) P.size = v % 256 ^ P.size
  scratch : ∀ c key, (∀ e, e ∈ es → P.put e ≠ none → s.Outside (P.lane e) (P.off e) P.size c key) →
    Memory.read (u.core c).scratch key = Memory.read (s.core c).scratch key
  taken : ∀ e b, e ∈ es → P.lock e = some b → u.lockOf (P.lane e) (P.off e) = b
  locks : ∀ (c : CoreId) (l : Fin 32) (q : Nat),
    (∀ e, e ∈ es → P.lock e ≠ none → s.laneCore s.who (P.lane e) ≠ (c, l.val) ∨ lockBit (P.off e) ≠ q) →
    ((u.core c).locks.get l).getLsbD q = ((s.core c).locks.get l).getLsbD q
  hart : (∀ e, e ∈ es → P.elem e = none ∧ P.clear e = false) → u.me = h₀
  masks : (∀ e, e ∈ es → P.clear e = false) → u.me.m = s.me.m
  still : (∀ e, e ∈ es → P.put e = none ∧ P.lock e = none) → u = s.setMe u.me

/-- The plan fits the state: whole elements in the group, the lanes and places of the elements `act` exist, the places put to lie
apart, and the locks all take one value. -/
structure LanePlan.Fits (P : LanePlan) (s : State) (act : List Nat) : Prop where
  clean : s.bad = []
  inv : ∀ c, Memory.wf (s.core c).scratch = true
  dvd : P.w ∣ s.me.regBits
  pos : 0 < s.me.regBits
  bits : s.me.regBits ≤ 2097152
  regs : P.d + P.regs ≤ 32
  inside : ∀ e, e ∈ act → e * P.w / s.me.regBits < P.regs
  lanes : ∀ e, e ∈ act → P.lane e < 2048 ∧ (s.laneCore s.who (P.lane e)).2 < 32
  offs : ∀ e, e ∈ act → P.off e + P.size ≤ 2 ^ 17
  apart : ∀ e e', e ∈ act → e' ∈ act → e ≠ e' → P.put e ≠ none → P.put e' ≠ none →
    P.lane e ≠ P.lane e' ∨ P.off e + P.size ≤ P.off e' ∨ P.off e' + P.size ≤ P.off e
  unclear : ∀ e, P.clear e = true → P.elem e = none
  oneLock : ∀ e e' b b', P.lock e = some b → P.lock e' = some b' → b = b'

theorem LanePlan.maskBit_hartStep (P : LanePlan) (e : Nat) (h : Hart) (j : MReg) (i : Nat) :
    (P.hartStep e h).maskBit j i = (h.maskBit j i && !(decide (j = P.k) && decide (i = e ∧ P.clear e = true))) := by
  unfold LanePlan.hartStep
  split
  · next hc => rw [Hart.maskBit_clear, hc]; simp
  · next hc =>
    have hkeep (g : Hart) (hg : g.m = h.m) : g.maskBit j i = h.maskBit j i := by rw [Hart.maskBit, Hart.mreg, hg]; rfl
    rw [show decide (i = e ∧ P.clear e = true) = false by simp [hc], Bool.and_false, Bool.not_false, Bool.and_true]
    split
    · exact hkeep _ rfl
    · rfl

theorem LaneRun.init (P : LanePlan) {s : State} {h₀ : Hart} (hh : ∃ v, h₀ = { s.me with v := v }) : LaneRun P s h₀ [] (s.setMe h₀) where
  start := hh
  change := by
    obtain ⟨v, e⟩ := hh
    exact State.laneChange_setMe ⟨v, s.me.m, s.me.vstart, e⟩
  group := by
    rw [State.me_setMe]
    exact (Hart.GroupIs.refl h₀ P.d P.regs P.w).congr fun _ _ => rfl
  mask j e := by
    obtain ⟨v, e'⟩ := hh
    rw [State.me_setMe, e']
    simp [Hart.maskBit, Hart.mreg]
  held _ _ h := absurd h (by simp)
  scratch c _ _ := by rw [State.scratch_setMe]
  taken _ _ h := absurd h (by simp)
  locks c _ _ _ := by rw [State.locks_setMe]
  hart _ := s.me_setMe h₀
  masks _ := by
    obtain ⟨v, e⟩ := hh
    rw [State.me_setMe, e]
  still _ := by rw [State.me_setMe]

theorem LaneRun.regBits {P : LanePlan} {s u : State} {h₀ : Hart} {es : List Nat} (h : LaneRun P s h₀ es u) : h₀.regBits = s.me.regBits := by
  obtain ⟨v, e⟩ := h.start
  rw [e]
  rfl

section
variable {P : LanePlan} {s u : State} {h₀ : Hart} {act es : List Nat} {e : Nat} (hP : P.Fits s act) (h : LaneRun P s h₀ es u)
include h

theorem LaneRun.wf (hs : ∀ c, Memory.wf (s.core c).scratch = true) (c : CoreId) : Memory.wf (u.core c).scratch = true :=
  h.change.inv hs c

include hP

theorem LaneRun.clean : u.bad = [] := h.change.bad.trans hP.clean

/-- One element puts to its own place alone. -/
theorem LaneRun.read_step (e : Nat) {c : CoreId} {key : Nat} (ho : P.put e ≠ none → s.Outside (P.lane e) (P.off e) P.size c key) :
    Memory.read ((P.step u e).core c).scratch key = Memory.read (u.core c).scratch key := by
  rw [P.step_scratch]
  unfold LanePlan.putStep
  cases hp : P.put e with
  | none => rfl
  | some v =>
    have hout := ho (by simp [hp])
    refine State.read_setScratchN_outside (h.clean hP) (h.wf hP.inv) _ _ _ _ ?_
    rwa [State.Outside, h.change.who, h.change.laneCore]

/-- One element takes or frees its own lock alone. -/
theorem LaneRun.lock_step (hl : (s.laneCore s.who (P.lane e)).2 < 32) (c : CoreId) (i : Fin 32) (q : Nat) :
    (((P.step u e).core c).locks.get i).getLsbD q =
      match P.lock e with
      | some b => if s.laneCore s.who (P.lane e) = (c, i.val) ∧ q = lockBit (P.off e) then b else ((u.core c).locks.get i).getLsbD q
      | none => ((u.core c).locks.get i).getLsbD q := by
  have hput := P.putStep_change e (h.clean hP)
  have hc : (P.putStep u e).laneCore (P.putStep u e).who (P.lane e) = s.laneCore s.who (P.lane e) := by
    rw [hput.who, hput.laneCore, h.change.who, h.change.laneCore]
  rw [P.step_locks, LanePlan.lockStep]
  cases P.lock e with
  | none => simp only [P.putStep_locks e (h.clean hP)]
  | some b =>
    simp only
    rw [State.getLsbD_setLock (by rwa [hc]), hc, P.putStep_locks e (h.clean hP)]

/-- The step of element e, the elements before it done. -/
theorem LaneRun.snoc (hes : ∀ i, i ∈ es → i ∈ act) (he : e ∈ act) (hn : e ∉ es) : LaneRun P s h₀ (es ++ [e]) (P.step u e) := by
  have hne {i : Nat} (hi : i ∈ es) : i ≠ e := fun c => hn (c ▸ hi)
  have hch := h.change.trans (P.step_change e (h.clean hP))
  have hme := P.step_me e (h.clean hP)
  obtain ⟨hlane, hlane32⟩ := hP.lanes e he
  refine {
    start := h.start, change := hch, group := ?group, mask := fun j i => ?mask, held := fun i v hi hv => ?held, scratch := fun c key ho => ?scratch
    taken := fun i b hi hb => ?taken, locks := fun c l q ho => ?locks, hart := fun hall => ?hart, masks := fun hall => ?masks
    still := fun hall => ?still }
  case group =>
    have hregs : Hart.regBits { u.me with m := h₀.m } = s.me.regBits := h.group.regBits.trans h.regBits
    have hold := h.group.elems
    rw [hme, LanePlan.hartStep]
    have hlast : e ∈ es ++ [e] := by simp
    have hmem (i : Nat) : i ∈ es ++ [e] ↔ i ∈ es ∨ i = e := by simp
    by_cases hc : P.clear e = true
    · rw [if_pos hc]
      refine h.group.congr fun i _ => ?_
      by_cases hie : i = e
      · subst hie
        simp [hn, hP.unclear i hc]
      · simp [hmem, hie]
    · rw [if_neg hc]
      cases hx : P.elem e with
      | none =>
        refine h.group.congr fun i _ => ?_
        by_cases hie : i = e
        · subst hie
          simp [hn, hx]
        · simp [hmem, hie]
      | some x =>
        have hset := Hart.groupIs_setElem (h := { u.me with m := h₀.m }) (r := P.d) (n := P.regs) (w := P.w) (e := e) (by rw [hregs]; exact hP.dvd)
          (by rw [hregs]; exact hP.pos) (by rw [hregs]; exact hP.bits) hP.regs x (by rw [hregs]; exact hP.inside e he)
        refine (h.group.trans hset).congr fun i hi => ?_
        by_cases hie : i = e
        · subst hie
          simp [hx]
        · rw [if_neg hie, hold i hi]
          simp [hmem, hie]
  case mask =>
    rw [hme, P.maskBit_hartStep, h.mask]
    by_cases hi : i = e
    · subst hi
      simp [hn]
    · simp [hi]
  case held =>
    rcases List.mem_append.1 hi with hi | hi
    · refine (State.scratchN_congr h.change hch fun key h1 h2 => ?_).trans (h.held i v hi hv)
      refine h.read_step hP e fun hp => ?_
      exact State.outside_of_apart hlane (hP.lanes i (hes i hi)).1 (hP.offs e he) (hP.offs i (hes i hi))
        (hP.apart e i he (hes i hi) (hne hi).symm hp (by simp [hv])) h1 h2
    · obtain rfl := List.mem_singleton.1 hi
      have hset := State.scratchN_setScratchN (h.clean hP) (h.wf hP.inv) (P.lane i) (P.off i) P.size v
      have hput : P.putStep u i = u.setScratchN u.who (P.lane i) (P.off i) P.size v := by
        unfold LanePlan.putStep
        rw [hv]
      rw [← hput, h.change.who] at hset
      rw [← hset]
      exact State.scratchN_congr (h.change.trans (P.putStep_change i (h.clean hP))) hch fun key _ _ => by rw [P.step_scratch]
  case scratch =>
    exact (h.read_step hP e fun hp => ho e (by simp) hp).trans (h.scratch c key fun i hi hp => ho i (by simp [hi]) hp)
  case taken =>
    have hi32 : (s.laneCore s.who (P.lane i)).2 < 32 := by
      rcases List.mem_append.1 hi with hi | hi
      · exact (hP.lanes i (hes i hi)).2
      · rwa [List.mem_singleton.1 hi]
    rw [hch.lockOf hi32, h.lock_step hP hlane32]
    rcases List.mem_append.1 hi with hi | hi
    · have hold := h.taken i b hi hb
      rw [h.change.lockOf hi32] at hold
      cases hl : P.lock e with
      | none => exact hold
      | some b' =>
        simp only [hP.oneLock e i b' b hl hb]
        rw [hold, ite_self]
    · obtain rfl := List.mem_singleton.1 hi
      simp [hb]
  case locks =>
    have hold := h.locks c l q fun i hi hp => ho i (by simp [hi]) hp
    rw [h.lock_step hP hlane32]
    cases hl : P.lock e with
    | none => exact hold
    | some b =>
      have hout := ho e (by simp) (by simp [hl])
      simp only
      rw [if_neg (fun hc => hout.elim (absurd hc.1) (absurd hc.2.symm)), hold]
  case hart =>
    obtain ⟨hel, hcl⟩ := hall e (by simp)
    rw [hme, LanePlan.hartStep, if_neg (by simp [hcl]), hel]
    exact h.hart fun i hi => hall i (by simp [hi])
  case masks =>
    rw [hme, LanePlan.hartStep, if_neg (by simp [hall e (by simp)])]
    refine Eq.trans ?_ (h.masks fun i hi => hall i (by simp [hi]))
    split <;> rfl
  case still =>
    obtain ⟨hput, hlock⟩ := hall e (by simp)
    have hstep : P.step u e = u.setMe (P.hartStep e u.me) := by
      simp only [LanePlan.step, LanePlan.lockStep, LanePlan.putStep, hput, hlock]
      rfl
    rw [hme, hstep]
    exact (congrArg (fun t : State => t.setMe (P.hartStep e u.me)) (h.still fun i hi => hall i (by simp [hi]))).trans (State.setMe_setMe _ _ _)

end

/-- A loop that steps as the plan says, wherever the elements before have left the state, runs the plan. -/
theorem LaneRun.foldl {P : LanePlan} {s : State} {h₀ : Hart} {act : List Nat} {f : State → Nat → State} (hP : P.Fits s act)
    (hh : ∃ v, h₀ = { s.me with v := v }) (hact : act.Nodup)
    (hf : ∀ es e rest u, act = es ++ e :: rest → LaneRun P s h₀ es u → f u e = P.step u e) : LaneRun P s h₀ act (act.foldl f (s.setMe h₀)) := by
  have key (rest : List Nat) : ∀ es u, act = es ++ rest → LaneRun P s h₀ es u → LaneRun P s h₀ act (rest.foldl f u) := by
    induction rest with
    | nil =>
      intro es u he h
      rw [he, List.append_nil]
      exact h
    | cons e rest ih =>
      intro es u he h
      have hnd : e ∉ es := fun hc => by
        rw [he] at hact
        exact (List.disjoint_of_nodup_append hact) hc (by simp)
      rw [List.foldl_cons, hf es e rest u he h]
      refine ih (es ++ [e]) _ (by rw [he, List.append_assoc]; rfl) (h.snoc hP (fun i hi => ?_) ?_ hnd)
      · rw [he]
        exact List.mem_append_left _ hi
      · rw [he]
        simp
  exact key act [] _ rfl (.init P hh)

/-! ### The loop of a scratch member (R126, R127) -/

/-- The destination before the first element: its masked-off elements are zero under MA (R48). -/
def laneStart (cap : Capture) (k : MReg) (dst : Option VReg) (h : Hart) : Hart :=
  match dst with
  | some r => zeroMasked cap k r.toNat 1 cap.vl h
  | none => h

/-- The destination after the last element: its tail, and VSTART 0 (R48). -/
def laneEnd (cap : Capture) (dst : Option VReg) (h : Hart) : Hart :=
  { (match dst with
      | some r => h.tail cap.vtype r.toNat cap.sew cap.vl
      | none => h) with vstart := 0 }

theorem healVec_of_clean {s : State} (h : s.bad = []) (cap : Capture) (g : Hart) (k : MReg) (r w : Nat) : s.healVec cap g k r w = s := by
  simp [State.healVec, State.healWrites, h]

theorem zeroMasked_frame (cap : Capture) (k : MReg) (d n stop : Nat) (h : Hart) : ∃ v, zeroMasked cap k d n stop h = { h with v := v } := by
  have inner (l : List Nat) (e : Nat) (h : Hart) :
      ∃ v, l.foldl (fun h f => h.setElem (d + f * cap.lmul) e cap.sew 0) h = { h with v := v } := by
    induction l generalizing h with
    | nil => exact ⟨h.v, rfl⟩
    | cons f l ih =>
      obtain ⟨v, hv⟩ := ih (h.setElem (d + f * cap.lmul) e cap.sew 0)
      exact ⟨v, hv⟩
  unfold zeroMasked
  split
  · generalize cap.elems.filter (fun e => e < stop && !h.isActive k e) = l
    induction l generalizing h with
    | nil => exact ⟨h.v, rfl⟩
    | cons e l ih =>
      obtain ⟨v, hv⟩ := inner (List.range n) e h
      obtain ⟨v', hv'⟩ := ih { h with v := v }
      rw [List.foldl_cons, hv]
      exact ⟨v', hv'⟩
  · exact ⟨h.v, rfl⟩

theorem laneStart_frame (cap : Capture) (k : MReg) (dst : Option VReg) (h : Hart) : ∃ v, laneStart cap k dst h = { h with v := v } := by
  cases dst with
  | some r => exact zeroMasked_frame ..
  | none => exact ⟨h.v, rfl⟩

/-- With the addresses in order and no mark, the loop steps through the active elements. -/
theorem scratchLoop_eq {s u : State} {cap : Capture} {size : Nat} {srcs : List (Nat × Nat)} {dst : Option VReg} {i : VReg} {k : MReg}
    {f : Capture → Nat → Nat → State → State} (hb : s.bad = []) (ha : scratchAddr cap i size (activeOf cap s.me k) s = none)
    (hu : (activeOf cap s.me k).foldl (fun s e => f cap e (scratchOff cap i s.me e) s) (s.setMe (laneStart cap k dst s.me)) = u)
    (hub : u.bad = []) : scratchLoop size srcs dst i k f cap s = .done (u.modMe (laneEnd cap dst)) := by
  have hsb : scratchBad cap i srcs k s = none := by simp [scratchBad, hb]
  unfold scratchLoop
  simp only [ha, hsb]
  cases dst with
  | some r =>
    rw [← hu] at hub ⊢
    exact congrArg VRes.done (healVec_of_clean (by exact hub) ..)
  | none =>
    rw [← hu, show s.setMe (laneStart cap k none s.me) = s from s.setMe_self]
    rfl


/-! ### The members under a state that is ready -/

/-- The elements that a member acts on. -/
def Hart.acting (h : Hart) (k : MReg) : List Nat := (List.range' h.vstart (h.vl - h.vstart)).filter (h.isActive k)

theorem Hart.mem_acting {h : Hart} {k : MReg} {e : Nat} : e ∈ h.acting k ↔ h.vstart ≤ e ∧ e < h.vl ∧ h.isActive k e = true := by
  rw [Hart.acting, List.mem_filter, List.mem_range'_1]
  exact ⟨fun ⟨⟨h1, h2⟩, ha⟩ => ⟨h1, by omega, ha⟩, fun ⟨h1, h2, ha⟩ => ⟨⟨h1, by omega⟩, ha⟩⟩

theorem Hart.nodup_acting (h : Hart) (k : MReg) : (h.acting k).Nodup := List.Nodup.filter _ List.nodup_range'

/-- What an element of a destination holds does not depend on what an inactive one would be given. -/
theorem Hart.elementAfter_congr {h : Hart} {k : MReg} {z old new new' e : Nat} (hn : e ∈ h.acting k → new = new') :
    h.elementAfter k z old new e = h.elementAfter k z old new' e := by
  simp only [Hart.elementAfter]
  split
  · rfl
  · next h1 =>
    split
    · rfl
    · next h2 =>
      split
      · next ha => exact hn (Hart.mem_acting.2 ⟨Nat.le_of_not_lt h2, Nat.lt_of_not_le h1, ha⟩)
      · rfl

/-- The lane of element e (R127). -/
def State.laneAt (s : State) (e : Nat) : Nat := laneOf s.me (sewOf s.me.vtype) e

theorem State.LaneChange.laneAt {s u : State} (h : s.LaneChange u) (e : Nat) :
    Machine.laneOf u.me (sewOf s.me.vtype) e = s.laneAt e :=
  h.laneOf _ e

/-- The scratch offset of element e: the exact sum of xb and the element of vx (R126). -/
def State.placeOff (s : State) (x : VReg) (b : XReg) (e : Nat) : Nat := (s.x b).toNat + s.me.elem x.toNat e (sewOf s.me.vtype)

/-- A plan for a member of s with destination or source group d, whose scratch of n bytes lies at xb and the elements of vx. -/
def State.lanePlan (s : State) (d x : VReg) (b : XReg) (k : MReg) (n : Nat) : LanePlan where
  d := d.toNat
  regs := lmulOf s.me.vtype
  k := k
  size := n
  w := sewOf s.me.vtype
  lane := s.laneAt
  off := s.placeOff x b
  put _ := none
  lock _ := none
  elem _ := none
  clear _ := false

/-- The places of the elements are whole and lie in the scratch (R126). -/
def State.PlacesIn (s : State) (x : VReg) (b : XReg) (k : MReg) (n : Nat) : Prop :=
  ∀ e, e ∈ s.me.acting k → (s.placeOff x b e) % n = 0 ∧
    s.placeOff x b e + n ≤ s.myCore.scratchSize

/-- What stands in the state when a scratch member issues: nothing outstanding, legal groups and lanes of the cores (R46, R91). -/
structure State.LaneReady (s : State) (d x : VReg) (k : MReg) : Prop where
  ready : s.Ready
  shaped : s.me.Shaped
  legal : s.me.vill = false
  inv : s.Inv
  size : s.myCore.scratchSize ≤ 2 ^ 17
  okD : groupOk s.me.vtype d.toNat (sewOf s.me.vtype) = true
  okX : groupOk s.me.vtype x.toNat (sewOf s.me.vtype) = true
  lanes : ∀ e, e ∈ s.me.acting k → (s.laneCore s.who (s.laneAt e)).2 < 32

section
variable {s : State} {d x : VReg} {b : XReg} {k : MReg} {n : Nat} (L : s.LaneReady d x k)
include L

theorem State.LaneReady.pos : 0 < s.me.regBits := Nat.mul_pos L.shaped.1 (by decide)

theorem State.LaneReady.bits : s.me.regBits ≤ 2097152 := Nat.mul_le_mul_right 1024 L.shaped.2.1

theorem State.LaneReady.regs : d.toNat + lmulOf s.me.vtype ≤ 32 := by
  have := L.okD
  simp only [groupOk, emulOf_sew, Bool.and_eq_true, decide_eq_true_eq] at this
  exact this.2

theorem State.LaneReady.inside {e : Nat} (he : e < s.me.vl) : e * sewOf s.me.vtype / s.me.regBits < lmulOf s.me.vtype :=
  Hart.elem_in_group L.shaped.1 (Nat.lt_of_lt_of_le he L.shaped.2.2.2.2)

/-- The index group and the other group are one, or do not meet. -/
theorem State.LaneReady.apart {r : VReg} (hr : r = d ∨ r = x) :
    r.toNat = d.toNat ∨ r.toNat + lmulOf s.me.vtype ≤ d.toNat ∨ d.toNat + lmulOf s.me.vtype ≤ r.toNat := by
  by_cases h : d.toNat = r.toNat
  · exact .inl h.symm
  · have hrx : groupOk s.me.vtype r.toNat (sewOf s.me.vtype) = true := by
      rcases hr with rfl | rfl
      · exact L.okD
      · exact L.okX
    have := overlaps_of_ne L.okD hrx h
    simp only [overlaps, Bool.and_eq_false_iff, decide_eq_false_iff_not] at this
    omega

/-- A plan of these places fits. -/
theorem State.LaneReady.fits (hin : s.PlacesIn x b k n) (put : Nat → Option Nat) (lock : Nat → Option Bool) (elem : Nat → Option Nat)
    (clear : Nat → Bool)
    (hap : ∀ e e', e ∈ s.me.acting k → e' ∈ s.me.acting k → e ≠ e' → put e ≠ none → put e' ≠ none →
      s.laneAt e ≠ s.laneAt e' ∨
      s.placeOff x b e + n ≤ s.placeOff x b e' ∨
      s.placeOff x b e' + n ≤ s.placeOff x b e)
    (hclear : ∀ e, clear e = true → elem e = none) (hlock : ∀ e e' b b', lock e = some b → lock e' = some b' → b = b') :
    LanePlan.Fits { s.lanePlan d x b k n with put := put, lock := lock, elem := elem, clear := clear } s (s.me.acting k) where
  clean := bad_of_ready L.ready
  inv := L.inv.2
  dvd := s.me.sew_dvd_regBits _
  pos := L.pos
  bits := L.bits
  regs := L.regs
  inside _ he := L.inside (Hart.mem_acting.1 he).2.1
  lanes e he := ⟨Nat.lt_of_lt_of_le (Nat.mod_lt _ L.shaped.1) L.shaped.2.1, L.lanes e he⟩
  offs e he := (hin e he).2.trans L.size
  apart := hap
  unclear := hclear
  oneLock := hlock

end

/-- A group before its member's first element: the masked-off elements are zero under MA (R48). -/
theorem groupIs_zeroMasked {h : Hart} {cap : Capture} {k : MReg} {r n : Nat} (hd : cap.sew ∣ h.regBits) (hR : 0 < h.regBits)
    (hR' : h.regBits ≤ 2097152) (hr : r + n ≤ 32) (hin : ∀ e, e < cap.vl → e * cap.sew / h.regBits < n) :
    h.GroupIs (zeroMasked cap k r 1 cap.vl h) r n cap.sew (fun e =>
      if maOf cap.vtype = true ∧ cap.start ≤ e ∧ e < cap.vl ∧ h.isActive k e = false then 0 else h.elem r e cap.sew) := by
  unfold zeroMasked
  cases hma : maOf cap.vtype
  · simpa using Hart.GroupIs.refl h r n cap.sew
  · have hmem (e : Nat) : e ∈ (cap.elems.filter (fun e => e < cap.vl && !h.isActive k e)).map id ↔
        cap.start ≤ e ∧ e < cap.vl ∧ h.isActive k e = false := by
      rw [List.map_id, List.mem_filter, Capture.elems, List.mem_range'_1]
      simp only [Bool.and_eq_true, decide_eq_true_eq, Bool.not_eq_true']
      exact ⟨fun ⟨⟨h1, _⟩, h2, ha⟩ => ⟨h1, h2, ha⟩, fun ⟨h1, h2, ha⟩ => ⟨⟨h1, by omega⟩, h2, ha⟩⟩
    have hstep (h : Hart) (e : Nat) : (List.range 1).foldl (fun h f => h.setElem (r + f * cap.lmul) e cap.sew 0) h = h.setElem r e cap.sew 0 := by
      simp
    simp only [if_true, hstep]
    refine groupIs_foldl_setElem hd hR hR' hr id (fun _ => 0) _
      (by rw [List.map_id]; exact List.Nodup.filter _ List.nodup_range')
      (fun e he => hin e ((hmem e).1 (List.mem_map_of_mem he)).2.1) _ (fun e he => ?_) (fun e he => ?_)
    · simp only [true_and]
      exact (if_pos ((hmem e).1 (List.mem_map_of_mem he))).trans (Nat.zero_mod _).symm
    · simp only [true_and]
      exact if_neg fun c => he ((hmem e).2 c)

/-- What a member that issues to an empty stream captures of the type state. -/
structure Capture.Now (cap : Capture) (s : State) (b : XReg) : Prop where
  vtype : cap.vtype = s.me.vtype
  vl : cap.vl = s.me.vl
  start : cap.start = s.me.vstart
  base : cap.xs.getD 0 0 = s.x b

theorem captureNow_now {s : State} (hr : s.Ready) (w : Insn) (b : XReg) : (s.captureNow w (fun s => [s.x b])).Now s b where
  vtype := rfl
  vl := rfl
  start := Hart.vstartNow_of_empty (stream_of_ready hr)
  base := rfl

theorem Capture.Now.sew {cap : Capture} {s : State} {b : XReg} (h : cap.Now s b) : cap.sew = sewOf s.me.vtype := by
  rw [Capture.sew, h.vtype]

theorem Capture.Now.active {cap : Capture} {s : State} {b : XReg} (h : cap.Now s b) (k : MReg) : activeOf cap s.me k = s.me.acting k := by
  rw [activeOf, Capture.elems, h.start, h.vl]
  rfl

/-- A plan of the places that xb and the elements of vx give. -/
def LanePlan.Of (P : LanePlan) (s : State) (d x : VReg) (b : XReg) (k : MReg) (n : Nat) : Prop :=
  { P with put := fun _ => none, lock := fun _ => none, elem := fun _ => none, clear := fun _ => false } = s.lanePlan d x b k n

section
variable {s u : State} {d x : VReg} {b : XReg} {k : MReg} {n : Nat} (L : s.LaneReady d x k) {cap : Capture} (hcap : cap.Now s b)
  {dst : Option VReg} (hdst : dst = none ∨ dst = some d)
include L hcap hdst

/-- Before the first element the active elements of both groups stand. -/
theorem State.LaneReady.elem_start {r : VReg} (hr : r = d ∨ r = x) {e : Nat} (he : e ∈ s.me.acting k) :
    (laneStart cap k dst s.me).elem r.toNat e (sewOf s.me.vtype) = s.me.elem r.toNat e (sewOf s.me.vtype) := by
  rcases hdst with rfl | rfl
  · rfl
  · obtain ⟨-, hlt, hact⟩ := Hart.mem_acting.1 he
    have H := groupIs_zeroMasked (h := s.me) (cap := cap) (k := k) (r := d.toNat) (n := lmulOf s.me.vtype)
      (by rw [hcap.sew]; exact s.me.sew_dvd_regBits _)
      L.pos L.bits L.regs (by rw [hcap.vl, hcap.sew]; exact fun e he => L.inside he)
    rcases L.apart hr with h | h
    · rw [h]
      have := H.elems e (by rw [hcap.sew]; exact L.inside hlt)
      rw [if_neg (by simp [hact]), hcap.sew] at this
      exact this
    · refine Hart.elem_congr H.lanes (H.outside _ ?_)
      have := L.inside hlt
      generalize e * sewOf s.me.vtype / s.me.regBits = q at this ⊢
      omega

end

section
variable {s u : State} {d x : VReg} {b : XReg} {k : MReg} {n : Nat} (L : s.LaneReady d x k) {cap : Capture} (hcap : cap.Now s b)
  {dst : Option VReg} (hdst : dst = none ∨ dst = some d) {P : LanePlan} (hP : P.Of s d x b k n) {es : List Nat}
  (h : LaneRun P s (laneStart cap k dst s.me) es u)
include L hcap hdst hP h

/-- An element whose turn has not come stands as it did. -/
theorem LaneRun.elem_ahead {r : VReg} (hr : r = d ∨ r = x) {e : Nat} (he : e ∈ s.me.acting k) (hn : e ∉ es) :
    u.me.elem r.toNat e (sewOf s.me.vtype) = s.me.elem r.toNat e (sewOf s.me.vtype) := by
  have hPd : P.d = d.toNat := congrArg LanePlan.d hP
  have hPr : P.regs = lmulOf s.me.vtype := congrArg LanePlan.regs hP
  have hPw : P.w = sewOf s.me.vtype := congrArg LanePlan.w hP
  have hin := L.inside (Hart.mem_acting.1 he).2.1
  rw [← L.elem_start hcap hdst hr he]
  have H := h.group
  rw [hPd, hPr, hPw] at H
  rcases L.apart hr with hd | hd
  · have := H.elems e (by rwa [h.regBits])
    rw [if_neg hn] at this
    rwa [hd]
  · refine Hart.elem_congr (h' := { u.me with m := (laneStart cap k dst s.me).m }) H.lanes (H.outside _ ?_)
    rw [h.regBits]
    generalize e * sewOf s.me.vtype / s.me.regBits = q at hin ⊢
    omega

/-- So does its offset. -/
theorem LaneRun.off_ahead {e : Nat} (he : e ∈ s.me.acting k) (hn : e ∉ es) : scratchOff cap x u.me e = P.off e := by
  have hoff : P.off = s.placeOff x b := congrArg LanePlan.off hP
  rw [scratchOff, hcap.base, hcap.sew, h.elem_ahead L hcap hdst hP (.inr rfl) he hn, hoff]
  rfl

end

section
variable {s u : State} {P : LanePlan} {h₀ : Hart} {act es : List Nat} (hF : P.Fits s act) (h : LaneRun P s h₀ es u)
include hF h

/-- And what its place in the scratch holds, where the places put to lie apart from it. -/
theorem LaneRun.held_ahead {e : Nat} (he : e ∈ act) (hn : e ∉ es) (hes : ∀ i, i ∈ es → i ∈ act)
    (hput : ∀ i, i ∈ es → P.put i ≠ none → P.put e ≠ none) :
    u.scratchN s.who (P.lane e) (P.off e) P.size = s.scratchN s.who (P.lane e) (P.off e) P.size :=
  State.scratchN_congr (.refl s) h.change fun key h1 h2 => h.scratch _ key fun i hi hp =>
    State.outside_of_apart (hF.lanes i (hes i hi)).1 (hF.lanes e he).1 (hF.offs i (hes i hi)) (hF.offs e he)
      (hF.apart i e (hes i hi) he (fun c => hn (c ▸ hi)) hp (hput i hi hp)) h1 h2

end

/-- The acting elements before one of them are those below it. -/
theorem Hart.acting_prefix {h : Hart} {k : MReg} {es rest : List Nat} {e : Nat} (heq : h.acting k = es ++ e :: rest) (i : Nat) :
    i ∈ es ↔ i ∈ h.acting k ∧ i < e := by
  have hs : (h.acting k).Pairwise (· < ·) := List.Pairwise.filter _ List.pairwise_lt_range'
  rw [heq] at hs ⊢
  obtain ⟨-, hrest, hcross⟩ := List.pairwise_append.1 hs
  refine ⟨fun hi => ⟨List.mem_append_left _ hi, hcross i hi e (by simp)⟩, fun ⟨hi, hlt⟩ => ?_⟩
  rcases List.mem_append.1 hi with hi | hi
  · exact hi
  · rcases List.mem_cons.1 hi with rfl | hi
    · omega
    · have := (List.pairwise_cons.1 hrest).1 i hi
      omega

section
variable {s : State} {d x : VReg} {b : XReg} {k : MReg} {n : Nat} (L : s.LaneReady d x k) {cap : Capture} (hcap : cap.Now s b)
  {dst : Option VReg} (hdst : dst = none ∨ dst = some d) {P : LanePlan} (hP : P.Of s d x b k n) (hin : s.PlacesIn x b k n)
  (hF : P.Fits s (s.me.acting k)) {f : Capture → Nat → Nat → State → State}
  (hf : ∀ es e u, e ∈ s.me.acting k → (∀ i, i ∈ es ↔ i ∈ s.me.acting k ∧ i < e) →
    LaneRun P s (laneStart cap k dst s.me) es u → f cap e (s.placeOff x b e) u = P.step u e)
include L hcap hdst hP hin hF hf

/-- A member whose elements step as a plan says runs the plan. -/
theorem State.LaneReady.run (srcs : List (Nat × Nat)) : ∃ u, LaneRun P s (laneStart cap k dst s.me) (s.me.acting k) u ∧
    scratchLoop n srcs dst x k f cap s = .done (u.modMe (laneEnd cap dst)) := by
  have hrun := LaneRun.foldl (f := fun u e => f cap e (scratchOff cap x u.me e) u) hF (laneStart_frame cap k dst s.me)
    (s.me.nodup_acting k) fun es e rest u heq h => by
      have he : e ∈ s.me.acting k := by rw [heq]; simp
      have hes := Hart.acting_prefix heq
      have hn : e ∉ es := fun c => Nat.lt_irrefl _ ((hes e).1 c).2
      rw [h.off_ahead L hcap hdst hP he hn, show P.off = s.placeOff x b from congrArg LanePlan.off hP]
      exact hf es e u he hes h
  refine ⟨_, hrun, scratchLoop_eq hF.clean ?_ (by rw [hcap.active]) (hrun.change.bad.trans hF.clean)⟩
  rw [hcap.active, scratchAddr, List.findSome?_eq_none_iff]
  intro e he
  have hoff : scratchOff cap x s.me e = s.placeOff x b e := by
    rw [scratchOff, hcap.base, hcap.sew]
    rfl
  obtain ⟨hmod, hle⟩ := hin e he
  rw [hoff, scratchCheck, if_neg (by simp [hmod]), if_neg (by omega)]
  rfl

end

/-! ### What a scratch member leaves -/

/-- Nothing outside the hart and the places of its acting elements changes: no byte of generic memory, no other hart, no other
byte of scratch. -/
def State.OnlyPlaces (s : State) (x : VReg) (b : XReg) (k : MReg) (n : Nat) (u : State) : Prop :=
  u.mem = s.mem ∧ u.stores = s.stores ∧ (∀ q, q ≠ s.who → u.hart q = s.hart q) ∧
  ∀ c key, (∀ e, e ∈ s.me.acting k → s.Outside (s.laneAt e)
      (s.placeOff x b e) n c key) →
    Memory.read (u.core c).scratch key = Memory.read (s.core c).scratch key

/-- No lock but those of the places changes. -/
def State.OnlyLocks (s : State) (x : VReg) (b : XReg) (k : MReg) (u : State) : Prop :=
  ∀ (c : CoreId) (l : Fin 32) (q : Nat), (∀ e, e ∈ s.me.acting k → s.laneCore s.who (s.laneAt e) ≠ (c, l.val) ∨
      lockBit (s.placeOff x b e) ≠ q) →
    ((u.core c).locks.get l).getLsbD q = ((s.core c).locks.get l).getLsbD q

theorem laneEnd_frame (cap : Capture) (dst : Option VReg) (h : Hart) :
    ∃ v m a, laneEnd cap dst h = { h with v := v, m := m, vstart := a } := by
  cases dst with
  | none => exact ⟨h.v, h.m, 0, rfl⟩
  | some r =>
    have hz : ∃ v, h.tail cap.vtype r.toNat cap.sew cap.vl = { h with v := v } := by
      unfold Hart.tail
      split
      · unfold Hart.zeroFrom
        generalize List.range (emulOf cap.vtype cap.sew) = l
        generalize cap.vl * cap.sew = p
        induction l generalizing h with
        | nil => exact ⟨h.v, rfl⟩
        | cons i l ih =>
          rw [List.foldl_cons]
          simp only
          split
          · exact ih (h.setVreg (r.toNat + i) 0)
          · split
            · exact ih (h.setVreg (r.toNat + i) (cutBits (h.vreg (r.toNat + i)) (p - i * h.regBits)))
            · exact ih h
      · exact ⟨h.v, rfl⟩
    obtain ⟨v, hv⟩ := hz
    exact ⟨v, h.m, 0, by rw [laneEnd, hv]⟩

section
variable {s u : State} {d x : VReg} {b : XReg} {k : MReg} {n : Nat} {P : LanePlan} {h₀ : Hart} {cap : Capture} {dst : Option VReg}
  (h : LaneRun P s h₀ (s.me.acting k) u)
include h

theorem LaneRun.change_end : s.LaneChange (u.modMe (laneEnd cap dst)) :=
  h.change.trans (State.laneChange_setMe (laneEnd_frame cap dst u.me))

theorem LaneRun.scratchN_end (l off m : Nat) : (u.modMe (laneEnd cap dst)).scratchN s.who l off m = u.scratchN s.who l off m :=
  State.scratchN_congr h.change h.change_end fun key _ _ => by rw [State.modMe, State.scratch_setMe]

theorem LaneRun.lockOf_end {l : Nat} (hp : (s.laneCore s.who l).2 < 32) (a : Nat) :
    (u.modMe (laneEnd cap dst)).lockOf l a = u.lockOf l a := by
  rw [h.change_end.lockOf hp, h.change.lockOf hp, State.modMe, State.locks_setMe]

/-- Without a put to a lock the locks stay. -/
theorem LaneRun.locks_end (hl : ∀ e, P.lock e = none) (c : CoreId) : ((u.modMe (laneEnd cap dst)).core c).locks = (s.core c).locks := by
  rw [State.modMe, State.locks_setMe]
  refine Vector.ext fun i hi => BitVec.eq_of_getLsbD_eq fun q _ => ?_
  exact h.locks c ⟨i, hi⟩ q fun e _ hp => absurd (hl e) hp

section
variable (hP : P.Of s d x b k n)
include hP

theorem LaneRun.onlyPlaces {m : Nat} (hm : m = n ∨ ∀ e, P.put e = none) : s.OnlyPlaces x b k m (u.modMe (laneEnd cap dst)) := by
  have hlane : P.lane = s.laneAt := congrArg LanePlan.lane hP
  have hoff : P.off = s.placeOff x b := congrArg LanePlan.off hP
  have hsize : P.size = n := congrArg LanePlan.size hP
  have hch : s.LaneChange (u.modMe (laneEnd cap dst)) := h.change_end
  obtain ⟨cs, hframe⟩ := hch.frame
  refine ⟨by rw [hframe], by rw [hframe], hch.hart, fun c key ho => ?_⟩
  rw [State.modMe, State.scratch_setMe]
  refine h.scratch c key fun e he hp => ?_
  rcases hm with rfl | hnone
  · rw [hlane, hoff, hsize]
    exact ho e he
  · exact absurd (hnone e) hp

theorem LaneRun.onlyLocks : s.OnlyLocks x b k (u.modMe (laneEnd cap dst)) := by
  have hlane : P.lane = s.laneAt := congrArg LanePlan.lane hP
  have hoff : P.off = s.placeOff x b := congrArg LanePlan.off hP
  intro c l q ho
  rw [State.modMe, State.locks_setMe]
  refine h.locks c l q fun e he _ => ?_
  rw [hlane, hoff]
  exact ho e he

end

end

/-- A member without a destination leaves its hart with VSTART 0. -/
theorem LaneRun.me_end_none {s u : State} {k : MReg} {P : LanePlan} {cap : Capture}
    (h : LaneRun P s (laneStart cap k none s.me) (s.me.acting k) u) (hel : ∀ e, P.elem e = none ∧ P.clear e = false) :
    (u.modMe (laneEnd cap none)).me = { s.me with vstart := 0 } := by
  rw [State.me_modMe, h.hart fun e _ => hel e]
  rfl

/-- One with a destination writes the acting elements, and masked-off ones and the tail as R48 says. -/
theorem LaneRun.me_end {s u : State} {d x : VReg} {b : XReg} {k : MReg} {n : Nat} {P : LanePlan} {cap : Capture} (L : s.LaneReady d x k)
    (hcap : cap.Now s b) (hP : P.Of s d x b k n) (h : LaneRun P s (laneStart cap k (some d) s.me) (s.me.acting k) u) :
    ∃ v, (u.modMe (laneEnd cap (some d))).me = { s.me with v := v, m := u.me.m, vstart := 0 } ∧
      (∀ e, e * sewOf s.me.vtype / s.me.regBits < lmulOf s.me.vtype → Hart.elem { s.me with v := v } d.toNat e (sewOf s.me.vtype) =
        s.me.elementAfter k 0 (s.me.elem d.toNat e (sewOf s.me.vtype))
          (((P.elem e).map (· % 2 ^ sewOf s.me.vtype)).getD (s.me.elem d.toNat e (sewOf s.me.vtype))) e) ∧
      ∀ r, (r < d.toNat ∨ d.toNat + lmulOf s.me.vtype ≤ r) → Hart.vreg { s.me with v := v } r = s.me.vreg r := by
  have hPd : P.d = d.toNat := congrArg LanePlan.d hP
  have hPr : P.regs = lmulOf s.me.vtype := congrArg LanePlan.regs hP
  have hPw : P.w = sewOf s.me.vtype := congrArg LanePlan.w hP
  have hsew := hcap.sew
  have H0 := groupIs_zeroMasked (h := s.me) (cap := cap) (k := k) (r := d.toNat) (n := lmulOf s.me.vtype) (by rw [hsew]; exact s.me.sew_dvd_regBits _)
    L.pos L.bits L.regs (by rw [hcap.vl, hsew]; exact fun e he => L.inside he)
  have H1 := h.group
  rw [hPd, hPr, hPw] at H1
  rw [hsew] at H0
  have H := H0.trans H1
  obtain ⟨v₁, hv₁⟩ := H.frame
  have hume : u.me = { s.me with v := v₁, m := u.me.m } := congrArg (fun g : Hart => { g with m := u.me.m }) hv₁
  have hregs : u.me.regBits = s.me.regBits := by rw [Hart.regBits, h.change.lanes, Hart.regBits]
  have T := groupIs_tail (h := u.me) (r := d.toNat) (n := lmulOf s.me.vtype) (w := sewOf s.me.vtype) (vl := s.me.vl) s.me.vtype
    (emulOf_sew _) (by rw [hregs]; exact s.me.sew_dvd_regBits _) (by rw [hregs]; exact L.pos) L.regs
  obtain ⟨v, hv⟩ := T.frame
  have hend : (u.modMe (laneEnd cap (some d))).me = { u.me.tail s.me.vtype d.toNat (sewOf s.me.vtype) s.me.vl with vstart := 0 } := by
    rw [State.me_modMe, laneEnd, hcap.vtype, hsew, hcap.vl]
  refine ⟨v, ?_, fun e he => ?_, fun r hr => ?_⟩
  · rw [hend, hv, hume]
  · have htail := T.elems e (by rwa [hregs])
    have hrun : u.me.elem d.toNat e (sewOf s.me.vtype) = _ := H.elems e he
    have hzero := H0.elems e he
    rw [hv, hrun, hume] at htail
    refine htail.trans ?_
    change (if taOf s.me.vtype = true ∧ s.me.vl ≤ e then 0 else if e ∈ s.me.acting k then
      ((P.elem e).map (· % 2 ^ sewOf s.me.vtype)).getD ((zeroMasked cap k d.toNat 1 cap.vl s.me).elem d.toNat e (sewOf s.me.vtype))
      else (zeroMasked cap k d.toNat 1 cap.vl s.me).elem d.toNat e (sewOf s.me.vtype)) = _
    rw [hzero, hcap.vtype, hcap.start, hcap.vl, Hart.elementAfter]
    by_cases hvl : s.me.vl ≤ e
    · have hna : e ∉ s.me.acting k := fun c => Nat.not_le.2 (Hart.mem_acting.1 c).2.1 hvl
      simp [hvl, hna, Nat.not_lt.2 hvl]
    · by_cases hst : e < s.me.vstart
      · have hna : e ∉ s.me.acting k := fun c => Nat.not_le.2 hst (Hart.mem_acting.1 c).1
        simp [hvl, hst, hna, Nat.not_le.2 hst]
      · have hiff : e ∈ s.me.acting k ↔ s.me.isActive k e = true :=
          ⟨fun c => (Hart.mem_acting.1 c).2.2, fun c => Hart.mem_acting.2 ⟨Nat.le_of_not_lt hst, Nat.lt_of_not_le hvl, c⟩⟩
        cases ha : s.me.isActive k e <;> simp [hvl, hst, hiff, ha, Nat.le_of_not_lt hst, Nat.lt_of_not_le hvl]
  · have htail := T.outside r hr
    rw [hv, hume] at htail
    refine htail.trans ?_
    have hrun := H.outside r hr
    rw [hv₁] at hrun
    exact hrun

/-! ### The members (R119, R127 to R129) -/

@[simp] theorem majorOf_vm (op : BitVec 6) (vd xb i : BitVec 5) (md mk : BitVec 3) (fc : BitVec 5) :
    majorOf (vm op vd xb i md mk fc) = op.toNat := majorOf_vr ..

/-- The places of two acting elements lie apart. -/
def State.PlacesApart (s : State) (x : VReg) (b : XReg) (k : MReg) (n : Nat) : Prop :=
  ∀ e e', e ∈ s.me.acting k → e' ∈ s.me.acting k → e ≠ e' →
    s.laneAt e ≠ s.laneAt e' ∨
      s.placeOff x b e + n ≤ s.placeOff x b e' ∨
      s.placeOff x b e' + n ≤ s.placeOff x b e

/-- What the place of element e holds. -/
def State.heldAt (s t : State) (x : VReg) (b : XReg) (e n : Nat) : Nat :=
  t.scratchN s.who (s.laneAt e) (s.placeOff x b e) n

section
variable {s : State} {d x : VReg} {b : XReg} {k : MReg} (L : s.LaneReady d x k)
include L

/-- A member whose check passes and whose loop runs, with nothing outstanding, completes. -/
theorem State.LaneReady.completes {w : Insn} (hw : majorOf w < 0x30) {ok : Hart → Bool} (hok : ok s.me = true) {body : Capture → State → VRes}
    {t : State}
    (ht : body (s.captureNow w (fun s => [s.x b])) s = .done t) :
    vissue w (checkType true ok) (fun s => [s.x b]) body s = .next (finish t) := by
  have hc : checkType true ok s = none := by simp [checkType, L.legal, hok]
  rw [vissue_completes (quiet_of_ready L.ready) hc (outBusy_of_ready L.ready _ _) ht, disarm_of_plain (isEngine_of_major hw)]

theorem State.LaneReady.groups : scratchGroups s.me d x = true := by
  simp [scratchGroups, groupsOk, L.okD, L.okX]

end

/-- With nothing outstanding a member that fails a check traps. -/
theorem vissue_refused {s : State} {w : Insn} {check : State → Option Cause} {caps : State → List Word} {body : Capture → State → VRes}
    {c : Cause} (hq : s.Quiet) (hc : check s = some c) :
    vissue w check caps body s = .next (trapAt ⟨c, w.zeroExtend 64, 0⟩ c.squash s.pcNow s) := by
  have hnone : ¬ check s = none := by simp [hc]
  rcases vissue_cases w check caps body s (fencedDone_of_none hq.2.2.2) with
    ⟨e, h1, -⟩ | ⟨c', -, h1, h2⟩ | ⟨-, h1, -⟩ | ⟨-, h1, -⟩ | ⟨-, h1, -⟩
  · rw [hq.1.1] at h1
    cases h1
  · rw [h2, ← Option.some.inj (hc.symm.trans h1)]
    exact raise_of_quiet hq
  · exact absurd h1 hnone
  · exact absurd h1 hnone
  · exact absurd h1 hnone

/-- Members without flags accrue none. -/
theorem Hart.accrued_zero (h : Hart) (k : MReg) : h.accrued k (fun _ => 0) = h.fflags := by
  unfold Hart.accrued
  generalize (List.range' h.vstart (h.vl - h.vstart)).filter (h.isActive k) = l
  induction l with
  | nil => rfl
  | cons e l ih => exact (congrArg (fun a => l.foldl (fun acc _ => acc ||| 0) a) BitVec.or_zero).trans ih

/-- A step that puts nothing, into scratch or lock, changes the hart alone. -/
theorem LanePlan.step_quiet {P : LanePlan} {e : Nat} (hp : P.put e = none) (hl : P.lock e = none) (u : State) :
    P.step u e = u.modMe (P.hartStep e) := by
  simp only [LanePlan.step, LanePlan.lockStep, LanePlan.putStep, hp, hl]

/-- A step without a destination changes no hart. -/
theorem LanePlan.step_store {P : LanePlan} {e : Nat} (hx : P.elem e = none) (hc : P.clear e = false) (u : State) :
    P.step u e = P.lockStep (P.putStep u e) e := by
  have : P.hartStep e = id := by
    funext h
    simp [LanePlan.hartStep, hx, hc]
  rw [LanePlan.step, this]
  exact State.setMe_self _

/-! #### VLD of scratch -/

/-- What a load from scratch gives element e, nothing for a reserved code (R119, R136). -/
def State.scratchCode (s : State) (x : VReg) (b : XReg) (f : BitVec 5) (e : Nat) : Option Nat :=
  widen f.toNat (ekOf s.me.vtype) (sewOf s.me.vtype) (s.heldAt s x b e (fmtBytes f.toNat)) 0

/-- A load writes its destination alone. -/
def State.loadPlan (s : State) (d x : VReg) (b : XReg) (k : MReg) (f : BitVec 5) : LanePlan :=
  { s.lanePlan d x b k (fmtBytes f.toNat) with
    elem := fun e => some ((s.scratchCode x b f e).getD (fmtOf (sewOf s.me.vtype)).canonNaN) }

section
variable {s : State} {d x : VReg} {b : XReg} {k : MReg} {f : BitVec 5} (L : s.LaneReady d x k)
include L

/-- A load's index group is not its destination (R119). -/
theorem execVldI_same (hdx : d = x) : TrapsWord (.vldI d b x k f) .illegalInsn s := by
  subst hdx
  have hl := lmulOf_pos s.me.vtype
  have hc (ok : Hart → Bool) :
      checkType true (fun h => ok h && !overlaps d.toNat (lmulOf h.vtype) d.toNat (lmulOf h.vtype)) s = some .illegalInsn := by
    simp [checkType, L.legal, overlaps, hl]
  have hw : encodeWord (.vldI d b d k f) = vm 0x2A#6 d b d 3#3 k f := rfl
  rw [TrapsWord, Traps, hw]
  change execVldI d b d k f s = _
  exact vissue_refused (quiet_of_ready L.ready) (hc _)

/-- The load of one element. -/
def loadStep (cap : Capture) (d x : VReg) (fc : Nat) (_ : Capture) (e _ : Nat) (u : State) : State :=
  u.modMe (fun h => h.setElem d.toNat e cap.sew
    ((widen fc (ekOf cap.vtype) cap.sew (u.scratchN u.who (laneOf u.me cap.sew e) (scratchOff cap x u.me e) (fmtBytes fc)) 0).getD
      (fmtOf cap.sew).canonNaN))

omit L in
/-- Where no reserved code traps, a load is a loop of loads. -/
theorem vldScratch_eq {cap : Capture} (hcap : cap.Now s b)
    (hres : s.me.rct = false ∨ ∀ e, e ∈ s.me.acting k → s.scratchCode x b f e ≠ none) :
    vldScratch d x f.toNat k cap s = scratchLoop (fmtBytes f.toNat) [] (some d) x k (loadStep cap d x f.toNat) cap s := by
  have hfind : (activeOf cap s.me k).find? (fun e =>
      (widen f.toNat (ekOf cap.vtype) cap.sew (s.scratchN s.who (laneOf s.me cap.sew e) (scratchOff cap x s.me e) (fmtBytes f.toNat)) 0).isNone &&
        s.me.rct) = none := by
    rw [List.find?_eq_none]
    intro e he
    rw [hcap.active] at he
    rw [hcap.vtype, hcap.sew, scratchOff, hcap.base, hcap.sew]
    rcases hres with hr | hr
    · simp [hr]
    · simp only [Bool.and_eq_true, not_and]
      exact fun hnone => absurd (Option.isNone_iff_eq_none.1 hnone) (hr e he)
  unfold vldScratch
  simp only [hfind]
  rfl

theorem execVldI_loads (hleg : fmtLegal f.toNat (ekOf s.me.vtype) (sewOf s.me.vtype) false = true)
    (hin : s.PlacesIn x b k (fmtBytes f.toNat)) (hdx : d ≠ x)
    (hres : s.me.rct = false ∨ ∀ e, e ∈ s.me.acting k → s.scratchCode x b f e ≠ none) :
    WritesElements (.vldI d b x k f) s s.me d (sewOf s.me.vtype) k
      (fun e => ((s.scratchCode x b f e).getD (fmtOf (sewOf s.me.vtype)).canonNaN, 0)) := by
  have hcap := captureNow_now L.ready (vm 0x2A#6 d b x 3#3 k f) b
  have hP : (s.loadPlan d x b k f).Of s d x b k (fmtBytes f.toNat) := rfl
  have hF : (s.loadPlan d x b k f).Fits s (s.me.acting k) :=
    L.fits hin _ _ _ _ (fun _ _ _ _ _ h => absurd rfl h) (fun _ h => by cases h) (fun _ _ _ _ h => by cases h)
  have hover : overlaps d.toNat (lmulOf s.me.vtype) x.toNat (lmulOf s.me.vtype) = false :=
    overlaps_of_ne L.okD L.okX fun c => hdx (BitVec.eq_of_toNat_eq c)
  have hbody := vldScratch_eq (d := d) hcap hres
  have hexec (t : State) (ht : vldScratch d x f.toNat k (s.captureNow (vm 0x2A#6 d b x 3#3 k f) (fun s => [s.x b])) s = .done t) :
      execVldI d b x k f s = .next (finish t) := L.completes (by simp) (by simp [hleg, L.groups, hover]) ht
  generalize s.captureNow (vm 0x2A#6 d b x 3#3 k f) (fun s => [s.x b]) = cap at hcap hbody hexec
  obtain ⟨u, hrun, hloop⟩ := L.run hcap (.inr rfl) hP hin hF (f := loadStep cap d x f.toNat) (fun es e u he hes h => by
      have hn : e ∉ es := fun c => Nat.lt_irrefl _ ((hes e).1 c).2
      have hheld : u.scratchN s.who (s.laneAt e) (s.placeOff x b e) (fmtBytes f.toNat) =
          s.heldAt s x b e (fmtBytes f.toNat) :=
        h.held_ahead hF he hn (fun i hi => ((hes i).1 hi).1) (fun _ _ h => absurd rfl h)
      rw [loadStep, LanePlan.step_quiet rfl rfl, h.off_ahead L hcap (.inr rfl) hP he hn, show (s.loadPlan d x b k f).off = s.placeOff x b from rfl,
        h.change.who, hcap.sew, hcap.vtype,
        h.change.laneAt, hheld]
      rfl) []
  obtain ⟨v, hme, helem, hvreg⟩ := hrun.me_end L hcap hP
  refine ⟨v, ?_, fun e he => ?_, fun r hr => ?_⟩
  · have hm : u.me.m = s.me.m := hrun.masks fun _ _ => rfl
    have hmod : u.modMe (laneEnd cap (some d)) = s.setMe (u.modMe (laneEnd cap (some d))).me := by
      rw [State.me_modMe]
      exact (congrArg (fun t : State => t.setMe (laneEnd cap (some d) u.me)) (hrun.still fun _ _ => ⟨rfl, rfl⟩)).trans (State.setMe_setMe _ _ _)
    change execVldI d b x k f s = _
    rw [hexec _ (hbody.trans hloop), hmod, hme, hm, Hart.accrued_zero]
  · rw [emulOf_sew] at he
    exact helem e ((Nat.div_lt_iff_lt_mul L.pos).2 (by rwa [Nat.mul_comm (lmulOf s.me.vtype)]))
  · rw [emulOf_sew] at hr
    exact hvreg r hr

end
/-! #### VST of scratch, VSAMO, VSLDL and VSSTU -/

/-- The rounding mode and saturation that a step reads are those of the start. -/
theorem State.LaneChange.modes {s u : State} (h : s.LaneChange u) : u.me.sat = s.me.sat ∧ u.me.rm = s.me.rm := by
  obtain ⟨v, m, a, e⟩ := h.me
  rw [e]
  exact ⟨rfl, rfl⟩

/-- A store puts each acting element of its source. -/
def State.storePlan (s : State) (d x : VReg) (b : XReg) (k : MReg) (f : BitVec 5) : LanePlan :=
  { s.lanePlan d x b k (fmtBytes f.toNat) with
    put := fun e => some (narrow f.toNat s.me.sat s.me.rm (ekOf s.me.vtype) (sewOf s.me.vtype) (s.me.elem d.toNat e (sewOf s.me.vtype))) }

/-- An atomic puts the combination and takes what the place held. -/
def State.atomicPlan (s : State) (d x : VReg) (b : XReg) (k : MReg) (g : Nat → Nat → Nat → Nat → Nat) : LanePlan :=
  { s.lanePlan d x b k (sewOf s.me.vtype / 8) with
    put := fun e => some (g (sewOf s.me.vtype) (s.heldAt s x b e (sewOf s.me.vtype / 8)) (s.me.elem d.toNat e (sewOf s.me.vtype)) 0)
    elem := fun e => some (s.heldAt s x b e (sewOf s.me.vtype / 8)) }

/-- VSSTU puts each acting element of its source and frees its lock. -/
def State.unlockPlan (s : State) (d x : VReg) (b : XReg) (k : MReg) : LanePlan :=
  { s.lanePlan d x b k (sewOf s.me.vtype / 8) with
    put := fun e => some (s.me.elem d.toNat e (sewOf s.me.vtype))
    lock := fun _ => some false }

/-- The lock of element e is free when its turn comes: free at the start, and no acting element before it has the same (R129). -/
def State.lockFree (s : State) (x : VReg) (b : XReg) (k : MReg) (e : Nat) : Bool :=
  !s.lockOf (s.laneAt e) (s.placeOff x b e) &&
    ((s.me.acting k).filter (fun i => i < e)).all (fun i => !(s.laneAt i == s.laneAt e &&
      lockBit (s.placeOff x b i) == lockBit (s.placeOff x b e)))

/-- VSLDL takes what stands under each lock that is free, with the lock, and clears the mask bit of each other element. -/
def State.lockPlan (s : State) (d x : VReg) (b : XReg) (k : MReg) : LanePlan :=
  { s.lanePlan d x b k (sewOf s.me.vtype / 8) with
    lock := fun e => if s.lockFree x b k e then some true else none
    elem := fun e => if s.lockFree x b k e then some (s.heldAt s x b e (sewOf s.me.vtype / 8)) else none
    clear := fun e => !s.lockFree x b k e }

/-- The step of a store, of an atomic, of VSLDL and of VSSTU. -/
def laneStoreStep (d : VReg) (fc : Nat) (c : Capture) (e a : Nat) (u : State) : State :=
  u.setScratchN u.who (laneOf u.me c.sew e) a (fmtBytes fc)
    (narrow fc u.me.sat u.me.rm (ekOf c.vtype) c.sew (u.me.elem d.toNat e c.sew))

def laneAtomicStep (d : VReg) (g : Nat → Nat → Nat → Nat → Nat) (c : Capture) (e a : Nat) (u : State) : State :=
  (u.setScratchN u.who (laneOf u.me c.sew e) a (c.sew / 8)
    (g c.sew (u.scratchN u.who (laneOf u.me c.sew e) a (c.sew / 8)) (u.me.elem d.toNat e c.sew) 0)).modMe
    (fun h => h.setElem d.toNat e c.sew (u.scratchN u.who (laneOf u.me c.sew e) a (c.sew / 8)))

def laneLockStep (d : VReg) (k : MReg) (c : Capture) (e a : Nat) (u : State) : State :=
  if u.lockOf (laneOf u.me c.sew e) a then u.modMe (fun h => h.setMaskBit k e false)
  else (u.setLock (laneOf u.me c.sew e) a true).modMe
    (fun h => h.setElem d.toNat e c.sew (u.scratchN u.who (laneOf u.me c.sew e) a (c.sew / 8)))

def laneUnlockStep (d : VReg) (c : Capture) (e a : Nat) (u : State) : State :=
  (u.setScratchN u.who (laneOf u.me c.sew e) a (c.sew / 8) (u.me.elem d.toNat e c.sew)).setLock (laneOf u.me c.sew e) a false

/-- The bytes of a place make a number of as many bits. -/
theorem natOf_lt (bs : List Byte) : natOf bs < 256 ^ bs.length := by
  induction bs with
  | nil => exact Nat.one_pos
  | cons b bs ih =>
    have hb := b.isLt
    rw [List.length_cons, Nat.pow_succ]
    change b.toNat + 256 * natOf bs < _
    omega

theorem scratchN_lt (t : State) (w : Who) (l off n : Nat) : t.scratchN w l off n < 256 ^ n := by
  have h := natOf_lt ((List.range n).map (fun i => t.scratchByte w l (off + i)))
  rwa [List.length_map, List.length_range] at h

/-- A whole element has the bits of its bytes. -/
theorem pow_sew_bytes (t : Word) : 256 ^ (sewOf t / 8) = 2 ^ sewOf t := by
  have h8 : 8 ∣ sewOf t := ⟨2 ^ bitsOf t 0 2, by rw [sewOf, Nat.shiftLeft_eq]⟩
  rw [show (256 : Nat) = 2 ^ 8 from rfl, ← Nat.pow_mul, Nat.mul_div_cancel' h8]

section
variable {s : State} {d x : VReg} {b : XReg} {k : MReg} (L : s.LaneReady d x k)
include L

/-- The destination group of a member whose acting elements take `new` (R48). -/
def State.TakesGroup (s : State) (d : VReg) (k : MReg) (v : Vector VBits 32) (new : Nat → Nat) : Prop :=
  (∀ e, e < vlmaxOf s.me.lanes s.me.vtype → Hart.elem { s.me with v := v } d.toNat e (sewOf s.me.vtype) =
    s.me.elementAfter k 0 (s.me.elem d.toNat e (sewOf s.me.vtype)) (new e) e) ∧
  ∀ r, (r < d.toNat ∨ d.toNat + lmulOf s.me.vtype ≤ r) → Hart.vreg { s.me with v := v } r = s.me.vreg r

theorem execVstI_stores {f : BitVec 5} (hleg : fmtLegal f.toNat (ekOf s.me.vtype) (sewOf s.me.vtype) false = true)
    (hin : s.PlacesIn x b k (fmtBytes f.toNat)) (hap : s.PlacesApart x b k (fmtBytes f.toNat)) :
    ∃ u, Completes (.vstI d b x k f) s u ∧ u.me = { s.me with vstart := 0 } ∧ s.OnlyPlaces x b k (fmtBytes f.toNat) u ∧
      (∀ c, (u.core c).locks = (s.core c).locks) ∧
      ∀ e, e ∈ s.me.acting k → s.heldAt u x b e (fmtBytes f.toNat) =
        narrow f.toNat s.me.sat s.me.rm (ekOf s.me.vtype) (sewOf s.me.vtype) (s.me.elem d.toNat e (sewOf s.me.vtype)) %
          256 ^ fmtBytes f.toNat := by
  have hcap := captureNow_now L.ready (vm 0x2B#6 d b x 3#3 k f) b
  have hP : (s.storePlan d x b k f).Of s d x b k (fmtBytes f.toNat) := rfl
  have hF : (s.storePlan d x b k f).Fits s (s.me.acting k) :=
    L.fits hin _ _ _ _ (fun e e' he he' hne _ _ => hap e e' he he' hne) (fun _ _ => rfl) (fun _ _ _ _ h => by cases h)
  have hexec (t : State) := L.completes (b := b) (w := vm 0x2B#6 d b x 3#3 k f) (t := t) (by simp)
    (ok := fun h => fmtLegal f.toNat (ekOf h.vtype) (sewOf h.vtype) false && scratchGroups h d x) (by simp [hleg, L.groups])
    (body := fun cap => scratchLoop (fmtBytes f.toNat) [(d.toNat, cap.sew)] none x k (laneStoreStep d f.toNat) cap)
  generalize s.captureNow (vm 0x2B#6 d b x 3#3 k f) (fun s => [s.x b]) = cap at hcap hexec
  obtain ⟨u, hrun, hloop⟩ := L.run hcap (.inl rfl) hP hin hF (f := laneStoreStep d f.toNat) (fun es e u he hes h => by
      have hn : e ∉ es := fun c => Nat.lt_irrefl _ ((hes e).1 c).2
      obtain ⟨hsat, hrm⟩ := h.change.modes
      rw [LanePlan.step_store rfl rfl, laneStoreStep, hcap.sew, hcap.vtype, h.change.laneAt,
        h.elem_ahead L hcap (.inl rfl) hP (.inl rfl) he hn, hsat, hrm]
      rfl) [(d.toNat, cap.sew)]
  refine ⟨_, hexec _ hloop, hrun.me_end_none fun _ => ⟨rfl, rfl⟩, hrun.onlyPlaces hP (.inl rfl), hrun.locks_end fun _ => rfl, fun e he => ?_⟩
  exact (hrun.scratchN_end _ _ _).trans (hrun.held e _ he rfl)

section
variable (hin : s.PlacesIn x b k (sewOf s.me.vtype / 8)) (h32 : 32 ≤ sewOf s.me.vtype) (hek : ekOf s.me.vtype = false)
include hin h32 hek

theorem samoMember_combines {w : Insn} (hw : majorOf w < 0x30) {g : Nat → Nat → Nat → Nat → Nat}
    {G : BitVec (sewOf s.me.vtype) → BitVec (sewOf s.me.vtype) → BitVec (sewOf s.me.vtype)}
    (hg : ∀ A B, A < 2 ^ sewOf s.me.vtype → B < 2 ^ sewOf s.me.vtype → g (sewOf s.me.vtype) A B 0 = (G (BitVec.ofNat _ A) (BitVec.ofNat _ B)).toNat)
    (hap : s.PlacesApart x b k (sewOf s.me.vtype / 8)) :
    ∃ u v, samoMember w g d b x k s = .next (finish u) ∧ u.me = { s.me with v := v, vstart := 0 } ∧
      s.TakesGroup d k v (fun e => s.heldAt s x b e (sewOf s.me.vtype / 8)) ∧ s.OnlyPlaces x b k (sewOf s.me.vtype / 8) u ∧
      (∀ c, (u.core c).locks = (s.core c).locks) ∧
      ∀ e, e ∈ s.me.acting k → s.heldAt u x b e (sewOf s.me.vtype / 8) =
        (G (BitVec.ofNat _ (s.heldAt s x b e (sewOf s.me.vtype / 8))) (BitVec.ofNat _ (s.me.elem d.toNat e (sewOf s.me.vtype)))).toNat := by
  have hcap := captureNow_now L.ready w b
  have hP : (s.atomicPlan d x b k g).Of s d x b k (sewOf s.me.vtype / 8) := rfl
  have hF : (s.atomicPlan d x b k g).Fits s (s.me.acting k) :=
    L.fits hin _ _ _ _ (fun e e' he he' hne _ _ => hap e e' he he' hne) (fun _ h => by cases h) (fun _ _ _ _ h => by cases h)
  have hexec (t : State) := L.completes (b := b) hw (t := t) (ok := fun h => 32 ≤ sewOf h.vtype && !ekOf h.vtype && scratchGroups h d x)
    (by simp [h32, hek, L.groups]) (body := fun cap => scratchLoop (cap.sew / 8) [(d.toNat, cap.sew)] (some d) x k (laneAtomicStep d g) cap)
  generalize s.captureNow w (fun s => [s.x b]) = cap at hcap hexec
  obtain ⟨u, hrun, hloop⟩ := L.run hcap (.inr rfl) hP hin hF (f := laneAtomicStep d g) (fun es e u he hes h => by
      have hn : e ∉ es := fun c => Nat.lt_irrefl _ ((hes e).1 c).2
      have hheld : u.scratchN s.who (s.laneAt e) (s.placeOff x b e) (sewOf s.me.vtype / 8) =
          s.heldAt s x b e (sewOf s.me.vtype / 8) :=
        h.held_ahead hF he hn (fun i hi => ((hes i).1 hi).1) (fun _ _ _ h => by cases h)
      rw [laneAtomicStep, hcap.sew, h.change.laneAt, h.elem_ahead L hcap (.inr rfl) hP (.inl rfl) he hn, h.change.who, hheld]
      rw [← h.change.who]
      rfl) [(d.toNat, cap.sew)]
  rw [← hcap.sew] at hloop
  obtain ⟨v, hme, helem, hvreg⟩ := hrun.me_end L hcap hP
  have hlt (t : State) (e : Nat) : s.heldAt t x b e (sewOf s.me.vtype / 8) < 2 ^ sewOf s.me.vtype := by
    rw [← pow_sew_bytes]
    exact scratchN_lt ..
  refine ⟨_, v, hexec _ hloop, ?_, ⟨fun e he => ?_, hvreg⟩, hrun.onlyPlaces hP (.inl rfl), hrun.locks_end fun _ => rfl, fun e he => ?_⟩
  · rw [hme, show u.me.m = s.me.m from hrun.masks fun _ _ => rfl]
  · refine (helem e (Hart.elem_in_group L.shaped.1 he)).trans (Hart.elementAfter_congr fun _ => ?_)
    exact Nat.mod_eq_of_lt (hlt s e)
  · refine ((hrun.scratchN_end _ _ _).trans (hrun.held e _ he rfl)).trans ?_
    have hel : s.me.elem d.toNat e (sewOf s.me.vtype) < 2 ^ sewOf s.me.vtype := by
      rw [← Hart.elem_mod]
      exact Nat.mod_lt _ (Nat.two_pow_pos _)
    change _ % 256 ^ (sewOf s.me.vtype / 8) = _
    rw [pow_sew_bytes, hg _ _ (hlt s e) hel]
    exact Nat.mod_eq_of_lt (BitVec.isLt _)

end

end

/-! #### Members with locks -/

theorem LanePlan.step_lock {P : LanePlan} {e : Nat} {c : Bool} (hp : P.put e = none) (hl : P.lock e = some c) (u : State) :
    P.step u e = (u.setLock (P.lane e) (P.off e) c).modMe (P.hartStep e) := by
  simp only [LanePlan.step, LanePlan.lockStep, LanePlan.putStep, hp, hl]

theorem LanePlan.hartStep_elem {P : LanePlan} {e x : Nat} (hx : P.elem e = some x) (hc : P.clear e = false) :
    P.hartStep e = fun h => h.setElem P.d e P.w x := by
  funext h
  simp [LanePlan.hartStep, hx, hc]

theorem LanePlan.hartStep_clear {P : LanePlan} {e : Nat} (hc : P.clear e = true) : P.hartStep e = fun h => h.setMaskBit P.k e false := by
  funext h
  simp [LanePlan.hartStep, hc]

/-- A lock is told by its lane and the bit of its offset. -/
theorem State.lockOf_congr (u : State) {l a a' : Nat} (h : lockBit a = lockBit a') : u.lockOf l a = u.lockOf l a' := by
  simp only [State.lockOf, h]

theorem State.lockFree_iff {s : State} {x : VReg} {b : XReg} {k : MReg} {e : Nat} : s.lockFree x b k e = true ↔
    s.lockOf (s.laneAt e) (s.placeOff x b e) = false ∧
      ∀ i, i ∈ s.me.acting k → i < e → s.laneAt i = s.laneAt e →
        lockBit (s.placeOff x b i) ≠ lockBit (s.placeOff x b e) := by
  simp only [State.lockFree, Bool.and_eq_true, Bool.not_eq_true', List.all_eq_true, List.mem_filter, decide_eq_true_eq, Bool.and_eq_false_iff,
    beq_eq_false_iff_ne]
  exact and_congr_right fun _ => ⟨fun h i hi hlt hl => (h i ⟨hi, hlt⟩).resolve_left fun c => c hl,
    fun h i ⟨hi, hlt⟩ => or_iff_not_imp_left.2 fun c => h i hi hlt (not_not.1 c)⟩

section
variable {s u : State} {d x : VReg} {b : XReg} {k : MReg} {h₀ : Hart} {es : List Nat}
  (h : LaneRun (s.lockPlan d x b k) s h₀ es u) (hF : (s.lockPlan d x b k).Fits s (s.me.acting k))
  (hes : ∀ i, i ∈ es → i ∈ s.me.acting k)
include h

/-- A lock that an element before has taken is taken. -/
theorem LaneRun.locked_of_same {i e : Nat} (hi : i ∈ es) (hfree : s.lockFree x b k i = true)
    (hl : s.laneAt i = s.laneAt e)
    (hb : lockBit (s.placeOff x b i) = lockBit (s.placeOff x b e)) :
    u.lockOf (s.laneAt e) (s.placeOff x b e) = true := by
  rw [← State.lockOf_congr u hb, ← hl]
  exact h.taken i true hi (if_pos hfree)

include hF hes

/-- Where no element before has taken it, a lock is as it was. -/
theorem LaneRun.lock_kept {e : Nat} (he : e ∈ s.me.acting k)
    (hno : ∀ i, i ∈ es → s.lockFree x b k i = true → s.laneAt i = s.laneAt e →
      lockBit (s.placeOff x b i) ≠ lockBit (s.placeOff x b e)) :
    u.lockOf (s.laneAt e) (s.placeOff x b e) =
      s.lockOf (s.laneAt e) (s.placeOff x b e) := by
  obtain ⟨hlt, h32⟩ : s.laneAt e < 2048 ∧ (s.laneCore s.who (s.laneAt e)).2 < 32 := hF.lanes e he
  rw [h.change.lockOf h32, (State.LaneChange.refl s).lockOf h32]
  refine h.locks _ _ _ fun i hi hp => or_iff_not_imp_left.2 fun hc => ?_
  have hlane := State.laneCore_inj (hF.lanes i (hes i hi)).1 hlt (not_not.1 hc)
  refine hno i hi ?_ hlane
  by_contra hf
  exact hp (if_neg hf)

/-- A lock that was held at the start is held. -/
theorem LaneRun.locked_of_held {e : Nat} (he : e ∈ s.me.acting k)
    (hs : s.lockOf (s.laneAt e) (s.placeOff x b e) = true) :
    u.lockOf (s.laneAt e) (s.placeOff x b e) = true := by
  by_cases hex : ∃ i, i ∈ es ∧ s.lockFree x b k i = true ∧ s.laneAt i = s.laneAt e ∧
      lockBit (s.placeOff x b i) = lockBit (s.placeOff x b e)
  · obtain ⟨i, hi, hfree, hl, hb⟩ := hex
    exact h.locked_of_same hi hfree hl hb
  · rw [h.lock_kept hF hes he fun i hi hfree hl hb => hex ⟨i, hi, hfree, hl, hb⟩, hs]

/-- The lock of an element that finds it taken: the elements before it are done. -/
theorem LaneRun.locked_of_not_free {e : Nat} (he : e ∈ s.me.acting k) (hbelow : ∀ i, i ∈ s.me.acting k → i < e → i ∈ es)
    (hfree : s.lockFree x b k e ≠ true) :
    u.lockOf (s.laneAt e) (s.placeOff x b e) = true := by
  induction e using Nat.strong_induction_on with
  | h e ih =>
    by_cases hs : s.lockOf (s.laneAt e) (s.placeOff x b e) = true
    · exact h.locked_of_held hF hes he hs
    · have hex : ∃ i, i ∈ s.me.acting k ∧ i < e ∧ s.laneAt i = s.laneAt e ∧
          lockBit (s.placeOff x b i) = lockBit (s.placeOff x b e) := by
        by_contra hno
        exact hfree (State.lockFree_iff.2 ⟨by simpa using hs, fun i hi hlt hl hb => hno ⟨i, hi, hlt, hl, hb⟩⟩)
      obtain ⟨i, hi, hlt, hl, hb⟩ := hex
      by_cases hfi : s.lockFree x b k i = true
      · exact h.locked_of_same (hbelow i hi hlt) hfi hl hb
      · rw [← State.lockOf_congr u hb, ← hl]
        exact ih i hlt hi (fun j hj hji => hbelow j hj (hji.trans hlt)) hfi

end

section
variable {s : State} {d x : VReg} {b : XReg} {k : MReg} (L : s.LaneReady d x k) (hin : s.PlacesIn x b k (sewOf s.me.vtype / 8))
  (h32 : 32 ≤ sewOf s.me.vtype) (hek : ekOf s.me.vtype = false)
include L hin h32 hek

theorem execVsldl_locks :
    ∃ u v m, Completes (.vsldl d b x k) s u ∧ u.me = { s.me with v := v, m := m, vstart := 0 } ∧ s.OnlyPlaces x b k 0 u ∧ s.OnlyLocks x b k u ∧
      (∀ e, e ∈ s.me.acting k → u.lockOf (s.laneAt e) (s.placeOff x b e) = true) ∧
      (∀ j e, Hart.maskBit { s.me with m := m } j e =
        (s.me.maskBit j e && !(decide (j = k) && decide (e ∈ s.me.acting k ∧ s.lockFree x b k e = false)))) ∧
      s.TakesGroup d k v (fun e =>
        if s.lockFree x b k e then s.heldAt s x b e (sewOf s.me.vtype / 8) else s.me.elem d.toNat e (sewOf s.me.vtype)) := by
  have hcap := captureNow_now L.ready (vm 0x2C#6 d b x 0#3 k 9#5) b
  have hP : (s.lockPlan d x b k).Of s d x b k (sewOf s.me.vtype / 8) := rfl
  have hF : (s.lockPlan d x b k).Fits s (s.me.acting k) :=
    L.fits hin _ _ _ _ (fun _ _ _ _ _ h => absurd rfl h) (fun e h => if_neg (by simpa using h)) (fun e e' c c' h h' => by grind)
  have hexec (t : State) := L.completes (b := b) (w := vm 0x2C#6 d b x 0#3 k 9#5) (t := t) (by simp)
    (ok := fun h => 32 ≤ sewOf h.vtype && !ekOf h.vtype && scratchGroups h d x)
    (by simp [h32, hek, L.groups]) (body := fun cap => scratchLoop (cap.sew / 8) [] (some d) x k (laneLockStep d k) cap)
  generalize s.captureNow (vm 0x2C#6 d b x 0#3 k 9#5) (fun s => [s.x b]) = cap at hcap hexec
  obtain ⟨u, hrun, hloop⟩ := L.run hcap (.inr rfl) hP hin hF (f := laneLockStep d k) (fun es e u he hes h => by
      have hn : e ∉ es := fun c => Nat.lt_irrefl _ ((hes e).1 c).2
      have hheld : u.scratchN s.who (s.laneAt e) (s.placeOff x b e) (sewOf s.me.vtype / 8) =
          s.heldAt s x b e (sewOf s.me.vtype / 8) :=
        h.held_ahead hF he hn (fun i hi => ((hes i).1 hi).1) (fun _ _ h => absurd rfl h)
      rw [laneLockStep, hcap.sew, h.change.laneAt, h.change.who, hheld]
      by_cases hfree : s.lockFree x b k e = true
      · have hopen := h.lock_kept hF (fun i hi => ((hes i).1 hi).1) he fun i hi _ hl =>
          (State.lockFree_iff.1 hfree).2 i ((hes i).1 hi).1 ((hes i).1 hi).2 hl
        rw [(State.lockFree_iff.1 hfree).1] at hopen
        rw [if_neg (fun c => Bool.false_ne_true (hopen.symm.trans c))]
        have hl : (s.lockPlan d x b k).lock e = some true := if_pos hfree
        have hx : (s.lockPlan d x b k).elem e = some (s.heldAt s x b e (sewOf s.me.vtype / 8)) := if_pos hfree
        have hc : (s.lockPlan d x b k).clear e = false := by simp [State.lockPlan, hfree]
        rw [LanePlan.step_lock rfl hl, LanePlan.hartStep_elem hx hc]
        rfl
      · have hshut := h.locked_of_not_free hF (fun i hi => ((hes i).1 hi).1) he (fun i hi hlt => (hes i).2 ⟨hi, hlt⟩) hfree
        rw [if_pos hshut, LanePlan.step_quiet rfl (if_neg hfree)]
        have hc : (s.lockPlan d x b k).clear e = true := by simp [State.lockPlan, hfree]
        rw [LanePlan.hartStep_clear hc]
        rfl) []
  rw [← hcap.sew] at hloop
  obtain ⟨v, hme, helem, hvreg⟩ := hrun.me_end L hcap hP
  refine ⟨_, v, u.me.m, hexec _ hloop, hme, hrun.onlyPlaces hP (.inr fun _ => rfl), hrun.onlyLocks hP, fun e he => ?_, fun j e => ?_,
    fun e he => ?_, hvreg⟩
  · rw [hrun.lockOf_end (L.lanes e he)]
    by_cases hfree : s.lockFree x b k e = true
    · exact hrun.taken e true he (if_pos hfree)
    · exact hrun.locked_of_not_free hF (fun i hi => hi) he (fun i hi _ => hi) hfree
  · refine (hrun.mask j e).trans ?_
    have hc : (s.lockPlan d x b k).clear e = true ↔ s.lockFree x b k e = false := Bool.not_eq_true' _ ▸ Iff.rfl
    simp only [show (s.lockPlan d x b k).k = k from rfl, hc]
  · refine (helem e (Hart.elem_in_group L.shaped.1 he)).trans (Hart.elementAfter_congr fun _ => ?_)
    have hlt : s.heldAt s x b e (sewOf s.me.vtype / 8) < 2 ^ sewOf s.me.vtype := by
      rw [← pow_sew_bytes]
      exact scratchN_lt ..
    by_cases hfree : s.lockFree x b k e = true
    · simp [State.lockPlan, hfree, Nat.mod_eq_of_lt hlt]
    · simp [State.lockPlan, hfree]

theorem execVsstu_unlocks (hap : s.PlacesApart x b k (sewOf s.me.vtype / 8)) :
    ∃ u, Completes (.vsstu d b x k) s u ∧ u.me = { s.me with vstart := 0 } ∧ s.OnlyPlaces x b k (sewOf s.me.vtype / 8) u ∧ s.OnlyLocks x b k u ∧
      ∀ e, e ∈ s.me.acting k → s.heldAt u x b e (sewOf s.me.vtype / 8) = s.me.elem d.toNat e (sewOf s.me.vtype) ∧
        u.lockOf (s.laneAt e) (s.placeOff x b e) = false := by
  have hcap := captureNow_now L.ready (vm 0x2C#6 d b x 0#3 k 10#5) b
  have hP : (s.unlockPlan d x b k).Of s d x b k (sewOf s.me.vtype / 8) := rfl
  have hF : (s.unlockPlan d x b k).Fits s (s.me.acting k) :=
    L.fits hin _ _ _ _ (fun e e' he he' hne _ _ => hap e e' he he' hne) (fun _ _ => rfl)
      (fun _ _ _ _ h h' => (Option.some.inj h).symm.trans (Option.some.inj h'))
  have hexec (t : State) := L.completes (b := b) (w := vm 0x2C#6 d b x 0#3 k 10#5) (t := t) (by simp)
    (ok := fun h => 32 ≤ sewOf h.vtype && !ekOf h.vtype && scratchGroups h d x)
    (by simp [h32, hek, L.groups]) (body := fun cap => scratchLoop (cap.sew / 8) [(d.toNat, cap.sew)] none x k (laneUnlockStep d) cap)
  generalize s.captureNow (vm 0x2C#6 d b x 0#3 k 10#5) (fun s => [s.x b]) = cap at hcap hexec
  obtain ⟨u, hrun, hloop⟩ := L.run hcap (.inl rfl) hP hin hF (f := laneUnlockStep d) (fun es e u he hes h => by
      have hn : e ∉ es := fun c => Nat.lt_irrefl _ ((hes e).1 c).2
      rw [LanePlan.step_store rfl rfl, laneUnlockStep, hcap.sew, h.change.laneAt, h.elem_ahead L hcap (.inl rfl) hP (.inl rfl) he hn]
      rfl) [(d.toNat, cap.sew)]
  rw [← hcap.sew] at hloop
  refine ⟨_, hexec _ hloop, hrun.me_end_none fun _ => ⟨rfl, rfl⟩, hrun.onlyPlaces hP (.inl rfl), hrun.onlyLocks hP, fun e he => ⟨?_, ?_⟩⟩
  · refine ((hrun.scratchN_end _ _ _).trans (hrun.held e _ he rfl)).trans ?_
    change _ % 256 ^ (sewOf s.me.vtype / 8) = _
    rw [pow_sew_bytes, Hart.elem_mod]
  · rw [hrun.lockOf_end (L.lanes e he)]
    exact hrun.taken e false he rfl

end

theorem sInt_eq_toInt {w A : Nat} (hw : 0 < w) (hA : A < 2 ^ w) : sInt w A = (BitVec.ofNat w A).toInt := by
  have hp : 2 ^ w = 2 * 2 ^ (w - 1) := by rw [← Nat.pow_succ', Nat.succ_eq_add_one, Nat.sub_add_cancel hw]
  rw [sInt, BitVec.toInt_eq_toNat_cond, BitVec.toNat_ofNat, Nat.mod_eq_of_lt hA]
  split <;> split <;> omega

theorem Hart.elementAfter_acting {h : Hart} {k : MReg} {z old new e : Nat} (he : e ∈ h.acting k) : h.elementAfter k z old new e = new := by
  obtain ⟨h1, h2, h3⟩ := Hart.mem_acting.1 he
  simp [Hart.elementAfter, h3, Nat.not_le.2 h2, Nat.not_lt.2 h1]

end Sys2Proof.Machine

namespace Sys2Proof

open Machine

/-- Settles O29: each member steps through the acting elements as its plan says, and what one element does to its own place, lock,
element and mask bit the others leave. -/
theorem laneScratchMembers : Obligations.LaneScratchMembers := by
  unfold Obligations.LaneScratchMembers
  intro s d x b k f hr hsh hv hinv hz h w act off lane inside apart held others locksBut group hd hx h32
  have L : s.LaneReady d x k := ⟨hr, hsh, hv, hinv, hz, hd, hx, h32⟩
  refine ⟨?_, ?_⟩
  · intro n value hleg hin
    refine ⟨fun hdx => execVldI_same L hdx, fun hdx hres => execVldI_loads L hleg hin hdx hres, fun hap => execVstI_stores L hleg hin hap⟩
  · intro hw hek hin n combines
    have hpos : 0 < w := by omega
    have hmod (A : Nat) (hA : A < 2 ^ w) : (BitVec.ofNat w A).toNat = A := by rw [BitVec.toNat_ofNat, Nat.mod_eq_of_lt hA]
    refine ⟨fun hap => ?_, fun hk => ⟨?_, fun hap => execVsstu_unlocks L hin hw hek hap⟩⟩
    · have hcomb {i : Instr} {word : Insn} (hword : majorOf word < 0x30) (g : Nat → Nat → Nat → Nat → Nat) (G : BitVec w → BitVec w → BitVec w)
          (hi : exec i s = samoMember word g d b x k s)
          (hg : ∀ A B, A < 2 ^ w → B < 2 ^ w → g w A B 0 = (G (BitVec.ofNat w A) (BitVec.ofNat w B)).toNat) : combines i G := by
        obtain ⟨u, v, he, hrest⟩ := samoMember_combines L hin hw hek hword hg hap
        exact ⟨u, v, hi.trans he, hrest⟩
      have h2C (e : BitVec 5) : majorOf (vm 0x2C#6 d b x 0#3 k e) < 0x30 := by
        rw [majorOf_vm]
        decide
      refine ⟨hcomb (i := .vsamoAdd d b x k) (h2C _) fAdd _ rfl fun A B hA hB => ?_,
        hcomb (i := .vsamoMin d b x k) (h2C _) fMin (fun A B => if A.toInt ≤ B.toInt then A else B) rfl fun A B hA hB => ?_,
        hcomb (i := .vsamoMax d b x k) (h2C _) fMax (fun A B => if A.toInt ≤ B.toInt then B else A) rfl fun A B hA hB => ?_,
        hcomb (i := .vsamoMinn d b x k) (h2C _) fMinn (fun A B => if A.toNat ≤ B.toNat then A else B) rfl fun A B hA hB => ?_,
        hcomb (i := .vsamoMaxn d b x k) (h2C _) fMaxn (fun A B => if A.toNat ≤ B.toNat then B else A) rfl fun A B hA hB => ?_,
        hcomb (i := .vsamoAnd d b x k) (h2C _) fAnd _ rfl fun A B hA hB => ?_,
        hcomb (i := .vsamoOr d b x k) (h2C _) fOr _ rfl fun A B hA hB => ?_, hcomb (i := .vsamoXor d b x k) (h2C _) fXor _ rfl fun A B hA hB => ?_,
        hcomb (i := .vsamoSwap d b x k) (h2C 8#5) fMv (fun _ B => B) rfl fun A B hA hB => ?_⟩
      · rw [BitVec.toNat_add, hmod A hA, hmod B hB]
        rfl
      · rw [fMin, sInt_eq_toInt hpos hA, sInt_eq_toInt hpos hB]
        split
        · rw [hmod A hA]
        · rw [hmod B hB]
      · rw [fMax, sInt_eq_toInt hpos hA, sInt_eq_toInt hpos hB]
        split
        · rw [hmod B hB]
        · rw [hmod A hA]
      · rw [fMinn, hmod A hA, hmod B hB, apply_ite BitVec.toNat, hmod A hA, hmod B hB, Nat.min_def]
      · rw [fMaxn, hmod A hA, hmod B hB, apply_ite BitVec.toNat, hmod A hA, hmod B hB, Nat.max_def]
      · rw [BitVec.toNat_and, hmod A hA, hmod B hB]
        rfl
      · rw [BitVec.toNat_or, hmod A hA, hmod B hB]
        rfl
      · rw [BitVec.toNat_xor, hmod A hA, hmod B hB]
        rfl
      · rw [hmod B hB]
        rfl
    · intro got
      obtain ⟨u, v, m, he, hme, hplaces, hlocks, hall, hmask, htake⟩ := execVsldl_locks L hin hw hek
      have hgot (e : Nat) : got e ↔ s.lockFree x b k e = true := (State.lockFree_iff (s := s) (x := x) (b := b) (k := k) (e := e)).symm
      have hbit {e : Nat} (hea : e ∈ s.me.acting k) : s.me.maskBit k e = true := by
        have := (Hart.mem_acting.1 hea).2.2
        simp only [Hart.isActive, Bool.or_eq_true, beq_iff_eq] at this
        exact this.resolve_left hk
      have helem {e : Nat} (hea : e ∈ s.me.acting k) := (htake.1 e (Nat.lt_of_lt_of_le (Hart.mem_acting.1 hea).2.1 hsh.2.2.2.2)).trans
        (Hart.elementAfter_acting hea)
      refine ⟨u, v, m, he, hme, hplaces, hlocks, fun e hea => ⟨hall e hea, fun hg => ⟨?_, ?_⟩, fun hg => ⟨?_, ?_⟩⟩, fun e hlt hna => ?_, htake.2,
        fun j e hje => ?_⟩
      · rw [hmask, hbit hea, (hgot e).1 hg]
        simp
      · exact (helem hea).trans (if_pos ((hgot e).1 hg))
      · have hf : s.lockFree x b k e = false := by simpa [hgot] using hg
        rw [hmask, hbit hea, hf]
        simp [show e ∈ s.me.acting k from hea]
      · exact (helem hea).trans (if_neg fun c => hg ((hgot e).2 c))
      · exact (htake.1 e hlt).trans (Hart.elementAfter_congr fun c => absurd c hna)
      · rw [hmask]
        have hno : (decide (j = k) && decide (e ∈ s.me.acting k ∧ s.lockFree x b k e = false)) = false := by
          rcases hje with hj | hna
          · simp [hj]
          · simp [show e ∉ s.me.acting k from hna]
        rw [hno, Bool.not_false, Bool.and_true]

end Sys2Proof
end

section
/-!
SUPPORT. Rounding of an exact result to a binary format (R50, R98, R99): the codes in the order of their magnitudes, and what the
rounding of the model gives against the nearest codes.
-/
namespace Sys2Proof.Machine

/-! ### Rounding to a multiple of a power of two -/

/-- Whether a magnitude goes away from zero, by how the midpoint of its neighbours compares with it (R98). -/
def awayBy (mode : BitVec 3) (neg : Bool) (mid : Ordering) (odd : Bool) : Bool :=
  match mode.toNat with
  | 1 => false
  | 2 => neg
  | 3 => !neg
  | 4 => mid != .gt
  | _ => mid == .lt || (mid == .eq && odd)

/-- What lies between m and m + 1 units of 2^e, at m where `sticky` does not hold. -/
structure Stands (m : Nat) (e : Int) (sticky : Bool) (X : ℝ) : Prop where
  low : (m : ℝ) * 2 ^ e ≤ X
  high : X < (m + 1) * 2 ^ e
  exact : sticky = false ↔ (m : ℝ) * 2 ^ e = X

/-- n is the multiple of 2^q below X. -/
structure Below (n : Nat) (q : Int) (X : ℝ) : Prop where
  low : (n : ℝ) * 2 ^ q ≤ X
  high : X < (n + 1) * 2 ^ q

theorem mode_cases (mode : BitVec 3) : mode = 1 ∨ mode = 2 ∨ mode = 3 ∨ mode = 4 ∨ (mode = 0 ∨ mode = 5 ∨ mode = 6 ∨ mode = 7) := by
  revert mode
  decide

/-- How the midpoint compares with a number that stands `rem` units above a multiple. -/
def midOrder (rem half : Nat) (sticky : Bool) : Ordering :=
  if half < rem then .lt else if half = rem then (if sticky then .lt else .eq) else .gt

/-- Away from zero by the mode is so only of a number that is no multiple. -/
theorem roundsUp_eq (mode : BitVec 3) (neg odd sticky : Bool) {rem half : Nat} (hh : half ≠ 0) :
    roundsUp mode neg odd rem half sticky = ((rem != 0 || sticky) && awayBy mode neg (midOrder rem half sticky) odd) := by
  have hrem (h : half ≤ rem) : (rem != 0) = true := by
    simp only [bne_iff_ne]
    omega
  have hhalf : (half != 0) = true := by simpa using hh
  have hlg : (Ordering.lt != Ordering.gt) = true := rfl
  have nearest (h : ∀ c : BitVec 3, c ∈ [1, 2, 3, 4] → mode ≠ c) :
      roundsUp mode neg odd rem half sticky =
        ((rem != 0 || sticky) && (midOrder rem half sticky == .lt || (midOrder rem half sticky == .eq && odd))) := by
    have h1 := h 1 (by simp)
    have h2 := h 2 (by simp)
    have h3 := h 3 (by simp)
    have h4 := h 4 (by simp)
    unfold roundsUp midOrder
    simp only [beq_iff_eq, h1, h2, h3, h4, if_false]
    rcases Nat.lt_trichotomy half rem with hlt | heq | hgt
    · simp [hlt, hh, hrem hlt.le]
    · subst heq
      cases sticky <;> simp [hh]
    · cases sticky <;> simp [Nat.not_lt.2 hgt.le, hgt.ne, hgt.ne']
  rcases mode_cases mode with rfl | rfl | rfl | rfl | rfl | rfl | rfl | rfl
  · simp [roundsUp, awayBy]
  · simp [roundsUp, awayBy, Bool.and_comm]
  · simp [roundsUp, awayBy, Bool.and_comm]
  · rcases Nat.lt_trichotomy half rem with hlt | heq | hgt
    · simp [roundsUp, awayBy, midOrder, hlt, hhalf, hlg, hrem hlt.le, hlt.le]
    · subst heq
      cases sticky <;> simp [roundsUp, awayBy, midOrder, hhalf, hlg]
    · simp [roundsUp, awayBy, midOrder, Nat.not_lt.2 hgt.le, hgt.ne', Nat.not_le.2 hgt]
  all_goals exact nearest (by decide)

theorem roundAt_spec (mode : BitVec 3) (neg : Bool) {m : Nat} {e q : Int} {sticky : Bool} {X : ℝ} (h : Stands m e sticky X)
    (hq : sticky = true → e < q) :
    ∃ n : Nat, Below n q X ∧ ((roundAt mode neg m e q sticky).2 = true ↔ (n : ℝ) * 2 ^ q ≠ X) ∧
      (roundAt mode neg m e q sticky).1 =
        if (n : ℝ) * 2 ^ q ≠ X ∧ awayBy mode neg (cmp (((n : ℝ) + 1 / 2) * 2 ^ q) X) (n % 2 == 1) = true then n + 1 else n := by
  by_cases hle : q ≤ e
  · -- every unit is a multiple
    obtain rfl : sticky = false := by
      cases sticky
      · rfl
      · exact absurd (hq rfl) (not_lt.2 hle)
    have hX : (m : ℝ) * 2 ^ e = X := h.exact.1 rfl
    have hn : ((m <<< (e - q).toNat : Nat) : ℝ) * 2 ^ q = X := by
      rw [Nat.shiftLeft_eq, ← hX]
      push_cast
      rw [mul_assoc, ← zpow_natCast, ← zpow_add₀ two_ne_zero, Int.toNat_of_nonneg (by omega), sub_add_cancel]
    refine ⟨m <<< (e - q).toNat, ⟨hn.le, ?_⟩, ?_, ?_⟩
    · rw [add_mul, hn]
      have : (0 : ℝ) < 2 ^ q := zpow_pos two_pos q
      linarith
    · simp [roundAt, hle, hn]
    · have hup : roundsUp mode neg ((m <<< (e - q).toNat) % 2 == 1) 0 0 false = false := by simp [roundsUp]
      simp [roundAt, hle, hn, hup]
  · push Not at hle
    obtain ⟨sh, hsh, rfl⟩ : ∃ sh : Nat, 0 < sh ∧ q = e + sh := ⟨(q - e).toNat, by omega, by omega⟩
    have hU : (0 : ℝ) < 2 ^ e := zpow_pos two_pos e
    have hP : 2 ^ sh = 2 * 2 ^ (sh - 1) := by rw [← Nat.pow_succ', Nat.succ_eq_add_one, Nat.sub_add_cancel hsh]
    have hq' : (2 : ℝ) ^ (e + sh) = 2 ^ sh * 2 ^ e := by rw [zpow_add₀ two_ne_zero, zpow_natCast, mul_comm]
    have hdiv := Nat.div_add_mod' m (2 ^ sh)
    have hlt := Nat.mod_lt m (Nat.two_pow_pos sh)
    have hr : roundAt mode neg m e (e + sh) sticky =
        (if roundsUp mode neg (m / 2 ^ sh % 2 == 1) (m % 2 ^ sh) (2 ^ (sh - 1)) sticky then m / 2 ^ sh + 1 else m / 2 ^ sh,
          m % 2 ^ sh != 0 || sticky) := by
      have hmod : m - m / 2 ^ sh * 2 ^ sh = m % 2 ^ sh := by omega
      rw [roundAt, if_neg (by omega), show (e + sh - e).toNat = sh by omega]
      simp only [Nat.shiftRight_eq_div_pow, Nat.shiftLeft_eq, Nat.one_mul, hmod]
    rw [hr, roundsUp_eq _ _ _ _ (Nat.two_pow_pos _).ne']
    generalize m / 2 ^ sh = n at hdiv ⊢
    generalize m % 2 ^ sh = rem at hdiv hlt ⊢
    generalize hhalf : 2 ^ (sh - 1) = half at hP ⊢
    have hhalf0 : 0 < half := by rw [← hhalf]; exact Nat.two_pow_pos _
    have hPR : (2 : ℝ) ^ sh = 2 * half := by exact_mod_cast hP
    rw [hP] at hdiv hlt
    have hm : (m : ℝ) = n * (2 * half) + rem := by rw [← hdiv]; push_cast; ring
    have hbase : (n : ℝ) * 2 ^ (e + sh) = (n * (2 * half)) * 2 ^ e := by rw [hq', hPR]; ring
    have hmid : ((n : ℝ) + 1 / 2) * 2 ^ (e + sh) = (n * (2 * half) + half) * 2 ^ e := by rw [hq', hPR]; ring
    have hlow : (n * (2 * half) + rem) * 2 ^ e ≤ X := by rw [← hm]; exact h.low
    have hhigh : X < (n * (2 * half) + rem + 1) * 2 ^ e := by rw [← hm]; exact h.high
    have hexact : sticky = false ↔ (n * (2 * half) + rem) * 2 ^ e = X := by rw [← hm]; exact h.exact
    have hless {a b : ℝ} (hab : a < b) : a * 2 ^ e < b * 2 ^ e := mul_lt_mul_of_pos_right hab hU
    have hstick (hs : sticky = true) : (n * (2 * half) + rem) * 2 ^ e < X :=
      lt_of_le_of_ne hlow fun c => by rw [hexact.2 c] at hs; cases hs
    -- how the midpoint stands to the number
    have hord : cmp (((n : ℝ) + 1 / 2) * 2 ^ (e + sh)) X = midOrder rem half sticky := by
      rw [hmid, midOrder]
      rcases Nat.lt_trichotomy half rem with hc | hc | hc
      · rw [if_pos hc, cmp_eq_lt_iff]
        exact (hless (by have : (half : ℝ) < rem := by exact_mod_cast hc
                         linarith)).trans_le hlow
      · rw [if_neg (by omega), if_pos hc, hc]
        cases hs : sticky
        · rw [if_neg (by decide), cmp_eq_eq_iff]
          exact_mod_cast hc ▸ hexact.1 hs
        · rw [if_pos rfl, cmp_eq_lt_iff]
          exact_mod_cast hc ▸ hstick hs
      · rw [if_neg (by omega), if_neg (by omega), cmp_eq_gt_iff]
        refine hhigh.trans_le (mul_le_mul_of_nonneg_right ?_ hU.le)
        have : (rem : ℝ) + 1 ≤ half := by exact_mod_cast hc
        linarith
    have hne : (n : ℝ) * 2 ^ (e + sh) ≠ X ↔ (rem != 0 || sticky) = true := by
      rw [hbase]
      by_cases hr0 : rem = 0
      · subst hr0
        rw [Nat.cast_zero, add_zero] at hexact
        rw [ne_eq, ← hexact]
        simp
      · have hpos : (0 : ℝ) < rem := by exact_mod_cast Nat.pos_of_ne_zero hr0
        have := (hless (by linarith : (n : ℝ) * (2 * half) < n * (2 * half) + rem)).trans_le hlow
        simp [hr0, this.ne]
    refine ⟨n, ⟨?_, ?_⟩, hne.symm, ?_⟩
    · rw [hbase]
      refine le_trans (mul_le_mul_of_nonneg_right ?_ hU.le) hlow
      have : (0 : ℝ) ≤ rem := Nat.cast_nonneg _
      linarith
    · refine hhigh.trans_le ?_
      rw [hq', hPR, ← mul_assoc ((n : ℝ) + 1)]
      refine mul_le_mul_of_nonneg_right ?_ hU.le
      have : (rem : ℝ) + 1 ≤ 2 * half := by exact_mod_cast hlt
      linarith
    · rw [hord]
      by_cases hx : (rem != 0 || sticky) = true
      · simp only [hx, hne.2 hx, Bool.true_and, ne_eq, not_false_eq_true, true_and]
      · rw [Bool.eq_false_iff.2 hx, Bool.false_and, if_neg Bool.false_ne_true, if_neg (fun c => hx (hne.1 c.1))]

/-! ### The codes of a format in the order of their magnitudes (R50) -/

/-- A binary format with an exponent and a fraction, whose fraction is no longer than that of binary32. -/
structure FFmt.Binary (f : FFmt) : Prop where
  eb : 2 ≤ f.eb
  mb : 1 ≤ f.mb
  short : f.mb ≤ 23

theorem f32_binary : f32.Binary := ⟨by decide, by decide, by decide⟩
theorem bf16_binary : bf16.Binary := ⟨by decide, by decide, by decide⟩

theorem fmtOf_binary (w : Nat) : (fmtOf w).Binary := by
  unfold fmtOf
  split
  · exact bf16_binary
  · exact f32_binary

/-- The exponent of the last place of the least numbers. -/
def FFmt.tiny (f : FFmt) : Int := f.emin - f.mb

/-- The code k steps of the exponent up whose significand, in units of its last place, is n. -/
theorem FFmt.magnitude_eq (f : FFmt) {k n : Nat} (hn : n ≤ 2 ^ (f.mb + 1)) (hk : k = 0 ∨ 2 ^ f.mb ≤ n) :
    f.magnitude (k * 2 ^ f.mb + n) = n * (2 : ℚ) ^ (f.tiny + k) := by
  have hpos := Nat.two_pow_pos f.mb
  have hpow : 2 ^ (f.mb + 1) = 2 * 2 ^ f.mb := Nat.pow_succ'
  have hfield (a r : Nat) (hr : r < 2 ^ f.mb) : (a * 2 ^ f.mb + r) / 2 ^ f.mb = a ∧ (a * 2 ^ f.mb + r) % 2 ^ f.mb = r := by
    constructor
    · rw [Nat.add_comm, Nat.add_mul_div_right _ _ hpos, Nat.div_eq_of_lt hr, Nat.zero_add]
    · rw [Nat.add_comm, Nat.add_mul_mod_self_right, Nat.mod_eq_of_lt hr]
  by_cases h1 : n < 2 ^ f.mb
  · obtain rfl : k = 0 := by omega
    obtain ⟨hd, hm⟩ := hfield 0 n h1
    rw [magnitude, hd, hm]
    simp [tiny]
  · by_cases h2 : n < 2 * 2 ^ f.mb
    · obtain ⟨hd, hm⟩ := hfield (k + 1) (n - 2 ^ f.mb) (by omega)
      have hc : k * 2 ^ f.mb + n = (k + 1) * 2 ^ f.mb + (n - 2 ^ f.mb) := by rw [Nat.add_mul]; omega
      rw [magnitude, hc, hd, hm, if_neg (Nat.succ_ne_zero k), show 2 ^ f.mb + (n - 2 ^ f.mb) = n by omega]
      simp [tiny]
    · obtain rfl : n = 2 * 2 ^ f.mb := by omega
      obtain ⟨hd, hm⟩ := hfield (k + 2) 0 hpos
      have hc : k * 2 ^ f.mb + 2 * 2 ^ f.mb = (k + 2) * 2 ^ f.mb + 0 := by ring
      rw [magnitude, hc, hd, hm, if_neg (by omega), show max (k + 2) 1 - 1 = k + 1 by omega, show ((k + 1 : Nat) : Int) = k + 1 from Nat.cast_succ k,
        ← add_assoc, ← tiny,
        zpow_add_one₀ two_ne_zero]
      push_cast
      ring

/-- Every code has that form. -/
theorem FFmt.code_form (f : FFmt) (c : Nat) : ∃ k n, c = k * 2 ^ f.mb + n ∧ n < 2 ^ (f.mb + 1) ∧ (k = 0 ∨ 2 ^ f.mb ≤ n) := by
  have hpow : 2 ^ (f.mb + 1) = 2 * 2 ^ f.mb := Nat.pow_succ'
  by_cases h : c < 2 ^ f.mb
  · exact ⟨0, c, by omega, by omega, .inl rfl⟩
  · have hd := Nat.div_add_mod' c (2 ^ f.mb)
    have hlt := Nat.mod_lt c (Nat.two_pow_pos f.mb)
    have h1 : 1 ≤ c / 2 ^ f.mb := (Nat.one_le_div_iff (Nat.two_pow_pos _)).2 (Nat.le_of_not_lt h)
    refine ⟨c / 2 ^ f.mb - 1, 2 ^ f.mb + c % 2 ^ f.mb, ?_, by omega, .inr (by omega)⟩
    rw [Nat.sub_mul]
    have := Nat.mul_le_mul_right (2 ^ f.mb) h1
    omega

theorem FFmt.magnitude_strictMono (f : FFmt) : StrictMono f.magnitude := by
  refine strictMono_nat_of_lt_succ fun c => ?_
  obtain ⟨k, n, rfl, hn, hk⟩ := f.code_form c
  rw [f.magnitude_eq hn.le hk, Nat.add_assoc, f.magnitude_eq hn (hk.imp id (fun h => h.trans (Nat.le_succ n)))]
  exact mul_lt_mul_of_pos_right (by exact_mod_cast Nat.lt_succ_self n) (zpow_pos two_pos _)

theorem FFmt.magnitude_nonneg (f : FFmt) (c : Nat) : 0 ≤ f.magnitude c := by
  unfold magnitude
  positivity

/-! ### Rounding to a format (R50, R98, R99) -/

/-- Of the codes lo and lo + 1 a number that is neither goes to the upper one. -/
def FFmt.Up (f : FFmt) (mode : BitVec 3) (neg : Bool) (lo : Nat) (X : ℝ) : Prop :=
  (f.magnitude lo : ℝ) ≠ X ∧ awayBy mode neg (cmp (((f.magnitude lo : ℝ) + f.magnitude (lo + 1)) / 2) X) (lo % 2 == 1) = true

/-- A number is below the least normal one, rounded with no bound on the exponent too (R99). -/
def FFmt.Tiny (f : FFmt) (mode : BitVec 3) (neg : Bool) (X : ℝ) : Prop :=
  X < 2 ^ f.emin ∧ ¬ ((2 : ℝ) ^ f.emin - 2 ^ (f.emin - 1 - f.mb) < X ∧
    awayBy mode neg (cmp (((2 : ℝ) ^ f.emin - 2 ^ (f.emin - 1 - f.mb) + 2 ^ f.emin) / 2) X) true = true)

section
variable {m : Nat} {e : Int} {sticky : Bool} {X : ℝ} (h : Stands m e sticky X) (hm : m ≠ 0)
include h hm

/-- The power of two below a number. -/
theorem Stands.top : (2 : ℝ) ^ (e + Nat.log2 m) ≤ X ∧ X < 2 ^ (e + Nat.log2 m + 1) := by
  have hU : (0 : ℝ) < 2 ^ e := zpow_pos two_pos e
  have hlow : (2 : ℝ) ^ Nat.log2 m ≤ m := by exact_mod_cast Nat.log2_self_le hm
  have hhigh : (m : ℝ) + 1 ≤ 2 ^ (Nat.log2 m + 1) := by exact_mod_cast (Nat.lt_log2_self : m < 2 ^ (Nat.log2 m + 1))
  constructor
  · rw [zpow_add₀ two_ne_zero, zpow_natCast, mul_comm]
    exact (mul_le_mul_of_nonneg_right hlow hU.le).trans h.low
  · rw [add_assoc, zpow_add₀ two_ne_zero, mul_comm, ← Nat.cast_succ, zpow_natCast]
    exact h.high.trans_le (mul_le_mul_of_nonneg_right hhigh hU.le)

/-- The bits of the multiple of 2^q below a number. -/
theorem Stands.bits {n p : Nat} {q : Int} (hb : Below n q X) :
    (q + p ≤ e + Nat.log2 m → 2 ^ p ≤ n) ∧ (e + Nat.log2 m + 1 ≤ q + p → n < 2 ^ p) := by
  obtain ⟨hlow, hhigh⟩ := h.top hm
  have hQ : (0 : ℝ) < 2 ^ q := zpow_pos two_pos q
  have hpow : (2 : ℝ) ^ (q + p) = 2 ^ p * 2 ^ q := by rw [zpow_add₀ two_ne_zero, zpow_natCast, mul_comm]
  constructor
  · intro hp
    have h1 : (2 : ℝ) ^ p * 2 ^ q < (n + 1) * 2 ^ q := by
      rw [← hpow]
      exact ((zpow_le_zpow_right₀ one_le_two hp).trans hlow).trans_lt hb.high
    have h2 : (2 : ℝ) ^ p < n + 1 := lt_of_mul_lt_mul_right h1 hQ.le
    have h3 : 2 ^ p < n + 1 := by exact_mod_cast h2
    omega
  · intro hp
    have h1 : (n : ℝ) * 2 ^ q < 2 ^ p * 2 ^ q := by
      rw [← hpow]
      exact hb.low.trans_lt (hhigh.trans_le (zpow_le_zpow_right₀ one_le_two hp))
    have h2 : (n : ℝ) < 2 ^ p := lt_of_mul_lt_mul_right h1 hQ.le
    exact_mod_cast h2

end

/-- The exponent of the last place of a number whose first place is `top`. -/
def FFmt.place (f : FFmt) (top : Int) : Int := max (top - f.mb) f.tiny

/-- The code below a number, from the multiple of its last place below it. -/
theorem FFmt.code_below {f : FFmt} {m n : Nat} {e : Int} {sticky : Bool} {X : ℝ} (h : Stands m e sticky X) (hm : m ≠ 0)
    (hb : Below n (f.place (e + Nat.log2 m)) X) :
    let c := (f.place (e + Nat.log2 m) - f.tiny).toNat * 2 ^ f.mb + n
    (f.magnitude c : ℝ) = n * 2 ^ f.place (e + Nat.log2 m) ∧ (f.magnitude (c + 1) : ℝ) = (n + 1) * 2 ^ f.place (e + Nat.log2 m) := by
  intro c
  have hle : f.tiny ≤ f.place (e + Nat.log2 m) := le_max_right _ _
  have hq : f.tiny + ((f.place (e + Nat.log2 m) - f.tiny).toNat : Int) = f.place (e + Nat.log2 m) := by omega
  have hn : n < 2 ^ (f.mb + 1) := (h.bits hm hb).2 (by
    have : e + Nat.log2 m - f.mb ≤ f.place (e + Nat.log2 m) := le_max_left _ _
    push_cast
    omega)
  have hk : (f.place (e + Nat.log2 m) - f.tiny).toNat = 0 ∨ 2 ^ f.mb ≤ n := by
    rcases max_choice (e + Nat.log2 m - f.mb) f.tiny with hc | hc
    · exact .inr ((h.bits hm hb).1 (by rw [place, hc]; omega))
    · left
      rw [place, hc]
      omega
  constructor
  · rw [f.magnitude_eq hn.le hk, hq]
    push_cast
    rfl
  · rw [Nat.add_assoc, f.magnitude_eq hn (hk.imp id (fun h => h.trans (Nat.le_succ n))), hq]
    push_cast
    rfl

/-- Whether a number is still below the least normal one when it is rounded with no bound on the exponent. -/
theorem FFmt.tiny_iff {f : FFmt} (mode : BitVec 3) (neg : Bool) {m : Nat} {e : Int} {sticky : Bool} {X : ℝ} (h : Stands m e sticky X)
    (hm : m ≠ 0) (hp : sticky = true → f.mb + 2 ≤ Nat.log2 m) :
    (decide (e + Nat.log2 m < f.emin) && !(e + Nat.log2 m == f.emin - 1 &&
        (roundAt mode neg m e (e + Nat.log2 m - f.mb) sticky).1 == 2 ^ (f.mb + 1))) = true ↔
      f.Tiny mode neg X := by
  obtain ⟨hlow, hhigh⟩ := h.top hm
  have hless : e + Nat.log2 m < f.emin ↔ X < 2 ^ f.emin := by
    constructor
    · intro hc
      exact hhigh.trans_le (zpow_le_zpow_right₀ one_le_two hc)
    · intro hc
      exact (zpow_lt_zpow_iff_right₀ one_lt_two).1 (hlow.trans_lt hc)
  rw [Bool.and_eq_true, decide_eq_true_eq, hless, Tiny]
  refine and_congr_right fun hX => ?_
  have htop := hless.2 hX
  rw [Bool.not_eq_true', Bool.eq_false_iff, not_iff_not, Bool.and_eq_true, beq_iff_eq, beq_iff_eq]
  have hQ : (0 : ℝ) < 2 ^ (f.emin - 1 - f.mb) := zpow_pos two_pos _
  have hleast : (2 : ℝ) ^ f.emin = 2 ^ (f.mb + 1) * 2 ^ (f.emin - 1 - f.mb) := by
    rw [← zpow_natCast, ← zpow_add₀ two_ne_zero]
    congr 1
    push_cast
    ring
  generalize hMn : 2 ^ (f.mb + 1) = M
  have hM : (2 : ℝ) ^ (f.mb + 1) = M := by rw [← hMn]; push_cast; rfl
  rw [hM] at hleast
  have hM1 : 1 ≤ M := by rw [← hMn]; exact Nat.one_le_two_pow
  have hMe : M % 2 = 0 := by rw [← hMn, Nat.pow_succ]; exact Nat.mul_mod_left _ _
  by_cases hedge : e + Nat.log2 m = f.emin - 1
  · -- the last place of a number next to the least normal one
    obtain ⟨n, hb, -, hr⟩ := roundAt_spec mode neg h (q := f.emin - 1 - f.mb) fun hs => by have := hp hs; omega
    have hn : n < M := by
      rw [← hMn]
      exact (h.bits hm hb).2 (by push_cast; omega)
    rw [hedge, hr, hleast]
    clear hr
    obtain ⟨hbl, hbh⟩ := hb
    generalize (2 : ℝ) ^ (f.emin - 1 - f.mb) = Q at hbl hbh hQ ⊢
    have hedgeOf (hnM : n + 1 = M) : (M : ℝ) * Q - Q = n * Q ∧ ((M : ℝ) * Q - Q + M * Q) / 2 = (n + 1 / 2) * Q ∧ (n % 2 == 1) = true := by
      have hc : (M : ℝ) = n + 1 := by exact_mod_cast hnM.symm
      refine ⟨by rw [hc]; ring, by rw [hc]; ring, ?_⟩
      rw [beq_iff_eq]
      omega
    constructor
    · rintro ⟨-, hup⟩
      have hcond : (n : ℝ) * Q ≠ X ∧ awayBy mode neg (cmp ((n + 1 / 2) * Q) X) (n % 2 == 1) = true := by
        by_contra hc
        rw [if_neg hc] at hup
        omega
      rw [if_pos hcond] at hup
      obtain ⟨h1, h2, h3⟩ := hedgeOf hup
      rw [h3] at hcond
      rw [h2, h1]
      exact ⟨lt_of_le_of_ne hbl hcond.1, hcond.2⟩
    · rintro ⟨hlt, haway⟩
      have hnM : n + 1 = M := by
        have h1 : ((M : ℝ) - 1) * Q < (n + 1) * Q := by
          rw [sub_mul, one_mul]
          exact hlt.trans hbh
        have h2 : (M : ℝ) - 1 < n + 1 := lt_of_mul_lt_mul_right h1 hQ.le
        have h3 : M < n + 2 := by
          have : (M : ℝ) < n + 2 := by linarith
          exact_mod_cast this
        omega
      obtain ⟨h1, h2, h3⟩ := hedgeOf hnM
      rw [h1] at hlt
      rw [h2] at haway
      exact ⟨rfl, by rw [if_pos ⟨hlt.ne, by rw [h3]; exact haway⟩, hnM]⟩
  · refine iff_of_false (fun c => hedge c.1) (fun c => ?_)
    have hX' : X < 2 ^ (f.emin - 1) := hhigh.trans_le (zpow_le_zpow_right₀ one_le_two (by omega))
    have hhalf : (2 : ℝ) ^ f.emin = 2 * 2 ^ (f.emin - 1) := by
      rw [← zpow_one_add₀ two_ne_zero]
      congr 1
      ring
    have hplace : (2 : ℝ) ^ (f.emin - 1 - f.mb) ≤ 2 ^ (f.emin - 1) := zpow_le_zpow_right₀ one_le_two (by omega)
    have := c.1
    linarith

/-- The rounding of a number that is not zero, by its last place. -/
theorem roundEx_eq {f : FFmt} (mode : BitVec 3) (neg : Bool) {m : Nat} (e : Int) (sticky : Bool) (hm : m ≠ 0) :
    roundEx f mode (.fin neg m e sticky) =
      let r := roundAt mode neg m e (f.place (e + Nat.log2 m)) sticky
      let mag := (f.place (e + Nat.log2 m) - f.tiny).toNat * 2 ^ f.mb + r.1
      if f.infCode ≤ mag then (signed f neg (if awayBy mode neg .lt true then f.infCode else f.infCode - 1), fOF ||| fNX)
      else (signed f neg mag, (if r.2 then fNX else 0) ||| (if r.2 && (decide (e + Nat.log2 m < f.emin) && !(e + Nat.log2 m == f.emin - 1 &&
        (roundAt mode neg m e (e + Nat.log2 m - f.mb) sticky).1 == 2 ^ (f.mb + 1))) then fUF else 0)) := by
  have hinf : (if mode == 1 then false else if mode == 2 then neg else if mode == 3 then !neg else true) = awayBy mode neg .lt true := by
    rcases mode_cases mode with rfl | rfl | rfl | rfl | rfl | rfl | rfl | rfl <;> rfl
  have hm0 : (m == 0) = false := by simpa using hm
  unfold roundEx
  simp only [hm0, hinf, Bool.false_eq_true, if_false]
  rfl

/-- A number stands where `against` says. -/
def Against (against : ℚ → Ordering) (X : ℝ) : Prop := ∀ q : ℚ, 0 ≤ q → against q = cmp (q : ℝ) X

open scoped Classical in
theorem FFmt.rounds_of {f : FFmt} {mode : BitVec 3} {neg : Bool} {against : ℚ → Ordering} {X : ℝ} (hag : Against against X) {lo : Nat}
    {r : Nat × Flags}
    (hlo : lo < f.infCode) (hlow : (f.magnitude lo : ℝ) ≤ X) (hhigh : lo + 1 = f.infCode ∨ X < f.magnitude (lo + 1))
    (hcode : r.1 = signed f neg (if f.Up mode neg lo X then lo + 1 else lo))
    (hflags : r.2 = (if (f.magnitude lo : ℝ) ≠ X then fNX else 0) |||
      (if (f.magnitude lo : ℝ) ≠ X ∧ (f.Up mode neg lo X ∧ lo + 1 = f.infCode ∨ (f.magnitude f.infCode : ℝ) ≤ X) then fOF else 0) |||
      (if (f.magnitude lo : ℝ) ≠ X ∧ f.Tiny mode neg X then fUF else 0)) :
    f.Rounds mode neg against r := by
  have hmag (c : Nat) : against (f.magnitude c) = cmp (f.magnitude c : ℝ) X := hag _ (f.magnitude_nonneg c)
  have hle (c : Nat) : against (f.magnitude c) ≠ .gt ↔ (f.magnitude c : ℝ) ≤ X := by
    rw [hmag, ne_eq, cmp_eq_gt_iff, not_lt]
  have heq : against (f.magnitude lo) ≠ .eq ↔ (f.magnitude lo : ℝ) ≠ X := by rw [hmag, ne_eq, cmp_eq_eq_iff]
  have hmid : against ((f.magnitude lo + f.magnitude (lo + 1)) / 2) = cmp (((f.magnitude lo : ℝ) + f.magnitude (lo + 1)) / 2) X := by
    rw [hag _ (div_nonneg (add_nonneg (f.magnitude_nonneg _) (f.magnitude_nonneg _)) zero_le_two)]
    push_cast
    rfl
  have hP : (0 : ℚ) < 2 ^ (f.emin - 1 - f.mb) := zpow_pos two_pos _
  have hplace : (2 : ℚ) ^ (f.emin - 1 - f.mb) ≤ 2 ^ f.emin := zpow_le_zpow_right₀ one_le_two (by omega)
  have hleast : against (2 ^ f.emin) = cmp ((2 : ℝ) ^ f.emin) X := by
    rw [hag _ (zpow_pos two_pos _).le]
    push_cast
    rfl
  have hbelow : against (2 ^ f.emin - 2 ^ (f.emin - 1 - f.mb)) = cmp ((2 : ℝ) ^ f.emin - 2 ^ (f.emin - 1 - f.mb)) X := by
    rw [hag _ (sub_nonneg.2 hplace)]
    push_cast
    rfl
  have hedge : against ((2 ^ f.emin - 2 ^ (f.emin - 1 - f.mb) + 2 ^ f.emin) / 2) =
      cmp (((2 : ℝ) ^ f.emin - 2 ^ (f.emin - 1 - f.mb) + 2 ^ f.emin) / 2) X := by
    rw [hag _ (div_nonneg (add_nonneg (sub_nonneg.2 hplace) (zpow_pos two_pos _).le) zero_le_two)]
    push_cast
    rfl
  have hup : (against (f.magnitude lo) ≠ .eq ∧ awayBy mode neg (against ((f.magnitude lo + f.magnitude (lo + 1)) / 2)) (lo % 2 == 1) = true) ↔
      f.Up mode neg lo X := by
    rw [heq, hmid, Up]
  refine ⟨lo, hlo, (hle lo).2 hlow, fun c hc hcx => ?_, hcode.trans (congrArg _ (if_congr hup.symm rfl rfl)), hflags.trans ?_⟩
  · rcases hhigh with hi | hi
    · omega
    · have h1 : (f.magnitude c : ℝ) < f.magnitude (lo + 1) := ((hle c).1 hcx).trans_lt hi
      exact Nat.lt_succ_iff.1 (f.magnitude_strictMono.lt_iff_lt.1 (by exact_mod_cast h1))
  · refine congrArg₂ _ (congrArg₂ _ (if_congr heq.symm rfl rfl) (if_congr ?_ rfl rfl)) (if_congr ?_ rfl rfl)
    · exact and_congr heq.symm (or_congr (and_congr hup.symm Iff.rfl) (hle _).symm)
    · refine and_congr heq.symm (and_congr ?_ (not_congr (and_congr ?_ ?_)))
      · rw [hleast, cmp_eq_gt_iff]
      · rw [hbelow, cmp_eq_lt_iff]
      · rw [← hedge]
        exact Iff.rfl

theorem awayBy_lt {mode : BitVec 3} {neg odd : Bool} {o : Ordering} (h : awayBy mode neg o odd = true) : awayBy mode neg .lt true = true := by
  rcases mode_cases mode with rfl | rfl | rfl | rfl | rfl | rfl | rfl | rfl <;> simp_all [awayBy]

theorem awayBy_lt_odd (mode : BitVec 3) (neg odd : Bool) : awayBy mode neg .lt odd = awayBy mode neg .lt true := by
  rcases mode_cases mode with rfl | rfl | rfl | rfl | rfl | rfl | rfl | rfl <;> simp [awayBy]

/-- The least normal number. -/
theorem FFmt.magnitude_least (f : FFmt) : f.magnitude (2 ^ f.mb) = 2 ^ f.emin := by
  have h := f.magnitude_eq (k := 0) (n := 2 ^ f.mb) (Nat.pow_le_pow_right two_pos (Nat.le_succ _)) (.inl rfl)
  rw [Nat.zero_mul, Nat.zero_add, Nat.cast_zero, add_zero, Nat.cast_pow, Nat.cast_ofNat, ← zpow_natCast, ← zpow_add₀ two_ne_zero] at h
  rw [h, tiny]
  congr 1
  ring

theorem FFmt.Binary.least_lt {f : FFmt} (hf : f.Binary) : 2 ^ f.mb < f.infCode := by
  have h4 : 2 ^ 2 ≤ 2 ^ f.eb := Nat.pow_le_pow_right two_pos hf.eb
  have h1 : 2 * 2 ^ f.mb ≤ (2 ^ f.eb - 1) * 2 ^ f.mb := Nat.mul_le_mul_right _ (by omega)
  have := Nat.two_pow_pos f.mb
  unfold infCode
  omega

open scoped Classical in
/-- The rounding of the model gives the code and the flags of IEEE 754. -/
theorem roundEx_rounds {f : FFmt} (hf : f.Binary) (mode : BitVec 3) (neg : Bool) {against : ℚ → Ordering} {m : Nat} {e : Int} {sticky : Bool} {X : ℝ}
    (h : Stands m e sticky X) (hm : m ≠ 0) (hp : sticky = true → f.mb + 2 ≤ Nat.log2 m) (hag : Against against X) :
    f.Rounds mode neg against (roundEx f mode (.fin neg m e sticky)) := by
  obtain ⟨n, hb, hr2, hr1⟩ := roundAt_spec mode neg h (q := f.place (e + Nat.log2 m)) fun hs => by
    have := hp hs
    have : e + Nat.log2 m - f.mb ≤ f.place (e + Nat.log2 m) := le_max_left _ _
    omega
  obtain ⟨hc, hc1⟩ := FFmt.code_below (f := f) h hm hb
  have htiny := FFmt.tiny_iff (f := f) mode neg h hm hp
  rw [roundEx_eq mode neg e sticky hm]
  simp only []
  generalize (decide (e + ↑m.log2 < f.emin) && !(e + ↑m.log2 == f.emin - 1 &&
    (roundAt mode neg m e (e + ↑m.log2 - f.mb) sticky).1 == 2 ^ (f.mb + 1))) = isTiny at htiny ⊢
  generalize hcd : (f.place (e + Nat.log2 m) - f.tiny).toNat * 2 ^ f.mb + n = c at hc hc1
  have hpar : c % 2 = n % 2 := by
    obtain ⟨j, hj⟩ : 2 ∣ 2 ^ f.mb := dvd_pow_self 2 (by have := hf.mb; omega)
    rw [← hcd, hj, Nat.mul_left_comm]
    omega
  have hmid : ((n : ℝ) + 1 / 2) * 2 ^ f.place (e + Nat.log2 m) = ((f.magnitude c : ℝ) + f.magnitude (c + 1)) / 2 := by
    rw [hc, hc1]
    ring
  rw [← hc, hmid, ← hpar] at hr1
  rw [← hc] at hr2
  have hmag : (f.place (e + Nat.log2 m) - f.tiny).toNat * 2 ^ f.mb + (roundAt mode neg m e (f.place (e + Nat.log2 m)) sticky).1 =
      if f.Up mode neg c X then c + 1 else c := by
    rw [hr1.trans (if_congr (Iff.rfl : _ ↔ f.Up mode neg c X) rfl rfl)]
    split <;> omega
  have hlow : (f.magnitude c : ℝ) ≤ X := hc ▸ hb.low
  have hhigh : X < f.magnitude (c + 1) := hc1 ▸ hb.high
  rw [hmag]
  have hmono {a b : Nat} (hab : a ≤ b) : (f.magnitude a : ℝ) ≤ f.magnitude b := by exact_mod_cast f.magnitude_strictMono.monotone hab
  have hleast : (f.magnitude (2 ^ f.mb) : ℝ) = 2 ^ f.emin := by
    rw [f.magnitude_least]
    push_cast
    rfl
  have hbig {a : Nat} (ha : f.infCode ≤ a + 1) (hX : (f.magnitude a : ℝ) ≤ X) : ¬ ((f.magnitude a : ℝ) ≠ X ∧ f.Tiny mode neg X) := by
    rintro ⟨-, ht, -⟩
    have := hf.least_lt
    rw [← hleast] at ht
    exact absurd ((hmono (by omega)).trans hX) (not_le.2 ht)
  rcases Nat.lt_or_ge c f.infCode with hci | hci
  · by_cases hover : f.Up mode neg c X ∧ c + 1 = f.infCode
    · obtain ⟨hup, hc1⟩ := hover
      refine FFmt.rounds_of hag hci hlow (.inr hhigh) ?_ ?_
      · rw [if_pos hup, if_pos hc1.ge, awayBy_lt hup.2, if_pos rfl, hc1]
      · have hof : (f.magnitude c : ℝ) ≠ X ∧ (f.Up mode neg c X ∧ c + 1 = f.infCode ∨ (f.magnitude f.infCode : ℝ) ≤ X) :=
          ⟨hup.1, .inl ⟨hup, hc1⟩⟩
        rw [if_pos hup, if_pos hc1.ge, if_pos hup.1, if_pos hof, if_neg (hbig hc1.ge hlow)]
        rfl
    · have hfit : ¬ f.infCode ≤ if f.Up mode neg c X then c + 1 else c := by
        split
        · rename_i hup
          have : c + 1 ≠ f.infCode := fun x => hover ⟨hup, x⟩
          omega
        · omega
      have hnof : ¬ ((f.magnitude c : ℝ) ≠ X ∧ (f.Up mode neg c X ∧ c + 1 = f.infCode ∨ (f.magnitude f.infCode : ℝ) ≤ X)) := by
        rintro ⟨-, x | x⟩
        · exact hover x
        · exact absurd x (not_le.2 (hhigh.trans_le (hmono hci)))
      refine FFmt.rounds_of hag hci hlow (.inr hhigh) ?_ ?_
      · rw [if_neg hfit]
      · rw [if_neg hfit, if_neg hnof]
        refine congrArg₂ (· ||| ·) ((if_congr hr2 rfl rfl).trans BitVec.or_zero.symm) (if_congr ?_ rfl rfl)
        rw [Bool.and_eq_true, hr2, htiny]
  · have hlt : f.infCode - 1 < f.infCode := Nat.sub_lt (Nat.zero_lt_of_lt hf.least_lt) one_pos
    have hsucc : f.infCode - 1 + 1 = f.infCode := by omega
    have hX : (f.magnitude f.infCode : ℝ) ≤ X := (hmono hci).trans hlow
    have hless : (f.magnitude (f.infCode - 1) : ℝ) < f.magnitude f.infCode := by exact_mod_cast f.magnitude_strictMono hlt
    have hover : f.infCode ≤ if f.Up mode neg c X then c + 1 else c := by split <;> omega
    have hord : cmp (((f.magnitude (f.infCode - 1) : ℝ) + f.magnitude f.infCode) / 2) X = .lt := by
      rw [cmp_eq_lt_iff]
      linarith
    have hne : (f.magnitude (f.infCode - 1) : ℝ) ≠ X := (hless.trans_le hX).ne
    have hup : f.Up mode neg (f.infCode - 1) X ↔ awayBy mode neg .lt true = true := by
      rw [FFmt.Up, hsucc, hord, awayBy_lt_odd mode neg, and_iff_right hne]
    rw [if_pos hover]
    refine FFmt.rounds_of hag hlt (hless.le.trans hX) (.inl hsucc) ?_ ?_
    · rw [hsucc]
      exact congrArg (signed f neg) (if_congr hup.symm rfl rfl)
    · have hof : (f.magnitude (f.infCode - 1) : ℝ) ≠ X ∧
          (f.Up mode neg (f.infCode - 1) X ∧ f.infCode - 1 + 1 = f.infCode ∨ (f.magnitude f.infCode : ℝ) ≤ X) := ⟨hne, .inr hX⟩
      rw [if_pos hne, if_pos hof, if_neg (hbig hsucc.ge (hless.le.trans hX))]
      rfl

end Sys2Proof.Machine
end

section
/-!
SUPPORT. The float functions on numbers (R50, R105, R107): the number of a code, the exact results and their rounding.
-/
namespace Sys2Proof.Machine

/-! ### Numbers and codes (R50) -/

/-- The sign of a number. -/
def sgn (neg : Bool) : ℚ := if neg then -1 else 1

theorem sgn_xor (a b : Bool) : sgn (a != b) = sgn a * sgn b := by
  cases a <;> cases b <;> norm_num [sgn]

theorem sgn_not (a : Bool) : sgn (!a) = -sgn a := by
  cases a <;> norm_num [sgn]

theorem abs_sgn (a : Bool) : |sgn a| = 1 := by
  cases a <;> norm_num [sgn]

/-- The number of a decoded code that is finite. -/
def Num.val : Num → ℚ
  | .fin n m e => sgn n * (m * 2 ^ e)
  | _ => 0

theorem Num.neg_val (x : Num) : x.neg.val = -x.val := by
  cases x with
  | fin n m e => simp [neg, val, sgn_not]
  | _ => simp [neg, val]

/-- The significand and the exponent of a magnitude's code. -/
def FFmt.significand (f : FFmt) (c : Nat) : Nat := (if c / 2 ^ f.mb = 0 then 0 else 2 ^ f.mb) + c % 2 ^ f.mb
def FFmt.exponent (f : FFmt) (c : Nat) : Int := f.emin - f.mb + (max (c / 2 ^ f.mb) 1 - 1 : Nat)

/-- The sign of a code. -/
def FFmt.minus (f : FFmt) (c : Nat) : Bool := c / f.signBit % 2 == 1

theorem FFmt.signBit_eq (f : FFmt) : f.signBit = 2 ^ f.eb * 2 ^ f.mb := Nat.pow_add ..

theorem FFmt.infCode_lt (f : FFmt) : f.infCode < f.signBit := by
  rw [signBit_eq, infCode]
  exact Nat.mul_lt_mul_of_pos_right (Nat.sub_lt (Nat.two_pow_pos _) one_pos) (Nat.two_pow_pos _)

theorem FFmt.minus_eq {f : FFmt} {c : Nat} (h : c < 2 * f.signBit) : f.minus c = decide (f.signBit ≤ c) := by
  have hpos : 0 < f.signBit := Nat.two_pow_pos _
  rw [minus]
  by_cases hc : f.signBit ≤ c
  · have : c / f.signBit = 1 := Nat.div_eq_of_lt_le (by omega) (by omega)
    simp [this, hc]
  · rw [Nat.div_eq_of_lt (by omega)]
    simp [hc]

section
variable {f : FFmt} {c : Nat}

theorem decodeF_fin (h : c % f.signBit < f.infCode) :
    decodeF f c = .fin (f.minus c) (f.significand (c % f.signBit)) (f.exponent (c % f.signBit)) := by
  have hlt : c % f.signBit / 2 ^ f.mb < 2 ^ f.eb - 1 := (Nat.div_lt_iff_lt_mul (Nat.two_pow_pos _)).2 h
  unfold decodeF FFmt.minus FFmt.significand FFmt.exponent
  simp only [beq_iff_eq, hlt.ne, if_false]
  generalize c % f.signBit / 2 ^ f.mb = k
  rcases Nat.eq_zero_or_pos k with rfl | hk
  · simp
  · simp [hk.ne', Nat.max_eq_left hk]

theorem ef_of_infCode_le (h : f.infCode ≤ c % f.signBit) : c % f.signBit / 2 ^ f.mb = 2 ^ f.eb - 1 := by
  have hlt := Nat.mod_lt c (Nat.two_pow_pos _ : 0 < f.signBit)
  have hpos := Nat.two_pow_pos f.eb
  have h1 : 2 ^ f.eb - 1 ≤ c % f.signBit / 2 ^ f.mb := (Nat.le_div_iff_mul_le (Nat.two_pow_pos _)).2 h
  have h2 : c % f.signBit / 2 ^ f.mb < 2 ^ f.eb := (Nat.div_lt_iff_lt_mul (Nat.two_pow_pos _)).2 (f.signBit_eq ▸ hlt)
  omega

theorem decodeF_inf (h : c % f.signBit = f.infCode) : decodeF f c = .inf (f.minus c) := by
  have hz : c % f.signBit % 2 ^ f.mb = 0 := by
    rw [h]
    exact Nat.mul_mod_left _ _
  unfold decodeF
  simp [ef_of_infCode_le h.ge, hz, FFmt.minus]

theorem decodeF_nan (h : f.infCode < c % f.signBit) : decodeF f c = .nan (decide (c % 2 ^ f.mb < 2 ^ (f.mb - 1))) := by
  have hmod : c % f.signBit % 2 ^ f.mb = c % 2 ^ f.mb := Nat.mod_mod_of_dvd _ (f.signBit_eq ▸ Nat.dvd_mul_left _ _)
  have hz : c % 2 ^ f.mb ≠ 0 := by
    have hd := Nat.div_add_mod' (c % f.signBit) (2 ^ f.mb)
    rw [ef_of_infCode_le h.le, hmod] at hd
    change f.infCode + _ = _ at hd
    omega
  unfold decodeF
  simp [ef_of_infCode_le h.le, hmod, hz]

theorem decodeF_val (h : c % f.signBit < f.infCode) : (decodeF f c).val = f.value c := by
  rw [decodeF_fin h, Num.val, FFmt.value, FFmt.magnitude, sgn, FFmt.minus]
  simp only [beq_iff_eq]
  rfl

end

/-- A code of magnitude zero. -/
theorem FFmt.significand_eq_zero {f : FFmt} {c : Nat} : f.significand c = 0 ↔ c = 0 := by
  have hd := Nat.div_add_mod' c (2 ^ f.mb)
  have hpos := Nat.two_pow_pos f.mb
  unfold significand
  constructor
  · intro h
    split at h
    · rename_i hz
      rw [hz] at hd
      omega
    · omega
  · rintro rfl
    simp

/-! ### Exact results (R50) -/

/-- The exact result stands for the number x. -/
def Ex.Exact : Ex → ℚ → Prop
  | .fin n m e sticky, x => Stands m e sticky ((|x| : ℚ) : ℝ) ∧ (x ≠ 0 → n = decide (x < 0)) ∧ (sticky = true → 25 ≤ Nat.log2 m)
  | _, _ => False

theorem stands_exact (m : Nat) (e : Int) : Stands m e false ((m : ℝ) * 2 ^ e) := by
  refine ⟨le_rfl, ?_, iff_of_true rfl rfl⟩
  exact mul_lt_mul_of_pos_right (lt_add_one _) (zpow_pos two_pos e)

/-- An exact result from its sign and its magnitude. -/
theorem exact_of_sgn (n : Bool) {m : Nat} {e : Int} {sticky : Bool} {X : ℚ} (hX : 0 ≤ X) (hst : Stands m e sticky (X : ℝ))
    (hlong : sticky = true → 25 ≤ Nat.log2 m) : (Ex.fin n m e sticky).Exact (sgn n * X) := by
  refine ⟨?_, ?_, hlong⟩
  · rwa [abs_mul, abs_sgn, one_mul, abs_of_nonneg hX]
  · intro h
    have hpos : 0 < X := lt_of_le_of_ne hX fun c => h (by rw [← c, mul_zero])
    cases n
    · simp [sgn, hX]
    · simp [sgn, hpos]

theorem Num.toEx_exact (n : Bool) (m : Nat) (e : Int) : (Ex.fin n m e false).Exact (Num.fin n m e).val := by
  refine exact_of_sgn n (by positivity) ?_ (by simp)
  push_cast
  exact stands_exact m e

theorem signed_zero_mod (f : FFmt) (neg : Bool) : signed f neg 0 % f.signBit = 0 := by
  cases neg <;> simp [signed]

theorem against_abs (x : ℚ) : Against (fun q => cmp q |x|) ((|x| : ℚ) : ℝ) := fun _ _ =>
  (Rat.cast_strictMono.cmp_map_eq _ _).symm

/-- An exact result rounds as the number does. -/
theorem Ex.Exact.roundsQ {f : FFmt} (hf : f.Binary) (mode : BitVec 3) {r : Ex} {x : ℚ} (h : r.Exact x) : f.RoundsQ mode x (roundEx f mode r) := by
  cases r with
  | nan => exact h.elim
  | inf => exact h.elim
  | fin n m e sticky =>
    obtain ⟨hst, hneg, hlong⟩ := h
    by_cases hx : x = 0
    · rw [FFmt.RoundsQ, if_pos hx]
      obtain rfl : m = 0 := by
        by_contra hm
        have h1 := hst.low
        have h2 : (0 : ℝ) < m * 2 ^ e := mul_pos (by exact_mod_cast Nat.pos_of_ne_zero hm) (zpow_pos two_pos e)
        rw [hx, abs_zero, Rat.cast_zero] at h1
        exact absurd h1 (not_le.2 h2)
      exact ⟨signed_zero_mod f n, rfl⟩
    · have hm : m ≠ 0 := by
        rintro rfl
        cases hs : sticky
        · have h1 := hst.exact.1 hs
          rw [Nat.cast_zero, zero_mul, eq_comm, Rat.cast_eq_zero, abs_eq_zero] at h1
          exact hx h1
        · exact absurd (hlong hs) (by simp)
      rw [FFmt.RoundsQ, if_neg hx, hneg hx]
      exact roundEx_rounds hf mode _ hst hm (fun hs => le_trans (Nat.add_le_add_right hf.short 2) (hlong hs)) (against_abs x)

/-- A multiple of a power of two, in units of a lower one. -/
theorem scaled_val (n : Bool) (m : Nat) {e q : Int} (h : q ≤ e) : (scaled n m e q : ℚ) * 2 ^ q = sgn n * (m * 2 ^ e) := by
  have hm : ((m <<< (e - q).toNat : Nat) : ℚ) * 2 ^ q = m * 2 ^ e := by
    rw [Nat.shiftLeft_eq]
    push_cast
    rw [mul_assoc, ← zpow_natCast, ← zpow_add₀ two_ne_zero, Int.toNat_of_nonneg (by omega), sub_add_cancel]
  cases n
  · rw [scaled, if_neg Bool.false_ne_true, Int.cast_natCast, hm, sgn, if_neg Bool.false_ne_true, one_mul]
  · rw [scaled, if_pos rfl, Int.cast_neg, Int.cast_natCast, neg_mul, hm, sgn, if_pos rfl, neg_one_mul]

section
variable (mode : BitVec 3) (n1 : Bool) (m1 : Nat) (e1 : Int) (n2 : Bool) (m2 : Nat) (e2 : Int)

theorem addFin_sum : ((scaled n1 m1 e1 (min e1 e2) + scaled n2 m2 e2 (min e1 e2) : Int) : ℚ) * 2 ^ min e1 e2 =
    (Num.fin n1 m1 e1).val + (Num.fin n2 m2 e2).val := by
  rw [Int.cast_add, add_mul, scaled_val n1 m1 (min_le_left _ _), scaled_val n2 m2 (min_le_right _ _)]
  rfl

theorem addFin_zero (h : (Num.fin n1 m1 e1).val + (Num.fin n2 m2 e2).val = 0) :
    addFin mode n1 m1 e1 n2 m2 e2 = .fin (if n1 == n2 then n1 else mode == 2) 0 0 false := by
  rw [← addFin_sum, mul_eq_zero, or_iff_left (zpow_pos two_pos _).ne', Int.cast_eq_zero] at h
  rw [addFin]
  simp only [h, beq_self_eq_true, if_true]

theorem addFin_exact : (addFin mode n1 m1 e1 n2 m2 e2).Exact ((Num.fin n1 m1 e1).val + (Num.fin n2 m2 e2).val) := by
  by_cases h : (Num.fin n1 m1 e1).val + (Num.fin n2 m2 e2).val = 0
  · rw [addFin_zero mode n1 m1 e1 n2 m2 e2 h, h]
    have := Num.toEx_exact (if n1 == n2 then n1 else mode == 2) 0 0
    rwa [Num.val, Nat.cast_zero, zero_mul, mul_zero] at this
  · rw [← addFin_sum] at h ⊢
    generalize hq : min e1 e2 = q at h ⊢
    rw [addFin, hq]
    generalize scaled n1 m1 e1 q + scaled n2 m2 e2 q = t at h ⊢
    have ht : t ≠ 0 := fun c => h (by rw [c]; simp)
    have hval : (t : ℚ) * 2 ^ q = sgn (decide (t < 0)) * (t.natAbs * 2 ^ q) := by
      rw [← mul_assoc]
      congr 1
      rw [Nat.cast_natAbs]
      rcases lt_or_gt_of_ne ht with hn | hp
      · rw [abs_of_neg hn]
        simp [hn, sgn]
      · rw [abs_of_pos hp]
        simp [hp.le, sgn]
    rw [if_neg (by simpa using ht), hval]
    exact Num.toEx_exact _ _ _

end

end Sys2Proof.Machine
end

section
/-!
SUPPORT. The float functions on numbers (R105, R107): each is the exact result, rounded once.
-/
namespace Sys2Proof.Machine

/-- The code of a finite number, decoded. -/
theorem decodeF_finite {f : FFmt} {c : Nat} (h : c % f.signBit < f.infCode) :
    ∃ m e, decodeF f c = .fin (f.minus c) m e ∧ (Num.fin (f.minus c) m e).val = f.value c ∧ (m = 0 ↔ f.value c = 0) := by
  refine ⟨_, _, decodeF_fin h, decodeF_fin h ▸ decodeF_val h, ?_⟩
  rw [← decodeF_val h, decodeF_fin h, Num.val, mul_eq_zero, mul_eq_zero, or_iff_right (abs_ne_zero.1 (by rw [abs_sgn]; exact one_ne_zero)),
    or_iff_left (zpow_pos two_pos _).ne', Nat.cast_eq_zero]

theorem roundWith_quiet (w : Nat) (mode : BitVec 3) (r : Ex) : roundWith w mode (r, 0) = roundEx (fmtOf w) mode r := by
  rw [roundWith]
  exact Prod.ext rfl BitVec.or_zero

theorem roundWith_nan (w : Nat) (mode : BitVec 3) (fl : Flags) : roundWith w mode (.nan, fl) = ((fmtOf w).canonNaN, fl) := by
  rw [roundWith]
  exact Prod.ext rfl BitVec.zero_or

theorem roundWith_inf (w : Nat) (mode : BitVec 3) (neg : Bool) (fl : Flags) :
    roundWith w mode (.inf neg, fl) = (signed (fmtOf w) neg (fmtOf w).infCode, fl) := by
  rw [roundWith]
  exact Prod.ext rfl BitVec.zero_or

theorem roundWith_zero (w : Nat) (mode : BitVec 3) (neg : Bool) (e : Int) (sticky : Bool) (fl : Flags) :
    roundWith w mode (.fin neg 0 e sticky, fl) = (signed (fmtOf w) neg 0, fl) := by
  rw [roundWith]
  exact Prod.ext rfl BitVec.zero_or

theorem Ex.Exact.roundWith {r : Ex} {x : ℚ} (h : r.Exact x) (w : Nat) (mode : BitVec 3) : (fmtOf w).RoundsQ mode x (roundWith w mode (r, 0)) := by
  rw [roundWith_quiet]
  exact h.roundsQ (fmtOf_binary w) mode

/-! ### Quotients -/

/-- A quotient cut to its whole part, times a power of two. -/
theorem stands_div (n : Nat) {d : Nat} (hd : d ≠ 0) (e : Int) : Stands (n / d) e (n % d != 0) ((n : ℝ) / d * 2 ^ e) := by
  have hU : (0 : ℝ) < 2 ^ e := zpow_pos two_pos e
  have hdR : (0 : ℝ) < d := by exact_mod_cast Nat.pos_of_ne_zero hd
  have hdm : (n : ℝ) = (n / d : Nat) * d + (n % d : Nat) := by exact_mod_cast (Nat.div_add_mod' n d).symm
  have hmod : ((n % d : Nat) : ℝ) < d := by exact_mod_cast Nat.mod_lt n (Nat.pos_of_ne_zero hd)
  refine ⟨?_, ?_, ?_⟩
  · refine mul_le_mul_of_nonneg_right ((le_div_iff₀ hdR).2 ?_) hU.le
    rw [hdm]
    exact le_add_of_nonneg_right (Nat.cast_nonneg _)
  · refine mul_lt_mul_of_pos_right ((div_lt_iff₀ hdR).2 ?_) hU
    rw [add_mul, one_mul, hdm]
    exact add_lt_add_right hmod _
  · rw [mul_left_inj' hU.ne', eq_div_iff hdR.ne', hdm]
    simp

theorem exDiv_exact (n1 : Bool) (m1 : Nat) (e1 : Int) (n2 : Bool) {m2 : Nat} (e2 : Int) (hm : m2 ≠ 0) :
    ∃ r, exDiv (.fin n1 m1 e1) (.fin n2 m2 e2) = (r, 0) ∧ r.Exact ((Num.fin n1 m1 e1).val / (Num.fin n2 m2 e2).val) := by
  refine ⟨_, if_neg (by simpa using hm), ?_⟩
  generalize hk : 64 + Nat.log2 m2 = k
  have hm2 : (m2 : ℚ) ≠ 0 := Nat.cast_ne_zero.2 hm
  have hval : (Num.fin n1 m1 e1).val / (Num.fin n2 m2 e2).val = sgn (n1 != n2) * (((m1 <<< k : Nat) : ℚ) / m2 * 2 ^ (e1 - e2 - k)) := by
    have hs : sgn n1 / sgn n2 = sgn n1 * sgn n2 := by cases n1 <;> cases n2 <;> norm_num [sgn]
    rw [Num.val, Num.val, sgn_xor, mul_div_mul_comm, hs, Nat.shiftLeft_eq, zpow_sub₀ two_ne_zero, zpow_sub₀ two_ne_zero]
    push_cast
    rw [zpow_natCast]
    field_simp
  rw [hval]
  refine exact_of_sgn _ (by positivity) ?_ fun hs => ?_
  · push_cast
    exact stands_div _ hm _
  · have hn : m1 ≠ 0 := by
      rintro rfl
      simp at hs
    have h25 : 2 ^ 25 ≤ m1 <<< k / m2 := by
      rw [Nat.le_div_iff_mul_le (Nat.pos_of_ne_zero hm), Nat.shiftLeft_eq]
      calc 2 ^ 25 * m2 ≤ 2 ^ 25 * 2 ^ (Nat.log2 m2 + 1) := Nat.mul_le_mul_left _ Nat.lt_log2_self.le
        _ = 2 ^ (25 + (Nat.log2 m2 + 1)) := (Nat.pow_add ..).symm
        _ ≤ 2 ^ k := Nat.pow_le_pow_right two_pos (by omega)
        _ ≤ m1 * 2 ^ k := Nat.le_mul_of_pos_left _ (Nat.pos_of_ne_zero hn)
    exact (Nat.le_log2 (Nat.ne_of_gt (lt_of_lt_of_le (by norm_num) h25))).2 h25

/-! ### Roots -/

/-- The whole part of a root. -/
theorem isqrt_spec (n : Nat) : ∀ i r, r * r ≤ n → n < (r + 2 ^ i) * (r + 2 ^ i) →
    isqrt n i r * isqrt n i r ≤ n ∧ n < (isqrt n i r + 1) * (isqrt n i r + 1)
  | 0, _, h1, h2 => ⟨h1, h2⟩
  | i + 1, r, h1, h2 => by
    rw [isqrt]
    split
    · rename_i h
      refine isqrt_spec n i _ h ?_
      rwa [Nat.add_assoc, ← Nat.two_mul, ← Nat.pow_succ']
    · rename_i h
      exact isqrt_spec n i r h1 (Nat.lt_of_not_le h)

theorem stands_sqrt {n r : Nat} (h1 : r * r ≤ n) (h2 : n < (r + 1) * (r + 1)) (e : Int) :
    Stands r e (r * r != n) (√(n : ℝ) * 2 ^ e) := by
  have hU : (0 : ℝ) < 2 ^ e := zpow_pos two_pos e
  have h1R : (r : ℝ) * r ≤ n := by exact_mod_cast h1
  have h2R : (n : ℝ) < (r + 1) * (r + 1) := by exact_mod_cast h2
  refine ⟨mul_le_mul_of_nonneg_right (Real.le_sqrt_of_sq_le (by rwa [sq])) hU.le, ?_, ?_⟩
  · refine mul_lt_mul_of_pos_right ((Real.sqrt_lt' (by positivity)).2 ?_) hU
    rwa [sq]
  · rw [mul_left_inj' hU.ne', eq_comm (a := (r : ℝ)), Real.sqrt_eq_iff_mul_self_eq (Nat.cast_nonneg _) (Nat.cast_nonneg _)]
    norm_cast
    rw [bne_eq_false_iff_eq]
    exact eq_comm

theorem FFmt.Binary.significand_lt {f : FFmt} (hf : f.Binary) (c : Nat) : f.significand c < 2 ^ 24 := by
  have h1 : 2 ^ f.mb ≤ 2 ^ 23 := Nat.pow_le_pow_right two_pos hf.short
  have h2 := Nat.mod_lt c (Nat.two_pow_pos f.mb)
  unfold significand
  split <;> omega

/-- Comparing a square with a number is comparing its root with the number's. -/
theorem against_sqrt {x : ℚ} (hx : 0 ≤ x) : Against (fun q => cmp (q * q) x) √(x : ℝ) := fun q hq => by
  have hmono : StrictMonoOn (fun y : ℝ => y * y) (Set.Ici 0) := fun a ha b _ hab => mul_self_lt_mul_self ha hab
  have hR : (√(x : ℝ)) * √(x : ℝ) = x := Real.mul_self_sqrt (by exact_mod_cast hx)
  have h := hmono.cmp_map_eq (x := (q : ℝ)) (y := √(x : ℝ)) (Set.mem_Ici.2 (Rat.cast_nonneg.2 hq)) (Real.sqrt_nonneg _)
  simp only [hR] at h
  rw [← h, ← Rat.cast_mul]
  exact (Rat.cast_strictMono.cmp_map_eq _ _).symm

theorem exSqrt_rounds {f : FFmt} (hf : f.Binary) (mode : BitVec 3) {m : Nat} {e : Int} (hm : m ≠ 0) (hlt : m < 2 ^ 24) :
    ∃ r, exSqrt (.fin false m e) = (r, 0) ∧ f.Rounds mode false (fun q => cmp (q * q) (m * 2 ^ e)) (roundEx f mode r) := by
  refine ⟨_, (if_neg (by simpa using hm)).trans (if_neg Bool.false_ne_true), ?_⟩
  have hodd : (e % 2).toNat ≤ 1 ∧ 2 * ((e - (e % 2).toNat - 80) / 2) = e - (e % 2).toNat - 80 := by omega
  generalize (e % 2).toNat = odd at hodd ⊢
  obtain ⟨hodd, he⟩ := hodd
  generalize (e - odd - 80) / 2 = e' at he ⊢
  generalize hbig : m <<< (80 + odd) = big
  rw [Nat.shiftLeft_eq] at hbig
  have hhigh : big < 2 ^ 105 := by
    rw [← hbig]
    calc m * 2 ^ (80 + odd) < 2 ^ 24 * 2 ^ (80 + odd) := Nat.mul_lt_mul_of_pos_right hlt (Nat.two_pow_pos _)
      _ ≤ 2 ^ 24 * 2 ^ 81 := Nat.mul_le_mul_left _ (Nat.pow_le_pow_right two_pos (by omega))
      _ = 2 ^ 105 := by norm_num
  have hlow : 2 ^ 80 ≤ big := by
    rw [← hbig]
    calc 2 ^ 80 ≤ 2 ^ (80 + odd) := Nat.pow_le_pow_right two_pos (by omega)
      _ ≤ m * 2 ^ (80 + odd) := Nat.le_mul_of_pos_left _ (Nat.pos_of_ne_zero hm)
  obtain ⟨h1, h2⟩ := isqrt_spec big 64 0 (by simp) (hhigh.trans (by norm_num))
  generalize isqrt big 64 0 = r at h1 h2 ⊢
  have hr : 2 ^ 25 ≤ r := by
    by_contra hc
    have hr1 : r + 1 ≤ 2 ^ 25 := Nat.lt_of_not_le hc
    have := (Nat.mul_le_mul hr1 hr1).trans_lt' h2
    omega
  have hroot : √(((m * 2 ^ e : ℚ)) : ℝ) = √(big : ℝ) * 2 ^ e' := by
    have hU : (0 : ℝ) ≤ 2 ^ e' := (zpow_pos two_pos _).le
    rw [← Real.sqrt_sq hU, ← Real.sqrt_mul (Nat.cast_nonneg _), ← hbig, sq, ← zpow_add₀ two_ne_zero, ← two_mul, he]
    push_cast
    rw [mul_assoc, ← zpow_natCast, ← zpow_add₀ two_ne_zero]
    congr 3
    push_cast
    ring
  refine roundEx_rounds hf mode false (hroot ▸ stands_sqrt h1 h2 e') (by omega) (fun _ => ?_) (against_sqrt (by positivity))
  exact le_trans (Nat.add_le_add_right hf.short 2) ((Nat.le_log2 (by omega)).2 hr)

/-! ### The float members on numbers (R105, R107) -/

theorem mulNum_val (n1 : Bool) (m1 : Nat) (e1 : Int) (n2 : Bool) (m2 : Nat) (e2 : Int) :
    (Num.fin (n1 != n2) (m1 * m2) (e1 + e2)).val = (Num.fin n1 m1 e1).val * (Num.fin n2 m2 e2).val := by
  rw [Num.val, Num.val, Num.val, sgn_xor, zpow_add₀ two_ne_zero]
  push_cast
  ring

theorem fmtOf_codes {w : Nat} (hw : w ∈ [16, 32]) : 2 * (fmtOf w).signBit = 2 ^ w := by
  simp only [List.mem_cons, List.not_mem_nil, or_false] at hw
  obtain rfl | rfl := hw <;> rfl

theorem fmtOf_minus {w c : Nat} (hw : w ∈ [16, 32]) (hc : c < 2 ^ w) : (fmtOf w).minus c = decide ((fmtOf w).signBit ≤ c) :=
  FFmt.minus_eq (fmtOf_codes hw ▸ hc)

section
variable {w A B D : Nat} (rm : BitVec 3)

/-- A code of a number at element width w. -/
abbrev IsNumber (w c : Nat) : Prop := c % (fmtOf w).signBit < (fmtOf w).infCode

section
variable (hA : IsNumber w A) (hB : IsNumber w B)
include hA hB

theorem vfAdd_rounds : (fmtOf w).RoundsQ rm ((fmtOf w).value A + (fmtOf w).value B) (vfAdd rm w A B D) := by
  obtain ⟨m1, e1, dA, vA, -⟩ := decodeF_finite hA
  obtain ⟨m2, e2, dB, vB, -⟩ := decodeF_finite hB
  rw [vfAdd, dA, dB, ← vA, ← vB]
  exact (addFin_exact rm _ m1 e1 _ m2 e2).roundWith w rm

theorem vfSub_rounds : (fmtOf w).RoundsQ rm ((fmtOf w).value A - (fmtOf w).value B) (vfSub rm w A B D) := by
  obtain ⟨m1, e1, dA, vA, -⟩ := decodeF_finite hA
  obtain ⟨m2, e2, dB, vB, -⟩ := decodeF_finite hB
  rw [vfSub, dA, dB, ← vA, ← vB, sub_eq_add_neg, ← Num.neg_val]
  exact (addFin_exact rm _ m1 e1 _ m2 e2).roundWith w rm

theorem vfMul_rounds : (fmtOf w).RoundsQ rm ((fmtOf w).value A * (fmtOf w).value B) (vfMul rm w A B D) := by
  obtain ⟨m1, e1, dA, vA, -⟩ := decodeF_finite hA
  obtain ⟨m2, e2, dB, vB, -⟩ := decodeF_finite hB
  rw [vfMul, dA, dB, ← vA, ← vB, ← mulNum_val]
  exact (Num.toEx_exact _ (m1 * m2) (e1 + e2)).roundWith w rm

theorem vfFma_rounds (hD : IsNumber w D) (n m : Bool) :
    (fmtOf w).RoundsQ rm (sgn n * ((fmtOf w).value A * (fmtOf w).value B) + sgn m * (fmtOf w).value D) (vfFma n m rm w A B D) := by
  obtain ⟨m1, e1, dA, vA, -⟩ := decodeF_finite hA
  obtain ⟨m2, e2, dB, vB, -⟩ := decodeF_finite hB
  obtain ⟨m3, e3, dD, vD, -⟩ := decodeF_finite hD
  have hneg (c : Bool) (s : Bool) (m : Nat) (e : Int) : sgn c * (Num.fin s m e).val = (Num.fin (c != s) m e).val := by
    rw [Num.val, Num.val, sgn_xor, mul_assoc]
  have hif (c : Bool) (s : Bool) (m : Nat) (e : Int) : (if c then (Num.fin s m e).neg else Num.fin s m e) = .fin (c != s) m e := by
    cases c <;> simp [Num.neg]
  rw [vfFma, dA, dB, dD, ← vA, ← vB, ← vD, ← mulNum_val, hneg, hneg, exFma]
  simp only [mulNum, hif, exAdd]
  exact (addFin_exact rm _ _ _ _ m3 e3).roundWith w rm

theorem vfAdd_zero (h : (fmtOf w).value A + (fmtOf w).value B = 0) : (vfAdd rm w A B D).1 =
    signed (fmtOf w) (if (fmtOf w).minus A == (fmtOf w).minus B then (fmtOf w).minus A else rm == 2) 0 := by
  obtain ⟨m1, e1, dA, vA, -⟩ := decodeF_finite hA
  obtain ⟨m2, e2, dB, vB, -⟩ := decodeF_finite hB
  rw [← vA, ← vB] at h
  rw [vfAdd, dA, dB, exAdd, addFin_zero rm _ m1 e1 _ m2 e2 h]
  rfl

theorem vfMul_zero (h : (fmtOf w).value A * (fmtOf w).value B = 0) : (vfMul rm w A B D).1 =
    signed (fmtOf w) ((fmtOf w).minus A != (fmtOf w).minus B) 0 := by
  obtain ⟨m1, e1, dA, -, zA⟩ := decodeF_finite hA
  obtain ⟨m2, e2, dB, -, zB⟩ := decodeF_finite hB
  have hm : m1 * m2 = 0 := by
    rw [mul_eq_zero] at h ⊢
    exact h.imp zA.2 zB.2
  rw [vfMul, dA, dB, exMul]
  simp only [mulNum, hm]
  rfl

theorem vfDiv_rounds (h : (fmtOf w).value B ≠ 0) : (fmtOf w).RoundsQ rm ((fmtOf w).value A / (fmtOf w).value B) (vfDiv rm w A B D) := by
  obtain ⟨m1, e1, dA, vA, -⟩ := decodeF_finite hA
  obtain ⟨m2, e2, dB, vB, zB⟩ := decodeF_finite hB
  obtain ⟨r, hr, hex⟩ := exDiv_exact ((fmtOf w).minus A) m1 e1 ((fmtOf w).minus B) e2 (fun c => h (zB.1 c))
  rw [vfDiv, dA, dB, hr, ← vA, ← vB]
  exact hex.roundWith w rm

theorem vfDiv_zero (h : (fmtOf w).value B = 0) : vfDiv rm w A B D =
    if (fmtOf w).value A = 0 then ((fmtOf w).canonNaN, fNV)
    else (signed (fmtOf w) ((fmtOf w).minus A != (fmtOf w).minus B) (fmtOf w).infCode, fDZ) := by
  obtain ⟨m1, e1, dA, -, zA⟩ := decodeF_finite hA
  obtain ⟨m2, e2, dB, -, zB⟩ := decodeF_finite hB
  rw [vfDiv, dA, dB, exDiv, zB.2 h, if_pos (beq_self_eq_true 0)]
  by_cases hz : (fmtOf w).value A = 0
  · rw [if_pos hz, zA.2 hz, if_pos (beq_self_eq_true 0), roundWith_nan]
  · rw [if_neg hz, if_neg (by simpa using fun c => hz (zA.1 c)), roundWith_inf]

end

section
variable (hA : IsNumber w A)
include hA

theorem decodeF_positive (h : 0 < (fmtOf w).value A) : ∃ m e, decodeF (fmtOf w) A = .fin false m e ∧ (m * 2 ^ e : ℚ) = (fmtOf w).value A ∧
    m ≠ 0 ∧ m < 2 ^ 24 := by
  have hv := decodeF_val hA
  rw [decodeF_fin hA, Num.val] at hv
  have hpos : (0 : ℚ) ≤ (fmtOf w).significand (A % (fmtOf w).signBit) * 2 ^ (fmtOf w).exponent (A % (fmtOf w).signBit) := by positivity
  cases hs : (fmtOf w).minus A
  · rw [hs, sgn, if_neg Bool.false_ne_true, one_mul] at hv
    refine ⟨_, _, hs ▸ decodeF_fin hA, hv, fun c => ?_, (fmtOf_binary w).significand_lt _⟩
    rw [c, Nat.cast_zero, zero_mul] at hv
    exact h.ne hv
  · rw [hs, sgn, if_pos rfl, neg_one_mul] at hv
    linarith

theorem decodeF_negative (h : (fmtOf w).value A < 0) : ∃ m e, decodeF (fmtOf w) A = .fin true m e ∧ m ≠ 0 := by
  obtain ⟨m, e, dA, vA, zA⟩ := decodeF_finite hA
  cases hs : (fmtOf w).minus A
  · rw [hs, Num.val, sgn, if_neg Bool.false_ne_true, one_mul] at vA
    have : (0 : ℚ) ≤ m * 2 ^ e := by positivity
    linarith
  · exact ⟨m, e, hs ▸ dA, fun c => h.ne (zA.1 c)⟩

theorem vfSqrt_rounds (h : 0 < (fmtOf w).value A) :
    (fmtOf w).Rounds rm false (fun q => cmp (q * q) ((fmtOf w).value A)) (vfSqrt rm w A B D) := by
  obtain ⟨m, e, dA, vA, hm, hlt⟩ := decodeF_positive hA h
  obtain ⟨r, hr, hrd⟩ := exSqrt_rounds (fmtOf_binary w) rm (e := e) hm hlt
  rw [vfSqrt, dA, hr, roundWith_quiet, ← vA]
  exact hrd

theorem vfSqrt_negative (h : (fmtOf w).value A < 0) : vfSqrt rm w A B D = ((fmtOf w).canonNaN, fNV) := by
  obtain ⟨m, e, dA, hm⟩ := decodeF_negative hA h
  rw [vfSqrt, dA, exSqrt, if_neg (by simpa using hm), if_pos rfl, roundWith_nan]

end

theorem vfConvert_rounds {src dst : FFmt} (hd : dst.Binary) (h : A % src.signBit < src.infCode) :
    dst.RoundsQ rm (src.value A) (vfConvert src dst rm A) := by
  obtain ⟨m, e, dA, vA, -⟩ := decodeF_finite h
  have hr : vfConvert src dst rm A = roundEx dst rm (.fin (src.minus A) m e false) := by
    rw [vfConvert, dA]
    exact Prod.ext rfl BitVec.or_zero
  rw [hr, ← vA]
  exact (Num.toEx_exact _ m e).roundsQ hd rm

theorem intNum_val (i : Int) : (intNum i).val = i := by
  rw [intNum, Num.val, zpow_zero, mul_one, Nat.cast_natAbs]
  rcases lt_or_ge i 0 with h | h
  · rw [abs_of_neg h]
    simp [sgn, h]
  · rw [abs_of_nonneg h]
    simp [sgn, h]

theorem vfCvtif_rounds : (fmtOf w).RoundsQ rm (sInt w A) (vfCvtif rm w A B D) := by
  rw [← intNum_val]
  exact (Num.toEx_exact _ _ 0).roundWith w rm

end

end Sys2Proof.Machine
end

section
/-!
SUPPORT. The float functions on infinities and NaNs, the order of the numbers and sign injection (R99, R104, R105).
-/
namespace Sys2Proof.Machine

/-! ### Codes of NaNs and infinities (R50) -/

abbrev IsNaN (w c : Nat) : Prop := (fmtOf w).infCode < c % (fmtOf w).signBit
abbrev IsInf (w c : Nat) : Prop := c % (fmtOf w).signBit = (fmtOf w).infCode
abbrev IsSig (w c : Nat) : Prop := IsNaN w c ∧ c % 2 ^ (fmtOf w).mb < 2 ^ ((fmtOf w).mb - 1)

section
variable {w c : Nat}

theorem code_cases (w c : Nat) : IsNumber w c ∨ IsInf w c ∨ IsNaN w c := Nat.lt_trichotomy _ _

theorem IsInf.not_nan (h : IsInf w c) : ¬ IsNaN w c := fun x => x.ne' h
theorem IsNumber.not_nan (h : IsNumber w c) : ¬ IsNaN w c := h.not_gt

theorem decodeF_isNaN : (decodeF (fmtOf w) c).isNaN = true ↔ IsNaN w c := by
  rcases code_cases w c with h | h | h
  · rw [decodeF_fin h]
    exact iff_of_false Bool.false_ne_true h.not_nan
  · rw [decodeF_inf h]
    exact iff_of_false Bool.false_ne_true h.not_nan
  · rw [decodeF_nan h]
    exact iff_of_true rfl h

theorem decodeF_isSig : (decodeF (fmtOf w) c).isSig = true ↔ IsSig w c := by
  rcases code_cases w c with h | h | h
  · rw [decodeF_fin h]
    exact iff_of_false Bool.false_ne_true fun x => h.not_nan x.1
  · rw [decodeF_inf h]
    exact iff_of_false Bool.false_ne_true fun x => h.not_nan x.1
  · rw [decodeF_nan h, Num.isSig, decide_eq_true_eq]
    exact (and_iff_right h).symm

theorem decodeF_isNeg (h : ¬ IsNaN w c) : (decodeF (fmtOf w) c).isNeg = (fmtOf w).minus c := by
  rcases code_cases w c with hc | hc | hc
  · rw [decodeF_fin hc]
    rfl
  · rw [decodeF_inf hc]
    rfl
  · exact absurd hc h

/-- A code is its sign and its magnitude. -/
theorem FFmt.signed_minus {f : FFmt} (h : c < 2 * f.signBit) : signed f (f.minus c) (c % f.signBit) = c := by
  rw [FFmt.minus_eq h, signed]
  by_cases hc : f.signBit ≤ c
  · rw [decide_eq_true hc, if_pos rfl, Nat.mod_eq_sub_mod hc, Nat.mod_eq_of_lt (by omega)]
    omega
  · rw [decide_eq_false hc, if_neg Bool.false_ne_true, Nat.mod_eq_of_lt (by omega)]

end

/-! ### NaN operands (R99, R105) -/

theorem Num.nan_of_isNaN {a b : Num} (h : a.isNaN = true ∨ b.isNaN = true) : (∃ s, a = .nan s) ∨ ∃ s, b = .nan s := by
  have one (x : Num) (hx : x.isNaN = true) : ∃ s, x = .nan s := by
    cases x with
    | nan s => exact ⟨s, rfl⟩
    | _ => cases hx
  exact h.imp (one a) (one b)

theorem exAdd_nan (mode : BitVec 3) {a b : Num} (h : a.isNaN = true ∨ b.isNaN = true) :
    exAdd mode a b = (.nan, nvIf (a.isSig || b.isSig)) := by
  obtain ⟨s, rfl⟩ | ⟨s, rfl⟩ := Num.nan_of_isNaN h
  · rfl
  · cases a <;> simp [exAdd, Num.isSig]

theorem mulNum_nan {a b : Num} (h : a.isNaN = true ∨ b.isNaN = true) : mulNum a b = (.nan (a.isSig || b.isSig), false) := by
  obtain ⟨s, rfl⟩ | ⟨s, rfl⟩ := Num.nan_of_isNaN h
  · rfl
  · cases a <;> simp [mulNum, Num.isSig]

theorem exDiv_nan {a b : Num} (h : a.isNaN = true ∨ b.isNaN = true) : exDiv a b = (.nan, 0) := by
  obtain ⟨s, rfl⟩ | ⟨s, rfl⟩ := Num.nan_of_isNaN h
  · rfl
  · cases a <;> rfl

theorem Num.neg_isNaN (x : Num) : x.neg.isNaN = x.isNaN := by cases x <;> rfl
theorem Num.neg_isSig (x : Num) : x.neg.isSig = x.isSig := by cases x <;> rfl

theorem nvIf_sig (w A B : Nat) : nvIf ((decodeF (fmtOf w) A).isSig || (decodeF (fmtOf w) B).isSig) = if IsSig w A ∨ IsSig w B then fNV else 0 := by
  rw [nvIf]
  refine if_congr ?_ rfl rfl
  rw [Bool.or_eq_true, decodeF_isSig, decodeF_isSig]

section
variable {w A B D : Nat} (rm : BitVec 3)

section
variable (h : IsNaN w A ∨ IsNaN w B)
include h

theorem vfAdd_nan : vfAdd rm w A B D = ((fmtOf w).canonNaN, if IsSig w A ∨ IsSig w B then fNV else 0) := by
  rw [vfAdd, exAdd_nan rm (h.imp decodeF_isNaN.2 decodeF_isNaN.2), nvIf_sig, roundWith_nan]

theorem vfSub_nan : vfSub rm w A B D = ((fmtOf w).canonNaN, if IsSig w A ∨ IsSig w B then fNV else 0) := by
  rw [vfSub, exSub, exAdd_nan rm (h.imp decodeF_isNaN.2 fun x => by rw [Num.neg_isNaN]; exact decodeF_isNaN.2 x), Num.neg_isSig, nvIf_sig,
    roundWith_nan]

theorem vfMul_nan : vfMul rm w A B D = ((fmtOf w).canonNaN, if IsSig w A ∨ IsSig w B then fNV else 0) := by
  rw [vfMul, exMul, mulNum_nan (h.imp decodeF_isNaN.2 decodeF_isNaN.2), ← nvIf_sig]
  exact roundWith_nan w rm _

theorem vfDiv_nan : vfDiv rm w A B D = ((fmtOf w).canonNaN, 0) := by
  rw [vfDiv, exDiv_nan (h.imp decodeF_isNaN.2 decodeF_isNaN.2), roundWith_nan]

end

theorem vfSqrt_nan (h : IsNaN w A) : vfSqrt rm w A B D = ((fmtOf w).canonNaN, 0) := by
  rw [vfSqrt, decodeF_nan h, exSqrt, roundWith_nan]

/-- A NaN addend under a product that is none. -/
theorem exAdd_nan_right (mode : BitVec 3) {a : Num} (ha : a.isNaN = false) (s : Bool) : exAdd mode a (.nan s) = (.nan, nvIf s) := by
  have hs : a.isSig = false := by
    cases a with
    | nan => cases ha
    | _ => rfl
  rw [exAdd_nan mode (.inr rfl), hs]
  rfl

theorem mulNum_real {a b : Num} (ha : a.isNaN = false) (hb : b.isNaN = false) (h1 : ∀ n m e k, a = .inf n → b = .fin k m e → m ≠ 0)
    (h2 : ∀ n m e k, a = .fin k m e → b = .inf n → m ≠ 0) : (mulNum a b).1.isNaN = false ∧ (mulNum a b).2 = false := by
  cases a with
  | nan => cases ha
  | inf n =>
    cases b with
    | nan => cases hb
    | inf => exact ⟨rfl, rfl⟩
    | fin k m e =>
      rw [mulNum, if_neg (by simpa using h1 n m e k rfl rfl)]
      exact ⟨rfl, rfl⟩
  | fin k m e =>
    cases b with
    | nan => cases hb
    | inf n =>
      rw [mulNum, if_neg (by simpa using h2 n m e k rfl rfl)]
      exact ⟨rfl, rfl⟩
    | fin => exact ⟨rfl, rfl⟩

theorem significand_of_decodeF {n : Bool} {m : Nat} {e : Int} (h : decodeF (fmtOf w) A = .fin n m e) : m = 0 ↔ A % (fmtOf w).signBit = 0 := by
  rcases code_cases w A with hc | hc | hc
  · rw [decodeF_fin hc] at h
    injection h with _ hm _
    rw [← hm, FFmt.significand_eq_zero]
  · rw [decodeF_inf hc] at h
    cases h
  · rw [decodeF_nan hc] at h
    cases h

theorem isInf_of_decodeF {n : Bool} (h : decodeF (fmtOf w) A = .inf n) : IsInf w A := by
  rcases code_cases w A with hc | hc | hc
  · rw [decodeF_fin hc] at h
    cases h
  · exact hc
  · rw [decodeF_nan hc] at h
    cases h

theorem vfFma_nan (n m : Bool) (hD : IsNaN w D) (hA : ¬ IsNaN w A) (hB : ¬ IsNaN w B) (h1 : ¬ (IsInf w A ∧ B % (fmtOf w).signBit = 0))
    (h2 : ¬ (A % (fmtOf w).signBit = 0 ∧ IsInf w B)) :
    vfFma n m rm w A B D = ((fmtOf w).canonNaN, if IsSig w D then fNV else 0) := by
  have hreal := mulNum_real (Bool.eq_false_iff.2 (mt decodeF_isNaN.1 hA)) (Bool.eq_false_iff.2 (mt decodeF_isNaN.1 hB))
    (fun _ _ _ _ ha hb hm => h1 ⟨isInf_of_decodeF ha, (significand_of_decodeF hb).1 hm⟩)
    (fun _ _ _ _ ha hb hm => h2 ⟨(significand_of_decodeF ha).1 hm, isInf_of_decodeF hb⟩)
  obtain ⟨hp, hz⟩ := hreal
  have hD' : (if m then (decodeF (fmtOf w) D).neg else decodeF (fmtOf w) D) = .nan (decodeF (fmtOf w) D).isSig := by
    rw [decodeF_nan hD]
    cases m <;> rfl
  have hq : (if n then (mulNum (decodeF (fmtOf w) A) (decodeF (fmtOf w) B)).1.neg
      else (mulNum (decodeF (fmtOf w) A) (decodeF (fmtOf w) B)).1).isNaN = false := by
    cases n
    · exact hp
    · rw [if_pos rfl, Num.neg_isNaN]
      exact hp
  have hsig : nvIf (decodeF (fmtOf w) D).isSig = if IsSig w D then fNV else 0 := if_congr decodeF_isSig rfl rfl
  rw [vfFma, exFma]
  simp only [hD', hz]
  rw [exAdd_nan_right rm hq, hsig]
  exact (roundWith_nan w rm _).trans (Prod.ext rfl BitVec.or_zero)

theorem vfSqrt_zero (hA : IsNumber w A) (hc : A < 2 * (fmtOf w).signBit) (h : (fmtOf w).value A = 0) : vfSqrt rm w A B D = (A, 0) := by
  obtain ⟨m, e, dA, -, zA⟩ := decodeF_finite hA
  obtain rfl := zA.2 h
  have hz : A % (fmtOf w).signBit = 0 := (significand_of_decodeF dA).1 rfl
  rw [vfSqrt, dA, exSqrt, if_pos (beq_self_eq_true 0), roundWith_zero, ← hz, FFmt.signed_minus hc]

/-! ### Infinities (R105) -/

theorem vfSqrt_inf (h : IsInf w A) (hA : (fmtOf w).minus A = false) : vfSqrt rm w A B D = (signed (fmtOf w) false (fmtOf w).infCode, 0) := by
  rw [vfSqrt, decodeF_inf h, hA, exSqrt, if_neg Bool.false_ne_true, roundWith_inf]

theorem vfSqrt_minus_inf (h : IsInf w A) (hA : (fmtOf w).minus A = true) : vfSqrt rm w A B D = ((fmtOf w).canonNaN, fNV) := by
  rw [vfSqrt, decodeF_inf h, hA, exSqrt, if_pos rfl, roundWith_nan]

section
variable (hA : IsInf w A) (hB : IsInf w B)
include hA hB

theorem vfAdd_inf_inf : vfAdd rm w A B D = if (fmtOf w).minus A = (fmtOf w).minus B then (signed (fmtOf w) ((fmtOf w).minus A) (fmtOf w).infCode, 0)
    else ((fmtOf w).canonNaN, fNV) := by
  rw [vfAdd, decodeF_inf hA, decodeF_inf hB, exAdd]
  by_cases h : (fmtOf w).minus A = (fmtOf w).minus B
  · rw [if_pos h, if_pos (beq_iff_eq.2 h), roundWith_inf]
  · rw [if_neg h, if_neg (mt beq_iff_eq.1 h), roundWith_nan]

theorem vfDiv_inf_inf : vfDiv rm w A B D = ((fmtOf w).canonNaN, fNV) := by
  rw [vfDiv, decodeF_inf hA, decodeF_inf hB, exDiv, roundWith_nan]

theorem vfMul_inf_inf : vfMul rm w A B D = (signed (fmtOf w) ((fmtOf w).minus A != (fmtOf w).minus B) (fmtOf w).infCode, 0) := by
  rw [vfMul, decodeF_inf hA, decodeF_inf hB]
  exact roundWith_inf w rm _ _

end

section
variable (hA : IsInf w A) (hB : IsNumber w B)
include hA hB

theorem vfAdd_inf_fin : vfAdd rm w A B D = (signed (fmtOf w) ((fmtOf w).minus A) (fmtOf w).infCode, 0) := by
  rw [vfAdd, decodeF_inf hA, decodeF_fin hB]
  exact roundWith_inf w rm _ _

theorem vfDiv_inf_fin : vfDiv rm w A B D = (signed (fmtOf w) ((fmtOf w).minus A != (fmtOf w).minus B) (fmtOf w).infCode, 0) := by
  rw [vfDiv, decodeF_inf hA, decodeF_fin hB]
  exact roundWith_inf w rm _ _

theorem vfMul_inf_fin : vfMul rm w A B D = if B % (fmtOf w).signBit = 0 then ((fmtOf w).canonNaN, fNV)
    else (signed (fmtOf w) ((fmtOf w).minus A != (fmtOf w).minus B) (fmtOf w).infCode, 0) := by
  have hz := significand_of_decodeF (decodeF_fin hB)
  rw [vfMul, exMul, decodeF_inf hA, decodeF_fin hB, mulNum]
  by_cases h : B % (fmtOf w).signBit = 0
  · rw [if_pos h, if_pos (beq_iff_eq.2 (hz.2 h))]
    exact roundWith_nan w rm _
  · rw [if_neg h, if_neg (fun x => h (hz.1 (beq_iff_eq.1 x)))]
    exact roundWith_inf w rm _ _

theorem vfFma_inf_zero (h : B % (fmtOf w).signBit = 0) (n m : Bool) : vfFma n m rm w A B D = ((fmtOf w).canonNaN, fNV) := by
  have hz := significand_of_decodeF (decodeF_fin hB)
  have hmul : mulNum (decodeF (fmtOf w) A) (decodeF (fmtOf w) B) = (.nan false, true) := by
    rw [decodeF_inf hA, decodeF_fin hB, mulNum, if_pos (beq_iff_eq.2 (hz.2 h))]
  have hneg : (if n then (Num.nan false).neg else Num.nan false) = .nan false := by cases n <;> rfl
  rw [vfFma, exFma, hmul]
  simp only [hneg]
  rw [exAdd_nan rm (.inl rfl), roundWith_nan]
  generalize (if m then (decodeF (fmtOf w) D).neg else decodeF (fmtOf w) D) = d
  cases hs : d.isSig
  · exact Prod.ext rfl BitVec.zero_or
  · exact Prod.ext rfl BitVec.or_self

end

theorem vfDiv_fin_inf (hA : IsNumber w A) (hB : IsInf w B) :
    vfDiv rm w A B D = (signed (fmtOf w) ((fmtOf w).minus A != (fmtOf w).minus B) 0, 0) := by
  rw [vfDiv, decodeF_fin hA, decodeF_inf hB, exDiv, roundWith_zero]

end

/-! ### The order of the numbers (R104, R105) -/

/-- The place of a code's number among the numbers of its format, both zeros at 0. -/
def FFmt.rank (f : FFmt) (c : Nat) : Int := if f.minus c then -(c % f.signBit : Nat) else (c % f.signBit : Nat)

theorem FFmt.magnitude_zero (f : FFmt) : f.magnitude 0 = 0 := by
  simp [magnitude]

theorem FFmt.magnitude_pos (f : FFmt) {c : Nat} : 0 < f.magnitude c ↔ 0 < c := by
  rw [← f.magnitude_strictMono.lt_iff_lt, f.magnitude_zero]

/-- Numbers are in the order of their places. -/
theorem FFmt.value_lt_value {f : FFmt} {a b : Nat} : f.value a < f.value b ↔ f.rank a < f.rank b := by
  have hv (c : Nat) : f.value c = if f.minus c then -f.magnitude (c % f.signBit) else f.magnitude (c % f.signBit) := by
    rw [value, minus]
    simp only [beq_iff_eq]
    split <;> simp
  have hmono {i j : Nat} : f.magnitude i < f.magnitude j ↔ i < j := f.magnitude_strictMono.lt_iff_lt
  rw [hv, hv, rank, rank]
  generalize a % f.signBit = i
  generalize b % f.signBit = j
  have hi := f.magnitude_nonneg i
  have hj := f.magnitude_nonneg j
  cases f.minus a <;> cases f.minus b
  · simpa using hmono
  · simp only [if_true, if_false, Bool.false_eq_true]
    exact iff_of_false (by linarith) (by omega)
  · simp only [if_true, if_false, Bool.false_eq_true]
    have hz : -f.magnitude i < f.magnitude j ↔ 0 < f.magnitude i ∨ 0 < f.magnitude j := by
      constructor
      · intro h
        by_contra hc
        push Not at hc
        linarith [hc.1, hc.2]
      · rintro (h | h) <;> linarith
    rw [hz, f.magnitude_pos, f.magnitude_pos]
    omega
  · simp only [if_true, neg_lt_neg_iff]
    rw [hmono]
    omega

theorem numLt_fin (n1 : Bool) (m1 : Nat) (e1 : Int) (n2 : Bool) (m2 : Nat) (e2 : Int) :
    numLt (.fin n1 m1 e1) (.fin n2 m2 e2) = true ↔ (Num.fin n1 m1 e1).val < (Num.fin n2 m2 e2).val := by
  have h1 := scaled_val n1 m1 (min_le_left e1 e2)
  have h2 := scaled_val n2 m2 (min_le_right e1 e2)
  rw [numLt, decide_eq_true_eq, Num.val, Num.val, ← h1, ← h2, mul_lt_mul_iff_left₀ (zpow_pos two_pos _), Int.cast_lt]

theorem numLt_iff {w A B : Nat} (hA : ¬ IsNaN w A) (hB : ¬ IsNaN w B) :
    numLt (decodeF (fmtOf w) A) (decodeF (fmtOf w) B) = true ↔ (fmtOf w).rank A < (fmtOf w).rank B := by
  have hinf : 0 < (fmtOf w).infCode := (fmtOf_binary w).least_lt.trans_le' (Nat.zero_le _)
  rcases code_cases w A with cA | cA | cA
  · rcases code_cases w B with cB | cB | cB
    · rw [← FFmt.value_lt_value, ← decodeF_val cA, ← decodeF_val cB, decodeF_fin cA, decodeF_fin cB]
      exact numLt_fin ..
    · rw [decodeF_fin cA, decodeF_inf cB, FFmt.rank, FFmt.rank, cB]
      unfold IsNumber at cA
      cases (fmtOf w).minus B
      · simp only [numLt, Bool.false_eq_true, if_false, true_iff]
        split <;> omega
      · simp only [numLt, Bool.false_eq_true, if_true, false_iff]
        split <;> omega
    · exact absurd cB hB
  · rcases code_cases w B with cB | cB | cB
    · rw [decodeF_inf cA, decodeF_fin cB, FFmt.rank, FFmt.rank, cA]
      unfold IsNumber at cB
      cases (fmtOf w).minus A
      · simp only [numLt, Bool.false_eq_true, if_false, false_iff]
        split <;> omega
      · simp only [numLt, if_true, true_iff]
        split <;> omega
    · rw [decodeF_inf cA, decodeF_inf cB, FFmt.rank, FFmt.rank, cA, cB]
      cases (fmtOf w).minus A <;> cases (fmtOf w).minus B <;> simp [numLt]
      omega
    · exact absurd cB hB
  · exact absurd cA hA

theorem numLt_nan {a b : Num} (h : a.isNaN = true ∨ b.isNaN = true) : numLt a b = false := by
  obtain ⟨s, rfl⟩ | ⟨s, rfl⟩ := Num.nan_of_isNaN h
  · rfl
  · cases a <;> rfl

theorem numEq_eq {a b : Num} (ha : a.isNaN = false) (hb : b.isNaN = false) : numEq a b = (!numLt a b && !numLt b a) := by
  cases a with
  | nan => cases ha
  | inf => cases b with
    | nan => cases hb
    | _ => rfl
  | fin => cases b with
    | nan => cases hb
    | _ => rfl

theorem numEq_nan {a b : Num} (h : a.isNaN = true ∨ b.isNaN = true) : numEq a b = false := by
  obtain ⟨s, rfl⟩ | ⟨s, rfl⟩ := Num.nan_of_isNaN h
  · rfl
  · cases a <;> rfl

section
variable {w A B : Nat}

theorem numLt_codes : numLt (decodeF (fmtOf w) A) (decodeF (fmtOf w) B) = true ↔
    ¬ IsNaN w A ∧ ¬ IsNaN w B ∧ (fmtOf w).rank A < (fmtOf w).rank B := by
  by_cases h : IsNaN w A ∨ IsNaN w B
  · rw [numLt_nan (h.imp decodeF_isNaN.2 decodeF_isNaN.2)]
    exact iff_of_false Bool.false_ne_true fun x => h.elim x.1 x.2.1
  · rw [not_or] at h
    rw [numLt_iff h.1 h.2, and_iff_right h.1, and_iff_right h.2]

theorem numEq_codes : numEq (decodeF (fmtOf w) A) (decodeF (fmtOf w) B) = true ↔
    ¬ IsNaN w A ∧ ¬ IsNaN w B ∧ (fmtOf w).rank A = (fmtOf w).rank B := by
  by_cases h : IsNaN w A ∨ IsNaN w B
  · rw [numEq_nan (h.imp decodeF_isNaN.2 decodeF_isNaN.2)]
    exact iff_of_false Bool.false_ne_true fun x => h.elim x.1 x.2.1
  · rw [not_or] at h
    rw [numEq_eq (Bool.eq_false_iff.2 (mt decodeF_isNaN.1 h.1)) (Bool.eq_false_iff.2 (mt decodeF_isNaN.1 h.2)), and_iff_right h.1, and_iff_right h.2,
      Bool.and_eq_true, Bool.not_eq_true', Bool.not_eq_true', Bool.eq_false_iff, Bool.eq_false_iff, ne_eq, ne_eq, numLt_iff h.1 h.2,
        numLt_iff h.2 h.1]
    omega

/-- The place of a code with -0 below +0. -/
def FFmt.key (f : FFmt) (c : Nat) : Int := if f.minus c then -(c % f.signBit : Nat) - 1 else (c % f.signBit : Nat)

theorem FFmt.key_injective {f : FFmt} {a b : Nat} (ha : a < 2 * f.signBit) (hb : b < 2 * f.signBit) (h : f.key a = f.key b) : a = b := by
  have hparts : f.minus a = f.minus b ∧ a % f.signBit = b % f.signBit := by
    unfold key at h
    generalize a % f.signBit = i at h ⊢
    generalize b % f.signBit = j at h ⊢
    generalize f.minus a = u at h ⊢
    generalize f.minus b = v at h ⊢
    cases u <;> cases v <;> simp only [if_true, if_false, Bool.false_eq_true] at h
    · exact ⟨rfl, by omega⟩
    · omega
    · omega
    · exact ⟨rfl, by omega⟩
  rw [← f.signed_minus ha, ← f.signed_minus hb, hparts.1, hparts.2]

theorem minMax_less (hA : ¬ IsNaN w A) (hB : ¬ IsNaN w B) :
    (numLt (decodeF (fmtOf w) A) (decodeF (fmtOf w) B) || (numEq (decodeF (fmtOf w) A) (decodeF (fmtOf w) B) &&
      (decodeF (fmtOf w) A).isNeg && !(decodeF (fmtOf w) B).isNeg)) = true ↔ (fmtOf w).key A < (fmtOf w).key B := by
  rw [Bool.or_eq_true, Bool.and_eq_true, Bool.and_eq_true, numLt_codes, numEq_codes, decodeF_isNeg hA, decodeF_isNeg hB, and_iff_right hA,
    and_iff_right hB, and_iff_right hA, and_iff_right hB, FFmt.rank, FFmt.rank, FFmt.key, FFmt.key]
  cases (fmtOf w).minus A <;> cases (fmtOf w).minus B <;> simp <;> omega

theorem fMinMax_eq (wantMax : Bool) (hA : A < 2 * (fmtOf w).signBit) (hB : B < 2 * (fmtOf w).signBit) : fMinMax (fmtOf w) wantMax A B =
    (if IsNaN w A ∧ IsNaN w B then (fmtOf w).canonNaN else if IsNaN w A then B else if IsNaN w B then A
      else if (fmtOf w).key A ≤ (fmtOf w).key B then (if wantMax then B else A) else (if wantMax then A else B),
     if IsSig w A ∨ IsSig w B then fNV else 0) := by
  rw [fMinMax, ← nvIf_sig]
  simp only []
  by_cases nA : IsNaN w A
  · rw [if_pos (decodeF_isNaN.2 nA)]
    by_cases nB : IsNaN w B
    · rw [if_pos (decodeF_isNaN.2 nB), if_pos ⟨nA, nB⟩]
    · rw [if_neg (mt decodeF_isNaN.1 nB), if_neg (fun x : IsNaN w A ∧ IsNaN w B => nB x.2), if_pos nA]
  · rw [if_neg (mt decodeF_isNaN.1 nA), if_neg (fun x : IsNaN w A ∧ IsNaN w B => nA x.1), if_neg nA]
    by_cases nB : IsNaN w B
    · rw [if_pos (decodeF_isNaN.2 nB), if_pos nB]
    · rw [if_neg (mt decodeF_isNaN.1 nB), if_neg nB]
      refine congrArg (·, _) ?_
      have hless := minMax_less nA nB
      generalize (numLt (decodeF (fmtOf w) A) (decodeF (fmtOf w) B) || (numEq (decodeF (fmtOf w) A) (decodeF (fmtOf w) B) &&
        (decodeF (fmtOf w) A).isNeg && !(decodeF (fmtOf w) B).isNeg)) = less at hless ⊢
      rcases lt_trichotomy ((fmtOf w).key A) ((fmtOf w).key B) with h | h | h
      · rw [if_pos h.le, hless.2 h]
        cases wantMax <;> rfl
      · obtain rfl := FFmt.key_injective hA hB h
        simp
      · rw [if_neg h.not_ge, Bool.eq_false_iff.2 (mt hless.1 h.not_gt)]
        cases wantMax <;> rfl

end

/-! ### Sign injection (R105) -/

theorem fmtOf_signBit {w : Nat} (hw : w ∈ [16, 32]) : (fmtOf w).signBit = 2 ^ (w - 1) := by
  simp only [List.mem_cons, List.not_mem_nil, or_false] at hw
  obtain rfl | rfl := hw <;> rfl

theorem withSign_eq {w : Nat} (hw : w ∈ [16, 32]) (a : Nat) (s : Bool) : withSign w a s = signed (fmtOf w) s (a % (fmtOf w).signBit) := by
  rw [withSign, signed, fmtOf_signBit hw]
  cases s <;> simp

theorem signOf_eq {w : Nat} (hw : w ∈ [16, 32]) (a : Nat) : signOf w a = (fmtOf w).minus a := by
  rw [signOf, FFmt.minus, fmtOf_signBit hw, Nat.testBit_eq_decide_div_mod_eq]
  rfl

end Sys2Proof.Machine
end

section
/-!
SUPPORT. The estimates (R106): 8 significant bits of a reciprocal and of the reciprocal of a root.
-/
namespace Sys2Proof.Machine

/-- The leading 8 bits of a magnitude. -/
theorem trunc8_spec (neg : Bool) {N : Nat} (h : 2 ^ 8 ≤ N) (e : Int) :
    ∃ j k : Nat, trunc8 neg N e = .fin neg j (e + k) false ∧ 128 ≤ j ∧ j < 256 ∧ j * 2 ^ k ≤ N ∧ N < (j + 1) * 2 ^ k := by
  have hl : 8 ≤ Nat.log2 N := (Nat.le_log2 (by omega)).2 h
  have hlow := Nat.log2_self_le (n := N) (by omega)
  have hhigh := Nat.lt_log2_self (n := N)
  generalize hk : Nat.log2 N - 7 = k
  have h1 : 2 ^ Nat.log2 N = 128 * 2 ^ k := by
    rw [show Nat.log2 N = 7 + k by omega, Nat.pow_add]
  have h2 : 2 ^ (Nat.log2 N + 1) = 256 * 2 ^ k := by
    rw [show Nat.log2 N + 1 = 8 + k by omega, Nat.pow_add]
  have hpos := Nat.two_pow_pos k
  refine ⟨N / 2 ^ k, k, ?_, ?_, ?_, Nat.div_mul_le_self N _, Nat.lt_mul_of_div_lt (Nat.lt_succ_self _) hpos⟩
  · rw [trunc8, if_neg (by omega), hk, Nat.shiftRight_eq_div_pow]
  · rw [Nat.le_div_iff_mul_le hpos]
    omega
  · rw [Nat.div_lt_iff_lt_mul hpos]
    omega

/-- A magnitude rounds as it stands. -/
theorem roundEx_magnitude {f : FFmt} (hf : f.Binary) (mode : BitVec 3) (neg : Bool) {m : Nat} (hm : m ≠ 0) (e : Int) :
    f.Rounds mode neg (fun q => cmp q (m * 2 ^ e)) (roundEx f mode (.fin neg m e false)) := by
  have hX : ((m * 2 ^ e : ℚ) : ℝ) = m * 2 ^ e := by push_cast; rfl
  refine roundEx_rounds hf mode neg (stands_exact m e) hm (by simp) fun q _ => ?_
  rw [← hX]
  exact (Rat.cast_strictMono.cmp_map_eq _ _).symm

/-- A quotient over its whole part. -/
theorem div_bounds (n : Nat) {d : Nat} (hd : d ≠ 0) : ((n / d : Nat) : ℚ) ≤ n / d ∧ (n / d : ℚ) < (n / d : Nat) + 1 := by
  have hdQ : (0 : ℚ) < d := by exact_mod_cast Nat.pos_of_ne_zero hd
  constructor
  · rw [le_div_iff₀ hdQ]
    exact_mod_cast Nat.div_mul_le_self n d
  · rw [div_lt_iff₀ hdQ]
    exact_mod_cast (Nat.lt_mul_of_div_lt (Nat.lt_succ_self _) (Nat.pos_of_ne_zero hd))

theorem two_pow_le_div {b m k : Nat} (hm : m ≠ 0) (hk : b + (Nat.log2 m + 1) ≤ k) : 2 ^ b ≤ 2 ^ k / m := by
  rw [Nat.le_div_iff_mul_le (Nat.pos_of_ne_zero hm)]
  calc 2 ^ b * m ≤ 2 ^ b * 2 ^ (Nat.log2 m + 1) := Nat.mul_le_mul_left _ Nat.lt_log2_self.le
    _ = 2 ^ (b + (Nat.log2 m + 1)) := (Nat.pow_add ..).symm
    _ ≤ 2 ^ k := Nat.pow_le_pow_right two_pos hk

/-- An estimate keeps what bounds the magnitude it is cut from. -/
theorem estimate_bounds {N j k : Nat} (hj : j * 2 ^ k ≤ N) (hN : N < (j + 1) * 2 ^ k) (E : Int) :
    (j : ℚ) * 2 ^ (E + k) ≤ N * 2 ^ E ∧ ((N : ℚ) + 1) * 2 ^ E ≤ (j + 1) * 2 ^ (E + k) := by
  have hU : (0 : ℚ) < 2 ^ E := zpow_pos two_pos E
  have hjQ : (j : ℚ) * 2 ^ k ≤ N := by exact_mod_cast hj
  have hNQ : (N : ℚ) + 1 ≤ (j + 1) * 2 ^ k := by exact_mod_cast hN
  rw [add_comm E, zpow_add₀ two_ne_zero, zpow_natCast, ← mul_assoc, ← mul_assoc]
  exact ⟨mul_le_mul_of_nonneg_right hjQ hU.le, mul_le_mul_of_nonneg_right hNQ hU.le⟩

theorem exRece_spec (n : Bool) {m : Nat} (hm : m ≠ 0) (e : Int) : ∃ (j : Nat) (k : Int), exRece (.fin n m e) = (.fin n j k false, 0) ∧
    128 ≤ j ∧ j < 256 ∧ j * (2 : ℚ) ^ k ≤ 1 / (m * 2 ^ e) ∧ 1 / (m * 2 ^ e) < (j + 1) * (2 : ℚ) ^ k := by
  generalize hk : 64 + Nat.log2 m = k
  obtain ⟨j, k', ht, h1, h2, h3, h4⟩ := trunc8_spec n ((two_pow_le_div hm (by omega)).trans' (Nat.le_refl (2 ^ 8)) : 2 ^ 8 ≤ 2 ^ k / m) (-e - k)
  obtain ⟨b1, b2⟩ := estimate_bounds h3 h4 (-e - k)
  obtain ⟨d1, d2⟩ := div_bounds (2 ^ k) hm
  have hU : (0 : ℚ) < 2 ^ (-e - k : Int) := zpow_pos two_pos _
  have hx : (1 : ℚ) / (m * 2 ^ e) = (2 ^ k : Nat) / m * 2 ^ (-e - k : Int) := by
    rw [zpow_sub₀ two_ne_zero, zpow_neg, zpow_natCast]
    push_cast
    have : (m : ℚ) ≠ 0 := Nat.cast_ne_zero.2 hm
    field_simp
  refine ⟨j, -e - k + k', ?_, h1, h2, ?_, ?_⟩
  · rw [exRece, if_neg (by simpa using hm), hk]
    exact congrArg (·, _) ht
  · rw [hx]
    exact b1.trans (mul_le_mul_of_nonneg_right d1 hU.le)
  · rw [hx]
    exact (mul_lt_mul_of_pos_right d2 hU).trans_le b2

theorem exRsqe_spec {m : Nat} (hm : m ≠ 0) (e : Int) : ∃ (j : Nat) (k : Int), exRsqe (.fin false m e) = (.fin false j k false, 0) ∧
    128 ≤ j ∧ j < 256 ∧ (j * (2 : ℚ) ^ k) ^ 2 ≤ 1 / (m * 2 ^ e) ∧ 1 / (m * 2 ^ e) < ((j + 1) * (2 : ℚ) ^ k) ^ 2 := by
  have hex : exRsqe (.fin false m e) = (trunc8 false
      (isqrt (2 ^ (2 * (100 + Nat.log2 (m <<< (e % 2).toNat))) / (m <<< (e % 2).toNat)) (100 + Nat.log2 (m <<< (e % 2).toNat) + 1) 0)
      (-((100 + Nat.log2 (m <<< (e % 2).toNat) : Nat) : Int) - (e - (e % 2).toNat) / 2), 0) :=
    (if_neg (by simpa using hm)).trans (if_neg Bool.false_ne_true)
  rw [hex]
  have hodd : 2 * ((e - (e % 2).toNat) / 2) = e - (e % 2).toNat := by omega
  generalize (e % 2).toNat = odd at hodd ⊢
  generalize (e - odd) / 2 = h at hodd ⊢
  generalize hv : m <<< odd = v
  rw [Nat.shiftLeft_eq] at hv
  have hv0 : v ≠ 0 := by
    rw [← hv]
    exact Nat.mul_ne_zero hm (Nat.two_pow_pos _).ne'
  generalize hk : 100 + Nat.log2 v = k
  obtain ⟨s1, s2⟩ := isqrt_spec (2 ^ (2 * k) / v) (k + 1) 0 (by simp) (by
    rw [Nat.zero_add, ← Nat.pow_add]
    exact (Nat.div_le_self _ _).trans_lt (Nat.pow_lt_pow_right one_lt_two (by omega)))
  have hbig : 2 ^ 16 ≤ 2 ^ (2 * k) / v := two_pow_le_div hv0 (by omega)
  obtain ⟨d1, d2⟩ := div_bounds (2 ^ (2 * k)) hv0
  generalize 2 ^ (2 * k) / v = V at s1 s2 hbig d1 d2 ⊢
  generalize isqrt V (k + 1) 0 = r at s1 s2 ⊢
  have hr : 2 ^ 8 ≤ r := by
    by_contra hc
    have hr1 : r + 1 ≤ 2 ^ 8 := Nat.lt_of_not_le hc
    have := (Nat.mul_le_mul hr1 hr1).trans_lt' s2
    omega
  generalize hE : -(k : Int) - h = E
  obtain ⟨j, k', ht, h1, h2, h3, h4⟩ := trunc8_spec false hr E
  obtain ⟨b1, b2⟩ := estimate_bounds h3 h4 E
  have hx : (1 : ℚ) / (m * 2 ^ e) = (2 ^ (2 * k) : Nat) / v * (2 ^ E) ^ 2 := by
    have he : e = odd + (h + h) := by omega
    rw [← hE, ← hv, he, zpow_add₀ two_ne_zero, zpow_add₀ two_ne_zero, zpow_sub₀ two_ne_zero, zpow_neg, zpow_natCast, zpow_natCast]
    push_cast
    have : (m : ℚ) ≠ 0 := Nat.cast_ne_zero.2 hm
    field_simp
    rw [← pow_mul, Nat.mul_comm]
  have hU : (0 : ℚ) < (2 ^ E) ^ 2 := pow_pos (zpow_pos two_pos _) 2
  have s1Q : (r : ℚ) ^ 2 ≤ V := by rw [sq]; exact_mod_cast s1
  have s2Q : (V : ℚ) + 1 ≤ (r + 1) ^ 2 := by rw [sq]; exact_mod_cast s2
  refine ⟨j, E + k', by rw [ht], h1, h2, ?_, ?_⟩
  · rw [hx]
    calc ((j : ℚ) * 2 ^ (E + k')) ^ 2 ≤ (r * 2 ^ E) ^ 2 := pow_le_pow_left₀ (by positivity) b1 2
      _ = r ^ 2 * (2 ^ E) ^ 2 := mul_pow ..
      _ ≤ _ := mul_le_mul_of_nonneg_right (s1Q.trans d1) hU.le
  · rw [hx]
    calc ((2 ^ (2 * k) : Nat) : ℚ) / v * (2 ^ E) ^ 2 < (r + 1) ^ 2 * (2 ^ E) ^ 2 := mul_lt_mul_of_pos_right (d2.trans_le s2Q) hU
      _ = ((r + 1) * 2 ^ E) ^ 2 := (mul_pow ..).symm
      _ ≤ _ := pow_le_pow_left₀ (by positivity) b2 2

section
variable {w A B D : Nat} (rm : BitVec 3) (hA : IsNumber w A)
include hA

theorem vfRece_zero (h : (fmtOf w).value A = 0) : vfRece rm w A B D = (signed (fmtOf w) ((fmtOf w).minus A) (fmtOf w).infCode, fDZ) := by
  obtain ⟨m, e, dA, -, zA⟩ := decodeF_finite hA
  rw [vfRece, dA, exRece, if_pos (beq_iff_eq.2 (zA.2 h)), roundWith_inf]

theorem vfRsqe_zero (h : (fmtOf w).value A = 0) : vfRsqe rm w A B D = (signed (fmtOf w) ((fmtOf w).minus A) (fmtOf w).infCode, fDZ) := by
  obtain ⟨m, e, dA, -, zA⟩ := decodeF_finite hA
  rw [vfRsqe, dA, exRsqe, if_pos (beq_iff_eq.2 (zA.2 h)), roundWith_inf]

theorem vfRsqe_negative (h : (fmtOf w).value A < 0) : vfRsqe rm w A B D = ((fmtOf w).canonNaN, fNV) := by
  obtain ⟨m, e, dA, hm⟩ := decodeF_negative hA h
  rw [vfRsqe, dA, exRsqe, if_neg (by simpa using hm), if_pos rfl, roundWith_nan]

theorem vfRece_estimate (h : (fmtOf w).value A ≠ 0) : ∃ (j : Nat) (k : Int), 128 ≤ j ∧ j < 256 ∧ j * (2 : ℚ) ^ k ≤ 1 / |(fmtOf w).value A| ∧
    1 / |(fmtOf w).value A| < (j + 1) * (2 : ℚ) ^ k ∧
    (fmtOf w).Rounds 1 ((fmtOf w).minus A) (fun q => cmp q (j * (2 : ℚ) ^ k)) (vfRece rm w A B D) := by
  obtain ⟨m, e, dA, vA, zA⟩ := decodeF_finite hA
  obtain ⟨j, k, hr, h1, h2, h3, h4⟩ := exRece_spec ((fmtOf w).minus A) (fun c => h (zA.1 c)) e
  have hx : |(fmtOf w).value A| = m * 2 ^ e := by
    rw [← vA, Num.val, abs_mul, abs_sgn, one_mul, abs_of_nonneg (by positivity)]
  refine ⟨j, k, h1, h2, hx ▸ h3, hx ▸ h4, ?_⟩
  rw [vfRece, dA, hr, roundWith_quiet]
  exact roundEx_magnitude (fmtOf_binary w) 1 _ (by omega) k

theorem vfRsqe_estimate (h : 0 < (fmtOf w).value A) : ∃ (j : Nat) (k : Int), 128 ≤ j ∧ j < 256 ∧ (j * (2 : ℚ) ^ k) ^ 2 ≤ 1 / (fmtOf w).value A ∧
    1 / (fmtOf w).value A < ((j + 1) * (2 : ℚ) ^ k) ^ 2 ∧
    (fmtOf w).Rounds 1 false (fun q => cmp q (j * (2 : ℚ) ^ k)) (vfRsqe rm w A B D) := by
  obtain ⟨m, e, dA, vA, hm, -⟩ := decodeF_positive hA h
  obtain ⟨j, k, hr, h1, h2, h3, h4⟩ := exRsqe_spec hm e
  refine ⟨j, k, h1, h2, vA ▸ h3, vA ▸ h4, ?_⟩
  rw [vfRsqe, dA, hr, roundWith_quiet]
  exact roundEx_magnitude (fmtOf_binary w) 1 _ (by omega) k

end

end Sys2Proof.Machine
end

section
/-!
SUPPORT. The power of two and the rounding to an integer (R107, R108).
-/
namespace Sys2Proof.Machine

/-! ### The parts of a number (R108) -/

theorem floorNum_eq (n : Bool) (m : Nat) (e : Int) : floorNum n m e = ⌊(Num.fin n m e).val⌋ := by
  rw [floorNum, Num.val]
  by_cases he : 0 ≤ e
  · obtain ⟨k, rfl⟩ := Int.eq_ofNat_of_zero_le he
    have hm : ((m <<< (k : Int).toNat : Nat) : ℚ) = m * 2 ^ (k : Int) := by
      rw [Int.toNat_natCast, Nat.shiftLeft_eq, zpow_natCast]
      push_cast
      rfl
    rw [if_pos he, ← hm]
    cases n
    · rw [if_neg Bool.false_ne_true, sgn, if_neg Bool.false_ne_true, one_mul]
      exact (Int.floor_natCast _).symm
    · rw [if_pos rfl, sgn, if_pos rfl, neg_one_mul]
      exact_mod_cast (Int.floor_intCast _).symm
  · obtain ⟨k, rfl⟩ : ∃ k : Nat, e = -k := ⟨(-e).toNat, by omega⟩
    have hpos := Nat.two_pow_pos k
    have hm : (m : ℚ) * 2 ^ (-(k : Int)) = m / (2 ^ k : Nat) := by
      rw [zpow_neg, zpow_natCast, div_eq_mul_inv]
      push_cast
      rfl
    rw [if_neg he, hm, show (- -(k : Int)).toNat = k by omega]
    dsimp only
    rw [Nat.shiftRight_eq_div_pow, Nat.shiftRight_eq_div_pow, Nat.shiftLeft_eq, Nat.one_mul]
    cases n
    · rw [if_neg Bool.false_ne_true, sgn, if_neg Bool.false_ne_true, one_mul, Rat.floor_natCast_div_natCast]
      rfl
    · rw [if_pos rfl, sgn, if_pos rfl, neg_one_mul, ← neg_div, eq_comm, Int.floor_eq_iff]
      have h1 : m ≤ (m + 2 ^ k - 1) / 2 ^ k * 2 ^ k := by
        have := Nat.div_add_mod' (m + 2 ^ k - 1) (2 ^ k)
        have := Nat.mod_lt (m + 2 ^ k - 1) hpos
        omega
      have h2 : (m + 2 ^ k - 1) / 2 ^ k * 2 ^ k < m + 2 ^ k := by
        have := Nat.div_mul_le_self (m + 2 ^ k - 1) (2 ^ k)
        omega
      generalize (m + 2 ^ k - 1) / 2 ^ k = c at h1 h2 ⊢
      generalize 2 ^ k = P at hpos h1 h2 ⊢
      have hP : (0 : ℚ) < P := by exact_mod_cast hpos
      have h1Q : (m : ℚ) ≤ c * P := by exact_mod_cast h1
      have h2Q : (c : ℚ) * P < m + P := by exact_mod_cast h2
      push_cast
      constructor
      · rw [le_div_iff₀ hP]
        linarith
      · rw [div_lt_iff₀ hP]
        linarith

/-! ### What a rounding cannot exceed -/

theorem FFmt.Rounds.code_le {f : FFmt} {mode : BitVec 3} {x : ℚ} {r : Nat × Flags} (h : f.Rounds mode false (fun q => cmp q x) r) {c : Nat}
    (hx : x ≤ f.magnitude c) : r.1 ≤ c := by
  obtain ⟨lo, -, hlo, -, hcode, -⟩ := h
  rw [ne_eq, cmp_eq_gt_iff, not_lt] at hlo
  have hle : lo ≤ c := f.magnitude_strictMono.le_iff_le.1 (hlo.trans hx)
  have hif {P : Prop} [Decidable P] (hP : P → f.magnitude lo ≠ x) : (if P then lo + 1 else lo) ≤ c := by
    split
    · rename_i hup
      exact f.magnitude_strictMono.lt_iff_lt.1 ((lt_of_le_of_ne hlo (hP hup)).trans_le hx)
    · exact hle
  rw [hcode, signed, if_neg Bool.false_ne_true]
  exact hif fun hup => mt (cmp_eq_eq_iff _ _).2 hup.1

theorem FFmt.value_of_le {f : FFmt} {c b : Nat} (hc : c % f.signBit = 0 ∨ c ≤ b) (hb : b < f.infCode) :
    c % f.signBit < f.infCode ∧ 0 ≤ f.value c ∧ f.value c ≤ f.magnitude b := by
  have hinf := f.infCode_lt
  rcases hc with hc | hc
  · refine ⟨by omega, ?_, ?_⟩
    · rw [value, hc, f.magnitude_zero, mul_zero]
    · rw [value, hc, f.magnitude_zero, mul_zero]
      exact f.magnitude_nonneg b
  · have hlt : c < f.signBit := by omega
    have hv : f.value c = f.magnitude c := by
      rw [value, Nat.div_eq_of_lt hlt, Nat.mod_eq_of_lt hlt]
      simp
    refine ⟨by rw [Nat.mod_eq_of_lt hlt]; omega, ?_, ?_⟩
    · rw [hv]
      exact f.magnitude_nonneg c
    · rw [hv]
      exact f.magnitude_strictMono.monotone hc

theorem FFmt.RoundsQ.bounds {f : FFmt} {mode : BitVec 3} {x : ℚ} {r : Nat × Flags} (h : f.RoundsQ mode x r) {b : Nat}
    (hb : b < f.infCode) (h0 : 0 ≤ x)
    (hx : x ≤ f.magnitude b) : r.1 % f.signBit < f.infCode ∧ 0 ≤ f.value r.1 ∧ f.value r.1 ≤ f.magnitude b := by
  refine f.value_of_le ?_ hb
  by_cases hz : x = 0
  · rw [RoundsQ, if_pos hz] at h
    exact .inl h.1
  · rw [RoundsQ, if_neg hz, decide_eq_false (not_lt.2 h0), abs_of_nonneg h0] at h
    exact .inr (h.code_le hx)

/-- The powers of two of binary32. -/
theorem f32_magnitude_two_pow (k : Nat) : f32.magnitude ((127 + k) * 2 ^ 23) = 2 ^ k := by
  have h := f32.magnitude_eq (k := 126 + k) (n := 2 ^ 23) (by decide) (.inr le_rfl)
  have hc : (126 + k) * 2 ^ f32.mb + 2 ^ 23 = (127 + k) * 2 ^ 23 := by
    change (126 + k) * 2 ^ 23 + 2 ^ 23 = _
    omega
  rw [hc] at h
  rw [h, show f32.tiny + ((126 + k : Nat) : Int) = k - 23 by
    have : f32.tiny = -149 := by decide
    rw [this]
    push_cast
    ring, zpow_sub₀ two_ne_zero, zpow_natCast]
  push_cast
  ring

/-! ### The power of two (R108) -/

/-- The fraction of a number in units of 2^q, its first six bits and the rest. -/
theorem fraction_parts (n : Bool) (m : Nat) (e : Int) {q : Int} (hq : q = min e (-6)) {x : ℚ} (hx : x = (Num.fin n m e).val) :
    let fn := (scaled n m e q - ⌊x⌋ * ((1 <<< (-q).toNat : Nat) : Int)).toNat
    let unit := 1 <<< (-q - 6).toNat
    ⌊64 * (x - ⌊x⌋)⌋ = (fn / unit : Nat) ∧ x - ⌊x⌋ - (fn / unit : Nat) / 64 = (fn % unit : Nat) * 2 ^ q ∧ ((fn % unit : Nat) : ℚ) * 2 ^ q ≤ 1 := by
  intro fn unit
  have hsc := scaled_val n m (hq ▸ min_le_left e (-6) : q ≤ e)
  rw [← Num.val, ← hx] at hsc
  obtain ⟨k, rfl⟩ : ∃ k : Nat, q = -(k + 6 : Nat) := ⟨(-q - 6).toNat, by omega⟩
  have hunit : unit = 2 ^ k := by
    change 1 <<< (- -((k + 6 : Nat) : Int) - 6).toNat = 2 ^ k
    rw [Nat.shiftLeft_eq, Nat.one_mul]
    congr 1
    omega
  have hone : ((1 <<< (- -((k + 6 : Nat) : Int)).toNat : Nat) : Int) = 64 * 2 ^ k := by
    rw [Nat.shiftLeft_eq, Nat.one_mul, show (- -((k + 6 : Nat) : Int)).toNat = 6 + k by omega, Nat.pow_add]
    push_cast
    rfl
  have hU : (0 : ℚ) < 2 ^ (-((k + 6 : Nat) : Int)) := zpow_pos two_pos _
  have hinv : (64 * 2 ^ k : ℚ) * 2 ^ (-((k + 6 : Nat) : Int)) = 1 := by
    rw [zpow_neg, zpow_natCast, Nat.add_comm, pow_add]
    have : (2 : ℚ) ^ k ≠ 0 := by positivity
    field_simp
    norm_num
  generalize (2 : ℚ) ^ (-((k + 6 : Nat) : Int)) = U at hsc hU hinv ⊢
  have hd0 := Int.floor_le x
  have hd1 := Int.lt_floor_add_one x
  have hfrac : (fn : ℚ) * U = x - ⌊x⌋ := by
    have hF : ((scaled n m e (-((k + 6 : Nat) : Int)) - ⌊x⌋ * (64 * 2 ^ k) : Int) : ℚ) * U = x - ⌊x⌋ := by
      rw [Int.cast_sub, sub_mul, hsc]
      push_cast
      rw [mul_assoc, hinv, mul_one]
    have h0 : 0 ≤ scaled n m e (-((k + 6 : Nat) : Int)) - ⌊x⌋ * (64 * 2 ^ k) := by
      have : (0 : ℚ) ≤ ((scaled n m e (-((k + 6 : Nat) : Int)) - ⌊x⌋ * (64 * 2 ^ k) : Int) : ℚ) :=
        nonneg_of_mul_nonneg_left (by rw [hF]; linarith) hU
      exact_mod_cast this
    change ((scaled n m e (-((k + 6 : Nat) : Int)) - ⌊x⌋ * ((1 <<< (- -((k + 6 : Nat) : Int)).toNat : Nat) : Int)).toNat : ℚ) * U = _
    rw [hone, ← hF]
    congr 1
    exact_mod_cast Int.toNat_of_nonneg h0
  generalize hfn : fn = F at hfrac ⊢
  rw [hunit]
  have hpos := Nat.two_pow_pos k
  have hdm : (F : ℚ) = (F / 2 ^ k : Nat) * (2 ^ k : Nat) + (F % 2 ^ k : Nat) := by exact_mod_cast (Nat.div_add_mod' F (2 ^ k)).symm
  have hlt : ((F % 2 ^ k : Nat) : ℚ) < (2 ^ k : Nat) := by exact_mod_cast Nat.mod_lt F hpos
  generalize F % 2 ^ k = t at hdm hlt ⊢
  generalize F / 2 ^ k = j at hdm ⊢
  push_cast at hdm hlt
  have hrest : x - ⌊x⌋ - j / 64 = t * U := by
    rw [← hfrac, hdm]
    linear_combination (j / 64 : ℚ) * hinv
  have ht0 : 0 ≤ (t : ℚ) * U := by positivity
  have ht1 : (t : ℚ) * U < 1 / 64 := by
    have : (t : ℚ) * U < 2 ^ k * U := mul_lt_mul_of_pos_right hlt hU
    linarith
  refine ⟨?_, hrest, by linarith⟩
  rw [Int.floor_eq_iff]
  push_cast
  constructor <;> linarith

/-- y rounds to code c of binary32 under RNE. -/
def RoundStep (y : ℚ) (c : Nat) : Prop := ∃ fl, f32.RoundsQ 0 y (c, fl)

/-- The rounding of a number within [0, 2^k] stays there. -/
theorem RoundStep.bounds {y : ℚ} {c : Nat} (h : RoundStep y c) {k : Nat} (hk : k < 128) (h0 : 0 ≤ y) (hy : y ≤ 2 ^ k) :
    IsNumber 32 c ∧ 0 ≤ f32.value c ∧ f32.value c ≤ 2 ^ k := by
  obtain ⟨fl, h⟩ := h
  rw [← f32_magnitude_two_pow k] at hy ⊢
  exact FFmt.RoundsQ.bounds h (by change _ < 255 * 2 ^ 23; omega) h0 hy

theorem fmtOf_32 : fmtOf 32 = f32 := rfl

theorem addF32_step {a b : Nat} (ha : IsNumber 32 a) (hb : IsNumber 32 b) : RoundStep (f32.value a + f32.value b) (addF32 a b) := by
  have h := vfAdd_rounds (D := 0) 0 ha hb
  have hr : vfAdd 0 32 a b 0 = (addF32 a b, (vfAdd 0 32 a b 0).2) := by
    rw [vfAdd, roundWith, fmtOf_32, addF32]
  rw [fmtOf_32, hr] at h
  exact ⟨_, h⟩

theorem mulF32_step {a b : Nat} (ha : IsNumber 32 a) (hb : IsNumber 32 b) : RoundStep (f32.value a * f32.value b) (mulF32 a b) := by
  have h := vfMul_rounds (D := 0) 0 ha hb
  have hr : vfMul 0 32 a b 0 = (mulF32 a b, (vfMul 0 32 a b 0).2) := by
    rw [vfMul, roundWith, fmtOf_32, mulF32]
  rw [fmtOf_32, hr] at h
  exact ⟨_, h⟩

theorem exp2Table_code (j : Nat) :
    IsNumber 32 (exp2Table.getD j 0) ∧ 0 ≤ f32.value (exp2Table.getD j 0) ∧ f32.value (exp2Table.getD j 0) ≤ 2 ^ 1 := by
  have hall : ∀ c, c ∈ exp2Table → c ≤ (127 + 1) * 2 ^ 23 := by decide
  have hle : exp2Table.getD j 0 ≤ (127 + 1) * 2 ^ 23 := by
    rw [List.getD_eq_getElem?_getD]
    cases hj : exp2Table[j]? with
    | none => exact Nat.zero_le _
    | some c => exact hall c (List.mem_of_getElem? hj)
  rw [← f32_magnitude_two_pow 1]
  exact f32.value_of_le (.inr hle) (by decide)

/-- The product of a number of units of 2^q and a code. -/
theorem mulUnits_step (t : Nat) (q : Int) {c : Nat} (hc : IsNumber 32 c) :
    RoundStep (t * 2 ^ q * f32.value c) (roundEx f32 0 (exMul (.fin false t q) (decodeF f32 c)).1).1 := by
  obtain ⟨m, e, dc, vc, -⟩ := decodeF_finite (f := f32) hc
  have hv : (t * 2 ^ q : ℚ) = (Num.fin false t q).val := by rw [Num.val, sgn, if_neg Bool.false_ne_true, one_mul]
  rw [dc, ← vc, hv, ← mulNum_val]
  exact ⟨_, (Num.toEx_exact _ (t * m) (q + e)).roundsQ f32_binary 0⟩

theorem f32_value_one : f32.value 0x3F800000 = 1 := by
  have h := f32_magnitude_two_pow 0
  rw [show (127 + 0) * 2 ^ 23 = 0x3F800000 by norm_num] at h
  rw [FFmt.value, show 0x3F800000 / f32.signBit % 2 = 0 by decide, show 0x3F800000 % f32.signBit = 0x3F800000 by decide, h]
  norm_num

/-- The constants of R108 are at most 1. -/
theorem exp2_constant {c : Nat} (h : c ≤ 0x3F800000) : IsNumber 32 c ∧ 0 ≤ f32.value c ∧ f32.value c ≤ 2 ^ 0 := by
  rw [← f32_magnitude_two_pow 0]
  exact f32.value_of_le (.inr (by omega)) (by decide)

/-- The five roundings of R108 and the scaling by 2^nn. -/
theorem expTwoEx_steps (n : Bool) (m : Nat) (e : Int) {x : ℚ} (hx : x = (Num.fin n m e).val) (hlow : -149 ≤ ⌊x⌋) :
    let j := ⌊64 * (x - ⌊x⌋)⌋
    let t := x - ⌊x⌋ - j / 64
    ∃ p1 p2 p3 p4 p5, RoundStep (t * f32.value 0x3E75FDF0) p1 ∧ RoundStep (f32.value 0x3F317218 + f32.value p1) p2 ∧
      RoundStep (t * f32.value p2) p3 ∧ RoundStep (1 + f32.value p3) p4 ∧
      RoundStep (f32.value (exp2Table.getD j.toNat 0) * f32.value p4) p5 ∧
      ∃ r, expTwoEx (.fin n m e) = (r, 0) ∧ r.Exact (f32.value p5 * 2 ^ ⌊x⌋) := by
  intro j t
  generalize hq : min e (-6) = q
  obtain ⟨hj, ht, hu⟩ := fraction_parts n m e hq.symm hx
  have hex := expTwoEx.eq_3 n m e
  rw [floorNum_eq, ← hx] at hex
  dsimp only at hex
  rw [if_neg (not_lt.2 hlow), hq] at hex
  generalize (scaled n m e q - ⌊x⌋ * ((1 <<< (-q).toNat : Nat) : Int)).toNat = fn at hj ht hu hex
  generalize 1 <<< (-q - 6).toNat = unit at hj ht hu hex
  generalize fn % unit = u at ht hu hex
  have hjn : j = (fn / unit : Nat) := hj
  have htq : t = u * 2 ^ q := by
    rw [← ht]
    change x - ⌊x⌋ - (j : ℚ) / 64 = _
    rw [hjn, Int.cast_natCast]
  rw [hjn, htq, Int.toNat_natCast]
  have hu0 : (0 : ℚ) ≤ u * 2 ^ q := by positivity
  generalize fn / unit = i at hex ⊢
  obtain ⟨c1, c1l, c1h⟩ := exp2_constant (c := exp2C1) (by decide)
  obtain ⟨c2, c2l, c2h⟩ := exp2_constant (c := exp2C2) (by decide)
  obtain ⟨co, -, -⟩ := exp2_constant (c := 0x3F800000) le_rfl
  obtain ⟨ci, cil, cih⟩ := exp2Table_code i
  have s1 := mulUnits_step u q c2
  obtain ⟨n1, l1, h1⟩ := s1.bounds (k := 0) (by norm_num) (by positivity) (by nlinarith)
  generalize (roundEx f32 0 (exMul (.fin false u q) (decodeF f32 exp2C2)).1).1 = p1 at s1 n1 l1 h1 hex
  have s2 := addF32_step c1 n1
  obtain ⟨n2, l2, h2⟩ := s2.bounds (k := 1) (by norm_num) (by positivity) (by linarith)
  generalize addF32 exp2C1 p1 = p2 at s2 n2 l2 h2 hex
  have s3 := mulUnits_step u q n2
  obtain ⟨n3, l3, h3⟩ := s3.bounds (k := 1) (by norm_num) (by positivity) (by nlinarith)
  generalize (roundEx f32 0 (exMul (.fin false u q) (decodeF f32 p2)).1).1 = p3 at s3 n3 l3 h3 hex
  have s4 := addF32_step co n3
  rw [f32_value_one] at s4
  obtain ⟨n4, l4, h4⟩ := s4.bounds (k := 2) (by norm_num) (by positivity) (by linarith)
  generalize addF32 0x3F800000 p3 = p4 at s4 n4 l4 h4 hex
  have s5 := mulF32_step ci n4
  obtain ⟨n5, -, -⟩ := s5.bounds (k := 3) (by norm_num) (by positivity) (by nlinarith)
  generalize mulF32 (exp2Table.getD i 0) p4 = p5 at s5 n5 hex
  obtain ⟨m5, e5, d5, v5, -⟩ := decodeF_finite (f := f32) n5
  rw [d5] at hex
  refine ⟨p1, p2, p3, p4, p5, s1, s2, s3, s4, s5, _, hex, ?_⟩
  have hv : f32.value p5 * 2 ^ ⌊x⌋ = (Num.fin (f32.minus p5) m5 (e5 + ⌊x⌋)).val := by
    rw [← v5, Num.val, Num.val, zpow_add₀ two_ne_zero, mul_assoc, mul_assoc]
  rw [hv]
  exact Num.toEx_exact _ _ _

section
variable {w A B D : Nat} (rm : BitVec 3) (hA : IsNumber w A)
include hA

theorem vfExp2_low (h : ⌊(fmtOf w).value A⌋ < -149) : vfExp2 rm w A B D = (0, 0) := by
  obtain ⟨m, e, dA, vA, -⟩ := decodeF_finite hA
  rw [← vA, ← floorNum_eq] at h
  rw [vfExp2, dA, expTwoEx]
  dsimp only
  rw [if_pos h, roundWith_zero]
  rfl

theorem vfExp2_steps (h : -149 ≤ ⌊(fmtOf w).value A⌋) :
    let x := (fmtOf w).value A
    let j := ⌊64 * (x - ⌊x⌋)⌋
    let t := x - ⌊x⌋ - j / 64
    ∃ p1 p2 p3 p4 p5, RoundStep (t * f32.value 0x3E75FDF0) p1 ∧ RoundStep (f32.value 0x3F317218 + f32.value p1) p2 ∧
      RoundStep (t * f32.value p2) p3 ∧ RoundStep (1 + f32.value p3) p4 ∧
      RoundStep (f32.value (exp2Table.getD j.toNat 0) * f32.value p4) p5 ∧
      (fmtOf w).RoundsQ 0 (f32.value p5 * 2 ^ ⌊x⌋) (vfExp2 rm w A B D) := by
  intro x j t
  obtain ⟨m, e, dA, vA, -⟩ := decodeF_finite hA
  obtain ⟨p1, p2, p3, p4, p5, s1, s2, s3, s4, s5, r, hr, hex⟩ := expTwoEx_steps _ m e vA.symm h
  refine ⟨p1, p2, p3, p4, p5, s1, s2, s3, s4, s5, ?_⟩
  rw [vfExp2, dA, hr]
  exact hex.roundWith w 0

end

/-! ### Rounding to an integer (R98, R107) -/

/-- Whether a number that is no integer goes to the integer above, by its distance from the integer below (R98). -/
def integerUp (mode : BitVec 3) (x : ℚ) : Bool :=
  let d := x - ⌊x⌋
  match mode.toNat with
  | 1 => decide (x < 0 ∧ d ≠ 0)
  | 2 => false
  | 3 => decide (d ≠ 0)
  | 4 => decide (1 / 2 < d ∨ d = 1 / 2 ∧ 0 ≤ x)
  | _ => decide (1 / 2 < d ∨ d = 1 / 2 ∧ ⌊x⌋ % 2 = 1)

/-- The rounding of a magnitude to an integer. -/
theorem roundAt_integer (mode : BitVec 3) (neg : Bool) (m : Nat) (e : Int) {X : ℚ} (hX : X = m * 2 ^ e) :
    ∃ n : Nat, (n : ℚ) ≤ X ∧ X < n + 1 ∧ ((roundAt mode neg m e 0 false).2 = true ↔ (n : ℚ) ≠ X) ∧
      (roundAt mode neg m e 0 false).1 = if (n : ℚ) ≠ X ∧ awayBy mode neg (cmp ((n : ℚ) + 1 / 2) X) (n % 2 == 1) = true then n + 1 else n := by
  have hst : Stands m e false (X : ℝ) := by
    rw [hX]
    push_cast
    exact stands_exact m e
  obtain ⟨n, ⟨hl, hh⟩, h2, h1⟩ := roundAt_spec mode neg hst (q := 0) (by simp)
  rw [zpow_zero, mul_one] at hl hh h2 h1
  rw [mul_one] at h1
  have hne : (n : ℝ) ≠ X ↔ (n : ℚ) ≠ X := by exact_mod_cast Iff.rfl
  have hcmp : cmp ((n : ℝ) + 1 / 2) X = cmp ((n : ℚ) + 1 / 2) X := by
    rw [← Rat.cast_strictMono.cmp_map_eq (β := ℝ)]
    push_cast
    rfl
  refine ⟨n, by exact_mod_cast hl, by exact_mod_cast hh, h2.trans hne, h1.trans (if_congr ?_ rfl rfl)⟩
  rw [hne, hcmp]

/-- A number that is no integer goes up where it goes away from zero, or where a negative one does not. -/
theorem integerUp_eq (mode : BitVec 3) (x : ℚ) : integerUp mode x = (decide (x - ⌊x⌋ ≠ 0) &&
    if x < 0 then !awayBy mode true (cmp (x - ⌊x⌋) (1 / 2)) (⌊x⌋ % 2 == 0) else awayBy mode false (cmp (1 / 2) (x - ⌊x⌋)) (⌊x⌋ % 2 == 1)) := by
  have hpar : (⌊x⌋ % 2 == 0) = !decide (⌊x⌋ % 2 = 1) := by
    rcases Int.emod_two_eq_zero_or_one ⌊x⌋ with h | h <;> simp [h]
  have hodd : (⌊x⌋ % 2 == 1) = decide (⌊x⌋ % 2 = 1) := rfl
  have hsign : decide (0 ≤ x) = !decide (x < 0) := by rw [← decide_not, decide_eq_decide, not_lt]
  have hlt : (Ordering.lt != Ordering.gt) = true := rfl
  have heq : (Ordering.eq != Ordering.gt) = true := rfl
  have hpos : (0 : ℚ) < 1 / 2 := by norm_num
  unfold integerUp
  rw [hpar, hodd]
  generalize x - ⌊x⌋ = d
  generalize (1 / 2 : ℚ) = half at hpos ⊢
  rcases lt_trichotomy half d with h | h | h
  · have hd : d ≠ 0 := (hpos.trans h).ne'
    rw [(cmp_eq_lt_iff _ _).2 h, (cmp_eq_gt_iff _ _).2 h]
    rcases mode_cases mode with rfl | rfl | rfl | rfl | rfl | rfl | rfl | rfl <;> by_cases hx : x < 0 <;> simp [awayBy, hd, hx, h, hlt]
  · have hd : d ≠ 0 := h ▸ hpos.ne'
    rw [h, (cmp_eq_eq_iff d d).2 rfl]
    rcases mode_cases mode with rfl | rfl | rfl | rfl | rfl | rfl | rfl | rfl <;> by_cases hx : x < 0 <;> simp [awayBy, hd, hx, hsign, heq]
  · rw [(cmp_eq_gt_iff _ _).2 h, (cmp_eq_lt_iff _ _).2 h]
    rcases mode_cases mode with rfl | rfl | rfl | rfl | rfl | rfl | rfl | rfl <;> by_cases hx : x < 0 <;>
      simp [awayBy, hx, h.not_gt, h.ne, hlt]

theorem cmp_of_sub_eq {a b c d : ℚ} (h : a - b = c - d) : cmp a b = cmp c d := by
  rw [← cmp_sub_zero, ← cmp_sub_zero c, h]

theorem integerUp_intCast (mode : BitVec 3) (i : Int) : integerUp mode i = false := by
  rw [integerUp_eq, Int.floor_intCast, sub_self]
  rfl

section
variable (mode : BitVec 3) {n : Nat} {X : ℚ} (hl : (n : ℚ) < X) (hh : X < n + 1)
include hl hh

theorem integerUp_above : ⌊X⌋ = n ∧ X - ⌊X⌋ ≠ 0 ∧ integerUp mode X = awayBy mode false (cmp ((n : ℚ) + 1 / 2) X) (n % 2 == 1) := by
  have hn : (0 : ℚ) ≤ n := Nat.cast_nonneg n
  have hfl : ⌊X⌋ = n := Int.floor_eq_iff.2 ⟨hl.le, hh⟩
  have hd : X - (n : Int) ≠ 0 := by
    rw [Int.cast_natCast]
    linarith
  have hcmp : cmp ((n : ℚ) + 1 / 2) X = cmp (1 / 2) (X - (n : Int)) := cmp_of_sub_eq (by
    rw [Int.cast_natCast]
    ring)
  have hodd : ((n : Int) % 2 == 1) = (n % 2 == 1) := by
    rw [Bool.eq_iff_iff, beq_iff_eq, beq_iff_eq]
    omega
  refine ⟨hfl, hfl ▸ hd, ?_⟩
  rw [integerUp_eq, hfl, decide_eq_true hd, Bool.true_and, if_neg (by linarith), hcmp, hodd]

theorem integerUp_below : ⌊-X⌋ = -(n : Int) - 1 ∧ -X - ⌊-X⌋ ≠ 0 ∧ integerUp mode (-X) = !awayBy mode true (cmp ((n : ℚ) + 1 / 2) X) (n % 2 == 1) := by
  have hn : (0 : ℚ) ≤ n := Nat.cast_nonneg n
  have hfl : ⌊-X⌋ = -(n : Int) - 1 := by
    rw [Int.floor_eq_iff]
    push_cast
    constructor <;> linarith
  have hd : -X - ((-(n : Int) - 1 : Int) : ℚ) ≠ 0 := by
    push_cast
    linarith
  have hcmp : cmp ((n : ℚ) + 1 / 2) X = cmp (-X - ((-(n : Int) - 1 : Int) : ℚ)) (1 / 2) := cmp_of_sub_eq (by
    push_cast
    ring)
  have heven : ((-(n : Int) - 1) % 2 == 0) = (n % 2 == 1) := by
    rw [Bool.eq_iff_iff, beq_iff_eq, beq_iff_eq]
    omega
  refine ⟨hfl, hfl ▸ hd, ?_⟩
  rw [integerUp_eq, hfl, decide_eq_true hd, Bool.true_and, if_pos (by linarith), hcmp, heven]

end

theorem toInteger_eq (mode : BitVec 3) (neg : Bool) (m : Nat) (e : Int) {x : ℚ} (hx : x = (Num.fin neg m e).val) :
    toInteger mode neg m e = (if integerUp mode x then ⌊x⌋ + 1 else ⌊x⌋, decide (x - ⌊x⌋ ≠ 0)) := by
  obtain ⟨n, hl, hh, h2, h1⟩ := roundAt_integer mode neg m e rfl
  rw [toInteger]
  generalize roundAt mode neg m e 0 false = r at h2 h1 ⊢
  rw [Num.val] at hx
  generalize (m * 2 ^ e : ℚ) = X at hl hh h2 h1 hx
  by_cases hne : (n : ℚ) = X
  · have hxi : x = ((if neg then -(n : Int) else n : Int) : ℚ) := by
      rw [hx, ← hne, sgn]
      cases neg <;> simp
    have hr : r = (n, false) := Prod.ext (h1.trans (if_neg fun c => c.1 hne)) (by simpa [hne] using h2)
    rw [hxi, integerUp_intCast, Int.floor_intCast, sub_self, hr]
    rfl
  · have hlt : (n : ℚ) < X := lt_of_le_of_ne hl hne
    have hr (up : Bool) (hup : awayBy mode neg (cmp ((n : ℚ) + 1 / 2) X) (n % 2 == 1) = up) : r = (if up then n + 1 else n, true) := by
      rw [hup] at h1
      exact Prod.ext (h1.trans (by simp [hne])) (h2.2 hne)
    cases neg
    · rw [sgn, if_neg Bool.false_ne_true, one_mul] at hx
      obtain ⟨hfl, hd, hup⟩ := integerUp_above mode hlt hh
      rw [hx, decide_eq_true hd, hfl, hr _ hup.symm]
      cases integerUp mode X <;> rfl
    · rw [sgn, if_pos rfl, neg_one_mul] at hx
      obtain ⟨hfl, hd, hup⟩ := integerUp_below mode hlt hh
      rw [hx, decide_eq_true hd, hfl, hr (!integerUp mode (-X)) (by rw [hup, Bool.not_not])]
      cases integerUp mode (-X)
      · exact Prod.ext (by simp; ring) rfl
      · exact Prod.ext (by simp) rfl

theorem vfCvtfi_eq {w A B D : Nat} (rm : BitVec 3) (hw : w ∈ [16, 32]) (hA : IsNumber w A) :
    let x := (fmtOf w).value A
    let n : Int := if integerUp rm x then ⌊x⌋ + 1 else ⌊x⌋
    vfCvtfi rm w A B D = if 2 ^ (w - 1) - 1 < n then (2 ^ (w - 1) - 1, fNV) else if n < -(2 : Int) ^ (w - 1) then (2 ^ (w - 1), fNV)
      else ((n % 2 ^ w).toNat, if x - ⌊x⌋ = 0 then 0 else fNX) := by
  intro x n
  obtain ⟨m, e, dA, vA, -⟩ := decodeF_finite hA
  have hn : toInteger rm ((fmtOf w).minus A) m e = (n, decide (x - ⌊x⌋ ≠ 0)) := toInteger_eq rm _ m e vA.symm
  have hmax : sMax w = 2 ^ (w - 1) - 1 := by simp [sMax]
  have hmin : sMin w = -(2 : Int) ^ (w - 1) := by simp [sMin]
  have hwrap : wrapI w (sMax w) = 2 ^ (w - 1) - 1 ∧ wrapI w (sMin w) = 2 ^ (w - 1) := by
    simp only [List.mem_cons, List.not_mem_nil, or_false] at hw
    obtain rfl | rfl := hw <;> decide
  rw [vfCvtfi, dA]
  dsimp only
  rw [hn, hwrap.1, hwrap.2, hmax, hmin]
  refine if_congr Iff.rfl rfl (if_congr Iff.rfl rfl (Prod.ext ?_ ?_))
  · rw [wrapI]
    push_cast
    rfl
  · by_cases hd : x - ⌊x⌋ = 0
    · rw [if_pos hd, decide_eq_false (not_not.2 hd)]
      rfl
    · rw [if_neg hd, decide_eq_true hd]
      rfl

end Sys2Proof.Machine
end

section
/-!
SUPPORT. The loop of the float members (R48 to R50, R99, R105): each element from the sources as they stood, and the element at which an
enabled flag stops it.
-/
namespace Sys2Proof.Machine

/-! ### The captured operands -/

/-- What a member captures with nothing outstanding. -/
structure Capture.Fresh (cap : Capture) (s : State) (xs : List Word) : Prop where
  vtype : cap.vtype = s.me.vtype
  vl : cap.vl = s.me.vl
  start : cap.start = s.me.vstart
  operands : cap.xs = xs

theorem captureNow_fresh {s : State} (hr : s.Ready) (w : Insn) (caps : State → List Word) : (s.captureNow w caps).Fresh s (caps s) where
  vtype := rfl
  vl := rfl
  start := Hart.vstartNow_of_empty (stream_of_ready hr)
  operands := rfl

theorem Capture.Fresh.sew {cap : Capture} {s : State} {xs : List Word} (h : cap.Fresh s xs) : cap.sew = sewOf s.me.vtype := by
  rw [Capture.sew, h.vtype]

theorem Capture.Fresh.elems {cap : Capture} {s : State} {xs : List Word} (h : cap.Fresh s xs) :
    cap.elems = List.range' s.me.vstart (s.me.vl - s.me.vstart) := by
  rw [Capture.elems, h.start, h.vl]

/-! ### The loop -/

/-- Where no flag is enabled no element stops the loop. -/
theorem elemLoop_quiet (f : Hart → Nat → Nat × Flags) (k : MReg) (d w : Nat) (ma : Bool) (es : List Nat) {h : Hart} (hq : h.enables = 0) :
    ∃ v fl, elemLoop f k d w ma es h = ({ h with v := v, fflags := fl }, none) := by
  induction es generalizing h with
  | nil => exact ⟨h.v, h.fflags, rfl⟩
  | cons e es ih =>
    have hnt : h.traps (f h e).2 = false := by simp [Hart.traps, hq]
    rw [elemLoop]
    split
    · rw [if_neg (by rw [hnt]; exact Bool.false_ne_true)]
      exact ih (h := (h.setElem d e w (f h e).1).accrue (f h e).2) hq
    · split
      · exact ih (h := h.setElem d e w 0) hq
      · exact ih hq

/-- A loop whose first elements do not stop goes on with the others. -/
theorem elemLoop_append {f : Hart → Nat → Nat × Flags} {k : MReg} {d w : Nat} {ma : Bool} {es : List Nat} {h h' : Hart}
    (hrun : elemLoop f k d w ma es h = (h', none)) (es' : List Nat) : elemLoop f k d w ma (es ++ es') h = elemLoop f k d w ma es' h' := by
  induction es generalizing h with
  | nil =>
    rw [elemLoop, Prod.mk.injEq] at hrun
    rw [List.nil_append, hrun.1]
  | cons e es ih =>
    rw [elemLoop] at hrun
    rw [List.cons_append, elemLoop]
    by_cases ha : h.isActive k e = true
    · rw [if_pos ha] at hrun ⊢
      by_cases ht : h.traps (f h e).2 = true
      · rw [if_pos ht] at hrun
        cases hrun
      · rw [if_neg ht] at hrun ⊢
        exact ih hrun
    · rw [if_neg ha] at hrun ⊢
      exact ih hrun

/-- A group of the element width that is the destination's or lies apart keeps its elements while others of the destination are written. -/
theorem Hart.Alike.elem_eq {h h' : Hart} {d r e e' : Nat} (H : Hart.Alike d (lmulOf h.vtype) (sewOf h.vtype) e h h')
    (hd : groupOk h.vtype d (sewOf h.vtype) = true) (hr : groupOk h.vtype r (sewOf h.vtype) = true)
    (hin : e' * sewOf h.vtype / h.regBits < lmulOf h.vtype)
    (hsame : r = d → e' = e) : h'.elem r e' (sewOf h.vtype) = h.elem r e' (sewOf h.vtype) := by
  obtain ⟨⟨v, fl, rfl⟩, hel, hout⟩ := H
  by_cases hrd : r = d
  · rw [hsame hrd, hrd]
    exact hel
  · have hap := overlaps_of_ne hd hr (Ne.symm hrd)
    refine Hart.elem_congr rfl (hout _ ?_)
    generalize e' * sewOf h.vtype / h.regBits = j at hin ⊢
    simp only [overlaps, Bool.and_eq_false_iff, decide_eq_false_iff_not] at hap
    omega

section
variable {s : State} (hr : s.Ready) (hsh : s.me.Shaped) {d : VReg} {k : MReg} (hd : groupOk s.me.vtype d.toNat (sewOf s.me.vtype) = true)
  {cap : Capture} {xs : List Word} (hcap : cap.Fresh s xs) {rd : Hart → Nat → List Rd} {f : Capture → Hart → Nat → Nat × Flags}

include hr in
/-- The body by what its loop leaves. -/
theorem vecBody_of_loop {h : Hart} (hloop : elemLoop (f cap) k d.toNat cap.sew (maOf cap.vtype) cap.elems s.me = (h, none)) :
    vecBody rd d.toNat cap.sew k f cap s = .done (s.setMe { h.tail cap.vtype d.toNat cap.sew cap.vl with vstart := 0 }) := by
  have hb := bad_of_ready hr
  rw [vecBody, badReads_of_none hb, hloop]
  exact congrArg VRes.done (healVec_of_clean (s := s.setMe { h.tail cap.vtype d.toNat cap.sew cap.vl with vstart := 0 }) hb ..)

include hsh in
theorem pos_of_shaped : 0 < s.me.regBits := Nat.mul_pos hsh.1 (by decide)

include hd in
theorem regs_of_groupOk : d.toNat + lmulOf s.me.vtype ≤ 32 := by
  simp only [groupOk, emulOf_sew, Bool.and_eq_true, decide_eq_true_eq] at hd
  exact hd.2

include hsh hd hcap in
theorem Capture.Fresh.tail_is {v : Vector VBits 32} {fl : Flags} :
    Hart.GroupIs { s.me with v := v, fflags := fl } (Hart.tail { s.me with v := v, fflags := fl } cap.vtype d.toNat cap.sew cap.vl) d.toNat
      (lmulOf s.me.vtype) (sewOf s.me.vtype)
      (fun e => if taOf s.me.vtype = true ∧ s.me.vl ≤ e then 0 else Hart.elem { s.me with v := v } d.toNat e (sewOf s.me.vtype)) := by
  have h := groupIs_tail (h := { s.me with v := v, fflags := fl }) (r := d.toNat) (n := lmulOf s.me.vtype) (w := sewOf s.me.vtype) (vl := s.me.vl)
    s.me.vtype (emulOf_sew _) (s.me.sew_dvd_regBits _) (pos_of_shaped hsh) (regs_of_groupOk hd)
  rw [hcap.vtype, hcap.sew, hcap.vl]
  exact h

include hr hsh hd hcap

/-- Where no flag is enabled the body completes, and changes the destination and the flags only. -/
theorem vecBody_quiet (hq : s.FpQuiet) :
    ∃ v fl, vecBody rd d.toNat cap.sew k f cap s = .done (s.setMe { s.me with v := v, vstart := 0, fflags := fl }) := by
  obtain ⟨v, fl, hloop⟩ := elemLoop_quiet (f cap) k d.toNat cap.sew (maOf cap.vtype) cap.elems hq
  obtain ⟨v', hv'⟩ := (hcap.tail_is hsh hd (v := v) (fl := fl)).frame
  refine ⟨v', fl, ?_⟩
  rw [vecBody_of_loop hr hloop, hv']

/-- What the body leaves where no active element has an enabled flag. -/
theorem vecBody_writes {g : Nat → Nat × Flags}
    (hf : ∀ h' e, e < s.me.vl → Hart.Alike d.toNat (lmulOf s.me.vtype) (sewOf s.me.vtype) e s.me h' → f cap h' e = g e)
    (ht : ∀ e, s.me.traps (g e).2 = false) :
    ∃ v, vecBody rd d.toNat cap.sew k f cap s = .done (s.setMe { s.me with v := v, vstart := 0, fflags := s.me.accrued k (fun e => (g e).2) }) ∧
      (∀ e, e * sewOf s.me.vtype < s.me.lanes * 1024 * emulOf s.me.vtype (sewOf s.me.vtype) →
        Hart.elem { s.me with v := v } d.toNat e (sewOf s.me.vtype) =
          s.me.elementAfter k 0 (s.me.elem d.toNat e (sewOf s.me.vtype)) ((g e).1 % 2 ^ sewOf s.me.vtype) e) ∧
      (∀ r, (r < d.toNat ∨ d.toNat + emulOf s.me.vtype (sewOf s.me.vtype) ≤ r) → Hart.vreg { s.me with v := v } r = s.me.vreg r) := by
  have hmem (e : Nat) : e ∈ List.range' s.me.vstart (s.me.vl - s.me.vstart) ↔ s.me.vstart ≤ e ∧ e < s.me.vl := by
    rw [List.mem_range'_1]
    omega
  obtain ⟨v, hloop, helem, hvreg⟩ := elemLoop_runs (f := f cap) (g := g) (k := k) (d := d.toNat) (n := lmulOf s.me.vtype) (w := sewOf s.me.vtype)
    (ma := maOf s.me.vtype) (es := List.range' s.me.vstart (s.me.vl - s.me.vstart)) (h := s.me) (s.me.sew_dvd_regBits _) (pos_of_shaped hsh)
    (Nat.mul_le_mul_right 1024 hsh.2.1) (regs_of_groupOk hd) List.nodup_range'
    (fun e he => Hart.elem_in_group hsh.1 (Nat.lt_of_lt_of_le ((hmem e).1 he).2 hsh.2.2.2.2))
    (fun h' e he => hf h' e ((hmem e).1 he).2) (fun e _ _ => ht e)
  have hrun : elemLoop (f cap) k d.toNat cap.sew (maOf cap.vtype) cap.elems s.me =
      ({ s.me with v := v, fflags := s.me.accrued k (fun e => (g e).2) }, none) := by
    rw [hcap.sew, hcap.vtype, hcap.elems]
    exact hloop
  have T := hcap.tail_is hsh hd (v := v) (fl := s.me.accrued k (fun e => (g e).2))
  obtain ⟨v', hv'⟩ := T.frame
  refine ⟨v', by rw [vecBody_of_loop hr hrun, hv'], fun e he => ?_, fun r hrg => ?_⟩
  · rw [emulOf_sew] at he
    have h := T.elems e ((Nat.div_lt_iff_lt_mul (pos_of_shaped hsh)).2 (by rwa [Nat.mul_comm (lmulOf s.me.vtype)]))
    rw [hv', helem e] at h
    refine h.trans ?_
    rw [Hart.elementAfter]
    by_cases hvl : s.me.vl ≤ e
    · have hn : e ∉ List.range' s.me.vstart (s.me.vl - s.me.vstart) := fun c => Nat.not_le.2 ((hmem e).1 c).2 hvl
      simp [hvl, hn]
    · by_cases hst : e < s.me.vstart
      · have hn : e ∉ List.range' s.me.vstart (s.me.vl - s.me.vstart) := fun c => Nat.not_le.2 hst ((hmem e).1 c).1
        simp [hvl, hst, hn]
      · have hi : e ∈ List.range' s.me.vstart (s.me.vl - s.me.vstart) := (hmem e).2 ⟨Nat.le_of_not_lt hst, Nat.lt_of_not_le hvl⟩
        simp [hvl, hst, hi]
  · rw [emulOf_sew] at hrg
    have h := T.outside r hrg
    rw [hv'] at h
    exact h.trans (hvreg r hrg)

end

/-! ### The members (R105, R107) -/

theorem traps_of_fpQuiet {s : State} (hq : s.FpQuiet) (fl : Flags) : s.me.traps fl = false := by
  simp [Hart.traps, show s.me.enables = 0 from hq]

/-- The replicate modifier (R40). -/
theorem repElem_eq (p : BitVec 3) (e : Nat) : repElem p e = if 4 ≤ p.toNat then e % 2 ^ (p.toNat - 4) else e := by
  have hp : ∀ p : BitVec 3, p.getLsbD 2 = decide (4 ≤ p.toNat) ∧ (4 ≤ p.toNat → bitsOf (p.zeroExtend 64) 0 2 = p.toNat - 4) := by decide
  obtain ⟨h1, h2⟩ := hp p
  rw [repElem, h1]
  by_cases h : 4 ≤ p.toNat
  · rw [decide_eq_true h, if_pos rfl, if_pos h, h2 h]
  · rw [decide_eq_false h, if_neg Bool.false_ne_true, if_neg h]

/-- The second operand of a vector form. -/
theorem vecB_reads {s : State} (hsh : s.me.Shaped) {d : VReg} (hd : groupOk s.me.vtype d.toNat (sewOf s.me.vtype) = true) {b : VReg} {p : BitVec 3}
    (hb : groupOk s.me.vtype b.toNat (sewOf s.me.vtype) = true) (hbd : p.toNat < 4 ∨ b ≠ d) {caps : List Word} :
    ∀ cap : Capture, cap.Fresh s caps → ∀ h' e, e < s.me.vl → Hart.Alike d.toNat (lmulOf s.me.vtype) (sewOf s.me.vtype) e s.me h' →
      vecB b p cap h' e = s.me.elem b.toNat (if 4 ≤ p.toNat then e % 2 ^ (p.toNat - 4) else e) (sewOf s.me.vtype) := by
  intro cap hcap h' e he H
  have hle : repElem p e ≤ e := by
    rw [repElem_eq]
    split
    · exact Nat.mod_le _ _
    · exact Nat.le_refl _
  have hin := Hart.elem_in_group hsh.1 (Nat.lt_of_lt_of_le (Nat.lt_of_le_of_lt hle he) hsh.2.2.2.2)
  rw [vecB, hcap.sew, H.elem_eq hd hb hin, repElem_eq]
  intro hsame
  have hlt : p.toNat < 4 := hbd.resolve_right fun c => c (BitVec.eq_of_toNat_eq hsame)
  rw [repElem_eq, if_neg (by omega)]

/-- The gate of a float member. -/
theorem fpGroups_ok {h : Hart} (hek : ekOf h.vtype = true) {d : VReg} (hd : groupOk h.vtype d.toNat (sewOf h.vtype) = true) {srcs : List Src}
    (hsrcs : ∀ r ∈ srcs, groupOk h.vtype r.1.toNat (sewOf h.vtype) = true) :
    (ekOf h.vtype && groupsOk h ((d :: srcs.map (·.1)).map (fun r => (r.toNat, sewOf h.vtype)))) = true := by
  simp only [hek, Bool.true_and, groupsOk, List.all_map, List.map_cons, List.all_cons, Function.comp, hd, List.all_eq_true]
  exact hsrcs

/-- A vector member whose type is legal and whose body completes at once completes. -/
theorem vecMember_completes {s u : State} (hr : s.Ready) (hv : s.me.vill = false) {i : Instr} {w : Insn} (hw : majorOf w < 0x30) {ok : Hart → Bool}
    (hok : ok s.me = true) {caps : State → List Word} {body : Capture → State → VRes} (hexec : exec i s = vissue w (checkType true ok) caps body s)
    (hdone : body (s.captureNow w caps) s = .done u) : Completes i s u := by
  have hc : checkType true ok s = none := by simp [checkType, hv, hok]
  rw [Completes, hexec, vissue_completes (quiet_of_ready hr) hc (outBusy_of_ready hr _ _) hdone, disarm_of_plain (isEngine_of_major hw)]

/-- The trap of a member of the vector stream, entered by the scalar unit. -/
theorem streamTrap_scalar {s : State} (h : s.OnScalar) (t : Trap) (sq : Bool) (pc : Word) :
    streamTrap t sq pc s = s.setMe { s.me.enterTrap t pc sq false with pageReq := s.me.pageReq } := by
  rw [streamTrap, trapAt_scalar h, State.modMe, State.me_setMe]
  exact State.setMe_setMe ..

/-- Instruction i is the float member of function F, with its sources, its second operand and what it captures (R105). -/
def IsFloat (i : Instr) (F : BitVec 3 → Nat → Nat → Nat → Nat → Nat × Flags) (d a : VReg) (srcs : List Src) (b : Capture → Hart → Nat → Nat)
    (caps : State → List Word) (k : MReg) : Prop :=
  ∃ w rd, majorOf w < 0x30 ∧ ∀ s, exec i s = fpMember w F rd d a srcs b caps k s

/-- What a float member makes of element e of its sources. -/
def State.floatAt (s : State) (F : BitVec 3 → Nat → Nat → Nat → Nat → Nat × Flags) (d a : VReg) (B : Nat → Nat) (e : Nat) : Nat × Flags :=
  F s.me.rm (sewOf s.me.vtype) (s.me.elem a.toNat e (sewOf s.me.vtype)) (B e) (s.me.elem d.toNat e (sewOf s.me.vtype))

/-- The function of a float member reads its sources as they stood before the elements ahead of it were written. -/
theorem float_reads {s : State} (hsh : s.me.Shaped) {d a : VReg} (hd : groupOk s.me.vtype d.toNat (sewOf s.me.vtype) = true)
    (ha : groupOk s.me.vtype a.toNat (sewOf s.me.vtype) = true) {F : BitVec 3 → Nat → Nat → Nat → Nat → Nat × Flags} {b : Capture → Hart → Nat → Nat}
    {B : Nat → Nat} {cap : Capture} {xs : List Word} (hcap : cap.Fresh s xs)
    (hb : ∀ h' e, e < s.me.vl → Hart.Alike d.toNat (lmulOf s.me.vtype) (sewOf s.me.vtype) e s.me h' → b cap h' e = B e) (h' : Hart) (e : Nat)
    (he : e < s.me.vl) (H : Hart.Alike d.toNat (lmulOf s.me.vtype) (sewOf s.me.vtype) e s.me h') :
    F h'.rm cap.sew (h'.elem a.toNat e cap.sew) (b cap h' e) (h'.elem d.toNat e cap.sew) = s.floatAt F d a B e := by
  have hin := Hart.elem_in_group hsh.1 (Nat.lt_of_lt_of_le he hsh.2.2.2.2)
  have hrm : h'.rm = s.me.rm := by
    obtain ⟨⟨v, fl, rfl⟩, -⟩ := H
    rfl
  rw [hcap.sew, hrm, H.elem_eq hd ha hin (fun _ => rfl), H.elem_eq hd hd hin (fun _ => rfl), hb h' e he H, State.floatAt]

/-- One whose body stops with a trap raises it. -/
theorem vecMember_traps {s : State} {h : Hart} {t : Trap} (hr : s.Ready) (hv : s.me.vill = false) {i : Instr} {w : Insn} {ok : Hart → Bool}
    (hok : ok s.me = true) {caps : State → List Word} {body : Capture → State → VRes} (hexec : exec i s = vissue w (checkType true ok) caps body s)
    (htrap : body (s.captureNow w caps) s = .trap t (s.setMe h)) :
    exec i s = .next (s.setMe { h.enterTrap t s.me.pc t.cause.squash false with pageReq := h.pageReq }) := by
  have hc : checkType true ok s = none := by simp [checkType, hv, hok]
  have hscalar : s.OnScalar := hr.1.1
  have hset : (s.setMe h).OnScalar := hscalar
  rw [hexec, vissue_traps (quiet_of_ready hr) hc (outBusy_of_ready hr _ _) htrap, pcNow_of_scalar hscalar, streamTrap_scalar hset, State.me_setMe]
  exact congrArg _ (State.setMe_setMe ..)

section
variable {s : State} (hr : s.Ready) (hsh : s.me.Shaped) (hv : s.me.vill = false) {d a : VReg} {k : MReg}
  (hd : groupOk s.me.vtype d.toNat (sewOf s.me.vtype) = true) (hq : s.FpQuiet)
include hr hsh hv hd hq

/-- A member with the body of R48 to R50, whose function reads the sources as they stood. -/
theorem vecMember_writes {i : Instr} {w : Insn} (hw : majorOf w < 0x30) {ok : Hart → Bool} (hok : ok s.me = true) {caps : State → List Word}
    {rd : Capture → Hart → Nat → List Rd} {f : Capture → Hart → Nat → Nat × Flags} {g : Nat → Nat × Flags} {body : Capture → State → VRes}
    (hbody : ∀ cap : Capture, cap.Fresh s (caps s) → body cap s = vecBody (rd cap) d.toNat cap.sew k f cap s)
    (hexec : exec i s = vissue w (checkType true ok) caps body s)
    (hf : ∀ cap : Capture, cap.Fresh s (caps s) → ∀ h' e, e < s.me.vl →
      Hart.Alike d.toNat (lmulOf s.me.vtype) (sewOf s.me.vtype) e s.me h' → f cap h' e = g e) :
    WritesElements i s s.me d (sewOf s.me.vtype) k g := by
  have hcap := captureNow_fresh hr w caps
  obtain ⟨v, hdone, helem, hvreg⟩ := vecBody_writes hr hsh hd hcap (k := k) (rd := rd _) (hf _ hcap) (fun e => traps_of_fpQuiet hq _)
  exact ⟨v, vecMember_completes hr hv hw hok hexec ((hbody _ hcap).trans hdone), helem, hvreg⟩

variable (hek : ekOf s.me.vtype = true)
include hek

/-- A float member with no flag enabled completes, whatever its sources are. -/
theorem IsFloat.completes {i : Instr} {F : BitVec 3 → Nat → Nat → Nat → Nat → Nat × Flags} {srcs : List Src} {b : Capture → Hart → Nat → Nat}
    {caps : State → List Word} (h : IsFloat i F d a srcs b caps k) (hsrcs : ∀ r ∈ srcs, groupOk s.me.vtype r.1.toNat (sewOf s.me.vtype) = true) :
    ∃ v fl, Completes i s (s.setMe { s.me with v := v, vstart := 0, fflags := fl }) := by
  obtain ⟨w, rd, hw, hexec⟩ := h
  obtain ⟨v, fl, hdone⟩ := vecBody_quiet hr hsh hd (captureNow_fresh hr w caps) (k := k)
    (rd := fun _ => srcReads (s.captureNow w caps) (if rd then (d, 0) :: srcs else srcs))
    (f := fun c h e => F h.rm c.sew (h.elem a.toNat e c.sew) (b c h e) (h.elem d.toNat e c.sew)) hq
  exact ⟨v, fl, vecMember_completes hr hv hw (fpGroups_ok hek hd hsrcs) (hexec s) hdone⟩

variable (ha : groupOk s.me.vtype a.toNat (sewOf s.me.vtype) = true)
include ha

/-- A float member writes its function of the elements. -/
theorem IsFloat.writes {i : Instr} {F : BitVec 3 → Nat → Nat → Nat → Nat → Nat × Flags} {srcs : List Src} {b : Capture → Hart → Nat → Nat}
    {caps : State → List Word} {B : Nat → Nat} (h : IsFloat i F d a srcs b caps k)
    (hsrcs : ∀ r ∈ srcs, groupOk s.me.vtype r.1.toNat (sewOf s.me.vtype) = true)
    (hb : ∀ cap : Capture, cap.Fresh s (caps s) → ∀ h' e, e < s.me.vl →
      Hart.Alike d.toNat (lmulOf s.me.vtype) (sewOf s.me.vtype) e s.me h' → b cap h' e = B e) :
    WritesElements i s s.me d (sewOf s.me.vtype) k (s.floatAt F d a B) := by
  obtain ⟨w, rd, hw, hexec⟩ := h
  exact vecMember_writes hr hsh hv hd hq hw (fpGroups_ok hek hd hsrcs) (rd := fun cap _ => srcReads cap (if rd then (d, 0) :: srcs else srcs))
    (f := fun c h e => F h.rm c.sew (h.elem a.toNat e c.sew) (b c h e) (h.elem d.toNat e c.sew)) (fun cap _ => rfl) (hexec s)
    fun cap hcap => float_reads hsh hd ha hcap (hb cap hcap)

end

/-! ### The conversions between the float widths (R107) -/

theorem lmulOf_cases (t : Word) : lmulOf t = 1 ∨ lmulOf t = 2 ∨ lmulOf t = 4 ∨ lmulOf t = 8 := by
  have hk : bitsOf t 4 2 < 4 := (t.extractLsb' 4 2).isLt
  unfold lmulOf
  interval_cases bitsOf t 4 2 <;> simp

/-- An element below VL of a group of the other float width lies in the group. -/
theorem conv_in_group {h : Hart} (hsh : h.Shaped) {v : Nat} (hw : sewOf h.vtype = 16 ∧ v = 32 ∨ sewOf h.vtype = 32 ∧ v = 16) {e : Nat}
    (he : e < h.vl) :
    e * v / h.regBits < emulOf h.vtype v := by
  have hR : 0 < h.regBits := Nat.mul_pos hsh.1 (by decide)
  have hle : e + 1 ≤ h.regBits * lmulOf h.vtype / sewOf h.vtype := Nat.lt_of_lt_of_le he hsh.2.2.2.2
  rw [Nat.le_div_iff_mul_le (sewOf_pos _)] at hle
  rw [Nat.div_lt_iff_lt_mul hR, emulOf, emul8]
  rcases hw with ⟨hs, rfl⟩ | ⟨hs, rfl⟩ <;> rw [hs] at hle ⊢ <;> rcases lmulOf_cases h.vtype with hl | hl | hl | hl <;> rw [hl] at hle ⊢ <;>
    norm_num <;> omega

/-- A group of another width that lies apart from the destination's keeps its elements. -/
theorem Hart.Alike.elem_eq_apart {h h' : Hart} {d n w e r e' v : Nat} (H : Hart.Alike d n w e h h') (hap : overlaps d n r (emulOf h.vtype v) = false)
    (hin : e' * v / h.regBits < emulOf h.vtype v) : h'.elem r e' v = h.elem r e' v := by
  obtain ⟨⟨x, fl, rfl⟩, -, hout⟩ := H
  refine Hart.elem_congr rfl (hout _ ?_)
  generalize e' * v / h.regBits = j at hin ⊢
  simp only [overlaps, Bool.and_eq_false_iff, decide_eq_false_iff_not] at hap
  omega

/-- A conversion writes each element from the element of the other width. -/
theorem convMember_writes {s : State} (hr : s.Ready) (hsh : s.me.Shaped) (hv : s.me.vill = false) (hek : ekOf s.me.vtype = true) (hq : s.FpQuiet)
    {d a : VReg} {k : MReg} {sew v : Nat} (hw : sewOf s.me.vtype = sew) (hpair : sew = 16 ∧ v = 32 ∨ sew = 32 ∧ v = 16)
    (hd : groupOk s.me.vtype d.toNat sew = true) (ha : groupOk s.me.vtype a.toNat v = true)
    (hov : overlapOk s.me.vtype d.toNat sew a.toNat v = true) {i : Instr} {w : Insn} (hmaj : majorOf w < 0x30) {src dst : FFmt}
    (hexec : exec i s = convMember w sew v src dst d a k s) :
    WritesElements i s s.me d sew k (fun e => vfConvert src dst s.me.rm (s.me.elem a.toNat e v)) := by
  have hpair' : sewOf s.me.vtype = 16 ∧ v = 32 ∨ sewOf s.me.vtype = 32 ∧ v = 16 := hw ▸ hpair
  have hap : overlaps d.toNat (lmulOf s.me.vtype) a.toNat (emulOf s.me.vtype v) = false := by
    have hne : emul8 s.me.vtype sew ≠ emul8 s.me.vtype v := by
      rw [emul8, emul8, hw]
      rcases hpair with ⟨rfl, rfl⟩ | ⟨rfl, rfl⟩ <;> rcases lmulOf_cases s.me.vtype with hl | hl | hl | hl <;> rw [hl] <;> decide
    rw [overlapOk, beq_eq_false_iff_ne.2 hne, Bool.false_or, Bool.not_eq_true', ← hw, emulOf_sew] at hov
    exact hov
  subst hw
  rw [convMember] at hexec
  refine vecMember_writes hr hsh hv hd hq hmaj ?_ (rd := fun _ _ => sameElem [(a.toNat, v)])
    (f := fun _ h e => vfConvert src dst h.rm (h.elem a.toNat e v))
    (fun cap hcap => by rw [hcap.sew]) hexec fun cap _ h' e he H => ?_
  · simp [hek, groupsOk, hd, ha, hov]
  · have hrm : h'.rm = s.me.rm := by
      obtain ⟨⟨v, fl, rfl⟩, -⟩ := H
      rfl
    rw [hrm, H.elem_eq_apart hap (conv_in_group hsh hpair' he)]

/-! ### The element at which an enabled flag stops the member (R99, R311) -/

section
variable {s : State} (hr : s.Ready) (hsh : s.me.Shaped) {d : VReg} {k : MReg} (hd : groupOk s.me.vtype d.toNat (sewOf s.me.vtype) = true)
  {cap : Capture} {xs : List Word} (hcap : cap.Fresh s xs) {rd : Hart → Nat → List Rd} {f : Capture → Hart → Nat → Nat × Flags}
include hr hsh hd hcap

/-- The body at the first active element with an enabled flag: the elements before it stand written, it and those after it do not. -/
theorem vecBody_stops {g : Nat → Nat × Flags} {e : Nat}
    (hf : ∀ h' e, e < s.me.vl → Hart.Alike d.toNat (lmulOf s.me.vtype) (sewOf s.me.vtype) e s.me h' → f cap h' e = g e)
    (hlow : s.me.vstart ≤ e) (hvl : e < s.me.vl) (hact : s.me.isActive k e = true) (hstop : s.me.traps (g e).2 = true)
    (hgo : ∀ i, s.me.vstart ≤ i → i < e → s.me.isActive k i = true → s.me.traps (g i).2 = false) :
    ∃ v fl, vecBody rd d.toNat cap.sew k f cap s = .trap ⟨.fp, fpVal (g e).2, e⟩ (s.setMe { s.me with v := v, vstart := e, fflags := fl }) ∧
      ∀ i, i < vlmaxOf s.me.lanes s.me.vtype → Hart.elem { s.me with v := v } d.toNat i (sewOf s.me.vtype) =
        if s.me.vstart ≤ i ∧ i < e then
          (if s.me.isActive k i then (g i).1 % 2 ^ sewOf s.me.vtype else if maOf s.me.vtype then 0 else s.me.elem d.toNat i (sewOf s.me.vtype))
        else s.me.elem d.toNat i (sewOf s.me.vtype) := by
  have hmem (i : Nat) : i ∈ List.range' s.me.vstart (e - s.me.vstart) ↔ s.me.vstart ≤ i ∧ i < e := by
    rw [List.mem_range'_1]
    omega
  have hin (i : Nat) (hi : i < s.me.vl) : i * sewOf s.me.vtype / s.me.regBits < lmulOf s.me.vtype :=
    Hart.elem_in_group hsh.1 (Nat.lt_of_lt_of_le hi hsh.2.2.2.2)
  obtain ⟨v, hloop, helem, hvreg⟩ := elemLoop_runs (f := f cap) (g := g) (k := k) (d := d.toNat) (n := lmulOf s.me.vtype) (w := sewOf s.me.vtype)
    (ma := maOf s.me.vtype) (es := List.range' s.me.vstart (e - s.me.vstart)) (h := s.me) (s.me.sew_dvd_regBits _) (pos_of_shaped hsh)
    (Nat.mul_le_mul_right 1024 hsh.2.1) (regs_of_groupOk hd) List.nodup_range' (fun i hi => hin i (Nat.lt_trans ((hmem i).1 hi).2 hvl))
    (fun h' i hi => hf h' i (Nat.lt_trans ((hmem i).1 hi).2 hvl)) (fun i hi => hgo i ((hmem i).1 hi).1 ((hmem i).1 hi).2)
  generalize (List.filter (s.me.isActive k) (List.range' s.me.vstart (e - s.me.vstart))).foldl (fun a e => a ||| (g e).2) s.me.fflags = fl at hloop
  have helems : cap.elems = List.range' s.me.vstart (e - s.me.vstart) ++ e :: List.range' (e + 1) (s.me.vl - e - 1) := by
    have hrest : e :: List.range' (e + 1) (s.me.vl - e - 1) = List.range' e (s.me.vl - e) := by
      rw [show s.me.vl - e = s.me.vl - e - 1 + 1 by omega, List.range'_succ, Nat.add_sub_cancel]
    have h := List.range'_append_1 (s := s.me.vstart) (m := e - s.me.vstart) (n := s.me.vl - e)
    rw [show s.me.vstart + (e - s.me.vstart) = e by omega, show e - s.me.vstart + (s.me.vl - e) = s.me.vl - s.me.vstart by omega] at h
    rw [hcap.elems, hrest, h]
  have hval : f cap { s.me with v := v, fflags := fl } e = g e :=
    hf _ e hvl ⟨⟨v, fl, rfl⟩, (helem e).trans (if_neg fun c => Nat.lt_irrefl _ ((hmem e).1 c).2), hvreg⟩
  have hrun : elemLoop (f cap) k d.toNat cap.sew (maOf cap.vtype) cap.elems s.me = ({ s.me with v := v, fflags := fl }, some (e, (g e).2)) := by
    rw [hcap.sew, hcap.vtype, helems, elemLoop_append hloop, elemLoop, hval]
    exact (if_pos hact).trans (if_pos hstop)
  have hb := bad_of_ready hr
  refine ⟨v, fl, ?_, fun i _ => (helem i).trans (if_congr (hmem i) rfl rfl)⟩
  rw [vecBody, badReads_of_none hb, hrun]
  have hclean (t : State) (ht : t.bad = []) : t.healUpTo cap s.me k d.toNat cap.sew e = t := by simp [State.healUpTo, State.healWrites, ht]
  exact congrArg (VRes.trap _) (hclean (s.setMe _) hb)

end

/-- A float member stopped at element e raises FP there, with the element's flags. -/
theorem IsFloat.stops {s : State} (hr : s.Ready) (hsh : s.me.Shaped) (hv : s.me.vill = false) (hek : ekOf s.me.vtype = true) {d a : VReg} {k : MReg}
    (hd : groupOk s.me.vtype d.toNat (sewOf s.me.vtype) = true) (ha : groupOk s.me.vtype a.toNat (sewOf s.me.vtype) = true) {i : Instr}
    {F : BitVec 3 → Nat → Nat → Nat → Nat → Nat × Flags} {srcs : List Src} {b : Capture → Hart → Nat → Nat} {caps : State → List Word}
    {B : Nat → Nat} {e : Nat} (h : IsFloat i F d a srcs b caps k)
    (hsrcs : ∀ r ∈ srcs, groupOk s.me.vtype r.1.toNat (sewOf s.me.vtype) = true)
    (hb : ∀ cap : Capture, cap.Fresh s (caps s) → ∀ h' e, e < s.me.vl →
      Hart.Alike d.toNat (lmulOf s.me.vtype) (sewOf s.me.vtype) e s.me h' → b cap h' e = B e)
    (hlow : s.me.vstart ≤ e) (hvl : e < s.me.vl) (hact : s.me.isActive k e = true) (hstop : s.me.traps (s.floatAt F d a B e).2 = true)
    (hgo : ∀ i, s.me.vstart ≤ i → i < e → s.me.isActive k i = true → s.me.traps (s.floatAt F d a B i).2 = false) :
    ∃ v fl, exec i s = .next (s.setMe { Hart.enterTrap { s.me with v := v, vstart := e, fflags := fl } ⟨.fp, fpVal (s.floatAt F d a B e).2, e⟩ s.me.pc
        false false with pageReq := s.me.pageReq }) ∧
      ∀ i, i < vlmaxOf s.me.lanes s.me.vtype → Hart.elem { s.me with v := v } d.toNat i (sewOf s.me.vtype) =
        if s.me.vstart ≤ i ∧ i < e then
          (if s.me.isActive k i then (s.floatAt F d a B i).1 % 2 ^ sewOf s.me.vtype
            else if maOf s.me.vtype then 0 else s.me.elem d.toNat i (sewOf s.me.vtype))
        else s.me.elem d.toNat i (sewOf s.me.vtype) := by
  obtain ⟨w, rd, -, hexec⟩ := h
  have hcap := captureNow_fresh hr w caps
  obtain ⟨v, fl, htrap, helem⟩ := vecBody_stops hr hsh hd hcap
    (rd := fun _ => srcReads (s.captureNow w caps) (if rd then (d, 0) :: srcs else srcs))
    (f := fun c h e => F h.rm c.sew (h.elem a.toNat e c.sew) (b c h e) (h.elem d.toNat e c.sew)) (float_reads hsh hd ha hcap (hb _ hcap))
    hlow hvl hact hstop hgo
  exact ⟨v, fl, vecMember_traps hr hv (fpGroups_ok hek hd hsrcs) (hexec s) htrap, helem⟩

end Sys2Proof.Machine
end

section
/-!
SUPPORT. O22, the float members of the vector unit.
-/
namespace Sys2Proof
open Machine

/-- Settles O22: each float member is a loop that reads its sources as they stood (`IsFloat.writes`), and its function is an exact result that
rounds once (`Ex.Exact.roundsQ`, from `roundEx_rounds`), a case of a NaN or an infinity, a cut to 8 bits or the roundings of `expTwoEx_steps`;
the first element with an enabled flag stops the loop (`IsFloat.stops`). -/
theorem vectorFloatResults : Obligations.VectorFloatResults := by
  unfold Obligations.VectorFloatResults
  refine ⟨?members, ?numbers, ?specials, ?estimates, ?stop⟩
  case members =>
    intro s d a b x p k hr hsh hv hek hq h w hd A D bv bx both one
    have hboth : ∀ r ∈ both, IsFloat r.1 r.2.2 d a [(a, 0), (b, p)] (vecB b p) (fun _ => []) k ∧
        IsFloat r.2.1 r.2.2 d a [(a, 0)] scalB (capX x) k := by
      intro r hmem
      simp only [both, List.mem_cons, List.not_mem_nil, or_false] at hmem
      rcases hmem with rfl | rfl | rfl | rfl | rfl | rfl | rfl | rfl | rfl | rfl | rfl | rfl | rfl <;>
        exact ⟨⟨_, _, by simp, fun _ => rfl⟩, ⟨_, _, by simp, fun _ => rfl⟩⟩
    have hone : ∀ r ∈ one, IsFloat r.1 r.2 d a [(a, 0)] noB (fun _ => []) k := by
      intro r hmem
      simp only [one, List.mem_cons, List.not_mem_nil, or_false] at hmem
      rcases hmem with rfl | rfl | rfl | rfl | rfl | rfl | rfl <;> exact ⟨_, _, by simp, fun _ => rfl⟩
    have hsrc (ha : groupOk s.me.vtype a.toNat (sewOf s.me.vtype) = true) :
        ∀ r ∈ [((a, 0) : Src)], groupOk s.me.vtype r.1.toNat (sewOf s.me.vtype) = true := List.forall_mem_singleton.2 ha
    have hsrcs (ha : groupOk s.me.vtype a.toNat (sewOf s.me.vtype) = true) (hb : groupOk s.me.vtype b.toNat (sewOf s.me.vtype) = true) :
        ∀ r ∈ [((a, 0) : Src), (b, p)], groupOk s.me.vtype r.1.toNat (sewOf s.me.vtype) = true :=
      List.forall_mem_cons.2 ⟨ha, List.forall_mem_singleton.2 hb⟩
    have hscal : ∀ cap : Capture, cap.Fresh s (capX x s) → ∀ h' e, e < s.me.vl →
        Hart.Alike d.toNat (lmulOf s.me.vtype) (sewOf s.me.vtype) e s.me h' → scalB cap h' e = bx := fun cap hcap _ _ _ _ => by
      rw [scalB, hcap.sew, hcap.operands]
      rfl
    refine ⟨fun ha r hmem => ⟨fun hb hbd => ?_, fun hb _ _ => ?_, ?_⟩, fun ha r hmem => ?_, fun hw ha hov => ?_, fun hw ha hov => ?_⟩
    · exact (hboth r hmem).1.writes hr hsh hv hd hq hek ha (hsrcs ha hb) (vecB_reads hsh hd hb hbd)
    · exact (hboth r hmem).1.completes hr hsh hv hd hq hek (hsrcs ha hb)
    · exact (hboth r hmem).2.writes hr hsh hv hd hq hek ha (hsrc ha) hscal
    · exact (hone r hmem).writes hr hsh hv hd hq hek ha (hsrc ha) fun _ _ _ _ _ _ => rfl
    · exact (congrArg (fun n => WritesElements (.vfnarrow d a k) s s.me d n k _) hw).mpr
        (convMember_writes hr hsh hv hek hq hw (.inl ⟨rfl, rfl⟩) (hw ▸ hd) ha hov (w := vr 0x26#6 d a 0#5 0#3 k 20#5) (by simp) rfl)
    · exact (congrArg (fun n => WritesElements (.vfwiden d a k) s s.me d n k _) hw).mpr
        (convMember_writes hr hsh hv hek hq hw (.inr ⟨rfl, rfl⟩) (hw ▸ hd) ha hov (w := vr 0x26#6 d a 0#5 0#3 k 21#5) (by simp) rfl)
  case numbers =>
    intro rm w A B D hw hA hB hD f num x y z minus
    have mA : minus A = f.minus A := (fmtOf_minus hw hA).symm
    have mB : minus B = f.minus B := (fmtOf_minus hw hB).symm
    rw [mA, mB]
    refine ⟨fun nA nB => ⟨vfAdd_rounds rm nA nB, vfSub_rounds rm nA nB, vfMul_rounds rm nA nB, fun h => ?_, vfMul_zero rm nA nB,
      vfDiv_rounds rm nA nB,
      vfDiv_zero rm nA nB, fun nD => ?_⟩, fun nA => ⟨vfSqrt_rounds rm nA, fun h => ?_, vfSqrt_negative rm nA, fun h => ?_, fun h => ?_⟩, ?_⟩
    · rw [vfAdd_zero rm nA nB h]
      congr 1
      exact if_congr beq_iff_eq rfl rfl
    · have hfma := vfFma_rounds rm nA nB nD
      simp only [sgn] at hfma
      have h1 := hfma false false
      have h2 := hfma false true
      have h3 := hfma true true
      have h4 := hfma true false
      simp only [Bool.false_eq_true, if_false, if_true, one_mul, neg_one_mul, ← sub_eq_add_neg] at h1 h2 h3 h4
      exact ⟨h1, h2, h3, h4⟩
    · exact vfSqrt_zero rm nA (fmtOf_codes hw ▸ hA) h
    · subst h
      exact vfConvert_rounds rm bf16_binary nA
    · subst h
      exact vfConvert_rounds rm f32_binary nA
    · have hi : sInt w A = if A < 2 ^ (w - 1) then (A : Int) else (A : Int) - 2 ^ w := by
        rw [sInt]
        by_cases h : A < 2 ^ (w - 1)
        · rw [if_neg (Nat.not_le.2 h), if_pos h]
        · rw [if_pos (Nat.le_of_not_lt h), if_neg h]
          push_cast
          rfl
      intro i
      rw [show i = sInt w A from hi.symm]
      exact vfCvtif_rounds rm
  case specials =>
    intro rm w A B D hw hA hB hD f minus mag nan inf sig key
    have cA := fmtOf_codes hw ▸ hA
    have cB := fmtOf_codes hw ▸ hB
    have mA : minus A = f.minus A := (fmtOf_minus hw hA).symm
    have mB : minus B = f.minus B := (fmtOf_minus hw hB).symm
    have kA : key A = f.key A := by
      change (if minus A then _ else _) = _
      rw [mA]
      rfl
    have kB : key B = f.key B := by
      change (if minus B then _ else _) = _
      rw [mB]
      rfl
    have rA : f.rank A = if minus A then -(mag A : Int) else mag A := by
      rw [mA]
      rfl
    have rB : f.rank B = if minus B then -(mag B : Int) else mag B := by
      rw [mB]
      rfl
    have infA (h : inf A) (m : Bool) (hm : f.minus A = m) : signed f m f.infCode = A := by
      rw [← hm, ← h]
      exact FFmt.signed_minus cA
    rw [mA, mB, kA, kB]
    refine ⟨fun h r hr => ?_, vfDiv_nan rm, vfSqrt_nan rm, fun h hm => ?_, vfSqrt_minus_inf rm,
      fun iA iB => ⟨?_, vfDiv_inf_inf rm iA iB, vfMul_inf_inf rm iA iB⟩,
      fun iA nB => ⟨?_, vfDiv_inf_fin rm iA nB, vfMul_inf_fin rm iA nB, vfFma_inf_zero rm iA nB⟩, vfDiv_fin_inf rm, fun n m nD nA nB h1 h2 => ?_,
        ⟨?_, ?_⟩,
      ⟨?_, ?_⟩, ?_, ?_, ?_⟩
    · simp only [List.mem_cons, List.not_mem_nil, or_false] at hr
      rcases hr with rfl | rfl | rfl
      · exact (vfAdd_nan rm h)
      · exact (vfSub_nan rm h)
      · exact (vfMul_nan rm h)
    · rw [vfSqrt_inf rm h hm, infA h _ hm]
    · rw [vfAdd_inf_inf rm iA iB, infA iA _ rfl]
    · rw [vfAdd_inf_fin rm iA nB, infA iA _ rfl]
    · exact (vfFma_nan rm n m nD nA nB h1 h2)
    · rw [vfMin, fMinMax_eq false cA cB]
      rfl
    · rw [vfMax, fMinMax_eq true cA cB]
      rfl
    · have h := numLt_codes (w := w) (A := A) (B := B)
      rwa [rA, rB] at h
    · have h := numEq_codes (w := w) (A := A) (B := B)
      rwa [rA, rB] at h
    · rw [vfSgnj, withSign_eq hw, signOf_eq hw]
    · rw [vfSgnjn, withSign_eq hw, signOf_eq hw]
    · rw [vfSgnjx, withSign_eq hw, signOf_eq hw, signOf_eq hw]
  case estimates =>
    intro rm w A B D hw hA nA f x minus
    have mA : minus = f.minus A := (fmtOf_minus hw hA).symm
    rw [mA]
    refine ⟨fun h => ⟨vfRece_zero rm nA h, vfRsqe_zero rm nA h⟩, vfRece_estimate rm nA, vfRsqe_estimate rm nA, vfRsqe_negative rm nA,
      vfExp2_low rm nA,
      vfExp2_steps rm nA, vfCvtfi_eq rm hw nA⟩
  case stop =>
    intro s d a b e hr hsh hv hek h w r hd ha hb hlow hvl hstop hgo
    have hfloat : IsFloat (.vfadd d a b 0 0) vfAdd d a [(a, 0), (b, 0)] (vecB b 0) (fun _ => []) 0 := ⟨_, _, by simp, fun _ => rfl⟩
    have hact (i : Nat) : s.me.isActive 0 i = true := rfl
    have htraps (fl : Flags) : s.me.traps fl = true ↔ fl &&& h.enables ≠ 0 := by
      rw [Hart.traps, bne_iff_ne, BitVec.and_comm]
    obtain ⟨v, fl, hexec, helem⟩ := hfloat.stops hr hsh hv hek hd ha (List.forall_mem_cons.2 ⟨ha, List.forall_mem_singleton.2 hb⟩)
      (vecB_reads hsh hd hb (.inl (by decide))) hlow hvl (hact e) ((htraps (r e).2).2 hstop)
      (fun i h1 h2 _ => Bool.eq_false_iff.2 fun c => (htraps (r i).2).1 c (hgo i h1 h2))
    refine ⟨_, hexec, ?_⟩
    rw [State.me_setMe]
    exact ⟨rfl, rfl, rfl, rfl, rfl, rfl, helem, rfl, rfl, rfl⟩

end Sys2Proof
end

section
/-!
SUPPORT. The values of the scalar arithmetic, bit-field and immediate members as numbers (R59 to R62).
-/
namespace Sys2Proof.Machine

/-! ### Numbers as words -/

theorem ofNat_of_toNat {w : Nat} {x : BitVec w} {n : Nat} (h : x.toNat = n % 2 ^ w) : x = BitVec.ofNat w n :=
  BitVec.eq_of_toNat_eq (by rw [h, BitVec.toNat_ofNat])

theorem ofNat_wrapI (i : Int) : BitVec.ofNat 64 (wrapI 64 i) = BitVec.ofInt 64 i :=
  BitVec.eq_of_toNat_eq (by
    rw [BitVec.toNat_ofNat, BitVec.toNat_ofInt, wrapI]
    omega)

/-! ### Shifts, comparisons and halves of products (R59) -/

/-- A shift amount is the low six bits of its register. -/
theorem sh6_eq (b : Word) : sh6 b = b.toNat % 64 := by
  rw [sh6, bitsOf_eq, Nat.pow_zero, Nat.div_one]; rfl

theorem sh6_lt (b : Word) : sh6 b < 64 := by
  rw [sh6_eq]
  exact Nat.mod_lt _ (by decide)

theorem boolWord_decide (p : Prop) [Decidable p] : boolWord (decide p) = if p then 1 else 0 := by
  simp [boolWord]

theorem shiftLeft_eq_ofNat (x : Word) (n : Nat) : x <<< n = BitVec.ofNat 64 (x.toNat * 2 ^ n) :=
  ofNat_of_toNat (by rw [BitVec.toNat_shiftLeft, Nat.shiftLeft_eq])

theorem ushiftRight_eq_ofNat (x : Word) (n : Nat) : x >>> n = BitVec.ofNat 64 (x.toNat / 2 ^ n) :=
  ofNat_of_toNat (by
    rw [BitVec.toNat_ushiftRight, Nat.shiftRight_eq_div_pow, Nat.mod_eq_of_lt (Nat.lt_of_le_of_lt (Nat.div_le_self _ _) x.isLt)])

theorem sshiftRight_eq_ofInt (x : Word) (n : Nat) : x.sshiftRight n = BitVec.ofInt 64 (x.toInt / 2 ^ n) := by
  rw [BitVec.sshiftRight, Int.shiftRight_eq_div_pow, Nat.cast_pow]
  rfl

theorem signExtend_shiftLeft {w : Nat} (x : BitVec w) (n : Nat) : x.signExtend 64 <<< n = BitVec.ofInt 64 (x.toInt * 2 ^ n) := by
  have h : BitVec.twoPow 64 n = BitVec.ofInt 64 (2 ^ n) :=
    BitVec.eq_of_toNat_eq (by rw [BitVec.toNat_twoPow, BitVec.toNat_ofInt]; norm_cast)
  rw [BitVec.shiftLeft_eq_mul_twoPow, BitVec.ofInt_mul, BitVec.signExtend, h]

/-- The upper half of a signed product. -/
theorem mulHigh_eq (a b : Word) : mulHigh a b = BitVec.ofInt 64 (a.toInt * b.toInt / 2 ^ 64) := by
  apply BitVec.eq_of_toNat_eq
  rw [mulHigh, BitVec.signExtend, BitVec.signExtend, ← BitVec.ofInt_mul, BitVec.extractLsb'_toNat, BitVec.toNat_ofInt, BitVec.toNat_ofInt,
    Nat.shiftRight_eq_div_pow]
  omega

/-- The upper half of an unsigned product, which 128 bits hold. -/
theorem mulHighN_eq (a b : Word) : mulHighN a b = BitVec.ofNat 64 (a.toNat * b.toNat / 2 ^ 64) := by
  have hp : a.toNat * b.toNat < 2 ^ 128 := (Nat.mul_lt_mul'' a.isLt b.isLt).trans_eq (by norm_num)
  have hw (x : Word) : (x.zeroExtend 128).toNat = x.toNat := BitVec.toNat_setWidth_of_le (by decide)
  apply ofNat_of_toNat
  rw [mulHighN, BitVec.extractLsb'_toNat, BitVec.toNat_mul, hw, hw, Nat.mod_eq_of_lt hp, Nat.shiftRight_eq_div_pow]

theorem mul_eq_ofNat (a b : Word) : a * b = BitVec.ofNat 64 (a.toNat * b.toNat) :=
  ofNat_of_toNat (BitVec.toNat_mul a b)

theorem ite_sle_eq_min (a b : Word) : (if a.sle b then a else b) = BitVec.ofInt 64 (min a.toInt b.toInt) := by
  simp only [BitVec.sle_eq_decide, decide_eq_true_eq, min_def, apply_ite (BitVec.ofInt 64), BitVec.ofInt_toInt]

theorem ite_sle_eq_max (a b : Word) : (if a.sle b then b else a) = BitVec.ofInt 64 (max a.toInt b.toInt) := by
  simp only [BitVec.sle_eq_decide, decide_eq_true_eq, max_def, apply_ite (BitVec.ofInt 64), BitVec.ofInt_toInt]

theorem ite_ule_eq_min (a b : Word) : (if a.ule b then a else b) = BitVec.ofNat 64 (min a.toNat b.toNat) := by
  simp only [BitVec.ule_eq_decide, decide_eq_true_eq, min_def, apply_ite (BitVec.ofNat 64), BitVec.ofNat_toNat, BitVec.setWidth_eq]

theorem ite_ule_eq_max (a b : Word) : (if a.ule b then b else a) = BitVec.ofNat 64 (max a.toNat b.toNat) := by
  simp only [BitVec.ule_eq_decide, decide_eq_true_eq, max_def, apply_ite (BitVec.ofNat 64), BitVec.ofNat_toNat, BitVec.setWidth_eq]

/-- FSHL reads the pair of its registers from bit 64 - s on. -/
theorem funnelL_eq (d a : Word) {s : Nat} (hs : s < 64) : funnelL d a s = BitVec.ofNat 64 ((d.toNat * 2 ^ 64 + a.toNat) / 2 ^ (64 - s)) := by
  have hpow : (2 : Nat) ^ 64 = 2 ^ (64 - s) * 2 ^ s := by rw [← Nat.pow_add]; congr 1; omega
  have hdiv (x : Nat) : x * 2 ^ s / 2 ^ 64 = x / 2 ^ (64 - s) := by rw [hpow, Nat.mul_div_mul_right _ _ (by positivity)]
  apply ofNat_of_toNat
  rw [funnelL, BitVec.extractLsb'_toNat, BitVec.toNat_shiftLeft, BitVec.toNat_append, ← Nat.shiftLeft_add_eq_or_of_lt a.isLt,
    Nat.shiftLeft_eq, Nat.shiftLeft_eq, Nat.shiftRight_eq_div_pow, ← hdiv]
  omega

/-- FSHR reads the pair of its registers from bit s on. -/
theorem funnelR_eq (d a : Word) (s : Nat) : funnelR d a s = BitVec.ofNat 64 ((a.toNat * 2 ^ 64 + d.toNat) / 2 ^ s) := by
  apply ofNat_of_toNat
  rw [funnelR, BitVec.extractLsb'_toNat, BitVec.toNat_ushiftRight, BitVec.toNat_append, ← Nat.shiftLeft_add_eq_or_of_lt d.isLt,
    Nat.shiftLeft_eq, Nat.shiftRight_zero, Nat.shiftRight_eq_div_pow]

/-! ### Counts (R59) -/

/-- The leading zeros are the first set bit from above. -/
theorem clzNat_eq {x : Nat} (hx : x < 2 ^ 64) : clzNat 64 x = ((List.range 64).find? (fun i => x.testBit (63 - i))).getD 64 := by
  by_cases h0 : x = 0
  · subst h0; decide
  · have hlog : x.log2 < 64 := (Nat.log2_lt h0).2 hx
    have hfind : (List.range 64).find? (fun i => x.testBit (63 - i)) = some (63 - x.log2) := by
      rw [List.find?_range_eq_some]
      refine ⟨?_, List.mem_range.2 (by omega), fun j hj => ?_⟩
      · rw [show 63 - (63 - x.log2) = x.log2 by omega, Nat.testBit_log2 h0]
      · have : x < 2 ^ (63 - j) := (Nat.log2_lt h0).1 (by omega)
        rw [Nat.testBit_lt_two_pow this]; rfl
    rw [hfind, clzNat, if_neg (by simpa using h0)]
    rfl

/-- The trailing zeros from bit n on, counted from bit 0. -/
theorem ctzNat_eq (x k n : Nat) : ctzNat x k n = ((List.range' n k).find? x.testBit).getD (n + k) := by
  induction k generalizing n with
  | zero => rfl
  | succ k ih =>
    rw [ctzNat, List.range'_succ, List.find?_cons]
    cases x.testBit n with
    | true => rfl
    | false => simp [ih, Nat.add_comm, Nat.add_left_comm]

theorem popNat_eq (x k : Nat) : popNat x k = ((List.range k).filter x.testBit).length := by
  induction k with
  | zero => rfl
  | succ k ih =>
    rw [popNat, ih, List.range_succ, List.filter_append, List.length_append]
    cases h : x.testBit k <;> simp [h]

/-! ### Division (R60) -/

theorem divS_eq (x y : Word) : divS x y = if y = 0 then BitVec.allOnes 64 else BitVec.ofInt 64 (x.toInt.tdiv y.toInt) := by
  have h : x.sdiv y = BitVec.ofInt 64 (x.toInt.tdiv y.toInt) :=
    BitVec.eq_of_toInt_eq (by rw [BitVec.toInt_sdiv, BitVec.toInt_ofInt])
  simp only [divS, beq_iff_eq, h]

theorem remS_eq (x y : Word) : remS x y = if y = 0 then x else BitVec.ofInt 64 (x.toInt.tmod y.toInt) := by
  simp only [remS, beq_iff_eq, ← BitVec.toInt_srem, BitVec.ofInt_toInt]

theorem divN_eq (x y : Word) : divN x y = if y = 0 then BitVec.allOnes 64 else BitVec.ofNat 64 (x.toNat / y.toNat) := by
  simp only [divN, beq_iff_eq, ← BitVec.toNat_udiv, BitVec.ofNat_toNat, BitVec.setWidth_eq]

theorem remN_eq (x y : Word) : remN x y = if y = 0 then x else BitVec.ofNat 64 (x.toNat % y.toNat) := by
  simp only [remN, beq_iff_eq, ← BitVec.toNat_umod, BitVec.ofNat_toNat, BitVec.setWidth_eq]

/-! ### Immediates and bit fields (R61, R62) -/

theorem toInt_sext16 (i : BitVec 16) : (sext16 i).toInt = i.toInt := BitVec.toInt_signExtend_of_le (by decide)

/-- A field of n + 1 bits, as the signed number that it holds. -/
theorem sInt_field (n f : Nat) : sInt (n + 1) f = if f < 2 ^ n then (f : Int) else (f : Int) - 2 ^ (n + 1) := by
  rw [sInt, Nat.add_sub_cancel, Nat.cast_pow]
  by_cases h : f < 2 ^ n
  · rw [if_neg (by omega), if_pos h]
  · rw [if_pos (by omega), if_neg h]
    rfl

theorem bfxVal_unsigned (x : Word) (n p : BitVec 6) : bfxVal x n p false = BitVec.ofNat 64 (x.toNat / 2 ^ p.toNat % 2 ^ (n.toNat + 1)) := by
  rw [bfxVal, field, show p.toNat + n.toNat + 1 - p.toNat = n.toNat + 1 by omega]
  rfl

theorem bfxVal_signed (x : Word) (n p : BitVec 6) :
    let f := x.toNat / 2 ^ p.toNat % 2 ^ (n.toNat + 1)
    bfxVal x n p true = BitVec.ofInt 64 (if f < 2 ^ n.toNat then (f : Int) else (f : Int) - 2 ^ (n.toNat + 1)) := by
  intro f
  rw [bfxVal, field, show p.toNat + n.toNat + 1 - p.toNat = n.toNat + 1 by omega, if_pos rfl, ofNat_wrapI, sInt_field]

/-- The position and the end of the field that BEXT and BEXTN read. -/
theorem bitExtract_eq (x b : Word) (sg : Bool) :
    let q := b.toNat % 64
    bitExtract x b sg = BitVec.ofNat 64 (field 64 x.toNat q (min (q + b.toNat / 64 % 64 + 1) 64) sg) := by
  rw [bitExtract, bitsOf_eq, bitsOf_eq, Nat.pow_zero, Nat.div_one, ← Nat.add_assoc]
  rfl

theorem bitExtract_unsigned (x b : Word) :
    let q := b.toNat % 64
    let top := min (q + b.toNat / 64 % 64 + 1) 64
    bitExtract x b false = BitVec.ofNat 64 (x.toNat / 2 ^ q % 2 ^ (top - q)) := bitExtract_eq x b false

theorem bitExtract_signed (x b : Word) :
    let q := b.toNat % 64
    let top := min (q + b.toNat / 64 % 64 + 1) 64
    let g := x.toNat / 2 ^ q % 2 ^ (top - q)
    bitExtract x b true = BitVec.ofInt 64 (if g < 2 ^ (top - q - 1) then (g : Int) else (g : Int) - 2 ^ (top - q)) := by
  intro q top g
  have hlen : top - q - 1 + 1 = top - q := by
    have : q < 64 := Nat.mod_lt _ (by decide)
    omega
  have hsign := sInt_field (top - q - 1) g
  rw [hlen] at hsign
  rw [bitExtract_eq, field, if_pos rfl, ofNat_wrapI, hsign]

/-- The bits of a number of which bits [p + n - 1 : p] are replaced. -/
theorem testBit_replaced {x p n : Nat} (a i : Nat) :
    (x - x / 2 ^ p % 2 ^ n * 2 ^ p + a % 2 ^ n * 2 ^ p).testBit i =
      if p ≤ i ∧ i < p + n then a.testBit (i - p) else x.testBit i := by
  have hsplit : x = 2 ^ p * (2 ^ n * (x / 2 ^ p / 2 ^ n) + x / 2 ^ p % 2 ^ n) + x % 2 ^ p := by
    rw [Nat.div_add_mod, Nat.div_add_mod]
  have hrep : x - x / 2 ^ p % 2 ^ n * 2 ^ p + a % 2 ^ n * 2 ^ p = 2 ^ p * (2 ^ n * (x / 2 ^ p / 2 ^ n) + a % 2 ^ n) + x % 2 ^ p := by
    conv_lhs => lhs; lhs; rw [hsplit]
    rw [Nat.mul_add, Nat.mul_add, Nat.mul_comm (x / 2 ^ p % 2 ^ n), Nat.mul_comm (a % 2 ^ n)]
    omega
  rw [hrep, Nat.testBit_two_pow_mul_add _ (Nat.mod_lt _ (by positivity))]
  by_cases h1 : i < p
  · rw [if_pos h1, if_neg (by omega), Nat.testBit_mod_two_pow]; simp [h1]
  · rw [if_neg h1, Nat.testBit_two_pow_mul_add _ (Nat.mod_lt _ (by positivity))]
    by_cases h2 : i < p + n
    · rw [if_pos (by omega), if_pos (by omega), Nat.testBit_mod_two_pow]
      simp; omega
    · rw [if_neg (by omega), if_neg (by omega), Nat.testBit_div_two_pow, Nat.testBit_div_two_pow]
      congr 1; omega

/-- BFI replaces the field that its immediates name. -/
theorem bfiVal_eq (d a : Word) (n p : BitVec 6) :
    bfiVal d a n p = BitVec.ofNat 64
      (d.toNat - d.toNat / 2 ^ p.toNat % 2 ^ (n.toNat + 1) * 2 ^ p.toNat + a.toNat % 2 ^ (n.toNat + 1) * 2 ^ p.toNat) := by
  apply BitVec.eq_of_getLsbD_eq
  intro i hi
  rw [BitVec.getLsbD_ofNat, testBit_replaced, bfiVal]
  simp only [BitVec.getLsbD_or, BitVec.getLsbD_and, BitVec.getLsbD_not, BitVec.getLsbD_shiftLeft, BitVec.getLsbD_ofNat, Nat.testBit_two_pow_sub_one,
    BitVec.testBit_toNat]
  by_cases h1 : i < p.toNat
  · have : ¬ (p.toNat ≤ i ∧ i < p.toNat + (n.toNat + 1)) := by omega
    simp [h1, hi, this]
  · by_cases h2 : i < p.toNat + (n.toNat + 1)
    · have : p.toNat ≤ i ∧ i < p.toNat + (n.toNat + 1) := by omega
      have : i - p.toNat < n.toNat + 1 := by omega
      have : i - p.toNat < 64 := by omega
      simp [*]
    · have : ¬ (p.toNat ≤ i ∧ i < p.toNat + (n.toNat + 1)) := by omega
      have : ¬ (i - p.toNat < n.toNat + 1) := by omega
      simp [*]

/-! ### Members that write one register -/

/-- A member whose meaning is a register write completes with the value that it writes. -/
theorem completes_of_writeX {i : Instr} {s : State} {d : XReg} {v w : Word} (hx : exec i s = writeX d v s) (hv : v = w) :
    Completes i s (s.setX d w) := by
  rw [Completes, hx, hv, writeX, done_eq]

end Sys2Proof.Machine

namespace Sys2Proof

open Machine

/-- Settles O2: each member writes one register and completes, so what is left of it is its value, word by word. -/
theorem scalarArithmeticResults : Obligations.ScalarArithmeticResults := by
  unfold Obligations.ScalarArithmeticResults
  refine ⟨?plain, ?division, ?immediate⟩
  case plain =>
    intro s d a b ua ub sa sb sh
    have hsh : sh6 (s.x b) = sh := sh6_eq _
    have clz := clzNat_eq (s.x a).isLt
    have ctz := ctzNat_eq (s.x a).toNat 64 0
    have pop := popNat_eq (s.x a).toNat 64
    refine ⟨completes_of_writeX rfl rfl, completes_of_writeX rfl rfl, completes_of_writeX rfl rfl, completes_of_writeX rfl rfl,
      completes_of_writeX rfl rfl, completes_of_writeX rfl ?sll, completes_of_writeX rfl ?srl, completes_of_writeX rfl ?sra,
      completes_of_writeX rfl ?slt, completes_of_writeX rfl ?sltn, completes_of_writeX rfl (mul_eq_ofNat _ _),
      completes_of_writeX rfl (mulHigh_eq _ _), completes_of_writeX rfl (mulHighN_eq _ _), completes_of_writeX rfl (ite_sle_eq_min _ _),
      completes_of_writeX rfl (ite_sle_eq_max _ _), completes_of_writeX rfl (ite_ule_eq_min _ _), completes_of_writeX rfl (ite_ule_eq_max _ _),
      completes_of_writeX rfl (by rw [hsh]), completes_of_writeX rfl (by rw [hsh]), completes_of_writeX rfl ?clz,
      completes_of_writeX rfl ?ctz, completes_of_writeX rfl ?popc, completes_of_writeX rfl ?fshl, completes_of_writeX rfl ?fshr⟩
    case sll => rw [hsh, shiftLeft_eq_ofNat]
    case srl => rw [hsh, ushiftRight_eq_ofNat]
    case sra => rw [hsh, sshiftRight_eq_ofInt]
    case slt => rw [BitVec.slt_eq_decide, boolWord_decide]
    case sltn => rw [BitVec.ult_eq_decide, boolWord_decide]
    case clz => exact congrArg _ clz
    case ctz => rw [ctz, ← List.range_eq_range']; rfl
    case popc => exact congrArg _ pop
    case fshl => rw [funnelL_eq _ _ (sh6_lt _), hsh]
    case fshr => rw [funnelR_eq, hsh]
  case division =>
    intro s d a b x y
    exact ⟨completes_of_writeX rfl (divS_eq x y), completes_of_writeX rfl (remS_eq x y), completes_of_writeX rfl (divN_eq x y),
      completes_of_writeX rfl (remN_eq x y)⟩
  case immediate =>
    intro s d a b i n p u x len f q top g
    exact ⟨completes_of_writeX rfl rfl, completes_of_writeX rfl (by rw [BitVec.slt_eq_decide, boolWord_decide, toInt_sext16]),
      completes_of_writeX rfl rfl, completes_of_writeX rfl rfl, completes_of_writeX rfl rfl,
      completes_of_writeX rfl (shiftLeft_eq_ofNat _ _), completes_of_writeX rfl (ushiftRight_eq_ofNat _ _),
      completes_of_writeX rfl (sshiftRight_eq_ofInt _ _), completes_of_writeX rfl (signExtend_shiftLeft u 16),
      completes_of_writeX rfl (congrArg (s.pcNow + ·) (signExtend_shiftLeft u 16)),
      fun _ => ⟨completes_of_writeX rfl (bfxVal_unsigned x n p), completes_of_writeX rfl (bfxVal_signed x n p),
        completes_of_writeX rfl (bfiVal_eq (s.x d) x n p)⟩,
      completes_of_writeX rfl (bitExtract_unsigned x (s.x b)), completes_of_writeX rfl (bitExtract_signed x (s.x b))⟩

end Sys2Proof
end

section
/-!
SUPPORT. Completion and the back-edge check, branches and jumps, and the start of a loop (R65 to R71, R80, R84).
-/
namespace Sys2Proof.Machine

/-! ### Completion and the back-edge check (R68, R80, R84) -/

/-- With no running loop a scalar instruction counts and control goes on. -/
theorem complete_of_no_loop {s : State} (p : Word) (hl : s.agent.lane = none) (ha : s.me.active = []) :
    complete p s = s.setMe { s.me with instret := s.me.instret + 1, pc := p, run := .running } := by
  rw [complete_scalar p hl, arrive_of_no_loop p (by rw [State.me_modMe]; exact ha), State.modMe, State.goTo, State.modMe_setMe]

/-- At its end a loop with no iteration left ends, and control falls through. -/
theorem arrive_ends {s : State} {k : CtrNum} {p : Word} (ha : s.me.active = [k]) (hp : p = (s.me.loop k).endAddr)
    (hrem : (s.me.loop k).rem = 0) : arrive p s = s.setMe { s.me with active := [], pc := p, run := .running } := by
  have hend : (p == (s.me.loop k).endAddr) = true := beq_iff_eq.2 hp
  have hz : ((s.me.loop k).rem == 0) = true := beq_iff_eq.2 hrem
  rw [arrive, ha]
  simp only [backEdge, hend, hz, if_true, ha, List.filter_cons, bne_self_eq_false, Bool.false_eq_true, if_false, List.filter_nil, State.goTo,
    State.modMe, State.me_setMe, State.setMe_setMe]

/-! ### Branches and jumps (R65, R69) -/

/-- Displacements in bytes are four times the offset (R41). -/
theorem off16_eq (o : BitVec 16) : off16 o = BitVec.ofInt 64 (4 * o.toInt) := by
  rw [off16, signExtend_shiftLeft, Int.mul_comm]
  rfl

theorem off26_eq (o : BitVec 26) : off26 o = BitVec.ofInt 64 (4 * o.toInt) := by
  rw [off26, signExtend_shiftLeft, Int.mul_comm]
  rfl

/-- The state in which a taken branch to t leaves the loops that it jumps out of; a lane thread has none (R69, R84). -/
def State.leaving (s : State) (t : Word) : State :=
  if s.agent.lane = none then s.modMe (fun h => h.leaveLoops s.pcNow t) else s

theorem branchTo_eq (t : Word) (s : State) : branchTo t s = .next (complete t (s.leaving t)) := by
  unfold branchTo State.leaving
  split
  · next h => rw [h, if_neg (by simp)]
  · next h => rw [h, if_pos rfl]

/-- A conditional branch goes to its target or to the next word, as its condition says. -/
theorem branches_of_branchIf {i : Instr} {s : State} {c : Bool} {o : BitVec 16} {p : Prop} (hx : exec i s = branchIf c o s) (hc : c = true ↔ p) :
    let t := s.pcNow + BitVec.ofInt 64 (4 * o.toInt)
    (p → CompletesAt i t s (s.leaving t)) ∧ (¬ p → Completes i s s) := by
  intro t
  refine ⟨fun hp => ?_, fun hp => ?_⟩
  · rw [CompletesAt, hx, branchIf, if_pos (hc.2 hp), branchTo_eq, off16_eq]
  · rw [Completes, hx, branchIf, if_neg (mt hc.1 hp), done_eq]

/-- A running loop stays where it does not hold the branch, or holds its target too. -/
theorem Hart.mem_leaveLoops (h : Hart) (p q : Word) (k : CtrNum) : k ∈ (h.leaveLoops p q).active ↔ k ∈ h.active ∧
    ¬ ((h.loop k).top.toNat ≤ p.toNat ∧ p.toNat < (h.loop k).endAddr.toNat ∧
      ¬ ((h.loop k).top.toNat ≤ q.toNat ∧ q.toNat ≤ (h.loop k).endAddr.toNat)) := by
  simp only [Hart.leaveLoops, List.mem_filter, Bool.not_eq_true', ← Bool.not_eq_true, Bool.and_eq_true, decide_eq_true_eq, and_assoc]

/-! ### The start of a loop (R66, R67, R71) -/

@[simp] theorem Hart.setLoop_self (h : Hart) (k : CtrNum) : h.setLoop k (h.loop k) = h := by
  simp [Hart.setLoop, Hart.loop, Vector.get_eq_getElem]

@[simp] theorem Hart.setLoop_setLoop (h : Hart) (k : CtrNum) (a b : LoopCtr) : (h.setLoop k a).setLoop k b = h.setLoop k b := by
  simp [Hart.setLoop]

/-- Bits [47 : 2] of an address, as LBODY holds it. -/
theorem toNat_and_bodyMask (x : Word) : (x &&& 0x0000FFFFFFFFFFFC).toNat = x.toNat % 2 ^ 48 / 4 * 4 := by
  have hmask : (0x0000FFFFFFFFFFFC : Word).toNat = (2 ^ 46 - 1) * 2 ^ 2 := by decide
  apply Nat.eq_of_testBit_eq
  intro i
  rw [BitVec.toNat_and, hmask, show 4 = 2 ^ 2 from rfl, Nat.testBit_and, Nat.testBit_mul_two_pow, Nat.testBit_two_pow_sub_one, Nat.testBit_mul_two_pow,
    Nat.testBit_div_two_pow, Nat.testBit_mod_two_pow]
  by_cases h : 2 ≤ i
  · have : i - 2 < 46 ↔ i < 48 := by omega
    rw [Nat.sub_add_cancel h]
    simp [h, this, Bool.and_comm]
  · simp [h]

/-- LBODY of a loop that starts: its length above the address of its first word. -/
theorem loopBody_eq (top : Word) {len : Nat} (h : len < 2 ^ 16) :
    (BitVec.ofNat 64 len <<< 48) ||| (top &&& 0x0000FFFFFFFFFFFC) = BitVec.ofNat 64 (len * 2 ^ 48 + top.toNat % 2 ^ 48 / 4 * 4) := by
  have hlow : top.toNat % 2 ^ 48 / 4 * 4 < 2 ^ 48 := by omega
  apply BitVec.eq_of_toNat_eq
  rw [BitVec.toNat_or, toNat_and_bodyMask, shiftLeft_eq_ofNat, BitVec.toNat_ofNat, BitVec.toNat_ofNat, BitVec.toNat_ofNat,
    Nat.mod_eq_of_lt (by omega : len < 2 ^ 64), Nat.mod_eq_of_lt (by omega : len * 2 ^ 48 < 2 ^ 64), Nat.mul_comm len,
    ← Nat.two_pow_add_eq_or_of_lt hlow, Nat.mod_eq_of_lt (a := 2 ^ 48 * len + _) (by omega)]

/-- The hart once counter k holds v, where no window is tied to k: a change of value is counted (R66, R151). -/
def Hart.withCount (h : Hart) (k : CtrNum) (v : Word) : Hart :=
  Hart.setLoop { h with ahead := if (h.loop k).cnt = v then h.ahead else [] } k
    { h.loop k with cnt := v, changes := (h.loop k).changes + if (h.loop k).cnt = v then 0 else 1 }

theorem Hart.withCount_of_eq {h : Hart} {k : CtrNum} {v : Word} (hc : (h.loop k).cnt = v) : h.withCount k v = h := by
  subst hc
  rw [Hart.withCount, if_pos rfl, if_pos rfl]
  exact h.setLoop_self k

theorem Hart.withCount_of_ne {h : Hart} {k : CtrNum} {v : Word} (hc : (h.loop k).cnt ≠ v) :
    h.withCount k v = Hart.putCtr { h with ahead := [] } k v := by
  rw [Hart.withCount, if_neg hc, if_neg hc]
  rfl

/-- A counter that no window is tied to takes its value at once. -/
theorem setCounter_withCount {s : State} {k : CtrNum} (v p : Word) (hs : s.me.stream = []) (ht : ∀ w, (s.me.win w).tied k.toNat = 0) :
    (if (s.me.loop k).cnt == v then AdvRes.done s else setCounter k v p false s) = .done (s.setMe (s.me.withCount k v)) := by
  by_cases hc : (s.me.loop k).cnt = v
  · rw [if_pos (beq_iff_eq.2 hc), Hart.withCount_of_eq hc, State.setMe_self]
  · rw [if_neg (by simpa using hc), setCounter_untied (winPending_of_empty hs) ht, Hart.withCount_of_ne hc]

/-- The hart once counter k has started a loop of `len` words behind its instruction, for `cnt` iterations from `first` on, where no
window is tied to k. -/
def Hart.loopStarted (h : Hart) (k : CtrNum) (cnt first : Word) (len : Nat) : Hart :=
  { h.setLoop k {
      cnt := first, rem := cnt - 1, body := BitVec.ofNat 64 (len * 2 ^ 48 + (h.pc + 4).toNat % 2 ^ 48 / 4 * 4)
      endAddr := h.pc + 4 + BitVec.ofNat 64 (4 * len), changes := (h.loop k).changes + if (h.loop k).cnt = first then 0 else 1 } with
    active := k :: h.active.filter (· != k), ahead := if (h.loop k).cnt = first then h.ahead else [] }

theorem zeroExtend_ne_zero {w : Nat} (hw : w ≤ 64) {x : BitVec w} (h : x ≠ 0) : x.zeroExtend 64 ≠ 0 := fun c =>
  h (BitVec.eq_of_toNat_eq (by simpa [BitVec.toNat_setWidth_of_le hw] using congrArg BitVec.toNat c))

theorem slices_getD (h : Hart) (k : CtrNum) : h.slices.toList.getD k.toNat none = h.slices.get k.toFin := by
  have hk : k.toNat < 8 := k.isLt
  simp [List.getD_eq_getElem?_getD, Vector.get_eq_getElem, hk]

/-- LOOP.S is a loop over the slice of its counter (R71). -/
theorem execLoopS_some {k : CtrNum} {s : State} {first : Word} {n : Word} (l : BitVec 16) (h : s.me.slices.get k.toFin = some (first, n)) :
    execLoopS k l s = startLoop k n first l.toNat s := by
  rw [execLoopS, slices_getD, h]

/-- It is illegal where its counter has none. -/
theorem execLoopS_none {k : CtrNum} {s : State} (l : BitVec 16) (h : s.me.slices.get k.toFin = none) :
    execLoopS k l s = illegal (lp 0x19#6 k 1#2 0#5 l) s := by
  rw [execLoopS, slices_getD, h]

/-- A count of zero skips the body. -/
theorem startLoop_zero (k : CtrNum) (first : Word) (len : Nat) (s : State) :
    startLoop k 0 first len s =
      .next (complete (s.me.pc + 4 + BitVec.ofNat 64 (4 * len)) (s.setMe { s.me with active := s.me.active.filter (· != k) })) := by
  rw [BitVec.ofNat_mul]
  rfl

/-- Any other count starts the loop. -/
theorem startLoop_starts {s : State} {k : CtrNum} {n : Word} (first : Word) {len : Nat} (hs : s.me.stream = [])
    (ht : ∀ w, (s.me.win w).tied k.toNat = 0) (hn : n ≠ 0) (hlen : len < 2 ^ 16) :
    startLoop k n first len s = .next (complete (s.me.pc + 4) (s.setMe (s.me.loopStarted k n first len))) := by
  have hz : (n == 0) = false := beq_eq_false_iff_ne.2 hn
  simp only [startLoop, hz, Bool.false_eq_true, if_false, setCounter_withCount first _ hs ht, State.modMe_setMe, loopBody_eq _ hlen, Hart.withCount,
    Hart.loop_setLoop, Hart.setLoop_setLoop]
  rw [Hart.loopStarted, BitVec.ofNat_mul]
  rfl

end Sys2Proof.Machine

namespace Sys2Proof

open Machine

/-! ### The word of LOOP.S (R37, R51) -/

/-- The fields of a word lie one behind the other, from bit 31 down (R37). -/
theorem getLsbD_lp (m : BitVec 6) (c : BitVec 3) (kind : BitVec 2) (a : BitVec 5) (l : BitVec 16) (i : Nat) :
    (lp m c kind a l).getLsbD i = if i < 16 then l.getLsbD i else if i < 21 then a.getLsbD (i - 16) else if i < 23 then kind.getLsbD (i - 21)
      else if i < 26 then c.getLsbD (i - 23) else m.getLsbD (i - 26) := by
  change (m ++ c ++ kind ++ a ++ l : BitVec (6 + 3 + 2 + 5 + 16)).getLsbD i = _
  simp only [BitVec.getLsbD_append]
  grind

/-- The fields of a word in the LP format (R37). -/
theorem fields_lp (m : BitVec 6) (c : BitVec 3) (kind : BitVec 2) (a : BitVec 5) (l : BitVec 16) :
    (lp m c kind a l).extractLsb' 26 6 = m ∧ (lp m c kind a l).extractLsb' 23 3 = c ∧ (lp m c kind a l).extractLsb' 21 2 = kind ∧
      (lp m c kind a l).extractLsb' 16 5 = a ∧ (lp m c kind a l).extractLsb' 0 16 = l := by
  have field {n : Nat} (lo : Nat) (x : BitVec n) (h : ∀ i, i < n → (lp m c kind a l).getLsbD (lo + i) = x.getLsbD i) :
      (lp m c kind a l).extractLsb' lo n = x :=
    BitVec.eq_of_getLsbD_eq fun i hi => by rw [BitVec.getLsbD_extractLsb', h i hi]; simp [hi]
  refine ⟨field _ _ fun i hi => ?_, field _ _ fun i hi => ?_, field _ _ fun i hi => ?_, field _ _ fun i hi => ?_, field _ _ fun i hi => ?_⟩
  all_goals
    rw [getLsbD_lp]
    grind

theorem decode_loopS (k : CtrNum) {l : BitVec 16} (h : l ≠ 0) : decode (lp 0x19#6 k 1#2 0#5 l) = .ok (.loopS k l) := by
  obtain ⟨hop, hk, hkind, ha, hl⟩ := fields_lp 0x19#6 k 1#2 0#5 l
  have hmember : decodeMember (lp 0x19#6 k 1#2 0#5 l) = .ok (.loopS k l) := by
    rw [decodeMember, hop]
    change decodeLoop _ = _
    rw [decodeLoop, hkind, hk, hl, ha]
    rfl
  have hwf : (Instr.loopS k l).wellFormed = true := bne_iff_ne.2 h
  rw [decode, hmember]
  simp [hwf]
/-- Settles O3: with no loop at its end the check changes nothing, and at the end of the one running loop its count says whether
it ends or wraps. -/
theorem completionAndBackEdge : Obligations.CompletionAndBackEdge := by
  unfold Obligations.CompletionAndBackEdge
  refine ⟨fun s => ⟨fun ho ha => ?scalar, fun l _ hl => ?lane⟩, fun s k hq ha hend ht => ?loop⟩
  case scalar =>
    rw [finish, complete_of_no_loop _ ho.2.1 ha, pcNow_of_scalar ho]
  case lane =>
    rw [finish, complete_lane _ hl]
    rfl
  case loop =>
    obtain ⟨ho, hs, -, -⟩ := hq
    have hfinish : finish s = arrive (s.me.pc + 4) (s.setMe { s.me with instret := s.me.instret + 1 }) := by
      rw [finish, complete_scalar _ ho.2.1, pcNow_of_scalar ho]
      rfl
    intro l
    refine ⟨fun hrem => ?_, fun hrem => ?_⟩
    · rw [hfinish, arrive_ends (k := k) (by rwa [State.me_setMe]) (by rw [State.me_setMe]; exact hend.symm) (by rwa [State.me_setMe]),
        State.me_setMe, State.setMe_setMe]
    · rw [hfinish, arrive_wraps (k := k) (by rwa [State.me_setMe]) (by rwa [State.me_setMe]) (by rw [State.me_setMe]; exact hend.symm)
        (by rwa [State.me_setMe]) (by rwa [State.me_setMe]), State.me_setMe]
      exact State.setMe_setMe ..

/-- Settles O4: the conditional branches are one function of their condition, and a jump leaves loops only where it does not
link. -/
theorem branchesAndJumps : Obligations.BranchesAndJumps := by
  unfold Obligations.BranchesAndJumps
  refine ⟨fun s a b o o' => ?branch, fun s d a i o => ?jump⟩
  case branch =>
    intro t t' left branch
    have hlt : (s.x a).slt (s.x b) = true ↔ (s.x a).toInt < (s.x b).toInt := by rw [BitVec.slt_eq_decide, decide_eq_true_iff]
    have hltn : (s.x a).ult (s.x b) = true ↔ (s.x a).toNat < (s.x b).toNat := by rw [BitVec.ult_eq_decide, decide_eq_true_iff]
    refine ⟨branches_of_branchIf rfl beq_iff_eq, branches_of_branchIf rfl bne_iff_ne, branches_of_branchIf rfl hlt,
      branches_of_branchIf rfl ?ge, branches_of_branchIf rfl hltn, branches_of_branchIf rfl ?geu, ?j, Hart.mem_leaveLoops⟩
    case ge => rw [Bool.not_eq_true', ← Bool.not_eq_true, hlt, not_lt]
    case geu => rw [Bool.not_eq_true', ← Bool.not_eq_true, hltn, not_lt]
    case j =>
      change branchTo (s.pcNow + off26 o') s = _
      rw [branchTo_eq, off26_eq]
      rfl
  case jump =>
    intro t
    have hjalr : exec (.jalr d a i) s = if t &&& 3 != 0 then raise ⟨.misalign, t, 0⟩ s else .next (complete t (s.setX d (s.pcNow + 4))) := rfl
    refine ⟨?_, fun ht => ?_, fun ht hq => ?_⟩
    · change execJal o s = _
      rw [execJal, off26_eq]
    · rw [CompletesAt, hjalr, if_neg (by rw [low_bits_ne]; exact not_not.2 ht)]
    · rw [Traps, hjalr, if_pos ((low_bits_ne t).2 ht), raise_of_quiet hq]

/-- Settles O5: the three members start the same loop with their own count and first index. -/
theorem loopsStart : Obligations.LoopsStart := by
  unfold Obligations.LoopsStart
  refine ⟨fun s k a l n l' hq ht => ?_, fun s k l hq hl hslice => ?_⟩
  · intro h top past skipped started
    have zero (first : Word) (len : Nat) : startLoop k 0 first len s = .next (complete (past len) skipped) := startLoop_zero k first len s
    have starts {cnt : Word} (first : Word) {len : Nat} (hc : cnt ≠ 0) (hlen : len < 2 ^ 16) :
        startLoop k cnt first len s = .next (complete top (started cnt first len)) := startLoop_starts first hq.2.1 ht hc hlen
    have hloop : exec (.loop k a l) s = startLoop k (s.x a) 0 l.toNat s := rfl
    have hloopi : exec (.loopi k n l') s = startLoop k (n.zeroExtend 64) 0 l'.toNat s := rfl
    refine ⟨fun hz => ?_, fun hz => ?_, fun hz => ?_, fun hz => ?_, fun first cnt hslice => ?_⟩
    · rw [hloop, hz, zero]
    · rw [hloop, starts 0 hz l.isLt]
    · rw [hloopi, hz]
      exact zero 0 _
    · rw [hloopi, starts 0 (zeroExtend_ne_zero (by decide) hz) (by omega)]
    · have hloopS : exec (.loopS k l) s = startLoop k cnt first l.toNat s := by
        exact execLoopS_some l hslice
      refine ⟨fun hz => ?_, fun hz => ?_⟩
      · rw [hloopS, hz, zero]
      · rw [hloopS, starts first hz l.isLt]
  · refine ⟨lp 0x19#6 k 1#2 0#5 l, decode_loopS k hl, ?_⟩
    exact (execLoopS_none l hslice).trans (raise_of_quiet hq)

end Sys2Proof
end

section
/-!
SUPPORT. SETS: the registers that it writes, and the numbers that MOVS and SETS refuse (R70, R79 to R81, R84, R98, R310).
-/
namespace Sys2Proof.Machine

/-! ### Registers whose write stores fields (R79, R310) -/

/-- Writable registers outside the Harness and the counters. -/
def fieldReg (r : Nat) : Bool := writable r && !isHarnessReg r && !(0x010 ≤ r && r < 0x018)

/-- SETS of such a register stores its fields; a rounding mode beyond 4 is refused (R98). -/
theorem execSets_stores {s : State} {a : XReg} {r : BitVec 12} (hv : s.me.vecDone = true) (hf : fieldReg r.toNat = true)
    (hp : 0x100 ≤ r.toNat → s.me.trap.priv = true) (hr : r.toNat = 0x004 → (s.x a).toNat % 8 ≤ 4) :
    Completes (.sets a r) s (setReg r.toNat (s.x a) s) := by
  simp only [fieldReg, Bool.and_eq_true, Bool.not_eq_true'] at hf
  obtain ⟨⟨hw, hh⟩, hctr⟩ := hf
  have hpriv : (decide (0x100 ≤ r.toNat) && !s.me.trap.priv) = false := by
    by_cases h : 0x100 ≤ r.toNat
    · simp [hp h]
    · simp [h]
  have hround : (r.toNat == 0x004 && decide (bitsOf (s.x a) 0 3 > 4)) = false := by
    by_cases h : r.toNat = 0x004
    · simpa [h, bitsOf_eq] using hr h
    · simp [h]
  change execSets a r s = _
  simp only [execSets, hw, hpriv, hround, hctr, hh, hv, Bool.not_true, Bool.and_false, Bool.false_and, Bool.false_eq_true, if_false, done_eq]

/-- The same, where the write changes the hart alone. -/
theorem execSets_writes {s : State} {a : XReg} {r : BitVec 12} {h : Hart} (hv : s.me.vecDone = true) (hf : fieldReg r.toNat = true)
    (hp : 0x100 ≤ r.toNat → s.me.trap.priv = true) (hr : r.toNat = 0x004 → (s.x a).toNat % 8 ≤ 4)
    (hset : setReg r.toNat (s.x a) s = s.setMe h) : Completes (.sets a r) s (s.setMe h) :=
  hset ▸ execSets_stores hv hf hp hr

/-- A rounding mode beyond 4 (R98). -/
theorem execSets_badRounding {s : State} (a : XReg) (hq : s.Quiet) (hr : 4 < (s.x a).toNat % 8) : TrapsWord (.sets a 0x004) .illegalInsn s := by
  have hround : ((0x004 : BitVec 12).toNat == 0x004 && decide (bitsOf (s.x a) 0 3 > 4)) = true := by simpa [bitsOf_eq] using hr
  have hpriv : (decide (0x100 ≤ (0x004 : BitVec 12).toNat) && !s.me.trap.priv) = false := rfl
  have hw : writable (0x004 : BitVec 12).toNat = true := rfl
  have hx : execSets a 0x004 s = illegal (setsWord a 0x004) s := by
    simp only [execSets, hw, hround, hpriv, Bool.not_true, Bool.false_eq_true, if_false, if_true]
  exact hx.trans (raise_of_quiet hq)

/-- LREM and LBODY of a counter (R66). -/
theorem setReg_ctr (v : Word) (s : State) (k : CtrNum) :
    setReg (0x018 + k.toNat) v s = s.setMe (s.me.setLoop k { s.me.loop k with rem := v }) ∧
      setReg (0x020 + k.toNat) v s = s.setMe (s.me.setLoop k { s.me.loop k with body := v &&& ~~~(3 : Word) }) := by
  have := k.isLt
  have h (base : Nat) : BitVec.ofNat 3 (base + k.toNat - base) = k := by simp
  constructor
  · grind [setReg, State.modMe]
  · grind [setReg, State.modMe]

/-- LREM or LBODY, as SETS names it. -/
theorem execSets_loopReg {s : State} {a : XReg} {base : BitVec 12} (k : CtrNum) {h : Hart} (hv : s.me.vecDone = true)
    (hb : base = 0x018 ∨ base = 0x020) (hset : setReg (base.toNat + k.toNat) (s.x a) s = s.setMe h) :
    Completes (.sets a (base + k.zeroExtend 12)) s (s.setMe h) := by
  have hk := k.isLt
  have hlo : 0x018 ≤ base.toNat ∧ base.toNat ≤ 0x020 := by rcases hb with rfl | rfl <;> decide
  have hn := toNat_add_ctr base k (by omega)
  refine execSets_writes hv ?_ ?_ ?_ (by rw [hn]; exact hset)
  · rw [hn]
    simp [fieldReg, writable, isHarnessReg]
    omega
  · rw [hn]
    omega
  · rw [hn]
    omega

/-- PREEMPT: WHY, and a request for a hard pre-emption (R310, R323). -/
theorem setReg_preempt (v : Word) (s : State) :
    setReg 0x111 v s = s.setMe { s.me with sup := { s.me.sup with why := v.extractLsb' 56 4, hardReq := s.me.sup.hardReq || v.getLsbD 61 } } := by
  change (if v.getLsbD 61 then requestHard (s.modMe fun h => { h with sup := { h.sup with why := v.extractLsb' 56 4 } })
    else s.modMe fun h => { h with sup := { h.sup with why := v.extractLsb' 56 4 } }) = _
  cases v.getLsbD 61 with
  | true =>
    rw [if_pos rfl, State.modMe, requestHard, State.modMe_setMe, Bool.or_true]
  | false =>
    rw [if_neg Bool.false_ne_true, Bool.or_false]
    rfl

/-- SETS of a counter that no window is tied to (R70, R151). -/
theorem execSets_counter {s : State} (a : XReg) (k : CtrNum) (hs : s.me.stream = []) (ht : ∀ w, (s.me.win w).tied k.toNat = 0) :
    Completes (.sets a (0x010 + k.zeroExtend 12)) s (s.setMe (s.me.withCount k (s.x a))) := by
  have hk := k.isLt
  have hn : (0x010 + k.zeroExtend 12 : BitVec 12).toNat = 0x010 + k.toNat := toNat_add_ctr 0x010 k (by decide)
  have hnum : BitVec.ofNat 3 (0x010 + k.toNat - 0x010) = k := by simp
  have hw : writable (0x010 + k.toNat) = true := by simp [writable]; omega
  have hp : (decide (0x100 ≤ 0x010 + k.toNat) && !s.me.trap.priv) = false := by simp; omega
  have hr : (0x010 + k.toNat == 0x004 && decide (bitsOf (s.x a) 0 3 > 4)) = false := by simp; omega
  have hh : isHarnessReg (0x010 + k.toNat) = false := by simp [isHarnessReg]; omega
  have hlow : (decide (0x010 + k.toNat ≤ 0x006) && !s.me.vecDone) = false := by simp; omega
  have hctr : (decide (0x010 ≤ 0x010 + k.toNat) && decide (0x010 + k.toNat < 0x018)) = true := by simp; omega
  change execSets a _ s = _
  simp only [execSets, hn, hw, hp, hr, hh, hlow, hctr, hnum, Bool.not_true, Bool.false_and, Bool.false_eq_true, if_false, if_true]
  have hset := setCounter_withCount (s.x a) s.me.pc hs ht
  split at hset
  · next hc => rw [if_pos hc, done_eq, ← AdvRes.done.inj hset]
  · next hc => rw [if_neg hc, hset]; rfl

/-! ### Numbers without a register (R79, R84) -/

/-- The register number of MOVS and SETS stands in an immediate of 16 bits (R37). -/
theorem zeros_append_eq_zeroExtend (r : BitVec 12) : (0#4 ++ r : BitVec 16) = r.zeroExtend 16 :=
  BitVec.eq_of_toNat_eq (by
    have := r.isLt
    rw [BitVec.toNat_append, BitVec.zeroExtend, BitVec.toNat_setWidth_of_le (by decide)]
    simp)

theorem encodeWord_movs (d : XReg) (r : BitVec 12) : encodeWord (.movs d r) = movsWord d r := by
  rw [movsWord, ← zeros_append_eq_zeroExtend]
  rfl

theorem encodeWord_sets (a : XReg) (r : BitVec 12) : encodeWord (.sets a r) = setsWord a r := by
  rw [setsWord, ← zeros_append_eq_zeroExtend]
  rfl

/-- A trap is taken at once in a lane thread, and on the scalar unit with no vector instruction outstanding (R88, R312). -/
theorem raise_of_settled (t : Trap) {s : State} (h : s.agent.lane = none → s.me.stream = [] ∧ s.me.pulls.all (·.formed) = true) :
    raise t s = .next (trapAt t t.cause.squash s.pcNow s) := by
  rcases raise_cases t s with ⟨-, hl, hd, -⟩ | ⟨-, hr⟩
  · obtain ⟨hs, hp⟩ := h hl
    rw [allDone_of_empty hs hp] at hd
    cases hd
  · exact hr

section
variable {s : State} (hs : s.agent.lane = none → s.me.stream = [] ∧ s.me.pulls.all (·.formed) = true)
include hs

/-- MOVS of a number that no register has, or that the lane thread may not name. -/
theorem execMovs_illegal (d : XReg) {r : BitVec 12}
    (hr : s.sysReg r.toNat = none ∨ (s.agent.lane.isSome = true ∧ laneReadable r.toNat = false)) : TrapsWord (.movs d r) .illegalInsn s := by
  have hx : execMovs d r s = illegal (movsWord d r) s := by
    rcases hr with hr | ⟨hl, hr⟩
    · simp only [execMovs, hr, ite_self]
    · simp only [execMovs, hl, hr, Bool.not_false, Bool.and_true, if_true]
  rw [TrapsWord, Traps, encodeWord_movs]
  exact hx.trans (raise_of_settled _ hs)

/-- SETS of a number that it may not name. -/
theorem execSets_illegal (a : XReg) {r : BitVec 12} (hr : writable r.toNat = false) : TrapsWord (.sets a r) .illegalInsn s := by
  have hx : execSets a r s = illegal (setsWord a r) s := by
    simp only [execSets, hr, Bool.not_false, if_true]
  rw [TrapsWord, Traps, encodeWord_sets]
  exact hx.trans (raise_of_settled _ hs)

end

/-- A lane thread reads its lane (R84). -/
theorem execMovs_lane {s : State} {l : Nat} (d : XReg) (hl : s.agent.lane = some l) :
    Completes (.movs d 0x007) s (s.setX d (BitVec.ofNat 64 l)) := by
  have hreg : s.sysReg (0x007 : BitVec 12).toNat = some (BitVec.ofNat 64 l) := by
    change some (wn (s.agent.lane.getD 0)) = _
    rw [hl]
    rfl
  have hread : laneReadable (0x007 : BitVec 12).toNat = true := rfl
  have hpriv : (decide (0x100 ≤ (0x007 : BitVec 12).toNat) && !s.me.trap.priv) = false := rfl
  have hh : isHarnessReg (0x007 : BitVec 12).toNat = false := rfl
  change execMovs d 0x007 s = _
  simp only [execMovs, hl, hreg, hread, hpriv, hh, took_of_fixed s (r := (0x007 : BitVec 12).toNat) (by decide) (by decide), Option.isSome_some,
    Option.isNone_some, Bool.not_true, Bool.and_false, Bool.false_and, Bool.false_eq_true, if_false, Option.getD_some, writeX, done_eq]

end Sys2Proof.Machine

namespace Sys2Proof

open Machine

/-- Settles O11: one lemma says what a SETS does with the value of its register, so that what is left is that value, register by
register; a number without a register is refused before any other check. -/
theorem setsWritesTheRegister : Obligations.SetsWritesTheRegister := by
  unfold Obligations.SetsWritesTheRegister
  refine ⟨fun s a hq hv => ?writes, fun s d r _ hs => ?refused⟩
  case writes =>
    intro h v writes
    have user (r : BitVec 12) {h' : Hart} (hf : fieldReg r.toNat = true) (hlow : r.toNat < 0x100) (h4 : r.toNat ≠ 0x004)
        (hset : setReg r.toNat v s = s.setMe h') : writes r h' :=
      execSets_writes hv hf (fun hp => absurd hlow (by omega)) (fun h => absurd h h4) hset
    have hvstart : bitsOf v 0 24 = v.toNat % 2 ^ 24 := by rw [bitsOf_eq, Nat.pow_zero, Nat.div_one]
    refine ⟨user _ rfl (by decide) (by decide) (by rw [← hvstart]; rfl), fun h4 => execSets_writes hv rfl (fun c => absurd c (by decide)) (fun _ => h4) rfl,
      execSets_badRounding a hq, user _ rfl (by decide) (by decide) rfl, user _ rfl (by decide) (by decide) rfl,
      fun k => ⟨execSets_counter a k hq.2.1, execSets_loopReg k hv (.inl rfl) (setReg_ctr v s k).1,
        execSets_loopReg k hv (.inr rfl) (setReg_ctr v s k).2⟩, fun hp => ?_⟩
    have sup (r : BitVec 12) {h' : Hart} (hf : fieldReg r.toNat = true) (h4 : r.toNat ≠ 0x004) (hset : setReg r.toNat v s = s.setMe h') : writes r h' :=
      execSets_writes hv hf (fun _ => hp) (fun h => absurd h h4) hset
    exact ⟨sup _ rfl (by decide) rfl, sup _ rfl (by decide) rfl, sup _ rfl (by decide) rfl, sup _ rfl (by decide) rfl, sup _ rfl (by decide) rfl,
      sup _ rfl (by decide) rfl, sup _ rfl (by decide) rfl, sup _ rfl (by decide) rfl, sup _ rfl (by decide) (setReg_preempt v s),
      sup _ rfl (by decide) rfl⟩
  case refused =>
    refine ⟨fun hm => ?_, fun hm => ?_, fun hl hm => ?_, fun l hl => execMovs_lane d hl⟩
    · have hnone : ∀ n ∈ [0x008, 0x033, 0x036, 0x037, 0x039, 0x046, 0x051, 0x0B0, 0x107, 0x10C, 0x113, 0xFFF], s.sysReg n = none := by
        intro n hn
        fin_cases hn <;> rfl
      exact execMovs_illegal hs d (.inl (hnone _ hm))
    · have hnone : ∀ n ∈ [0x000, 0x001, 0x003, 0x007, 0x008, 0x030, 0x031, 0x032, 0x034, 0x035, 0x038, 0x040, 0x042, 0x050, 0x0B0, 0x107, 0x108,
          0x109, 0x10A, 0x10B, 0x113], writable n = false := by decide
      exact execSets_illegal hs d (hnone _ hm)
    · exact execMovs_illegal hs d (.inr ⟨hl, by simpa [laneReadable] using hm⟩)

end Sys2Proof
end

section
/-!
SUPPORT. What the entry of a trap leaves: that of the scalar unit, of a lane thread and of a queued vector instruction (R73, R88, R311
to R315).
-/
namespace Sys2Proof.Machine

/-! ### Traps of the scalar unit and of a lane thread (R88, R315) -/

/-- The entry of a trap outside the vector stream: the hart's own entry, and its scalar unit executes next. -/
theorem trapAt_now {s : State} (hr : s.replay = none) (t : Trap) (sq : Bool) (pc : Word) :
    trapAt t sq pc s =
      { s.setMe (s.me.enterTrap { t with elem := s.agent.lane.getD t.elem } pc sq s.agent.lane.isSome) with agent := ⟨s.who, none⟩ } := by
  cases hl : s.agent.lane with
  | some l => exact trapAt_lane hr hl t sq pc
  | none =>
    have ha : s.agent = ⟨s.who, none⟩ := by rw [State.who, ← hl]
    simp only [trapAt, hr, hl]
    rw [← ha]
    rfl

/-- The hart and the agent of a state that only goes on with its scalar unit. -/
theorem State.me_withAgent (s : State) (h : Hart) : State.me { s.setMe h with agent := ⟨s.who, none⟩ } = h := s.me_setMe h

/-! ### What a trap of a queued vector instruction undoes (R312, R313) -/

theorem Hart.giveBack_frame (h : Hart) (p : Pull) : ∃ its, h.giveBack p = { h with iters := its } := by
  unfold Hart.giveBack
  split
  · exact ⟨_, rfl⟩
  · exact ⟨h.iters, rfl⟩

theorem giveBack_foldr_frame (ps : List Pull) (h : Hart) : ∃ its, ps.foldr (fun p h => h.giveBack p) h = { h with iters := its } := by
  induction ps with
  | nil => exact ⟨h.iters, rfl⟩
  | cons p ps ih =>
    obtain ⟨its, hf⟩ := ih
    obtain ⟨its', hg⟩ := Hart.giveBack_frame { h with iters := its } p
    exact ⟨its', by rw [List.foldr_cons, hf, hg]⟩

/-- The hart without what issued after number q, the elements of the pulls that go given back to their stacks. -/
def Hart.upTo (h : Hart) (q : Nat) : Hart :=
  { (h.pulls.filter (fun p => q < p.entry.seq)).foldr (fun p h => h.giveBack p) h with
    stream := [], pulls := h.pulls.filter (fun p => p.entry.seq ≤ q), late := h.late.filter (fun l => l.1 ≤ q)
    reOps := h.reOps.filter (fun o => o.tag.seq ≤ q), ahead := [], itOps := h.itOps.filter (fun o => o.tag.seq ≤ q)
    xops := h.xops.filter (fun o => o.tag.seq ≤ q) }

/-- Beside what it discards, only the stacks differ. -/
theorem Hart.upTo_frame (h : Hart) (q : Nat) : ∃ its, h.upTo q = { h with
    iters := its
    stream := [], pulls := h.pulls.filter (fun p => p.entry.seq ≤ q), late := h.late.filter (fun l => l.1 ≤ q)
    reOps := h.reOps.filter (fun o => o.tag.seq ≤ q), ahead := [], itOps := h.itOps.filter (fun o => o.tag.seq ≤ q)
    xops := h.xops.filter (fun o => o.tag.seq ≤ q) } := by
  obtain ⟨its, hf⟩ := giveBack_foldr_frame (h.pulls.filter (fun p => q < p.entry.seq)) h
  exact ⟨its, by rw [Hart.upTo, hf]⟩

/-- Discarding leaves the hart so, and every other hart as it is. -/
theorem hart_discardAfter (s : State) (w : Who) (q : Nat) (v : Who) :
    (s.discardAfter w q).hart v = if v = w then (s.hart w).upTo q else s.hart v := by
  have hcores : (s.discardAfter w q).cores = ((s.modHart w (fun h => h.upTo q)).modCore w.core (fun k =>
      { k with matrix := { k.matrix with ops := k.matrix.ops.filter (fun o => o.who != w || o.away || o.tag.seq ≤ q) } })).cores := rfl
  rw [State.hart_congr hcores, State.hart_modCore_of_harts rfl, State.hart_modHart]

theorem hart_foldl_setQbuf (l : List ((CoreId × Fin 8) × List Host.Cell)) (s : State) (w : Who) :
    (l.foldl (fun s b => s.setQbuf b.1 b.2) s).hart w = s.hart w := by
  induction l generalizing s with
  | nil => rfl
  | cons b l ih => rw [List.foldl_cons, ih]; exact State.hart_modCore_of_harts rfl w

/-- Putting buffers back leaves the stores, the agent and the instruction that executes. -/
theorem foldl_setQbuf_frame (l : List ((CoreId × Fin 8) × List Host.Cell)) (s : State) :
    let u := l.foldl (fun s b => s.setQbuf b.1 b.2) s
    u.stores = s.stores ∧ u.agent = s.agent ∧ u.replay = s.replay := by
  induction l generalizing s with
  | nil => exact ⟨rfl, rfl, rfl⟩
  | cons b l ih => exact ih _

/-- The scalar state is put back in the hart alone. -/
theorem hart_restoreSnap (s : State) (e : Issued) (w : Who) :
    (s.restoreSnap e).hart w =
      if w = s.who then { s.me.restoreSnap e.snap with run := if e.adv == some true then .atLoopEnd else .running } else s.hart w := by
  rw [State.restoreSnap, hart_foldl_setQbuf]
  exact State.hart_setHart_ite ..

theorem State.restoreSnap_frame (s : State) (e : Issued) :
    (s.restoreSnap e).stores = s.stores ∧ (s.restoreSnap e).agent = s.agent ∧ (s.restoreSnap e).replay = s.replay := foldl_setQbuf_frame _ _

end Sys2Proof.Machine

namespace Sys2Proof

open Machine

/-- Settles O7: `trapAt_now` is the entry outside the stream; a queued instruction's entry starts from the hart without what issued
after it, its scalar state put back. -/
theorem trapsAndTheirEntry : Obligations.TrapsAndTheirEntry := by
  unfold Obligations.TrapsAndTheirEntry
  refine ⟨fun s hq => ?entered, fun s t sq pc hr => ?now, fun s e t sq pc hr => ?queued⟩
  case entered =>
    intro entered
    have raised {i : Instr} {c : Cause} {w : Insn} (hx : exec i s = raiseWord c w s) (hc : c.squash = false) :
        entered i c.code (w.zeroExtend 64) := by
      change exec i s = _
      rw [hx, raiseWord, raise_of_quiet hq, trapAt_scalar hq.1, pcNow_of_scalar hq.1, hc]
      rfl
    exact ⟨raised (c := .brk) (w := 0x6C000002) rfl rfl, raised (c := .scall) (w := 0x6C000003) rfl rfl⟩
  case now =>
    intro u h
    have hu : u = _ := trapAt_now hr t sq pc
    have hh : h = s.me.enterTrap { t with elem := s.agent.lane.getD t.elem } pc sq s.agent.lane.isSome := by
      change u.me = _
      rw [hu, State.me_withAgent]
    rw [hh, hu]
    exact ⟨rfl, rfl, rfl, rfl, rfl, rfl, rfl, rfl, rfl, rfl, rfl, rfl, ⟨_, _, _, rfl⟩, rfl, rfl, rfl, rfl, fun w hw => State.hart_setMe_ne s w _ hw⟩
  case queued =>
    let d := s.discardAfter s.who e.seq
    obtain ⟨its, hkept⟩ := s.me.upTo_frame e.seq
    obtain ⟨hstores, hagent, hreplay⟩ := d.restoreSnap_frame e
    have hme : (d.restoreSnap e).me =
        { (s.me.upTo e.seq).restoreSnap e.snap with run := if e.adv == some true then .atLoopEnd else .running } := by
      rw [State.me, State.who, hagent]
      have hcut : d.me = s.me.upTo e.seq := (hart_discardAfter s s.who e.seq s.who).trans (if_pos rfl)
      exact (hart_restoreSnap d e s.who).trans ((if_pos rfl).trans (by rw [hcut]))
    intro u h
    have hu : u = (d.restoreSnap e).modMe (fun h => h.enterTrap t pc sq false) := by
      change trapAt t sq pc s = _
      simp only [trapAt, hr]
      rfl
    have hh : h = Hart.enterTrap _ t pc sq false := (congrArg State.me hu).trans (State.me_modMe _ _)
    rw [hme, hkept] at hh
    rw [hh, hu]
    refine ⟨rfl, rfl, rfl, rfl, rfl, rfl, rfl, rfl, rfl, rfl, rfl, rfl, rfl, rfl, rfl, rfl, rfl, rfl, rfl, rfl, rfl, rfl, rfl, hstores,
      (State.restoreSnap_mem _ _).trans (State.discardAfter_mem _ _ _), hreplay, fun w hw => ?_⟩
    have hrest : (d.restoreSnap e).hart w = s.hart w := by
      rw [hart_restoreSnap, if_neg (by exact hw), hart_discardAfter, if_neg hw]
    exact (State.hart_setMe_ne _ w _ (by rw [State.who, hagent]; exact hw)).trans hrest

end Sys2Proof
end

section
/-!
SUPPORT. YIELD, WFE and CAPRD, and the pre-emption requests (R73, R301, R310, R318, R319, R322, R323).
-/
namespace Sys2Proof.Machine

/-! ### YIELD and WFE (R73, R318, R322) -/

/-- With nothing pending YIELD goes on. -/
theorem execYield_idle {s : State} (hh : s.me.hardNow = false) (hs : s.me.sup.soft = false) : Completes .yield s s := by
  change execYield s = _
  rw [execYield, hh, hs]
  rfl

/-- In user mode a pending pre-emption waits for the boundary after YIELD; a soft one has become hard there. -/
theorem execYield_pending {s : State} (hp : s.me.trap.priv = false) (h : s.me.hardNow = true ∨ s.me.sup.soft = true) :
    Completes .yield s (s.setMe s.me.yields) := by
  have hpend : (s.me.hardNow || s.me.sup.soft) = true := by simpa using h
  have hpriv : (s.modMe Hart.yields).me.trap.priv = false := by
    rw [State.me_modMe, Hart.yields]
    split
    · exact hp
    · exact hp
  change execYield s = _
  simp only [execYield, hpend, hpriv, Bool.not_true, Bool.false_eq_true, if_false]
  rfl

/-- In user mode WFE goes on where a pre-emption is pending. -/
theorem execWfe_pending {s : State} (hp : s.me.trap.priv = false) (h : s.me.hardNow = true ∨ s.me.sup.soft = true) : Completes .wfe s s := by
  have hpend : (s.me.hardNow || s.me.sup.soft) = true := by simpa using h
  change execWfe s = _
  simp only [execWfe, hp, hpend, Bool.and_false, Bool.false_eq_true, if_false, if_true, done_eq]

section
variable {s : State} (hh : s.me.hardNow = false) (hs : s.me.sup.soft = false)
include hh hs

/-- A WFE that was woken, or whose queues took an entry, goes on. -/
theorem execWfe_woken {woken : Bool} {n : Nat} (hr : s.me.run = .waiting (.event woken n)) (hw : woken = true ∨ n < s.me.q1.length + s.me.lq.length) :
    Completes .wfe s s := by
  have hgo : (woken || decide (n < s.me.q1.length + s.me.lq.length)) = true := by simpa using hw
  change execWfe s = _
  simp only [execWfe, hh, hs, hr, hgo, Bool.false_and, Bool.or_self, Bool.false_eq_true, if_false, if_true, done_eq]

theorem execWfe_waits (hr : s.me.run = .running) : Waits .wfe (.event false (s.me.q1.length + s.me.lq.length)) s := by
  change execWfe s = _
  simp only [execWfe, hh, hs, hr, Bool.false_and, Bool.or_self, Bool.false_eq_true, if_false]
  rfl

end

/-- The limit of a WFE ends its wait (R318). -/
theorem execWfeTimeout_ends {s : State} {w : Who} {woken : Bool} {n : Nat} (hr : (s.hart w).run = .waiting (.event woken n)) :
    exec (.wfeTimeout w) s = .next (s.asHart w finish) := by
  change execWfeTimeout w s = _
  simp only [execWfeTimeout, hr]

/-! ### CAPRD (R319) -/

/-- An offset is misaligned for a doubleword as its three low bits say. -/
theorem and_seven_ne (w : Word) : (w &&& 7 != 0) = true ↔ w.toNat % 8 ≠ 0 := by
  rw [bne_iff_ne, ne_eq, ne_eq, ← BitVec.toNat_inj, BitVec.toNat_and]
  exact not_congr (by rw [show (7 : Word).toNat = 2 ^ 3 - 1 from rfl, Nat.and_two_pow_sub_one_eq_mod]; rfl)

theorem execCaprd_reads {s : State} (d : XReg) {a : XReg} (h : (s.x a).toNat % 8 = 0) :
    Completes (.caprd d a) s (s.setX d ((s.capWords (s.partOf s.me)).getD ((s.x a).toNat / 8) 0)) := by
  change execCaprd d a s = _
  rw [execCaprd, if_neg (by rw [and_seven_ne]; exact not_not.2 h), writeX, done_eq]

theorem execCaprd_misaligned {s : State} (d : XReg) {a : XReg} (hq : s.Quiet) (h : (s.x a).toNat % 8 ≠ 0) :
    Traps (.caprd d a) ⟨.misalign, s.x a, 0⟩ s := by
  change execCaprd d a s = _
  rw [execCaprd, if_pos ((and_seven_ne _).2 h), raise_of_quiet hq]

end Sys2Proof.Machine

namespace Sys2Proof

open Machine

/-- Settles O13: YIELD and WFE ask what is pending, in user mode only of the boundary after them; LEFT ends for a soft request and for
a victim alike. -/
theorem yieldWaitAndPreemption : Obligations.YieldWaitAndPreemption := by
  unfold Obligations.YieldWaitAndPreemption
  refine ⟨fun s d a w hq => ⟨fun hh hs => ?idle, fun hp hh hs => ?hard, fun hp hs => ?soft, fun woken n => execWfeTimeout_ends,
    execCaprd_reads d, execCaprd_misaligned d hq⟩, fun s w => ?requests⟩
  case idle =>
    exact ⟨execYield_idle hh hs, fun woken n hr hw => execWfe_woken hh hs hr hw, execWfe_waits hh hs⟩
  case hard =>
    have hyields : s.me.yields = s.me := by rw [Hart.yields, hs]; rfl
    have hyield := execYield_pending hp (.inl hh)
    rw [hyields, State.setMe_self] at hyield
    exact ⟨hyield, execWfe_pending hp (.inl hh)⟩
  case soft =>
    have hyields : s.me.yields = s.me.hardDue := by rw [Hart.yields, hs]; rfl
    have hyield := execYield_pending hp (.inr hs)
    rw [hyields] at hyield
    exact ⟨hyield, execWfe_pending hp (.inr hs)⟩
  case requests =>
    have hexpiry : exec (.preemptLeftExpiry w) s =
      if (s.hart w).sup.soft || ((s.hart w).victim && (s.hart w).alive) then .next (s.modHart w Hart.hardDue) else .next s := rfl
    refine ⟨fun hp => ?_, fun h => ?_, fun hs hv => ?_⟩
    · change execPreemptReqWrite s = _
      rw [execPreemptReqWrite, if_pos hp]
      rfl
    · rw [hexpiry, if_pos (by simpa using h)]
      rfl
    · have hno : ((s.hart w).sup.soft || ((s.hart w).victim && (s.hart w).alive)) = false := by
        rw [hs, Bool.false_or, Bool.and_eq_false_iff]
        exact hv
      rw [hexpiry, if_neg (by rw [hno]; exact Bool.false_ne_true)]

end Sys2Proof
end

section
/-!
SUPPORT. Scalar loads and stores: their members, the checks of an access, the queued store that its agent reads back, and the trap of
an access that fails (R63, R64, R84, R126, R314, R315).
-/
namespace Sys2Proof.Machine

/-! ### The loads and the stores (R63, R84) -/

/-- The members that load, with their size and whether they extend the sign. -/
def loadsOf (d a : XReg) (o : BitVec 13) : List (Instr × Nat × Bool) :=
  [(.ldb d a o, 1, true), (.ldh d a o, 2, true), (.ldw d a o, 4, true), (.ldd d a o, 8, true), (.ldbn d a o, 1, false),
    (.ldhn d a o, 2, false), (.ldwn d a o, 4, false)]

/-- The members that store, with their size. -/
def storesAt (r a : XReg) (o : BitVec 13) : List (Instr × Nat) := [(.stb r a o, 1), (.sth r a o, 2), (.stw r a o, 4), (.std r a o, 8)]

/-- A number of n bytes in a register. -/
def extended (n : Nat) (sg : Bool) (m : Nat) : Word :=
  if sg then (BitVec.ofNat (8 * n) m).signExtend 64 else (BitVec.ofNat (8 * n) m).zeroExtend 64

theorem pow_bytes (n : Nat) : 256 ^ n = 2 ^ (8 * n) := by rw [Nat.pow_mul]

theorem extended_mod (n : Nat) (sg : Bool) (m : Nat) : extended n sg (m % 256 ^ n) = extended n sg m := by
  have h : BitVec.ofNat (8 * n) (m % 256 ^ n) = BitVec.ofNat (8 * n) m :=
    BitVec.eq_of_toNat_eq (by rw [BitVec.toNat_ofNat, BitVec.toNat_ofNat, pow_bytes, Nat.mod_mod])
  rw [extended, extended, h]

theorem signExt_eq {n m : Nat} (hn : 0 < n) (hm : m < 256 ^ n) : signExt (8 * n) m = extended n true m := by
  rw [signExt, ofNat_wrapI, sInt_eq_toInt (by omega) (by rwa [← pow_bytes])]
  rfl

theorem zeroExt_eq {n m : Nat} (hn : n ≤ 8) (hm : m < 256 ^ n) : zeroExt m = extended n false m := by
  rw [pow_bytes] at hm
  exact BitVec.eq_of_toNat_eq (by
    rw [zeroExt, extended, if_neg Bool.false_ne_true, BitVec.zeroExtend, BitVec.toNat_setWidth_of_le (by omega), BitVec.toNat_ofNat,
      BitVec.toNat_ofNat, Nat.mod_eq_of_lt hm, Nat.mod_eq_of_lt (hm.trans_le (Nat.pow_le_pow_right (by decide) (by omega)))])

/-- Sixty-four bits are their own extension. -/
theorem extended_eight (m : Nat) : extended 8 true m = extended 8 false m := by
  rw [extended, extended, if_pos rfl, if_neg Bool.false_ne_true]
  exact (BitVec.signExtend_eq _).trans (BitVec.setWidth_eq _).symm

/-- A load reads its bytes and extends them. -/
theorem exec_load {d a : XReg} {o : BitVec 13} {i : Instr} {n : Nat} {sg : Bool} (h : (i, n, sg) ∈ loadsOf d a o) (s : State) :
    ∃ k : Nat → Word, (∀ m, m < 256 ^ n → k m = extended n sg m) ∧ exec i s = scalarLoad n k d (s.x a + BitVec.ofInt 64 o.toInt) s := by
  simp only [loadsOf, List.mem_cons, Prod.mk.injEq, List.not_mem_nil, or_false] at h
  rcases h with ⟨rfl, rfl, rfl⟩ | ⟨rfl, rfl, rfl⟩ | ⟨rfl, rfl, rfl⟩ | ⟨rfl, rfl, rfl⟩ | ⟨rfl, rfl, rfl⟩ | ⟨rfl, rfl, rfl⟩ | ⟨rfl, rfl, rfl⟩
  · exact ⟨_, fun m => signExt_eq (by decide), rfl⟩
  · exact ⟨_, fun m => signExt_eq (by decide), rfl⟩
  · exact ⟨_, fun m => signExt_eq (by decide), rfl⟩
  · exact ⟨_, fun m hm => (zeroExt_eq (by decide) hm).trans (extended_eight m).symm, rfl⟩
  · exact ⟨_, fun m => zeroExt_eq (by decide), rfl⟩
  · exact ⟨_, fun m => zeroExt_eq (by decide), rfl⟩
  · exact ⟨_, fun m => zeroExt_eq (by decide), rfl⟩

/-- A store writes the low bytes of its register. -/
theorem exec_store {r a : XReg} {o : BitVec 13} {i : Instr} {n : Nat} (h : (i, n) ∈ storesAt r a o) (s : State) :
    0 < n ∧ n ≤ 8 ∧ exec i s = scalarStore n (s.x r) (s.x a + BitVec.ofInt 64 o.toInt) s := by
  simp only [storesAt, List.mem_cons, Prod.mk.injEq, List.not_mem_nil, or_false] at h
  rcases h with ⟨rfl, rfl⟩ | ⟨rfl, rfl⟩ | ⟨rfl, rfl⟩ | ⟨rfl, rfl⟩ <;> exact ⟨by decide, by decide, rfl⟩

/-! ### Bytes as numbers -/

theorem natOf_eq_sum (f : Nat → Byte) (n : Nat) :
    natOf ((List.range n).map f) = ((List.range n).map (fun j => (f j).toNat * 256 ^ j)).sum := by
  induction n generalizing f with
  | zero => rfl
  | succ n ih =>
    have hcons : natOf ((List.range (n + 1)).map f) = (f 0).toNat + 256 * natOf ((List.range n).map (fun j => f (j + 1))) := by
      rw [List.range_succ_eq_map, List.map_cons, List.map_map]
      rfl
    have hshift (j : Nat) : (f (j + 1)).toNat * 256 ^ (j + 1) = 256 * ((f (j + 1)).toNat * 256 ^ j) := by
      rw [Nat.pow_succ]
      ring
    rw [hcons, ih, List.range_succ_eq_map, List.map_cons, List.map_map, List.sum_cons, Nat.pow_zero, Nat.mul_one, ← List.sum_map_mul_left]
    simp only [Function.comp_def, Nat.succ_eq_add_one, hshift]

/-- The n bytes that an agent reads, as a number. -/
theorem State.ownN_eq_sum (s : State) (w : Who) (u : Unit') (key n : Nat) :
    s.ownN w u key n = ((List.range n).map (fun j => (s.ownByte w u (key + j)).toNat * 256 ^ j)).sum := natOf_eq_sum _ n

theorem State.ownN_lt (s : State) (w : Who) (u : Unit') (key n : Nat) : s.ownN w u key n < 256 ^ n := by
  have h := natOf_lt ((List.range n).map (fun i => s.ownByte w u (key + i)))
  rwa [List.length_map, List.length_range] at h

theorem ofNat_byte_eq_extract (x : Word) (j : Nat) : BitVec.ofNat 8 (x.toNat / 256 ^ j) = x.extractLsb' (8 * j) 8 :=
  BitVec.eq_of_toNat_eq (by rw [BitVec.toNat_ofNat, BitVec.extractLsb'_toNat, Nat.shiftRight_eq_div_pow, pow_bytes])

/-! ### A translation that is noted (R328, R339) -/

/-- Noting a translation changes the caches alone. -/
theorem noteWalk_frame (w : Who) (va : Word) (s : State) :
    ∃ cs ats, noteWalk w va s = { s with cores := cs, atsCache := ats } ∧ ∀ v, (noteWalk w va s).hart v = s.hart v := by
  have hwalk : ∃ cs, cacheWalk w va s = { s with cores := cs } ∧ ∀ v, (cacheWalk w va s).hart v = s.hart v := by
    unfold cacheWalk
    simp only
    split
    · exact ⟨s.cores, rfl, fun _ => rfl⟩
    · split
      · exact ⟨s.cores, rfl, fun _ => rfl⟩
      · exact ⟨_, rfl, State.hart_modCore_of_harts (by split <;> rfl)⟩
  obtain ⟨cs, hc, hh⟩ := hwalk
  have hats (h : Hart) (page : Nat) : ∃ ats, (cacheWalk w va s).noteAts h page = { s with cores := cs, atsCache := ats } := by
    unfold State.noteAts
    rw [hc]
    split
    · split
      · exact ⟨s.atsCache, rfl⟩
      · exact ⟨_, rfl⟩
    · exact ⟨s.atsCache, rfl⟩
  have hcores {u : State} {ats : List AtsGrant} (hu : u = { s with cores := cs, atsCache := ats }) :
      ∃ cs ats, u = { s with cores := cs, atsCache := ats } ∧ ∀ v, u.hart v = s.hart v :=
    ⟨cs, ats, hu, fun v => (State.hart_congr (by rw [hu, hc]) v).trans (hh v)⟩
  unfold noteWalk
  simp only
  split
  · exact hcores (ats := s.atsCache) hc
  · split
    · split
      · exact hcores (hats _ _).choose_spec
      · exact hcores (ats := s.atsCache) hc
    · exact hcores (ats := s.atsCache) hc

/-! ### A store that its agent reads back (R64) -/

theorem lastCell_cellsAt (key : Nat) (bs : List Byte) (k : Nat) (b : Byte) :
    lastCell (cellsAt key bs) k b = if key ≤ k ∧ k < key + bs.length then bs.getD (k - key) 0 else b := by
  induction bs generalizing key b with
  | nil => simp [cellsAt, lastCell]
  | cons c cs ih =>
    rw [cellsAt_cons, lastCell, ih, List.length_cons]
    by_cases h1 : k = key
    · subst h1
      simp
    · by_cases h2 : key + 1 ≤ k ∧ k < key + 1 + cs.length
      · obtain ⟨j, rfl⟩ : ∃ j, k = key + 1 + j := ⟨k - (key + 1), by omega⟩
        rw [if_pos h2, if_pos (by omega), show key + 1 + j - key = j + 1 by omega, show key + 1 + j - (key + 1) = j by omega,
          List.getD_cons_succ]
      · have hout : ¬ (key ≤ k ∧ k < key + (cs.length + 1)) := by omega
        rw [if_neg h2, if_neg hout, if_neg (by simpa using Ne.symm h1)]

theorem any_cellsAt (key : Nat) (bs : List Byte) (k : Nat) :
    (cellsAt key bs).any (fun c => c.1 == k) = decide (key ≤ k ∧ k < key + bs.length) := by
  induction bs generalizing key with
  | nil => simp [cellsAt]
  | cons c cs ih =>
    rw [cellsAt_cons, List.any_cons, ih, List.length_cons, Bool.eq_iff_iff]
    simp only [Bool.or_eq_true, beq_iff_eq, decide_eq_true_eq]
    omega

theorem keys_cellsAt (key : Nat) (bs : List Byte) : (cellsAt key bs).map (·.1) = (List.range bs.length).map (key + ·) := by
  induction bs generalizing key with
  | nil => rfl
  | cons b bs ih =>
    rw [cellsAt_cons, List.map_cons, ih, List.length_cons, List.range_succ_eq_map, List.map_cons, List.map_map]
    simp only [Function.comp_def, Nat.succ_eq_add_one, Nat.add_zero, Nat.add_left_comm, Nat.add_comm]

/-- With one store more in the queue, its agent reads that store's bytes first. -/
theorem State.ownByte_append {s u : State} {t : PStore} (hs : u.stores = s.stores ++ [t]) (ho : u.order = s.order)
    (hb : ∀ k, u.byte k = s.byte k) (k : Nat) :
    u.ownByte t.who t.by' k = if t.cells.any (fun c => c.1 == k) then lastCell t.cells k 0 else s.ownByte t.who t.by' k := by
  rw [State.ownByte, hs, List.reverse_append, List.reverse_singleton, List.singleton_append, List.find?_cons, ho, hb]
  cases h : t.cells.any (fun c => c.1 == k) with
  | true => simp
  | false => simp [State.ownByte]

/-! ### The members on the scalar unit -/

section
variable {d a : XReg} {o : BitVec 13} {i : Instr} {n : Nat} {sg : Bool} {s : State} {p : Phys}

/-- A load from memory takes the bytes that its agent sees. -/
theorem load_completes (hm : (i, n, sg) ∈ loadsOf d a o) (hl : s.agent.lane = none)
    (ha : access s s.who .load n true (s.x a + BitVec.ofInt 64 o.toInt) = .ok p) (ht : p.tgt ≠ .mmio) (hb : s.badByte p.key = false) :
    Completes i s ((((noteWalk s.who (s.x a + BitVec.ofInt 64 o.toInt) s).linkTo p.key 1).sawBytes s.who ((List.range n).map (p.key + ·))).setX d
      (extended n sg (s.ownN s.who .scalar p.key n))) := by
  obtain ⟨k, hk, hx⟩ := exec_load hm s
  have ht' : (p.tgt == .mmio) = false := beq_eq_false_iff_ne.2 ht
  rw [Completes, hx]
  simp only [scalarLoad, hl, ha, ht', hb, Bool.false_eq_true, if_false, hk _ (s.ownN_lt ..), writeX, done_eq]

/-- A load from a device page takes a free value. -/
theorem load_device (hm : (i, n, sg) ∈ loadsOf d a o) (hq : s.Quiet)
    (ha : access s s.who .load n true (s.x a + BitVec.ofInt 64 o.toInt) = .ok p) (ht : p.tgt = .mmio) :
    Completes i s (({ s with fresh := s.fresh + 1, mmio := s.mmio ++ [⟨s.who, p.key, n, none⟩] } : State).setX d
      (extended n sg (Config.mmioValue s.fresh).toNat)) := by
  obtain ⟨k, hk, hx⟩ := exec_load hm s
  have ht' : (p.tgt == .mmio) = true := beq_iff_eq.2 ht
  have hv := hk ((Config.mmioValue s.fresh).toNat % 256 ^ n) (Nat.mod_lt _ (by positivity))
  rw [extended_mod] at hv
  rw [Completes, hx]
  simp only [scalarLoad, hq.1.2.1, ha, ht', settled_of_empty _ hq.2.1 hq.2.2.1, if_true, hv, writeX, done_eq]

/-- A load of a lane thread reads the scratch of its lane. -/
theorem load_lane {l : Nat} (hm : (i, n, sg) ∈ loadsOf d a o) (hl : s.agent.lane = some l) (hb : s.bad = [])
    (hc : scratchCheck s.myCore.scratchSize n (s.x a + BitVec.ofInt 64 o.toInt).toNat = none) :
    Completes i s (s.setX d (extended n sg (s.scratchN s.who l (s.x a + BitVec.ofInt 64 o.toInt).toNat n))) := by
  obtain ⟨k, hk, hx⟩ := exec_load hm s
  rw [Completes, hx]
  simp only [scalarLoad, hl, hc, hb, List.find?_nil, hk _ (scratchN_lt ..), writeX, done_eq]

end

section
variable {r a : XReg} {o : BitVec 13} {i : Instr} {n : Nat} {s : State} {p : Phys}

/-- A store to memory enters its agent's queue. -/
theorem store_completes (hm : (i, n) ∈ storesAt r a o) (hl : s.agent.lane = none)
    (ha : access s s.who .store n true (s.x a + BitVec.ofInt 64 o.toInt) = .ok p) (ht : p.tgt ≠ .mmio) :
    Completes i s ((noteWalk s.who (s.x a + BitVec.ofInt 64 o.toInt) s).queueStore .scalar (s.x a + BitVec.ofInt 64 o.toInt)
      (cellsAt p.key (bytesOf n (s.x r).toNat))) := by
  obtain ⟨-, -, hx⟩ := exec_store hm s
  have ht' : (p.tgt == .mmio) = false := beq_eq_false_iff_ne.2 ht
  rw [Completes, hx]
  simp only [scalarStore, hl, ha, ht', Bool.false_eq_true, if_false, done_eq]

/-- A store to a device page reaches the device. -/
theorem store_device (hm : (i, n) ∈ storesAt r a o) (hq : s.Quiet)
    (ha : access s s.who .store n true (s.x a + BitVec.ofInt 64 o.toInt) = .ok p) (ht : p.tgt = .mmio) :
    Completes i s { s with mmio := s.mmio ++ [⟨s.who, p.key, n, some ((s.x r).toNat % 256 ^ n)⟩] } := by
  obtain ⟨-, -, hx⟩ := exec_store hm s
  have ht' : (p.tgt == .mmio) = true := beq_iff_eq.2 ht
  rw [Completes, hx]
  simp only [scalarStore, hq.1.2.1, ha, ht', settled_of_empty _ hq.2.1 hq.2.2.1, if_true, done_eq]

/-- A store of a lane thread writes the scratch of its lane. -/
theorem store_lane {l : Nat} (hm : (i, n) ∈ storesAt r a o) (hl : s.agent.lane = some l)
    (hc : scratchCheck s.myCore.scratchSize n (s.x a + BitVec.ofInt 64 o.toInt).toNat = none) :
    Completes i s (s.setScratchN s.who l (s.x a + BitVec.ofInt 64 o.toInt).toNat n (s.x r).toNat) := by
  obtain ⟨-, -, hx⟩ := exec_store hm s
  rw [Completes, hx]
  simp only [scalarStore, hl, hc, done_eq]

end

/-- What a queued store leaves: its bytes are those that its agent reads, and memory, the harts and every other byte stay (R64). -/
theorem queuedStore_spec (s : State) (va : Word) (key n : Nat) (x : Word) (hn : 0 < n) :
    let u := (noteWalk s.who va s).queueStore .scalar va (cellsAt key (bytesOf n x.toNat))
    u.mem = s.mem ∧ (∀ w, u.hart w = s.hart w) ∧
      (∀ j, j < n → u.ownByte s.who .scalar (key + j) = x.extractLsb' (8 * j) 8) ∧
      (∀ k, k < key ∨ key + n ≤ k → u.ownByte s.who .scalar k = s.ownByte s.who .scalar k) ∧
      ∃ t, u.stores = s.stores ++ [t] ∧ t.who = s.who ∧ t.by' = .scalar ∧ t.cells.map (·.1) = (List.range n).map (key + ·) := by
  obtain ⟨cs, ats, hwalk, hhart⟩ := noteWalk_frame s.who va s
  obtain ⟨m, rfl⟩ : ∃ m, n = m + 1 := ⟨n - 1, by omega⟩
  intro u
  let t : PStore := ⟨s.nextId, s.who, .scalar, (noteWalk s.who va s).seqNow, (noteWalk s.who va s).sliceOf key, va, false,
    cellsAt key (bytesOf (m + 1) x.toNat)⟩
  have hcons : cellsAt key (bytesOf (m + 1) x.toNat) = (key, BitVec.ofNat 8 x.toNat) :: cellsAt (key + 1) (bytesOf m (x.toNat / 256)) := by
    rw [bytesOf_succ, cellsAt_cons]
  have hu : u = { noteWalk s.who va s with nextId := s.nextId + 1, stores := s.stores ++ [t] } := by
    have hid : (noteWalk s.who va s).nextId = s.nextId := by rw [hwalk]
    have hstores : (noteWalk s.who va s).stores = s.stores := by rw [hwalk]
    have hwho : (noteWalk s.who va s).who = s.who := by rw [hwalk]; rfl
    simp only [u, t, hcons, State.queueStore, hid, hstores, hwho]
  have hown := State.ownByte_append (s := s) (u := u) (t := t) (by rw [hu]) (by rw [hu, hwalk]) (fun k => by rw [hu, hwalk]; rfl)
  refine ⟨by rw [hu, hwalk], fun w => (State.hart_congr (by rw [hu]) w).trans (hhart w), fun j hj => ?_, fun k hk => ?_, t, by rw [hu], rfl, rfl, ?_⟩
  · rw [hown (key + j), any_cellsAt, length_bytesOf, if_pos (by simpa using hj), lastCell_cellsAt, length_bytesOf, if_pos ⟨by omega, by omega⟩,
      Nat.add_sub_cancel_left, ← ofNat_byte_eq_extract]
    simp [bytesOf, List.getD_eq_getElem?_getD, hj]
  · rw [hown k, any_cellsAt, length_bytesOf, if_neg (by simp; omega)]
  · rw [keys_cellsAt, length_bytesOf]

/-! ### The checks of an access (R314) -/

/-- What an access may fail with. -/
def Cause.OfAccess (c : Cause) : Prop := c ∈ [.misalign, .perm, .notPresent, .compressed]

theorem Cause.OfAccess.misalign : Cause.misalign.OfAccess := by simp [OfAccess]
theorem Cause.OfAccess.perm : Cause.perm.OfAccess := by simp [OfAccess]
theorem Cause.OfAccess.notPresent : Cause.notPresent.OfAccess := by simp [OfAccess]
theorem Cause.OfAccess.compressed : Cause.compressed.OfAccess := by simp [OfAccess]

/-- Each of them squashes its instruction (R315). -/
theorem Cause.OfAccess.squash {c : Cause} (h : c.OfAccess) : c.squash = true := by
  simp only [OfAccess, List.mem_cons, List.not_mem_nil, or_false] at h
  rcases h with rfl | rfl | rfl | rfl <;> rfl

/-- A walk fails with PERM or NOTPRESENT. -/
theorem walkFrom_error {s : State} {part va l table : Nat} {c : Cause} (h : walkFrom s part va l table = .error c) : c.OfAccess := by
  induction l generalizing table with
  | zero =>
    simp only [walkFrom] at h
    split at h
    · cases h; exact .perm
    · split at h
      · cases h; exact .notPresent
      · split at h
        · cases h; exact .perm
        · cases h
  | succ l ih =>
    unfold walkFrom at h
    extract_lets idx e at h
    split at h
    · cases h; exact .perm
    · split at h
      · cases h; exact .notPresent
      · split at h
        · split at h
          · cases h; exact .perm
          · cases h
        · split at h
          · cases h; exact .perm
          · exact ih h

theorem State.leaf_error {s : State} {w : Who} {va : Nat} {c : Cause} (h : s.leaf w va = .error c) : c.OfAccess := by
  simp only [State.leaf] at h
  split at h
  · cases h
  · exact walkFrom_error h

/-- An error of an access to va. -/
def MemErr.At (e : MemErr) (va : Word) : Prop := e.cause.OfAccess ∧ e.addr = va

theorem State.place_error {s : State} {h : Hart} {acc : Acc} {va : Word} {tgt pa : Nat} {e : MemErr}
    (he : s.place h acc va tgt pa = .error e) : e.At va := by
  unfold State.place at he
  split at he
  · simp only at he
    split at he
    · cases he
    · cases he; exact ⟨.perm, rfl⟩
  · split at he
    · cases he; exact ⟨.perm, rfl⟩
    · split at he
      · cases he
      · cases he; exact ⟨.notPresent, rfl⟩
  · split at he
    · cases he; exact ⟨.perm, rfl⟩
    · cases he
  · cases he

theorem translate_error {s : State} {w : Who} {acc : Acc} {va : Word} {e : MemErr} (he : translate s w acc va = .error e) : e.At va := by
  unfold translate at he
  extract_lets h fail code at he
  split at he
  · cases he; exact ⟨.perm, rfl⟩
  · split at he
    · split at he
      · cases he
      · cases he; exact ⟨.perm, rfl⟩
    · split at he
      · extract_lets d2 fl o pbase xf es off l at he
        split at he
        · cases he; exact ⟨.perm, rfl⟩
        · split at he
          · cases he
          · split at he
            · rename_i hplace
              cases he; exact State.place_error hplace
            · cases he
      · split at he
        · rename_i hleaf
          cases he; exact ⟨State.leaf_error hleaf, rfl⟩
        · extract_lets fl sz pbase at he
          split at he
          · cases he; exact ⟨.perm, rfl⟩
          · split at he
            · rename_i hplace
              cases he; exact State.place_error hplace
            · cases he

theorem access_error {s : State} {w : Who} {acc : Acc} {n : Nat} {mmio : Bool} {va : Word} {e : MemErr}
    (he : access s w acc n mmio va = .error e) : e.At va := by
  unfold access at he
  split at he
  · rename_i hraw
    cases he
    simp only [accessRaw] at hraw
    split at hraw
    · cases hraw; exact ⟨.misalign, rfl⟩
    · split at hraw
      · rename_i htranslate
        cases hraw; exact translate_error htranslate
      · split at hraw
        · cases hraw; exact ⟨.perm, rfl⟩
        · cases hraw
  · split at he
    · cases he; exact ⟨.compressed, rfl⟩
    · cases he

theorem access_misaligned (s : State) (w : Who) (acc : Acc) {n : Nat} (mmio : Bool) {va : Word} (hn : n ≠ 0) (h : va.toNat % n ≠ 0) :
    access s w acc n mmio va = .error ⟨.misalign, va, none, acc.writes⟩ := by
  simp [access, accessRaw, hn, h]

/-- No range reaches beyond the virtual address bits. -/
theorem rangeHit_beyond {va : Nat} (h : 2 ^ 56 ≤ va) (r : List Word) : rangeHit va r = false := by
  have hlast : bitsOf (r.getD 1 0) 12 44 < 2 ^ 44 := by
    rw [bitsOf_eq]
    exact Nat.mod_lt _ (by decide)
  simp only [rangeHit, Bool.and_eq_false_iff, decide_eq_false_iff_not]
  exact .inr (by omega)

theorem rangeEs_beyond {va : Nat} (h : 2 ^ 56 ≤ va) (k : Core) : rangeEs k va = 0 := by
  have hnone : k.ranges.find? (rangeHit va) = none := List.find?_eq_none.2 fun r _ => by simp [rangeHit_beyond h r]
  rw [rangeEs, hnone]

theorem translate_beyond (s : State) (w : Who) (acc : Acc) {va : Word} (h : 2 ^ 56 ≤ va.toNat) :
    translate s w acc va = .error ⟨.perm, va, none, acc.writes⟩ := by
  have hbits : (bitsOf va 56 8 != 0) = true := by
    have := va.isLt
    rw [bitsOf_eq, bne_iff_ne]
    omega
  simp only [translate, hbits, if_true]

theorem access_beyond (s : State) (w : Who) (acc : Acc) {n : Nat} (mmio : Bool) {va : Word} (hn : va.toNat % n = 0) (h : 2 ^ 56 ≤ va.toNat) :
    access s w acc n mmio va = .error ⟨.perm, va, none, acc.writes⟩ := by
  simp [access, accessRaw, hn, rangeEs_beyond h, translate_beyond s w acc h]

/-! ### The trap of an access that fails (R315, R339) -/

/-- A page request changes the requests alone. -/
theorem State.requestPage_frame (s : State) (h : Hart) (a : Ask) :
    ∃ id rq wt, (s.requestPage h a).1 = { s with nextId := id, pageReqs := rq, pageWait := wt } := by
  unfold State.requestPage
  split
  · exact ⟨_, _, _, rfl⟩
  · simp only
    split <;> exact ⟨_, _, _, rfl⟩

/-- Sending it notes it in its hart. -/
theorem State.sendPage_frame (s : State) (page : Option Ask) :
    (∃ rq, (s.sendPage s.who page).me = { s.me with pageReq := rq }) ∧ (s.sendPage s.who page).mem = s.mem ∧
      (s.sendPage s.who page).stores = s.stores := by
  cases page with
  | none => exact ⟨⟨s.me.pageReq, rfl⟩, rfl, rfl⟩
  | some a =>
    obtain ⟨id, rq, wt, hreq⟩ := s.requestPage_frame (s.hart s.who) a
    refine ⟨⟨(s.requestPage (s.hart s.who) a).2, ?_⟩, ?_, ?_⟩
    · simp only [State.sendPage, hreq]
      exact (State.hart_modHart _ s.who s.who _).trans (if_pos rfl)
    · simp only [State.sendPage, hreq]; rfl
    · simp only [State.sendPage, hreq]; rfl

/-- With no vector instruction outstanding, a failed access traps at its instruction, and no register and no byte changes. -/
theorem raiseMem_of_quiet {s : State} (hq : s.Quiet) {e : MemErr} {va : Word} (he : e.At va) (elem : Nat) :
    ∃ u, raiseMem e elem s = .next u ∧ u.me.trap.cause = e.cause.code ∧ u.me.trap.pc = s.me.pc ∧ u.me.trap.val = e.addr ∧
      u.me.trap.sq = true ∧ u.me.trap.priv = true ∧ u.me.pc = s.me.sup.trapVec &&& ~~~(3 : Word) ∧
      u.me.xu = s.me.xu ∧ u.me.xs = s.me.xs ∧ u.me.v = s.me.v ∧ u.me.m = s.me.m ∧ u.mem = s.mem ∧ u.stores = s.stores := by
  have hraise : raise ⟨e.cause, e.addr, elem⟩ s = .next (s.setMe (s.me.enterTrap ⟨e.cause, e.addr, elem⟩ s.me.pc true false)) := by
    rw [raise_of_quiet hq, trapAt_scalar hq.1, pcNow_of_scalar hq.1, he.1.squash]
  rw [raiseMem, hraise]
  simp only
  split
  · obtain ⟨⟨rq, hme⟩, hmem, hstores⟩ := (s.setMe (s.me.enterTrap ⟨e.cause, e.addr, elem⟩ s.me.pc true false)).sendPage_frame e.page
    refine ⟨_, rfl, ?_⟩
    rw [hmem, hstores, hme, State.me_setMe]
    exact ⟨rfl, rfl, rfl, rfl, rfl, rfl, rfl, rfl, rfl, rfl, rfl, rfl⟩
  · refine ⟨_, rfl, ?_⟩
    rw [State.me_setMe]
    exact ⟨rfl, rfl, rfl, rfl, rfl, rfl, rfl, rfl, rfl, rfl, rfl, rfl⟩

/-- The members that access memory, with the kind of their access and their size. -/
def accessesOf (r a : XReg) (o : BitVec 13) : List (Instr × Acc × Nat) :=
  (loadsOf r a o).map (fun m => (m.1, .load, m.2.1)) ++ (storesAt r a o).map (fun m => (m.1, .store, m.2))

/-- The trap of a member whose access fails. -/
theorem exec_of_access_error {r a : XReg} {o : BitVec 13} {i : Instr} {acc : Acc} {n : Nat} {s : State} {e : MemErr}
    (hm : (i, acc, n) ∈ accessesOf r a o) (hl : s.agent.lane = none)
    (he : access s s.who acc n true (s.x a + BitVec.ofInt 64 o.toInt) = .error e) : exec i s = raiseMem e 0 s := by
  rcases List.mem_append.1 hm with hm | hm
  · obtain ⟨⟨j, k, sg⟩, hload, heq⟩ := List.mem_map.1 hm
    cases heq
    obtain ⟨_, -, hx⟩ := exec_load hload s
    rw [hx]
    simp only [scalarLoad, hl, he]
  · obtain ⟨⟨j, k⟩, hstore, heq⟩ := List.mem_map.1 hm
    cases heq
    obtain ⟨-, -, hx⟩ := exec_store hstore s
    rw [hx]
    simp only [scalarStore, hl, he]

end Sys2Proof.Machine

namespace Sys2Proof
open Machine

/-- Settles O8: each member is one load or store of its size; the bytes of a queued store are the newest that its agent reads, and an
access fails with one of four causes, each of which squashes its instruction. -/
theorem scalarLoadsAndStores : Obligations.ScalarLoadsAndStores := by
  refine ⟨fun s d a o i n sg p hm hl ha => ⟨fun ht hb => ?_, fun ht hq => load_device hm hq ha ht⟩,
    fun s r a o i n p hm hl ha => ⟨fun ht => ?_, fun ht hq => store_device hm hq ha ht⟩,
    fun s r a o i acc n e hm hq he => ?_,
    fun s w acc n mmio va hn => ⟨access_misaligned s w acc mmio (by rintro rfl; simp at hn), access_beyond s w acc mmio,
      fun e he => access_error he⟩⟩
  · have h := load_completes hm hl ha ht hb
    rwa [State.ownN_eq_sum] at h
  · exact ⟨_, store_completes hm hl ha ht, queuedStore_spec s (s.x a + BitVec.ofInt 64 o.toInt) p.key n (s.x r) (exec_store hm s).1⟩
  · rw [exec_of_access_error (r := r) hm hq.1.2.1 he]
    exact raiseMem_of_quiet hq (access_error he) 0

end Sys2Proof
end

section
/-!
SUPPORT. Lane threads: the scratch of their lane, their buffers, and the members that start, join, end and serve them (R82 to R86, R126).
-/
namespace Sys2Proof.Machine

/-! ### The scratch of a lane (R84, R126) -/

theorem scratchCheck_none {z n a : Nat} (hal : a % n = 0) (hin : a + n ≤ z) : scratchCheck z n a = none := by
  simp [scratchCheck, hal, hin]

/-- What a store of a lane thread leaves. -/
theorem setScratch_spec {s : State} (hb : s.bad = []) (hw : ∀ c, Memory.wf (s.core c).scratch = true) (l off n v : Nat) :
    let u := s.setScratchN s.who l off n v
    u.mem = s.mem ∧ (∀ w, u.hart w = s.hart w) ∧ u.scratchN s.who l off n = v % 256 ^ n ∧
      ∀ c k, (c ≠ (s.laneCore s.who l).1 ∨ k < scratchKey (s.laneCore s.who l).2 off ∨ scratchKey (s.laneCore s.who l).2 off + n ≤ k) →
        Memory.read (u.core c).scratch k = Memory.read (s.core c).scratch k := by
  have hu := State.setScratchN_eq hb s.who l off n v
  refine ⟨by rw [hu]; rfl, fun w => by rw [hu]; exact State.hart_modCore_of_harts rfl w, State.scratchN_setScratchN hb hw l off n v,
    fun c k hout => State.read_setScratchN_outside hb hw l off n v (hout.imp_left Ne.symm)⟩

/-! ### The lane instruction buffers (R82) -/

theorem State.qbuf_setQbuf (s : State) (q r : CoreId × Fin 8) (b : List Host.Cell) :
    (s.setQbuf q b).qbuf r = if r = q then b else s.qbuf r := by
  rw [State.qbuf, State.setQbuf, State.core_modCore]
  by_cases hc : r.1 = q.1
  · by_cases hq : r.2 = q.2
    · simp [hc, hq, Prod.ext_iff, Vector.get_eq_getElem]
    · simp [hc, hq, Prod.ext_iff, Vector.get_eq_getElem, State.qbuf, Fin.val_inj, Ne.symm hq]
  · simp [hc, Prod.ext_iff, State.qbuf]

/-- Buffers that are filled alike hold what they were filled with. -/
theorem qbuf_foldl_setQbuf (qs : List (CoreId × Fin 8)) (s : State) (b : List Host.Cell) (r : CoreId × Fin 8) :
    (qs.foldl (fun s q => s.setQbuf q b) s).qbuf r = if r ∈ qs then b else s.qbuf r := by
  induction qs generalizing s with
  | nil => simp
  | cons q qs ih =>
    rw [List.foldl_cons, ih, State.qbuf_setQbuf]
    by_cases hr : r = q <;> simp [hr]

/-- Filling buffers changes no hart, no layout and no memory. -/
theorem foldl_fill_frame (qs : List (CoreId × Fin 8)) (s : State) (b : List Host.Cell) :
    let u := qs.foldl (fun s q => s.setQbuf q b) s
    (∀ w, u.hart w = s.hart w) ∧ (∀ c, (u.core c).layout = (s.core c).layout) ∧ u.mem = s.mem ∧ u.agent = s.agent := by
  induction qs generalizing s with
  | nil => exact ⟨fun _ => rfl, fun _ => rfl, rfl, rfl⟩
  | cons q qs ih =>
    obtain ⟨hhart, hlay, hmem, hagent⟩ := ih (s.setQbuf q b)
    refine ⟨fun w => (hhart w).trans (State.hart_modCore_of_harts rfl w), fun c => (hlay c).trans ?_, hmem, hagent⟩
    rw [State.setQbuf, State.core_modCore]
    split
    · next h => rw [h]
    · rfl

/-- A write of a hart leaves the rest of every core. -/
theorem core_setHart_rest (s : State) (w : Who) (h : Hart) (c : CoreId) :
    ((s.setHart w h).core c).layout = (s.core c).layout ∧ ((s.setHart w h).core c).qbufs = (s.core c).qbufs := by
  by_cases hc : c = w.core
  · rw [hc, State.setHart, State.core_setCore]
    exact ⟨rfl, rfl⟩
  · rw [State.setHart, State.core_setCore_ne _ _ _ _ hc]
    exact ⟨rfl, rfl⟩

/-- A lane of a hart lies where its gang and its core's layout say. -/
theorem laneCore_congr {s u : State} {w : Who} (hg : (u.hart w).gang = (s.hart w).gang)
    (hl : (u.core w.core).layout = (s.core w.core).layout) (l : Nat) : u.laneCore w l = s.laneCore w l := by
  simp only [State.laneCore, hg, hl]

theorem read_writeAll_nil (bs : List Byte) (i : Nat) : Memory.read (Memory.writeAll [] (cellsAt 0 bs)) i = bs.getD i 0 := by
  by_cases hi : i < bs.length
  · have h := congrArg (fun l => l.getD i 0) (Memory.read_writeAll_cellsAt (m := []) rfl 0 bs)
    simpa [List.getD_eq_getElem?_getD, hi] using h
  · rw [Memory.read_writeAll_ne _ _ rfl (fun c hc => by have := mem_cellsAt hc; omega), List.getD_eq_default _ _ (by omega)]
    rfl

/-- What LIBLD leaves: its hart notes the words, and each buffer of the hart's quads holds them. -/
theorem loadBufs_spec (s : State) (bs : List Byte) (va n : Word) :
    let u := (s.loadBufs s.who bs).modMe (fun h => { h with lib := some (va, n) })
    u.me = { s.me with lib := some (va, n) } ∧ u.mem = s.mem ∧
      ∀ l i, l < s.me.avail / 4 → Memory.read (u.qbuf (u.quadOf u.who (4 * l))) i = bs.getD i 0 := by
  obtain ⟨hhart, hlay, hmem, hagent⟩ := foldl_fill_frame (s.quads s.who) s (Memory.writeAll [] (cellsAt 0 bs))
  have hme : (s.loadBufs s.who bs).me = s.me := by
    have hwho : (s.loadBufs s.who bs).who = s.who := congrArg Agent.who hagent
    rw [State.me, hwho]
    exact hhart s.who
  intro u
  have hu : u.me = { s.me with lib := some (va, n) } := by rw [← hme]; exact State.me_setMe _ _
  have hwho : u.who = s.who := congrArg Agent.who hagent
  refine ⟨hu, hmem, fun l i hl => ?_⟩
  have hgang : (u.hart s.who).gang = (s.hart s.who).gang := by
    have hme : u.hart s.who = u.me := by rw [State.me, hwho]
    rw [hme, hu]
    rfl
  have hquad : u.quadOf s.who (4 * l) = s.quadOf s.who (4 * l) := by
    rw [State.quadOf, State.quadOf, laneCore_congr hgang ((core_setHart_rest _ _ _ _).1.trans (hlay _))]
  have hmem : s.quadOf s.who (4 * l) ∈ s.quads s.who := List.mem_map.2 ⟨l, List.mem_range.2 hl, rfl⟩
  have hbuf : u.qbuf (s.quadOf s.who (4 * l)) = Memory.writeAll [] (cellsAt 0 bs) := by
    have hcore : u.qbuf (s.quadOf s.who (4 * l)) =
        ((s.quads s.who).foldl (fun s q => s.setQbuf q (Memory.writeAll [] (cellsAt 0 bs))) s).qbuf (s.quadOf s.who (4 * l)) :=
      congrArg (fun q : Vector (List Host.Cell) 8 => q.get _) (core_setHart_rest _ _ _ _).2
    rw [hcore, qbuf_foldl_setQbuf, if_pos hmem]
  rw [hwho, hquad, hbuf, read_writeAll_nil]

/-! ### The members -/

theorem execLibld_loads {s : State} {a b : XReg} {bs : List Byte} (h4 : (s.x b).toNat % 4 = 0) (hlo : 4 ≤ (s.x b).toNat)
    (hhi : (s.x b).toNat ≤ 4096) (hal : (s.x a).toNat % 4 = 0) (hc : libCheck s (s.x a) (s.x b).toNat = .ok bs) :
    exec (.libld a b) s = .next (finish ((s.loadBufs s.who bs).modMe (fun h => { h with lib := some (s.x a, s.x b) }))) := by
  have hlow : (s.x a &&& 3 != 0) = false := Bool.eq_false_iff.2 fun h => (low_bits_ne _).1 h hal
  change execLibld a b s = _
  simp only [execLibld, hlow, hc, done_eq]
  rw [if_neg (by simp; omega), if_neg Bool.false_ne_true]

theorem execLfork_starts {s : State} {a : XReg} (hd : s.me.vecDone = true) (ht : s.me.threads = none) (hg : s.me.gang = none)
    (hal : (s.x a).toNat % 4 = 0) (hlt : (s.x a).toNat < 4096) :
    Completes (.lfork a) s (s.setMe { s.me with threads := some (Vector.ofFn (fun i => ⟨s.x a, s.me.lanes ≤ i.val⟩)) }) := by
  have hlow : (s.x a &&& 3 != 0) = false := Bool.eq_false_iff.2 fun h => (low_bits_ne _).1 h hal
  change execLfork a s = _
  rw [execLfork, if_neg (by simp [ht]), if_neg (by simp [hg]), if_neg (by rw [hlow]; simpa using hlt), if_neg (by simp [hd])]
  rfl

theorem all_exited_iff (ts : Vector Thread 32) : ts.toList.all (fun t => t.exited) = true ↔ ∀ i : Fin 32, (ts.get i).exited = true := by
  simp only [Vector.all_toList, Vector.all_eq_true, Vector.get_eq_getElem]
  exact ⟨fun h i => h i.val i.isLt, fun h i hi => h ⟨i, hi⟩⟩

theorem execLjoin_all {s : State} {ts : Vector Thread 32} (ht : s.me.threads = some ts) (h : ∀ i : Fin 32, (ts.get i).exited = true) :
    exec .ljoin s = done (s.setMe { s.me with threads := none }) := by
  change execLjoin s = _
  simp only [execLjoin, ht, (all_exited_iff ts).2 h, if_true]
  rfl

theorem execLjoin_waits {s : State} {ts : Vector Thread 32} {i : Fin 32} (ht : s.me.threads = some ts) (h : (ts.get i).exited = false) :
    exec .ljoin s = stall .threads s := by
  have hall : ¬ ts.toList.all (fun t => t.exited) = true := fun c => by simp [(all_exited_iff ts).1 c i] at h
  change execLjoin s = _
  simp only [execLjoin, ht, if_neg hall]

theorem execLjoin_none {s : State} (ht : s.me.threads = none) : exec .ljoin s = done s := by
  change execLjoin s = _
  simp only [execLjoin, ht]

/-- LEXIT ends its thread where it stands. -/
theorem execLexit_ends {s : State} {l : Fin 32} {ts : Vector Thread 32} (hl : s.agent.lane = some l.val) (ht : s.me.threads = some ts) :
    exec .lexit s = .next (s.setMe { s.me with threads := some (ts.set l.val ⟨(ts.get l).pc, true⟩ l.isLt) }) := by
  have hset : ts.setIfInBounds l.val ⟨(ts.toList.getD l.val ⟨0, true⟩).pc, true⟩ = ts.set l.val ⟨(ts.get l).pc, true⟩ l.isLt := by
    refine Vector.toArray_inj.1 ?_
    simp [List.getD_eq_getElem?_getD, Vector.get_eq_getElem, Array.setIfInBounds]
  change execLexit s = _
  simp only [execLexit, hl, State.modMe, ht, Option.map_some, hset]

theorem rowGranule_eq (x : Word) (n l : Nat) : rowGranule x n l = x.toNat / 32 % 16 * n + l := by
  rw [rowGranule, bitsOf_eq]
  rfl

theorem reg_eq (x : Word) : bitsOf x 0 5 = x.toNat % 32 := by
  rw [bitsOf_eq, Nat.pow_zero, Nat.div_one]
  rfl

theorem regBits_eq (x : Word) : x.extractLsb' 0 5 = BitVec.ofNat 5 (x.toNat % 32) :=
  BitVec.eq_of_toNat_eq (by simp)

theorem execLvget_reads {s : State} {l : Nat} (d a : XReg) (hl : s.agent.lane = some l) :
    Completes (.lvget d a) s (s.setX d (BitVec.ofNat 64 (s.me.granule ((s.x a).toNat % 32) ((s.x a).toNat / 32 % 16 * s.me.lanes + l)))) := by
  change execLvget d a s = _
  simp only [execLvget, hl, reg_eq, rowGranule_eq, writeX, done_eq]

theorem execLvput_writes {s : State} {l : Nat} (a b : XReg) (hl : s.agent.lane = some l) :
    let g := (s.x b).toNat / 32 % 16 * s.me.lanes + l
    Completes (.lvput a b) s { s.setMe (s.me.setGranule ((s.x b).toNat % 32) g (s.x a).toNat) with
      bad := s.bad.filter (· != .vreg s.who (BitVec.ofNat 5 ((s.x b).toNat % 32)) g) } := by
  change execLvput a b s = _
  simp only [execLvput, hl, reg_eq, rowGranule_eq, regBits_eq, done_eq, State.modMe]

end Sys2Proof.Machine

namespace Sys2Proof
open Machine

/-- Settles O9: a lane thread's access passes the checks of its lane's scratch, and each member of lane threads meets its own clause. -/
theorem laneThreadsAndTheirScratch : Obligations.LaneThreadsAndTheirScratch := by
  refine ⟨fun s l r a o n hl _ hal hin hb hinv => ⟨fun i sg hm => load_lane hm hl hb (scratchCheck_none hal hin),
    fun i hm => ⟨_, store_lane hm hl (scratchCheck_none hal hin), setScratch_spec hb hinv.2 l _ n _⟩⟩, fun s d a b hr => ?_⟩
  refine ⟨fun bs hl h4 hlo hhi hal hc => ⟨_, execLibld_loads h4 hlo hhi hal hc, loadBufs_spec s bs _ _⟩,
    fun hq hd ht hg hal hlt => ⟨_, execLfork_starts hd ht hg hal hlt, fun i => by simp [Vector.get_eq_getElem]⟩,
    fun hl => ⟨fun ts ht h => execLjoin_all ht h, fun ts i ht h => execLjoin_waits ht h, fun ht => execLjoin_none ht⟩,
    fun l ts hl ht => execLexit_ends hl ht, fun l hl => ⟨execLvget_reads d a hl, execLvput_writes a b hl⟩⟩

end Sys2Proof
end

section
/-!
SUPPORT. Queued stores that are performed, the fences that perform them, and the waits of TLWAIT (R64, R125, R248, R249, R255).
-/
namespace Sys2Proof.Machine

/-! ### Bytes written in order -/

theorem Memory.writeAll_append (m cs ds : List Host.Cell) : Memory.writeAll m (cs ++ ds) = Memory.writeAll (Memory.writeAll m cs) ds :=
  List.foldl_append

/-- The last cell that names a byte is what it reads as. -/
theorem Memory.read_writeAll_last {m : List Host.Cell} (h : Memory.wf m = true) (cs : List Host.Cell) (c : Host.Cell)
    {ds : List Host.Cell} (hd : ∀ d ∈ ds, d.1 ≠ c.1) : Memory.read (Memory.writeAll m (cs ++ c :: ds)) c.1 = c.2 := by
  have hcs := Memory.writeAll_wf cs h
  have hcons (m : List Host.Cell) : Memory.writeAll m (c :: ds) = Memory.writeAll (Memory.write m c.1 c.2) ds := rfl
  rw [Memory.writeAll_append, hcons, Memory.read_writeAll_ne ds c.1 (Memory.write_wf _ _ hcs) hd, Memory.read_write _ _ _ hcs, if_pos rfl]

/-! ### The way to another device (R270, R271) -/

/-- A flit keeps its port up, or down. -/
theorem State.noPath_sendFlits (s : State) (n : Nat) : (s.sendFlits n).noPath = s.noPath := by
  have hall (ps : List Port) : ps.all (fun p => !p.up) = (ps.map (·.up)).all (!·) := by rw [List.all_map]; rfl
  unfold State.sendFlits
  split
  · next i _ =>
    rw [State.noPath, State.noPath, hall, hall, State.modPort]
    refine congrArg (fun l : List Bool => l.all (!·)) ?_
    rw [Vector.toList_setIfInBounds, List.map_set]
    by_cases hi : i < (s.ports.toList.map (·.up)).length
    · have hup : ((s.ports.toList.getD i Port.reset).send n).up = (s.ports.toList.map (·.up))[i] := by
        rw [List.length_map] at hi
        rw [List.getElem_map, List.getD_eq_getElem _ _ hi]
        rfl
      rw [hup, List.set_getElem_self]
    · exact List.set_eq_of_length_le (by omega)
  · rfl

/-- Every byte of the store has a way: it lies on this device, or a port is up. -/
def PStore.Reaches (t : PStore) (s : State) : Prop := (∀ c ∈ t.cells, c.1 < 2 ^ 61) ∨ s.noPath = false

/-! ### Stores performed (R64, R125) -/

/-- A store that has a way writes its bytes and leaves its queue. -/
theorem State.performStore_spec {s : State} {t : PStore} (h : t.Reaches s) :
    let u := s.performStore t
    (∀ w, u.hart w = s.hart w) ∧ u.agent = s.agent ∧ u.mem = Memory.writeAll s.mem t.cells ∧
      u.stores = s.stores.filter (fun x => x.id != t.id) ∧ u.noPath = s.noPath := by
  have hlost : ¬ (t.cells.any (fun c => 2 ^ 61 ≤ c.1) && s.noPath) = true := by
    rcases h with h | h
    · simp only [Bool.and_eq_true, List.any_eq_true, decide_eq_true_eq, not_and]
      rintro ⟨c, hc, hle⟩
      exact absurd (h c hc) (by omega)
    · simp [h]
  rw [State.performStore]
  simp only [if_neg hlost]
  split
  · obtain ⟨ps, hps⟩ := State.sendFlits_frame { s with stores := s.stores.filter (fun u => u.id != t.id) } 1
    have hnoPath := State.noPath_sendFlits { s with stores := s.stores.filter (fun u => u.id != t.id) } 1
    rw [hps] at hnoPath ⊢
    exact ⟨fun _ => rfl, rfl, rfl, rfl, hnoPath⟩
  · exact ⟨fun _ => rfl, rfl, rfl, rfl, rfl⟩

/-- The stores of l, in their order, have been performed: their bytes are in memory and they have left their queues. -/
structure State.Performed (s : State) (l : List PStore) (u : State) : Prop where
  hart : ∀ w, u.hart w = s.hart w
  agent : u.agent = s.agent
  mem : u.mem = Memory.writeAll s.mem (l.flatMap (·.cells))
  stores : u.stores = s.stores.filter (fun x => l.all (fun t => x.id != t.id))

theorem State.performed_foldl {s : State} {l : List PStore} (h : ∀ t ∈ l, t.Reaches s) :
    s.Performed l (l.foldl (fun s t => s.performStore t) s) := by
  induction l generalizing s with
  | nil => exact ⟨fun _ => rfl, rfl, rfl, by simp⟩
  | cons t l ih =>
    obtain ⟨hhart, hagent, hmem, hstores, hpath⟩ := State.performStore_spec (h t (List.mem_cons_self ..))
    obtain ⟨ihhart, ihagent, ihmem, ihstores⟩ := ih (s := s.performStore t) fun x hx => by
      rw [PStore.Reaches, hpath]
      exact h x (List.mem_cons_of_mem _ hx)
    refine ⟨fun w => (ihhart w).trans (hhart w), ihagent.trans hagent, ?_, ?_⟩
    · rw [List.foldl_cons, ihmem, hmem, List.flatMap_cons, Memory.writeAll_append]
    · rw [List.foldl_cons, ihstores, hstores, List.filter_filter]
      exact List.filter_congr fun x _ => by rw [List.all_cons, Bool.and_comm]

section
variable {s u : State} {l : List PStore} (h : s.Performed l u)
include h

theorem State.Performed.me : u.me = s.me := by rw [State.me, State.who, h.agent]; exact h.hart _

/-- The last queued byte that names an address is what memory reads there. -/
theorem State.Performed.read_last (hw : Memory.wf s.mem = true) {pre post : List PStore} {t : PStore} {cs cs' : List Host.Cell} {c : Host.Cell}
    (hl : l = pre ++ t :: post) (ht : t.cells = cs ++ c :: cs') (hcs : ∀ d ∈ cs', d.1 ≠ c.1)
    (hpost : ∀ x ∈ post, ∀ d ∈ x.cells, d.1 ≠ c.1) : Memory.read u.mem c.1 = c.2 := by
  have hcells : l.flatMap (·.cells) = (pre.flatMap (·.cells) ++ cs) ++ c :: (cs' ++ post.flatMap (·.cells)) := by
    rw [hl, List.flatMap_append, List.flatMap_cons, ht]
    simp only [List.append_assoc, List.cons_append]
  rw [h.mem, hcells]
  refine Memory.read_writeAll_last hw _ c fun d hd => ?_
  rcases List.mem_append.1 hd with hd | hd
  · exact hcs d hd
  · obtain ⟨x, hx, hd⟩ := List.mem_flatMap.1 hd
    exact hpost x hx d hd

/-- A byte that none of them names reads as before. -/
theorem State.Performed.read_other (hw : Memory.wf s.mem = true) {k : Nat} (hk : ∀ t ∈ l, ∀ c ∈ t.cells, c.1 ≠ k) :
    Memory.read u.mem k = Memory.read s.mem k := by
  rw [h.mem]
  refine Memory.read_writeAll_ne _ _ hw fun c hc => ?_
  obtain ⟨t, ht, hc⟩ := List.mem_flatMap.1 hc
  exact hk t ht c hc

/-- What has been performed is in memory, its last byte at each address, and nothing else has changed. -/
theorem State.Performed.outcome (hw : Memory.wf s.mem = true) :
    (∀ w, u.hart w = s.hart w) ∧
      (∀ pre t post cs c cs', l = pre ++ t :: post → t.cells = cs ++ c :: cs' → (∀ d, d ∈ cs' → d.1 ≠ c.1) →
        (∀ x d, x ∈ post → d ∈ x.cells → d.1 ≠ c.1) → Memory.read u.mem c.1 = c.2) ∧
      ∀ k, (∀ t c, t ∈ l → c ∈ t.cells → c.1 ≠ k) → Memory.read u.mem k = Memory.read s.mem k :=
  ⟨h.hart, fun _ _ _ _ _ _ hl ht hcs hpost => h.read_last hw hl ht hcs fun x hx d hd => hpost x d hx hd,
    fun _ hk => h.read_other hw fun t ht c hc => hk t c ht hc⟩

/-- None of them is left. -/
theorem State.Performed.none_left {p : PStore → Bool} (hp : ∀ x ∈ s.stores, p x = true → x ∈ l) : u.stores.filter p = [] := by
  rw [h.stores]
  refine List.filter_eq_nil_iff.2 fun x hx hpx => ?_
  obtain ⟨hx, hall⟩ := List.mem_filter.1 hx
  simpa using List.all_eq_true.1 hall x (hp x hx hpx)

end

/-- A fence for readers leaves what was performed. -/
theorem State.Performed.fenceAt {s u : State} {l : List PStore} (h : s.Performed l u) (scope : Nat) : s.Performed l (u.fenceAt scope) := by
  obtain ⟨hhart, hagent, hmem, hstores⟩ := h
  unfold State.fenceAt
  split
  · exact ⟨hhart, hagent, hmem, hstores⟩
  · exact ⟨hhart, hagent, hmem, hstores⟩

/-! ### ACCESS_PERFORMED (R64, R125) -/

theorem accessPerformed_ready {s : State} {t : PStore} (hf : s.stores.find? (fun u => u.id == t.id && u.who == t.who) = some t)
    (hr : s.storeReady t = true) : exec (.accessPerformed t.who t.id) s = .next (s.performStore t) := by
  change execAccessPerformed t.who t.id s = _
  simp only [execAccessPerformed, hf, hr, if_true]

theorem accessPerformed_waits {s : State} {w : Who} {n : Nat} {t : PStore} (hf : s.stores.find? (fun u => u.id == n && u.who == w) = some t)
    (hr : s.storeReady t = false) : exec (.accessPerformed w n) s = .next s := by
  change execAccessPerformed w n s = _
  simp only [execAccessPerformed, hf, hr, Bool.false_eq_true, if_false]

/-- A store behind a vector instruction that has not retired is not ready. -/
theorem storeReady_of_unretired {s : State} {t : PStore} {e : Issued} (he : e ∈ (s.hart t.who).stream) (hlt : e.seq < t.seq)
    (hr : (s.hart t.who).retired e = false) : s.storeReady t = false := by
  have hsettled : (s.hart t.who).settled t.seq = false := by
    refine Bool.eq_false_iff.2 fun h => ?_
    simp only [Hart.settled, Bool.and_eq_true, List.all_eq_true, Bool.or_eq_true] at h
    have hret := (h.1 e he).resolve_left (by simpa using hlt)
    rw [hr] at hret
    cases hret
  rw [State.storeReady, hsettled, Bool.false_and]

/-- A store that is not the first of its agent and slice is not ready. -/
theorem storeReady_of_younger {s : State} {t x : PStore} {pre post : List PStore} (hs : s.stores = pre ++ x :: post)
    (hpre : ∀ y ∈ pre, ¬ (y.who = t.who ∧ y.by' = t.by' ∧ y.slice = t.slice)) (hx : x.who = t.who ∧ x.by' = t.by' ∧ x.slice = t.slice)
    (hid : x.id ≠ t.id) : s.storeReady t = false := by
  have hfirst : s.stores.find? (fun u => u.who == t.who && u.by' == t.by' && u.slice == t.slice) = some x := by
    rw [hs, List.find?_append, List.find?_eq_none.2 fun y hy => by simpa [and_assoc] using hpre y hy]
    simp [hx]
  rw [State.storeReady, hfirst]
  simp [hid]

/-! ### The fences (R248, R249) -/

/-- A full fence performs every store of its hart. -/
theorem vecFence_performs {s : State} (hv : s.me.vecDone = true) (hl : s.me.lost = none) (hr : ∀ t ∈ s.storesOf s.who, t.Reaches s)
    (k : State → Out) : ∃ u, vecFence k s = k u ∧ s.Performed (s.storesOf s.who) u := by
  have hp := State.performed_foldl hr
  refine ⟨_, ?_, hp⟩
  rw [vecFence, if_pos hv, released, drainHart, hp.me, hl]

/-- A store of the scalar unit of w is marked as one that a FENCE follows. -/
def PStore.fencedBy (w : Who) (t : PStore) : PStore := if t.who == w && t.by' == .scalar then { t with fenced := true } else t

theorem PStore.fencedBy_frame (w : Who) (t : PStore) : (t.fencedBy w).id = t.id ∧ (t.fencedBy w).cells = t.cells := by
  unfold PStore.fencedBy
  split <;> exact ⟨rfl, rfl⟩

/-- With no store marked before, those that FENCE marks are those of the scalar unit. -/
theorem marked_filter {s : State} (hq : s.Quiet) :
    (s.stores.map (PStore.fencedBy s.who)).filter (fun t => t.who == s.who && t.fenced && s.me.settled t.seq) =
      (s.scalarStores s.who).map (PStore.fencedBy s.who) := by
  rw [List.filter_map, State.scalarStores]
  refine congrArg _ (List.filter_congr fun t ht => ?_)
  have hnone := List.all_eq_true.1 hq.2.2.2 t ht
  simp only [Function.comp_apply, settled_of_empty _ hq.2.1 hq.2.2.1, Bool.and_true, PStore.fencedBy]
  by_cases hw : (t.who == s.who && t.by' == .scalar) = true
  · rw [if_pos hw, hw, (Bool.and_eq_true_iff.1 hw).1]
    rfl
  · rw [if_neg hw, Bool.eq_false_iff.2 hw]
    simp only [Bool.or_eq_true, bne_iff_ne, Bool.not_eq_true'] at hnone
    rcases hnone with hnone | hnone <;> simp [hnone]

/-- Performing the marked stores is performing them. -/
theorem State.Performed.of_marked {s u : State} {w : Who}
    (h : State.Performed { s with stores := s.stores.map (PStore.fencedBy w) } ((s.scalarStores w).map (PStore.fencedBy w)) u) :
    s.Performed (s.scalarStores w) u := by
  obtain ⟨hhart, hagent, hmem, hstores⟩ := h
  refine ⟨hhart, hagent, ?_, ?_⟩
  · rw [hmem, List.flatMap_map]
    simp only [fun t => (PStore.fencedBy_frame w t).2]
  · rw [hstores, List.filter_map]
    have hid : ((fun x : PStore => ((s.scalarStores w).map (PStore.fencedBy w)).all (fun t => x.id != t.id)) ∘ PStore.fencedBy w) =
        fun x => (s.scalarStores w).all (fun t => x.id != t.id) := by
      funext x
      simp only [Function.comp_apply, List.all_map, fun t => (PStore.fencedBy_frame w t).1, Function.comp_def]
    rw [hid]
    refine (List.map_congr_left fun x hx => ?_).trans (List.map_id _)
    obtain ⟨hx, hout⟩ := List.mem_filter.1 hx
    refine if_neg fun hscalar => ?_
    simpa using List.all_eq_true.1 hout x (List.mem_filter.2 ⟨hx, hscalar⟩)

/-- FENCE at hart scope marks the scalar unit's stores and performs them; with no vector instruction outstanding none waits. -/
theorem execFence_hart {s : State} (hq : s.Quiet) (hsc : scopeOf s.me.vtype = 0) (hr : ∀ t ∈ s.scalarStores s.who, t.Reaches s) :
    ∃ u, exec .fence s = done u ∧ s.Performed (s.scalarStores s.who) u := by
  have hmarked : ∀ t ∈ (s.scalarStores s.who).map (PStore.fencedBy s.who),
      t.Reaches { s with stores := s.stores.map (PStore.fencedBy s.who) } := by
    intro t ht
    obtain ⟨x, hx, rfl⟩ := List.mem_map.1 ht
    rw [PStore.Reaches, (PStore.fencedBy_frame _ x).2]
    exact hr x hx
  refine ⟨_, ?_, (State.performed_foldl hmarked).of_marked.fenceAt 0⟩
  change execFence s = _
  rw [execFence, ← marked_filter hq]
  simp only [hsc, beq_self_eq_true, if_true]
  rfl

/-- At a wider scope it performs them. -/
theorem execFence_wide {s : State} (hq : s.Quiet) (hlost : s.me.lost = none) (hsc : scopeOf s.me.vtype ≠ 0)
    (hr : ∀ t ∈ s.scalarStores s.who, t.Reaches s) :
    ∃ u, exec .fence s = done u ∧ s.Performed (s.scalarStores s.who) u := by
  have hp := State.performed_foldl hr
  have hall : (s.scalarStores s.who).all (fun t => s.me.settled t.seq) = true :=
    List.all_eq_true.2 fun t _ => settled_of_empty _ hq.2.1 hq.2.2.1
  refine ⟨_, ?_, hp.fenceAt (scopeOf s.me.vtype)⟩
  change execFence s = _
  rw [execFence]
  simp only [beq_eq_false_iff_ne.2 hsc, Bool.false_eq_true, if_false, hall, if_true, released, hp.me, hlost]

/-- FENCE performs the stores of its scalar unit, at every scope. -/
theorem execFence_performs {s : State} (hq : s.Quiet) (hlost : s.me.lost = none) (hr : ∀ t ∈ s.scalarStores s.who, t.Reaches s) :
    ∃ u, exec .fence s = done u ∧ s.Performed (s.scalarStores s.who) u := by
  by_cases hsc : scopeOf s.me.vtype = 0
  · exact execFence_hart hq hsc hr
  · exact execFence_wide hq hlost hsc hr

/-! ### TLWAIT (R28, R255) -/

theorem execTlwait_eq {s : State} {e : BitVec 5} {a : XReg} (hf : s.failure s.who e.toNat (s.x a).toNat = none) :
    exec (.tlwait e a) s =
      if s.tlDone s.who e.toNat (s.x a).toNat then done s.allSee else stall (.timeline e (s.x a).toNat) s := by
  change execTlwait e a s = _
  simp only [execTlwait, hf]

section
variable {s : State} {e : BitVec 5} {n : Nat}

theorem isMx_iff : (e.toNat == 2) = true ↔ e = 2 := by
  rw [beq_iff_eq, ← BitVec.toNat_inj]
  rfl

/-- On MX the wait ends at once for a hart whose launch does not own the unit (R28). -/
theorem tlDone_of_unowned (he : e = 2) (hown : s.ownsMatrix = false) : s.tlDone s.who e.toNat n = true := by
  simp [State.tlDone, isMx_iff.2 he, hown]

/-- With no vector instruction outstanding, it ends where no operation is incomplete and, on MX, the counter has come so far. -/
theorem tlDone_of_none_pending (hq : s.Quiet) (hnone : ∀ k, k ∈ s.pending s.who e.toNat → n < k) (hctr : e = 2 → n ≤ s.tlmx.toNat) :
    s.tlDone s.who e.toNat n = true := by
  have hpending : (s.pending s.who e.toNat).all (fun k => n < k) = true := List.all_eq_true.2 fun k hk => decide_eq_true (hnone k hk)
  have hstream : (s.hart s.who).stream = [] := hq.2.1
  by_cases he : e = 2
  · simp [State.tlDone, hpending, isMx_iff.2 he, hctr he]
  · simp [State.tlDone, hpending, Bool.eq_false_iff.2 (mt isMx_iff.1 he), bne, hstream]

theorem not_tlDone_of_pending {k : Nat} (hown : e = 2 → s.ownsMatrix = true) (hk : k ∈ s.pending s.who e.toNat) (hle : k ≤ n) :
    ¬ s.tlDone s.who e.toNat n = true := by
  have hall : ¬ (s.pending s.who e.toNat).all (fun k => n < k) = true := fun h =>
    absurd (of_decide_eq_true (List.all_eq_true.1 h k hk)) (by omega)
  have howned : (e.toNat == 2 && !s.ownsMatrix) = false := by
    by_cases he : e = 2
    · simp [hown he]
    · simp [Bool.eq_false_iff.2 (mt isMx_iff.1 he)]
  simp [State.tlDone, howned, Bool.eq_false_iff.2 hall]

theorem not_tlDone_of_counter (he : e = 2) (hown : s.ownsMatrix = true) (hlt : s.tlmx.toNat < n) : ¬ s.tlDone s.who e.toNat n = true := by
  simp [State.tlDone, isMx_iff.2 he, hown, bne, hlt]

end

end Sys2Proof.Machine

namespace Sys2Proof
open Machine

/-- Settles O16: performing stores in their order writes their bytes in that order, so that the last byte for an address stays; each fence
performs the stores it waits for so, and TLWAIT's condition is read off its timeline. -/
theorem storesFencesAndTimelines : Obligations.StoresFencesAndTimelines := by
  refine ⟨fun s t hinv hf hr hlow hne => ?_, fun s w n t hf hwait => ?_, fun s w hw hq hlost hinv hpath hids => ?_, fun s e a hq hf he => ?_⟩
  · have hp := State.performed_foldl (s := s) (l := [t]) (fun x hx => .inl (List.mem_singleton.1 hx ▸ hlow))
    refine ⟨_, accessPerformed_ready hf hr, by simpa using hp.stores, hp.hart, fun c hc => ?_, fun k hk => hp.read_other hinv.1 (by simpa using hk)⟩
    obtain ⟨cs, cs', hcells⟩ := List.append_of_mem hc
    refine hp.read_last hinv.1 (pre := []) (post := []) rfl hcells (fun d hd => ?_) (by simp)
    rw [hcells, List.pairwise_append, List.pairwise_cons] at hne
    exact (hne.2.1.1 d hd).symm
  · have ht := List.find?_some hf
    simp only [Bool.and_eq_true, beq_iff_eq] at ht
    obtain ⟨rfl, rfl⟩ := ht
    refine accessPerformed_waits hf ?_
    rcases hwait with ⟨e, he, hlt, hr⟩ | ⟨x, pre, post, hs, hpre, hwho, hby, hslice, hid⟩
    · exact storeReady_of_unretired he hlt hr
    · exact storeReady_of_younger hs hpre ⟨hwho, hby, hslice⟩ hid
  · subst hw
    have hreach {l : List PStore} (hl : l ⊆ s.stores) : ∀ t ∈ l, t.Reaches s := fun t ht => hpath.imp_left fun h c => h t c (hl ht)
    have hof := hreach (l := s.storesOf s.who) ((List.filter_subset_self _))
    have hscalar := hreach (l := s.scalarStores s.who) ((List.filter_subset_self _))
    refine ⟨fun hv => ⟨?_, ?_⟩, ?_⟩
    · obtain ⟨u, hu, hp⟩ := vecFence_performs hv hlost hof (fun u => done (u.fenceAt (scopeOf u.me.vtype)))
      have hp := hp.fenceAt (scopeOf u.me.vtype)
      exact ⟨_, hu, hp.none_left (fun x hx hp => List.mem_filter.2 ⟨hx, hp⟩), hp.outcome hinv.1⟩
    · obtain ⟨u, hu, hp⟩ := vecFence_performs hv hlost hof (fun u => done (u.fenceAt 0))
      have hp := hp.fenceAt 0
      exact ⟨_, hu, hp.none_left (fun x hx hp => List.mem_filter.2 ⟨hx, hp⟩), hp.outcome hinv.1⟩
    · obtain ⟨u, hu, hp⟩ := execFence_performs hq hlost hscalar
      exact ⟨u, hu, hp.none_left (fun x hx hp => List.mem_filter.2 ⟨hx, hp⟩), hp.outcome hinv.1⟩
  · refine ⟨fun he2 hown => ?_, fun hown => ⟨fun hnone hctr => ?_, fun k hk hle => ?_⟩, fun he2 hown hlt => ?_⟩
    · rw [Completes, execTlwait_eq hf, if_pos (tlDone_of_unowned he2 hown), done_eq]
    · rw [Completes, execTlwait_eq hf, if_pos (tlDone_of_none_pending hq hnone hctr), done_eq]
    · rw [Waits, execTlwait_eq hf, if_neg (not_tlDone_of_pending hown hk hle), stall_eq]
    · rw [Waits, execTlwait_eq hf, if_neg (not_tlDone_of_counter he2 hown hlt), stall_eq]

end Sys2Proof
end
